-- ==== Sys2Proof/Word.lean ====
section
/-! DEFINITION. The word types of the module and their plainest arithmetic. -/

namespace Sys2Proof

/-- A 64-bit scalar register value (05 R103). -/
abbrev Word := BitVec 64

/-- A 32-bit lane of a vector register (08 R166). -/
abbrev Lane := BitVec 32

/-- One byte of memory. -/
abbrev Byte := BitVec 8

/-- The `n` bits of `w` that start at bit `lo`. -/
def fld (w lo n : Nat) : Nat := w / 2 ^ lo % 2 ^ n

end Sys2Proof
end

