-- ==== Sys2Proof/Syntax.lean ====
section
/-! DEFINITION. Abstract syntax: one constructor per row of the opcode table, and the occurrences a step may be. -/

namespace Sys2Proof

/-- A scalar register s0 to s31. -/
abbrev Reg := Fin 32
/-- A predicate p0 to p7. -/
abbrev Pr := Fin 8
/-- A logical-time register tm0 to tm3. -/
abbrev Tm := Fin 4
/-- A vector core of a square. -/
abbrev Vc := Fin 4
/-- A square, numbered as 01 R19 numbers it. -/
abbrev Sq := Fin 160
/-- A context of a square: 0 to 7 are the tile contexts, 8 is context F (05 R95). -/
abbrev Cx := Fin 9
/-- A slot of a bundle, and the function unit it drives (02 R45). -/
abbrev Slot := Fin 8
/-- A die (01 R14). -/
abbrev Die := Fin 4
/-- A copy engine: 0 to 159 the squares' engines, 160 to 175 the bulk engines, four per die in ascending order (10 R238). -/
abbrev Eng := Fin 176

/-- What firmware chooses when it serves a host command: the physical frames it takes, in the order the command
needs them, and the device-virtual addresses it hands out (13 R286, R289). -/
structure Placement where
  frames : List Nat
  vas : List Nat
deriving DecidableEq, Repr, Inhabited

/-- Who performs a posted store: context `c`, or the V path of core `v` (05 R124, 12 R269). -/
inductive Storer where
  | ctx (c : Cx)
  | vec (v : Vc)
deriving DecidableEq, Repr, Inhabited

/-- One constructor per row of the opcode table. The first 146 are control-core words (02 R28 to R41); the letters of
their operands are the field names of the table. -/
inductive Instr where
  | add (d : Reg) (a : Reg) (b : Reg)
  | sub (d : Reg) (a : Reg) (b : Reg)
  | and (d : Reg) (a : Reg) (b : Reg)
  | or (d : Reg) (a : Reg) (b : Reg)
  | xor (d : Reg) (a : Reg) (b : Reg)
  | andn (d : Reg) (a : Reg) (b : Reg)
  | shl (d : Reg) (a : Reg) (b : Reg)
  | shr (d : Reg) (a : Reg) (b : Reg)
  | sra (d : Reg) (a : Reg) (b : Reg)
  | ror (d : Reg) (a : Reg) (b : Reg)
  | shli (d : Reg) (a : Reg) (h : Fin 64)
  | shri (d : Reg) (a : Reg) (h : Fin 64)
  | srai (d : Reg) (a : Reg) (h : Fin 64)
  | rori (d : Reg) (a : Reg) (h : Fin 64)
  | mul (d : Reg) (a : Reg) (b : Reg)
  | mulh (d : Reg) (a : Reg) (b : Reg)
  | mulhu (d : Reg) (a : Reg) (b : Reg)
  | div (d : Reg) (a : Reg) (b : Reg)
  | divu (d : Reg) (a : Reg) (b : Reg)
  | rem (d : Reg) (a : Reg) (b : Reg)
  | remu (d : Reg) (a : Reg) (b : Reg)
  | min (d : Reg) (a : Reg) (b : Reg)
  | max (d : Reg) (a : Reg) (b : Reg)
  | minu (d : Reg) (a : Reg) (b : Reg)
  | maxu (d : Reg) (a : Reg) (b : Reg)
  | slt (d : Reg) (a : Reg) (b : Reg)
  | sltu (d : Reg) (a : Reg) (b : Reg)
  | sext (d : Reg) (a : Reg) (n : Fin 64)
  | clz (d : Reg) (a : Reg)
  | popc (d : Reg) (a : Reg)
  | adds (d : Reg) (a : Reg) (b : Reg)
  | addi (d : Reg) (a : Reg) (i : BitVec 16)
  | andi (d : Reg) (a : Reg) (i : BitVec 16)
  | ori (d : Reg) (a : Reg) (i : BitVec 16)
  | xori (d : Reg) (a : Reg) (i : BitVec 16)
  | movi (d : Reg) (i : BitVec 16)
  | movhi (d : Reg) (k : Fin 4) (i : BitVec 16)
  | slti (d : Reg) (a : Reg) (i : BitVec 16)
  | cmpEq (p : Pr) (a : Reg) (b : Reg)
  | cmpNe (p : Pr) (a : Reg) (b : Reg)
  | cmpLt (p : Pr) (a : Reg) (b : Reg)
  | cmpLe (p : Pr) (a : Reg) (b : Reg)
  | cmpLtu (p : Pr) (a : Reg) (b : Reg)
  | cmpLeu (p : Pr) (a : Reg) (b : Reg)
  | pand (d : Pr) (a : Pr) (b : Pr)
  | por (d : Pr) (a : Pr) (b : Pr)
  | pxor (d : Pr) (a : Pr) (b : Pr)
  | pandn (d : Pr) (a : Pr) (b : Pr)
  | pmov (d : Pr) (a : Pr)
  | ptos (d : Reg) (a : Pr)
  | cmpiEq (p : Pr) (a : Reg) (i : BitVec 16)
  | cmpiLt (p : Pr) (a : Reg) (i : BitVec 16)
  | cmpiLtu (p : Pr) (a : Reg) (i : BitVec 16)
  | sel (d : Reg) (a : Reg) (b : Reg) (p : Pr)
  | ldB (d : Reg) (b : Reg) (s : Fin 4) (o : BitVec 14)
  | ldH (d : Reg) (b : Reg) (s : Fin 4) (o : BitVec 14)
  | ldW (d : Reg) (b : Reg) (s : Fin 4) (o : BitVec 14)
  | ldD (d : Reg) (b : Reg) (s : Fin 4) (o : BitVec 14)
  | stW (d : Reg) (b : Reg) (s : Fin 4) (o : BitVec 14)
  | stD (d : Reg) (b : Reg) (s : Fin 4) (o : BitVec 14)
  | stx (d : Reg) (a : Reg) (b : Reg) (s : Fin 4) (z : Fin 4)
  | swap (d : Reg) (a : Reg) (b : Reg) (s : Fin 4) (z : Bool)
  | cas (d : Reg) (a : Reg) (b : Reg) (s : Fin 4) (z : Bool)
  | aadd (d : Reg) (a : Reg) (b : Reg) (s : Fin 4) (z : Bool)
  | aand (d : Reg) (a : Reg) (b : Reg) (s : Fin 4) (z : Bool)
  | aor (d : Reg) (a : Reg) (b : Reg) (s : Fin 4) (z : Bool)
  | axor (d : Reg) (a : Reg) (b : Reg) (s : Fin 4) (z : Bool)
  | amin (d : Reg) (a : Reg) (b : Reg) (s : Fin 4) (z : Bool)
  | amax (d : Reg) (a : Reg) (b : Reg) (s : Fin 4) (z : Bool)
  | aminu (d : Reg) (a : Reg) (b : Reg) (s : Fin 4) (z : Bool)
  | amaxu (d : Reg) (a : Reg) (b : Reg) (s : Fin 4) (z : Bool)
  | acq (d : Reg) (a : Reg) (s : Bool)
  | rel (a : Reg) (s : Bool)
  | mon (a : Reg)
  | mwait (d : Reg) (a : Reg)
  | xfence (f : BitVec 5) (t : BitVec 5)
  | br (p : Pr) (s : Bool) (o : BitVec 21)
  | brN (p : Pr) (s : Bool) (o : BitVec 21)
  | call (o : BitVec 21)
  | jr (a : Reg)
  | jrN (a : Reg)
  | jrl (d : Reg) (a : Reg)
  | jrlN (d : Reg) (a : Reg)
  | yield
  | exit
  | spawn (a : Reg)
  | tmHold (a : Tm) (b : Reg) (n : Fin 8)
  | tmDrop (a : Tm) (b : Reg) (n : Fin 8)
  | tmMove (d : Tm) (a : Tm) (b : Reg) (n : Fin 8)
  | tmBar (a : Tm) (n : Fin 8)
  | tmWaitf (a : Tm) (n : Fin 8)
  | tmFront (d : Reg) (n : Fin 8)
  | tmMtt (d : Tm) (a : Reg)
  | tmMft (d : Reg) (a : Tm)
  | tmEdge (d : Tm) (a : Tm) (e : Fin 16) (n : Fin 8)
  | tmAddc (d : Tm) (i : Fin 4) (k : BitVec 16)
  | emit (v : Vc) (a : Reg)
  | emitP (v : Vc) (a : Reg) (b : Reg) (k : Fin 8) (f : Fin 4)
  | emitBc (a : Reg) (m : BitVec 4)
  | eqWait (v : Vc) (n : Fin 65)
  | eqStat (v : Vc) (d : Reg)
  | cpPut (d : Reg) (a : Reg)
  | cpGet (d : Reg) (a : Reg)
  | cpPuts (d : Reg) (a : Reg)
  | cpMcast (d : Reg) (a : Reg)
  | cpGather (d : Reg) (a : Reg)
  | cpMig (d : Reg) (a : Reg)
  | hWait (a : Reg) (s : Fin 5)
  | hStat (d : Reg) (a : Reg)
  | hFree (a : Reg)
  | hBind (a : Reg) (b : Reg)
  | hKeep (a : Reg)
  | hDisc (a : Reg)
  | blkLd (d : Reg) (a : Reg) (b : Reg)
  | blkEvict (a : Reg)
  | blkWait (d : Reg) (a : Reg)
  | waitC (r : Fin 16) (c : Fin 16) (s : Fin 16) (l : Fin 16)
  | rgnDecl (d : Reg) (a : Reg)
  | rgnBind (a : Reg) (b : Reg)
  | fmtSet (a : Reg) (b : Reg)
  | fmtGet (d : Reg) (a : Reg)
  | prefI (b : Reg) (s : Fin 4) (o : BitVec 14)
  | prefD (b : Reg) (s : Fin 4) (o : BitVec 14)
  | prefM (b : Reg) (s : Fin 4) (o : BitVec 14)
  | demoteD (b : Reg) (s : Fin 4) (o : BitVec 14)
  | reservedHint (k : Fin 32) (b : Reg) (s : Fin 4) (o : BitVec 14)
  | mjOpen (d : Reg)
  | mjWr (a : Reg) (b : Reg)
  | mjCommit (d : Reg)
  | mjAbort
  | mjStat (d : Reg) (a : Reg)
  | psSafe (a : Reg)
  | psWake (d : Reg) (a : Reg)
  | psNap (d : Reg)
  | psDoze (d : Reg)
  | rdtime (d : Reg)
  | rdcyc (d : Reg)
  | mfs (d : Reg) (r : BitVec 12)
  | mts (a : Reg) (r : BitVec 12)
  | trap (i : BitVec 12)
  | rfe
  | ctxStart (a : Reg)
  | ctxSave (d : Reg) (a : Reg)
  | ctxRestore (d : Reg) (a : Reg)
  | ctxEnd (d : Reg) (a : Reg)
  | mtrl (a : Reg) (k : Fin 16)
  /- Rows without an encoding: operations of the vector units, the array and the engines, events and host commands.
     Their operands name the agent that acts. -/
  -- 14 R306: the MTS of `s[a]` to TLBI
  | tlbi (a : Reg)
  -- 07 R148, 08 R170 to R184: vector cores
  | bundleIssue (q : Sq) (v : Vc)
  | bundleRetire (q : Sq) (v : Vc)
  | unitResultDelivery (q : Sq) (v : Vc) (k : Slot)
  | streamLoadLand (q : Sq) (v : Vc)
  | queuedGeneratorFetch (q : Sq) (v : Vc) (g : Slot)
  | loopReplay (q : Sq) (v : Vc)
  | vcoreStall (q : Sq) (v : Vc)
  -- 05, 06, 07, 08, 12, 13, 15: contexts
  | bundleFaultDelivery (q : Sq) (c : Cx)
  | emitStall (q : Sq) (c : Cx)
  | blockedInstructionResume (q : Sq) (c : Cx)
  | mwaitWake (q : Sq) (c : Cx)
  | mwaitTimeout (q : Sq) (c : Cx)
  | loadValueDelivery (q : Sq) (c : Cx)
  | icacheFillComplete (q : Sq) (i : Nat)
  | blkFillComplete (die : Die) (b : Nat)
  | contextBind (q : Sq)
  | contextFree (q : Sq) (c : Cx)
  | fcredCredit (q : Sq)
  | firmwareInterrupt (q : Sq) (c : Cx)
  | firmwareServiceLimit (q : Sq)
  | runOverrun (q : Sq)
  -- 09: the array; `x` is the word the move carries
  | specifierWrite (q : Sq) (v : Vc) (x : Word)
  | leaseRequest (q : Sq) (v : Vc) (x : Word)
  | leaseRelease (q : Sq) (v : Vc) (x : Word)
  | leaseClear (q : Sq) (v : Vc) (x : Word)
  | leaseGrant (q : Sq)
  | dpaMm (q : Sq) (v : Vc) (x : Word)
  | dpaWld (q : Sq) (v : Vc) (x : Word)
  | dpaZero (q : Sq) (v : Vc) (x : Word)
  | dpaDrain (q : Sq) (v : Vc) (x : Word)
  | dpaAccld (q : Sq) (v : Vc) (x : Word)
  | dpaAccadd (q : Sq) (v : Vc) (x : Word)
  | dpaCbld (q : Sq) (v : Vc) (x : Word)
  | dpaSync (q : Sq) (v : Vc) (x : Word)
  | dpaDist (q : Sq) (v : Vc) (x : Word)
  | dpaNear (q : Sq) (v : Vc) (x : Word)
  | dpaCupd (q : Sq) (v : Vc) (x : Word)
  | dpaCdiv (q : Sq) (v : Vc) (x : Word)
  | dpaCntr (q : Sq) (v : Vc) (x : Word)
  | dpaCmp24 (q : Sq) (v : Vc) (x : Word)
  | dpaCbenc (q : Sq) (v : Vc) (x : Word)
  | arrayDeferredAccept (q : Sq) (v : Vc)
  | arrayStall (q : Sq) (v : Vc)
  | arrayStepRetire (q : Sq)
  | arrayCommandRetire (q : Sq)
  -- 10, 14: copy engines
  | copyStart (e : Eng)
  | copyChunkRestart (e : Eng)
  | copySignalApply (e : Eng) (i : Nat)
  | copyComplete (e : Eng)
  | pageMigration (e : Fin 16)
  -- 11, 12: frontiers, locks, the commit log
  | countMessageApply (q : Sq)
  | frontierBroadcast (n : Fin 8)
  | frontierStall (q : Sq) (c : Cx)
  | lockStall (q : Sq) (c : Cx)
  | copyStall (q : Sq) (c : Cx)
  | commitEntryArrival (q : Sq) (i : Nat)
  | plainCommit (q : Sq)
  -- 16: power
  | napEntry (q : Sq)
  | squareWake (q : Sq)
  | droopAlarm (q : Sq)
  | droopWindowEnd (q : Sq) (persists : Bool)
  | brownEntry
  | brownExit
  | powerFailWarning (badSquares : List Sq) (hubOk : Bool)
  | holdupExhausted
  | resumption
  | coldStart
  -- 17: adapter, commands, links
  | mresetGo
  | sqtDoorbell (n : Fin 16) (x : BitVec 32)
  | cqhWrite (n : Fin 16) (x : BitVec 32)
  | hostRegisterWrite (a : BitVec 32) (x : Word)
  | hostWindowRead (a : BitVec 36) (n : Nat)
  | hostWindowWrite (a : BitVec 36) (bs : List Byte)
  | commandTake
  | load (p : Option Placement)
  | loadInstallComplete (i : Nat)
  | unload
  | invoke
  | acceptTokenRelease (i : Nat)
  | invokeCompletion (i : Nat)
  | updateImage (p : Option Placement)
  | updateMap (p : Option Placement)
  | updatePatch
  | queryIdent
  | queryResidence
  | queryBound
  | queryAttest
  | signalNotify
  | notifyFire (i : Nat)
  | signalReduce
  | reduceCombine (i : Nat) (others : List (Fin 8 × Word × Word × List Lane))
  | peerLost (m : Fin 8) (waits : List Word)
  | laneFailure
  | linkRestore
  -- 08 Tables 8-5 to 8-9: an operation starts in vector unit `k` on the lanes of `g` (all lanes where none)
  | vfuIadd (q : Sq) (v : Vc) (k : Fin 4) (g : Option (Fin 8))
  | vfuIsub (q : Sq) (v : Vc) (k : Fin 4) (g : Option (Fin 8))
  | vfuImul (q : Sq) (v : Vc) (k : Fin 4) (g : Option (Fin 8))
  | vfuImad (q : Sq) (v : Vc) (k : Fin 4) (g : Option (Fin 8))
  | vfuIadds (q : Sq) (v : Vc) (k : Fin 4) (g : Option (Fin 8))
  | vfuIsubs (q : Sq) (v : Vc) (k : Fin 4) (g : Option (Fin 8))
  | vfuImin (q : Sq) (v : Vc) (k : Fin 4) (g : Option (Fin 8))
  | vfuImax (q : Sq) (v : Vc) (k : Fin 4) (g : Option (Fin 8))
  | vfuIminu (q : Sq) (v : Vc) (k : Fin 4) (g : Option (Fin 8))
  | vfuImaxu (q : Sq) (v : Vc) (k : Fin 4) (g : Option (Fin 8))
  | vfuAnd (q : Sq) (v : Vc) (k : Fin 4) (g : Option (Fin 8))
  | vfuOr (q : Sq) (v : Vc) (k : Fin 4) (g : Option (Fin 8))
  | vfuXor (q : Sq) (v : Vc) (k : Fin 4) (g : Option (Fin 8))
  | vfuShl (q : Sq) (v : Vc) (k : Fin 4) (g : Option (Fin 8))
  | vfuShr (q : Sq) (v : Vc) (k : Fin 4) (g : Option (Fin 8))
  | vfuSra (q : Sq) (v : Vc) (k : Fin 4) (g : Option (Fin 8))
  | vfuIabs (q : Sq) (v : Vc) (k : Fin 4) (g : Option (Fin 8))
  | vfuIaddH (q : Sq) (v : Vc) (k : Fin 4) (g : Option (Fin 8))
  | vfuIaddB (q : Sq) (v : Vc) (k : Fin 4) (g : Option (Fin 8))
  | vfuIaddsB (q : Sq) (v : Vc) (k : Fin 4) (g : Option (Fin 8))
  | vfuIdot4 (q : Sq) (v : Vc) (k : Fin 4) (g : Option (Fin 8))
  | vfuFadd (q : Sq) (v : Vc) (k : Fin 4) (g : Option (Fin 8))
  | vfuFsub (q : Sq) (v : Vc) (k : Fin 4) (g : Option (Fin 8))
  | vfuFmul (q : Sq) (v : Vc) (k : Fin 4) (g : Option (Fin 8))
  | vfuFma (q : Sq) (v : Vc) (k : Fin 4) (g : Option (Fin 8))
  | vfuFmin (q : Sq) (v : Vc) (k : Fin 4) (g : Option (Fin 8))
  | vfuFmax (q : Sq) (v : Vc) (k : Fin 4) (g : Option (Fin 8))
  | vfuFabs (q : Sq) (v : Vc) (k : Fin 4) (g : Option (Fin 8))
  | vfuFneg (q : Sq) (v : Vc) (k : Fin 4) (g : Option (Fin 8))
  | vfuFrcp (q : Sq) (v : Vc) (k : Fin 4) (g : Option (Fin 8))
  | vfuFsqrt (q : Sq) (v : Vc) (k : Fin 4) (g : Option (Fin 8))
  | vfuFaddBf (q : Sq) (v : Vc) (k : Fin 4) (g : Option (Fin 8))
  | vfuFmulBf (q : Sq) (v : Vc) (k : Fin 4) (g : Option (Fin 8))
  | vfuFmaBf (q : Sq) (v : Vc) (k : Fin 4) (g : Option (Fin 8))
  | vfuFmaHf (q : Sq) (v : Vc) (k : Fin 4) (g : Option (Fin 8))
  | vfuFmaE4 (q : Sq) (v : Vc) (k : Fin 4) (g : Option (Fin 8))
  | vfuFmaE5 (q : Sq) (v : Vc) (k : Fin 4) (g : Option (Fin 8))
  | vfuCvtFI (q : Sq) (v : Vc) (k : Fin 4) (g : Option (Fin 8))
  | vfuCvtIF (q : Sq) (v : Vc) (k : Fin 4) (g : Option (Fin 8))
  | vfuCvtBfF (q : Sq) (v : Vc) (k : Fin 4) (g : Option (Fin 8))
  | vfuCvtHfF (q : Sq) (v : Vc) (k : Fin 4) (g : Option (Fin 8))
  | vfuCvtE4F (q : Sq) (v : Vc) (k : Fin 4) (g : Option (Fin 8))
  | vfuCvtE5F (q : Sq) (v : Vc) (k : Fin 4) (g : Option (Fin 8))
  | vfuCvtFBf (q : Sq) (v : Vc) (k : Fin 4) (g : Option (Fin 8))
  | vfuCvtFHf (q : Sq) (v : Vc) (k : Fin 4) (g : Option (Fin 8))
  | vfuCvtFE4 (q : Sq) (v : Vc) (k : Fin 4) (g : Option (Fin 8))
  | vfuCvtFE5 (q : Sq) (v : Vc) (k : Fin 4) (g : Option (Fin 8))
  | vfuCvtII8 (q : Sq) (v : Vc) (k : Fin 4) (g : Option (Fin 8))
  | vfuCvtI8I (q : Sq) (v : Vc) (k : Fin 4) (g : Option (Fin 8))
  | vfuQntE2 (q : Sq) (v : Vc) (k : Fin 4) (g : Option (Fin 8))
  | vfuDqntE2 (q : Sq) (v : Vc) (k : Fin 4) (g : Option (Fin 8))
  | vfuIcmpEq (q : Sq) (v : Vc) (k : Fin 4) (g : Option (Fin 8))
  | vfuIcmpLt (q : Sq) (v : Vc) (k : Fin 4) (g : Option (Fin 8))
  | vfuIcmpLtu (q : Sq) (v : Vc) (k : Fin 4) (g : Option (Fin 8))
  | vfuFcmpEq (q : Sq) (v : Vc) (k : Fin 4) (g : Option (Fin 8))
  | vfuFcmpLt (q : Sq) (v : Vc) (k : Fin 4) (g : Option (Fin 8))
  | vfuFcmpLe (q : Sq) (v : Vc) (k : Fin 4) (g : Option (Fin 8))
  | vfuFcmpUn (q : Sq) (v : Vc) (k : Fin 4) (g : Option (Fin 8))
  | vfuVsel (q : Sq) (v : Vc) (k : Fin 4) (g : Option (Fin 8))
  | vfuPerm (q : Sq) (v : Vc) (k : Fin 4) (g : Option (Fin 8))
  | vfuRotl (q : Sq) (v : Vc) (k : Fin 4) (g : Option (Fin 8))
  | vfuBcast (q : Sq) (v : Vc) (k : Fin 4) (g : Option (Fin 8))
  | vfuRsumI (q : Sq) (v : Vc) (k : Fin 4) (g : Option (Fin 8))
  | vfuRsumF (q : Sq) (v : Vc) (k : Fin 4) (g : Option (Fin 8))
  | vfuRmaxF (q : Sq) (v : Vc) (k : Fin 4) (g : Option (Fin 8))
  | vfuRminF (q : Sq) (v : Vc) (k : Fin 4) (g : Option (Fin 8))
  | vfuRmaxI (q : Sq) (v : Vc) (k : Fin 4) (g : Option (Fin 8))
  | vfuArgmaxF (q : Sq) (v : Vc) (k : Fin 4) (g : Option (Fin 8))
  -- 08 Table 8-10: an operation starts in scalar unit `k`
  | kfAdd (q : Sq) (v : Vc) (k : Bool)
  | kfSub (q : Sq) (v : Vc) (k : Bool)
  | kfMul (q : Sq) (v : Vc) (k : Bool)
  | kfMad (q : Sq) (v : Vc) (k : Bool)
  | kfAnd (q : Sq) (v : Vc) (k : Bool)
  | kfOr (q : Sq) (v : Vc) (k : Bool)
  | kfXor (q : Sq) (v : Vc) (k : Bool)
  | kfAndn (q : Sq) (v : Vc) (k : Bool)
  | kfShl (q : Sq) (v : Vc) (k : Bool)
  | kfShr (q : Sq) (v : Vc) (k : Bool)
  | kfSra (q : Sq) (v : Vc) (k : Bool)
  | kfMin (q : Sq) (v : Vc) (k : Bool)
  | kfMax (q : Sq) (v : Vc) (k : Bool)
  | kfMinu (q : Sq) (v : Vc) (k : Bool)
  | kfMaxu (q : Sq) (v : Vc) (k : Bool)
  | kfPopc (q : Sq) (v : Vc) (k : Bool)
  | kfClz (q : Sq) (v : Vc) (k : Bool)
  | kfSel (q : Sq) (v : Vc) (k : Bool)
  | kfCmpEq (q : Sq) (v : Vc) (k : Bool)
  | kfCmpLt (q : Sq) (v : Vc) (k : Bool)
  | kfCmpLtu (q : Sq) (v : Vc) (k : Bool)
  | kfLea (q : Sq) (v : Vc) (k : Bool)
  -- 08 Tables 8-11 and 8-12: control unit and memory unit
  | ctlLoop (q : Sq) (v : Vc)
  | ctlVfence (q : Sq) (v : Vc)
  | ctlRmode (q : Sq) (v : Vc)
  | ctlCond (q : Sq) (v : Vc)
  | ctlQstat (q : Sq) (v : Vc)
  | ctlMfirst (q : Sq) (v : Vc)
  | memGbase (q : Sq) (v : Vc)
  | memGlev (q : Sq) (v : Vc)
  | memGcfg (q : Sq) (v : Vc)
  | memGrst (q : Sq) (v : Vc)
  | memGpos (q : Sq) (v : Vc)
  -- 05 R124, 12 R269: the oldest posted store of a context, or the oldest V-path store of a core
  | storePerformed (q : Sq) (who : Storer)
  | uncorrectableError (a : Nat)
  | updateInstallComplete (i : Nat)
  | wfltClear
  | qctlWrite (n : Fin 16) (x : BitVec 32)
  | peerDomainConfig (self : Fin 8) (peers : List (Fin 8))
  | imageKeySlotWrite (k : Fin 8) (key : Nat)
deriving DecidableEq, Repr, Inhabited

/-- What happens in one occurrence: a square's control core issues for its tile contexts or for context F (05 R95 to
R101), or a row of the table without an encoding happens. -/
inductive What where
  | issue (q : Sq)
  | issueF (q : Sq)
  | event (i : Instr)
deriving DecidableEq, Repr, Inhabited

/-- One occurrence, with the reference time (ns) and the arithmetic cycles of the acting square that pass before it
(16 R348). -/
structure Occ where
  ns : Nat
  cycles : Nat
  what : What
deriving DecidableEq, Repr, Inhabited

end Sys2Proof
end

