-- ==== Sys2Proof/WellFormed.lean ====
section
/-! DEFINITION. What a well-formed instruction is: the field rules of 02 R29 to R36 that the types of Syntax do not carry. -/

namespace Sys2Proof

/-- The special register numbers that a register map lists (02 R36; Tables 2-4, 5-5, 7-6, 8-2, 11-5, 14-3, 15-4, 16-7). -/
def sregAssigned (r : BitVec 12) : Bool :=
  let n := r.toNat
  decide (n ≤ 0x008) || (decide (0x100 ≤ n) && decide (n ≤ 0x104)) || (decide (0x110 ≤ n) && decide (n ≤ 0x11F)) ||
    (decide (0x200 ≤ n) && decide (n ≤ 0x202)) || n == 0x210 || (decide (0x300 ≤ n) && decide (n ≤ 0x304))

/-- The field checks of 02 R29, R30, R34, R35 and R36 that the operand types leave open: neither mask of XFENCE is zero,
EMIT.BC names a vector core, MFS and MTS name a listed register, and a reserved hint has a kind from 4 to 31. -/
def Instr.wf : Instr → Bool
  | .xfence f t => f != 0 && t != 0
  | .emitBc _ m => m != 0
  | .mfs _ r => sregAssigned r
  | .mts _ r => sregAssigned r
  | .reservedHint k _ _ _ => decide (4 ≤ k.val)
  | _ => true

end Sys2Proof
end

