-- ==== Sys2Proof/Decode.lean ====
section
/-! DEFINITION. Decoding of control-core words (02 R28 to R41), total on any word and rejecting by name, and the encoder. -/

namespace Sys2Proof

/-- The check of 02 R37 that a word fails first. -/
inductive Illegal where
  /-- check 1: the major opcode is unassigned -/
  | opcode
  /-- check 2: the fn operation or sub value is unassigned -/
  | function
  /-- check 3: another field breaks R29, R30, R34, R35 or R36 -/
  | field
deriving DecidableEq, Repr

/-- The `n`-valued operand field whose low bit is `lo`. -/
def fin (n : Nat) [NeZero n] (w lo : Nat) : Fin n := Fin.ofNat n (w / 2 ^ lo)

/-- The scalar register field at `lo` (02 R29). -/
def reg (w lo : Nat) : Reg := Fin.ofNat 32 (w / 2 ^ lo)

/-- The bit at `lo`. -/
def flag (w lo : Nat) : Bool := w / 2 ^ lo % 2 == 1

/-- `i`, where every remaining field satisfies its rule (02 R37 check 3). -/
def okIf (c : Bool) (i : Instr) : Except Illegal Instr := if c then .ok i else .error .field

/-- 02 Table 2-3, opcode 0x00. -/
def decInt (w : Nat) : Except Illegal Instr :=
  match fld w 6 5 with
  | 1 => okIf (fld w 0 6 == 0) (.add (reg w 21) (reg w 16) (reg w 11))
  | 2 => okIf (fld w 0 6 == 0) (.sub (reg w 21) (reg w 16) (reg w 11))
  | 3 => okIf (fld w 0 6 == 0) (.and (reg w 21) (reg w 16) (reg w 11))
  | 4 => okIf (fld w 0 6 == 0) (.or (reg w 21) (reg w 16) (reg w 11))
  | 5 => okIf (fld w 0 6 == 0) (.xor (reg w 21) (reg w 16) (reg w 11))
  | 6 => okIf (fld w 0 6 == 0) (.andn (reg w 21) (reg w 16) (reg w 11))
  | 7 => okIf (fld w 0 6 == 0) (.shl (reg w 21) (reg w 16) (reg w 11))
  | 8 => okIf (fld w 0 6 == 0) (.shr (reg w 21) (reg w 16) (reg w 11))
  | 9 => okIf (fld w 0 6 == 0) (.sra (reg w 21) (reg w 16) (reg w 11))
  | 10 => okIf (fld w 0 6 == 0) (.ror (reg w 21) (reg w 16) (reg w 11))
  | 11 => okIf (fld w 11 5 == 0) (.shli (reg w 21) (reg w 16) (fin 64 w 0))
  | 12 => okIf (fld w 11 5 == 0) (.shri (reg w 21) (reg w 16) (fin 64 w 0))
  | 13 => okIf (fld w 11 5 == 0) (.srai (reg w 21) (reg w 16) (fin 64 w 0))
  | 14 => okIf (fld w 11 5 == 0) (.rori (reg w 21) (reg w 16) (fin 64 w 0))
  | 15 => okIf (fld w 0 6 == 0) (.mul (reg w 21) (reg w 16) (reg w 11))
  | 16 => okIf (fld w 0 6 == 0) (.mulh (reg w 21) (reg w 16) (reg w 11))
  | 17 => okIf (fld w 0 6 == 0) (.mulhu (reg w 21) (reg w 16) (reg w 11))
  | 18 => okIf (fld w 0 6 == 0) (.div (reg w 21) (reg w 16) (reg w 11))
  | 19 => okIf (fld w 0 6 == 0) (.divu (reg w 21) (reg w 16) (reg w 11))
  | 20 => okIf (fld w 0 6 == 0) (.rem (reg w 21) (reg w 16) (reg w 11))
  | 21 => okIf (fld w 0 6 == 0) (.remu (reg w 21) (reg w 16) (reg w 11))
  | 22 => okIf (fld w 0 6 == 0) (.min (reg w 21) (reg w 16) (reg w 11))
  | 23 => okIf (fld w 0 6 == 0) (.max (reg w 21) (reg w 16) (reg w 11))
  | 24 => okIf (fld w 0 6 == 0) (.minu (reg w 21) (reg w 16) (reg w 11))
  | 25 => okIf (fld w 0 6 == 0) (.maxu (reg w 21) (reg w 16) (reg w 11))
  | 26 => okIf (fld w 0 6 == 0) (.slt (reg w 21) (reg w 16) (reg w 11))
  | 27 => okIf (fld w 0 6 == 0) (.sltu (reg w 21) (reg w 16) (reg w 11))
  | 28 => okIf (fld w 11 5 == 0) (.sext (reg w 21) (reg w 16) (fin 64 w 0))
  | 29 => okIf (fld w 0 6 == 0 && fld w 11 5 == 0) (.clz (reg w 21) (reg w 16))
  | 30 => okIf (fld w 0 6 == 0 && fld w 11 5 == 0) (.popc (reg w 21) (reg w 16))
  | 31 => okIf (fld w 0 6 == 0) (.adds (reg w 21) (reg w 16) (reg w 11))
  | _ => .error .function

/-- 02 Table 2-3, opcode 0x08. -/
def decPred (w : Nat) : Except Illegal Instr :=
  match fld w 6 5 with
  | 0 => okIf (fld w 0 6 == 0 && fld w 24 2 == 0) (.cmpEq (fin 8 w 21) (reg w 16) (reg w 11))
  | 1 => okIf (fld w 0 6 == 0 && fld w 24 2 == 0) (.cmpNe (fin 8 w 21) (reg w 16) (reg w 11))
  | 2 => okIf (fld w 0 6 == 0 && fld w 24 2 == 0) (.cmpLt (fin 8 w 21) (reg w 16) (reg w 11))
  | 3 => okIf (fld w 0 6 == 0 && fld w 24 2 == 0) (.cmpLe (fin 8 w 21) (reg w 16) (reg w 11))
  | 4 => okIf (fld w 0 6 == 0 && fld w 24 2 == 0) (.cmpLtu (fin 8 w 21) (reg w 16) (reg w 11))
  | 5 => okIf (fld w 0 6 == 0 && fld w 24 2 == 0) (.cmpLeu (fin 8 w 21) (reg w 16) (reg w 11))
  | 8 => okIf (fld w 0 6 == 0 && fld w 14 2 == 0 && fld w 19 2 == 0 && fld w 24 2 == 0) (.pand (fin 8 w 21) (fin 8 w 16) (fin 8 w 11))
  | 9 => okIf (fld w 0 6 == 0 && fld w 14 2 == 0 && fld w 19 2 == 0 && fld w 24 2 == 0) (.por (fin 8 w 21) (fin 8 w 16) (fin 8 w 11))
  | 10 => okIf (fld w 0 6 == 0 && fld w 14 2 == 0 && fld w 19 2 == 0 && fld w 24 2 == 0) (.pxor (fin 8 w 21) (fin 8 w 16) (fin 8 w 11))
  | 11 => okIf (fld w 0 6 == 0 && fld w 14 2 == 0 && fld w 19 2 == 0 && fld w 24 2 == 0) (.pandn (fin 8 w 21) (fin 8 w 16) (fin 8 w 11))
  | 12 => okIf (fld w 0 6 == 0 && fld w 11 5 == 0 && fld w 19 2 == 0 && fld w 24 2 == 0) (.pmov (fin 8 w 21) (fin 8 w 16))
  | 13 => okIf (fld w 0 6 == 0 && fld w 11 5 == 0 && fld w 19 2 == 0) (.ptos (reg w 21) (fin 8 w 16))
  | _ => .error .function

/-- 02 Table 2-3, opcode 0x16, with its size limits (02 R34). -/
def decMemx (w : Nat) : Except Illegal Instr :=
  match fld w 6 5 with
  | 0 => okIf (fld w 0 2 == 0) (.stx (reg w 21) (reg w 16) (reg w 11) (fin 4 w 4) (fin 4 w 2))
  | 1 => okIf (fld w 0 2 == 0 && fld w 3 1 == 1) (.swap (reg w 21) (reg w 16) (reg w 11) (fin 4 w 4) (flag w 2))
  | 2 => okIf (fld w 0 2 == 0 && fld w 3 1 == 1) (.cas (reg w 21) (reg w 16) (reg w 11) (fin 4 w 4) (flag w 2))
  | 3 => okIf (fld w 0 2 == 0 && fld w 3 1 == 1) (.aadd (reg w 21) (reg w 16) (reg w 11) (fin 4 w 4) (flag w 2))
  | 4 => okIf (fld w 0 2 == 0 && fld w 3 1 == 1) (.aand (reg w 21) (reg w 16) (reg w 11) (fin 4 w 4) (flag w 2))
  | 5 => okIf (fld w 0 2 == 0 && fld w 3 1 == 1) (.aor (reg w 21) (reg w 16) (reg w 11) (fin 4 w 4) (flag w 2))
  | 6 => okIf (fld w 0 2 == 0 && fld w 3 1 == 1) (.axor (reg w 21) (reg w 16) (reg w 11) (fin 4 w 4) (flag w 2))
  | 7 => okIf (fld w 0 2 == 0 && fld w 3 1 == 1) (.amin (reg w 21) (reg w 16) (reg w 11) (fin 4 w 4) (flag w 2))
  | 8 => okIf (fld w 0 2 == 0 && fld w 3 1 == 1) (.amax (reg w 21) (reg w 16) (reg w 11) (fin 4 w 4) (flag w 2))
  | 9 => okIf (fld w 0 2 == 0 && fld w 3 1 == 1) (.aminu (reg w 21) (reg w 16) (reg w 11) (fin 4 w 4) (flag w 2))
  | 10 => okIf (fld w 0 2 == 0 && fld w 3 1 == 1) (.amaxu (reg w 21) (reg w 16) (reg w 11) (fin 4 w 4) (flag w 2))
  | 11 => okIf (fld w 0 4 == 12 && fld w 5 1 == 0 && fld w 11 5 == 0) (.acq (reg w 21) (reg w 16) (flag w 4))
  | 12 => okIf (fld w 0 4 == 12 && fld w 5 1 == 0 && fld w 11 5 == 0 && fld w 21 5 == 0) (.rel (reg w 16) (flag w 4))
  | 13 => okIf (fld w 0 6 == 0 && fld w 11 5 == 0 && fld w 21 5 == 0) (.mon (reg w 16))
  | 14 => okIf (fld w 0 6 == 0 && fld w 11 5 == 0) (.mwait (reg w 21) (reg w 16))
  | _ => .error .function

/-- 02 Table 2-3, opcode 0x1B. -/
def decRunc (w : Nat) : Except Illegal Instr :=
  match fld w 6 5 with
  | 0 => okIf (fld w 0 6 == 0 && fld w 11 15 == 0) (.yield)
  | 1 => okIf (fld w 0 6 == 0 && fld w 11 15 == 0) (.exit)
  | 2 => okIf (fld w 0 6 == 0 && fld w 11 5 == 0 && fld w 21 5 == 0) (.spawn (reg w 16))
  | _ => .error .function

/-- 02 Table 2-3, opcode 0x1C. -/
def decTm (w : Nat) : Except Illegal Instr :=
  match fld w 6 5 with
  | 0 => okIf (fld w 0 3 == 0 && fld w 18 8 == 0) (.tmHold (fin 4 w 16) (reg w 11) (fin 8 w 3))
  | 1 => okIf (fld w 0 3 == 0 && fld w 18 8 == 0) (.tmDrop (fin 4 w 16) (reg w 11) (fin 8 w 3))
  | 2 => okIf (fld w 0 3 == 0 && fld w 18 3 == 0 && fld w 23 3 == 0) (.tmMove (fin 4 w 21) (fin 4 w 16) (reg w 11) (fin 8 w 3))
  | 3 => okIf (fld w 0 3 == 0 && fld w 11 5 == 0 && fld w 18 8 == 0) (.tmBar (fin 4 w 16) (fin 8 w 3))
  | 4 => okIf (fld w 0 3 == 0 && fld w 11 5 == 0 && fld w 18 8 == 0) (.tmWaitf (fin 4 w 16) (fin 8 w 3))
  | 5 => okIf (fld w 0 3 == 0 && fld w 11 10 == 0) (.tmFront (reg w 21) (fin 8 w 3))
  | 6 => okIf (fld w 0 6 == 0 && fld w 11 5 == 0 && fld w 23 3 == 0) (.tmMtt (fin 4 w 21) (reg w 16))
  | 7 => okIf (fld w 0 6 == 0 && fld w 11 5 == 0 && fld w 18 3 == 0) (.tmMft (reg w 21) (fin 4 w 16))
  | 8 => okIf (fld w 0 3 == 0 && fld w 15 1 == 0 && fld w 18 3 == 0 && fld w 23 3 == 0) (.tmEdge (fin 4 w 21) (fin 4 w 16) (fin 16 w 11) (fin 8 w 3))
  | _ => .error .function

/-- 02 Table 2-3, opcode 0x28. -/
def decCp (w : Nat) : Except Illegal Instr :=
  match fld w 6 5 with
  | 0 => okIf (fld w 0 6 == 0 && fld w 11 5 == 0) (.cpPut (reg w 21) (reg w 16))
  | 1 => okIf (fld w 0 6 == 0 && fld w 11 5 == 0) (.cpGet (reg w 21) (reg w 16))
  | 2 => okIf (fld w 0 6 == 0 && fld w 11 5 == 0) (.cpPuts (reg w 21) (reg w 16))
  | 3 => okIf (fld w 0 6 == 0 && fld w 11 5 == 0) (.cpMcast (reg w 21) (reg w 16))
  | 4 => okIf (fld w 0 6 == 0 && fld w 11 5 == 0) (.cpGather (reg w 21) (reg w 16))
  | 5 => okIf (fld w 0 6 == 0 && fld w 11 5 == 0) (.cpMig (reg w 21) (reg w 16))
  | _ => .error .function

/-- 02 Table 2-3, opcode 0x29. -/
def decH (w : Nat) : Except Illegal Instr :=
  match fld w 6 5 with
  | 0 => okIf (fld w 3 3 == 0 && fld w 11 5 == 0 && fld w 21 5 == 0 && decide (fld w 0 3 < 5)) (.hWait (reg w 16) (.ofNat 5 (fld w 0 3)))
  | 1 => okIf (fld w 0 6 == 0 && fld w 11 5 == 0) (.hStat (reg w 21) (reg w 16))
  | 2 => okIf (fld w 0 6 == 0 && fld w 11 5 == 0 && fld w 21 5 == 0) (.hFree (reg w 16))
  | 3 => okIf (fld w 0 6 == 0 && fld w 21 5 == 0) (.hBind (reg w 16) (reg w 11))
  | 4 => okIf (fld w 0 6 == 0 && fld w 11 5 == 0 && fld w 21 5 == 0) (.hKeep (reg w 16))
  | 5 => okIf (fld w 0 6 == 0 && fld w 11 5 == 0 && fld w 21 5 == 0) (.hDisc (reg w 16))
  | _ => .error .function

/-- 02 Table 2-3, opcode 0x2A. -/
def decBlk (w : Nat) : Except Illegal Instr :=
  match fld w 6 5 with
  | 0 => okIf (fld w 0 6 == 0) (.blkLd (reg w 21) (reg w 16) (reg w 11))
  | 1 => okIf (fld w 0 6 == 0 && fld w 11 5 == 0 && fld w 21 5 == 0) (.blkEvict (reg w 16))
  | 2 => okIf (fld w 0 6 == 0 && fld w 11 5 == 0) (.blkWait (reg w 21) (reg w 16))
  | _ => .error .function

/-- 02 Table 2-3, opcode 0x2C. -/
def decRgn (w : Nat) : Except Illegal Instr :=
  match fld w 6 5 with
  | 0 => okIf (fld w 0 6 == 0 && fld w 11 5 == 0) (.rgnDecl (reg w 21) (reg w 16))
  | 1 => okIf (fld w 0 6 == 0 && fld w 21 5 == 0) (.rgnBind (reg w 16) (reg w 11))
  | _ => .error .function

/-- 02 Table 2-3, opcode 0x2D. -/
def decFmt (w : Nat) : Except Illegal Instr :=
  match fld w 6 5 with
  | 0 => okIf (fld w 0 6 == 0 && fld w 21 5 == 0) (.fmtSet (reg w 16) (reg w 11))
  | 1 => okIf (fld w 0 6 == 0 && fld w 11 5 == 0) (.fmtGet (reg w 21) (reg w 16))
  | _ => .error .function

/-- 02 Table 2-3, opcode 0x30. -/
def decMj (w : Nat) : Except Illegal Instr :=
  match fld w 6 5 with
  | 0 => okIf (fld w 0 6 == 0 && fld w 11 10 == 0) (.mjOpen (reg w 21))
  | 1 => okIf (fld w 0 6 == 0 && fld w 21 5 == 0) (.mjWr (reg w 16) (reg w 11))
  | 2 => okIf (fld w 0 6 == 0 && fld w 11 10 == 0) (.mjCommit (reg w 21))
  | 3 => okIf (fld w 0 6 == 0 && fld w 11 15 == 0) (.mjAbort)
  | 4 => okIf (fld w 0 6 == 0 && fld w 11 5 == 0) (.mjStat (reg w 21) (reg w 16))
  | _ => .error .function

/-- 02 Table 2-3, opcode 0x31. -/
def decPwr (w : Nat) : Except Illegal Instr :=
  match fld w 6 5 with
  | 0 => okIf (fld w 0 6 == 0 && fld w 11 5 == 0 && fld w 21 5 == 0) (.psSafe (reg w 16))
  | 1 => okIf (fld w 0 6 == 0 && fld w 11 5 == 0) (.psWake (reg w 21) (reg w 16))
  | 2 => okIf (fld w 0 6 == 0 && fld w 11 10 == 0) (.psNap (reg w 21))
  | 3 => okIf (fld w 0 6 == 0 && fld w 11 10 == 0) (.psDoze (reg w 21))
  | _ => .error .function

/-- 02 Table 2-3, opcode 0x32. -/
def decCnt (w : Nat) : Except Illegal Instr :=
  match fld w 6 5 with
  | 0 => okIf (fld w 0 6 == 0 && fld w 11 10 == 0) (.rdtime (reg w 21))
  | 1 => okIf (fld w 0 6 == 0 && fld w 11 10 == 0) (.rdcyc (reg w 21))
  | _ => .error .function

/-- 02 Table 2-3, opcode 0x34; an unlisted special register is an illegal field (02 R36). -/
def decSys (w : Nat) : Except Illegal Instr :=
  match fld w 12 4 with
  | 0 => okIf (fld w 16 5 == 0 && sregAssigned (.ofNat 12 w)) (.mfs (reg w 21) (.ofNat 12 w))
  | 1 => okIf (fld w 21 5 == 0 && sregAssigned (.ofNat 12 w)) (.mts (reg w 16) (.ofNat 12 w))
  | 2 => okIf (fld w 16 10 == 0) (.trap (.ofNat 12 w))
  | 3 => okIf (fld w 0 12 == 0 && fld w 16 10 == 0) (.rfe)
  | _ => .error .function

/-- 02 Table 2-3, opcode 0x35. -/
def decCtx (w : Nat) : Except Illegal Instr :=
  match fld w 12 4 with
  | 0 => okIf (fld w 0 12 == 0 && fld w 21 5 == 0) (.ctxStart (reg w 16))
  | 1 => okIf (fld w 0 12 == 0) (.ctxSave (reg w 21) (reg w 16))
  | 2 => okIf (fld w 0 12 == 0) (.ctxRestore (reg w 21) (reg w 16))
  | 3 => okIf (fld w 0 12 == 0) (.ctxEnd (reg w 21) (reg w 16))
  | 4 => okIf (fld w 4 8 == 0 && fld w 21 5 == 0) (.mtrl (reg w 16) (fin 16 w 0))
  | _ => .error .function

/-- 02 Table 2-3, opcode 0x1A: fn[1] is n, fn[0] is link, and JR leaves d zero. -/
def decJr (w : Nat) : Except Illegal Instr :=
  match fld w 0 2 with
  | 0 => okIf (fld w 2 14 == 0 && fld w 21 5 == 0) (.jr (reg w 16))
  | 1 => okIf (fld w 2 14 == 0) (.jrl (reg w 21) (reg w 16))
  | 2 => okIf (fld w 2 14 == 0 && fld w 21 5 == 0) (.jrN (reg w 16))
  | _ => okIf (fld w 2 14 == 0) (.jrlN (reg w 21) (reg w 16))

/-- The hint space has no illegal word (02 R40). -/
def decHint (w : Nat) : Instr :=
  match fld w 21 5 with
  | 0 => .prefI (reg w 16) (fin 4 w 14) (.ofNat 14 w)
  | 1 => .prefD (reg w 16) (fin 4 w 14) (.ofNat 14 w)
  | 2 => .prefM (reg w 16) (fin 4 w 14) (.ofNat 14 w)
  | 3 => .demoteD (reg w 16) (fin 4 w 14) (.ofNat 14 w)
  | _ => .reservedHint (fin 32 w 21) (reg w 16) (fin 4 w 14) (.ofNat 14 w)

/-- The instruction that the 32-bit word of value `w` is, by checks 1 to 3 of 02 R37 in their order (Table 2-2). -/
def decodeNat (w : Nat) : Except Illegal Instr :=
  match fld w 26 6 with
  | 0x00 => decInt w
  | 0x01 => .ok (.addi (reg w 21) (reg w 16) (.ofNat 16 w))
  | 0x02 => .ok (.andi (reg w 21) (reg w 16) (.ofNat 16 w))
  | 0x03 => .ok (.ori (reg w 21) (reg w 16) (.ofNat 16 w))
  | 0x04 => .ok (.xori (reg w 21) (reg w 16) (.ofNat 16 w))
  | 0x05 => okIf (fld w 16 5 == 0) (.movi (reg w 21) (.ofNat 16 w))
  | 0x06 => okIf (fld w 18 3 == 0) (.movhi (reg w 21) (fin 4 w 16) (.ofNat 16 w))
  | 0x07 => .ok (.slti (reg w 21) (reg w 16) (.ofNat 16 w))
  | 0x08 => decPred w
  | 0x09 => okIf (fld w 24 2 == 0) (.cmpiEq (fin 8 w 21) (reg w 16) (.ofNat 16 w))
  | 0x0A => okIf (fld w 24 2 == 0) (.cmpiLt (fin 8 w 21) (reg w 16) (.ofNat 16 w))
  | 0x0B => okIf (fld w 24 2 == 0) (.cmpiLtu (fin 8 w 21) (reg w 16) (.ofNat 16 w))
  | 0x0C => okIf (fld w 3 8 == 0) (.sel (reg w 21) (reg w 16) (reg w 11) (fin 8 w 0))
  | 0x10 => .ok (.ldB (reg w 21) (reg w 16) (fin 4 w 14) (.ofNat 14 w))
  | 0x11 => .ok (.ldH (reg w 21) (reg w 16) (fin 4 w 14) (.ofNat 14 w))
  | 0x12 => .ok (.ldW (reg w 21) (reg w 16) (fin 4 w 14) (.ofNat 14 w))
  | 0x13 => .ok (.ldD (reg w 21) (reg w 16) (fin 4 w 14) (.ofNat 14 w))
  | 0x14 => .ok (.stW (reg w 21) (reg w 16) (fin 4 w 14) (.ofNat 14 w))
  | 0x15 => .ok (.stD (reg w 21) (reg w 16) (fin 4 w 14) (.ofNat 14 w))
  | 0x16 => decMemx w
  | 0x17 => okIf (fld w 10 16 == 0 && fld w 5 5 != 0 && fld w 0 5 != 0) (.xfence (.ofNat 5 (w / 2 ^ 5)) (.ofNat 5 w))
  | 0x18 => .ok (if flag w 22 then .brN (fin 8 w 23) (flag w 21) (.ofNat 21 w) else .br (fin 8 w 23) (flag w 21) (.ofNat 21 w))
  | 0x19 => okIf (fld w 21 5 == 1) (.call (.ofNat 21 w))
  | 0x1A => decJr w
  | 0x1B => decRunc w
  | 0x1C => decTm w
  | 0x1D => okIf (fld w 18 3 == 0 && fld w 23 3 == 0) (.tmAddc (fin 4 w 21) (fin 4 w 16) (.ofNat 16 w))
  | 0x20 => okIf (fld w 0 19 == 0) (.emit (fin 4 w 24) (reg w 19))
  | 0x21 => okIf (fld w 0 6 == 0 && fld w 11 3 == 0) (.emitP (fin 4 w 24) (reg w 19) (reg w 14) (fin 8 w 8) (fin 4 w 6))
  | 0x22 => okIf (fld w 4 15 == 0 && fld w 24 2 == 0 && fld w 0 4 != 0) (.emitBc (reg w 19) (.ofNat 4 w))
  | 0x23 => okIf (fld w 11 13 == 0 && decide (fld w 0 11 ≤ 64)) (.eqWait (fin 4 w 24) (.ofNat 65 (fld w 0 11)))
  | 0x24 => okIf (fld w 0 19 == 0) (.eqStat (fin 4 w 24) (reg w 19))
  | 0x28 => decCp w
  | 0x29 => decH w
  | 0x2A => decBlk w
  | 0x2B => okIf (fld w 16 10 == 0) (.waitC (fin 16 w 12) (fin 16 w 8) (fin 16 w 4) (fin 16 w 0))
  | 0x2C => decRgn w
  | 0x2D => decFmt w
  | 0x2F => .ok (decHint w)
  | 0x30 => decMj w
  | 0x31 => decPwr w
  | 0x32 => decCnt w
  | 0x34 => decSys w
  | 0x35 => decCtx w
  | _ => .error .opcode

/-- Checks 1 to 3 of 02 R37 on a word. -/
def decode (w : BitVec 32) : Except Illegal Instr := decodeNat w.toNat

/-- The value of the word of an instruction that has one (02 Tables 2-1 to 2-3); the other rows have no encoding. -/
def encodeNat : Instr → Option Nat
  | .add d a b => some (0x00000040 + d.val * 0x200000 + a.val * 0x10000 + b.val * 0x800)
  | .sub d a b => some (0x00000080 + d.val * 0x200000 + a.val * 0x10000 + b.val * 0x800)
  | .and d a b => some (0x000000C0 + d.val * 0x200000 + a.val * 0x10000 + b.val * 0x800)
  | .or d a b => some (0x00000100 + d.val * 0x200000 + a.val * 0x10000 + b.val * 0x800)
  | .xor d a b => some (0x00000140 + d.val * 0x200000 + a.val * 0x10000 + b.val * 0x800)
  | .andn d a b => some (0x00000180 + d.val * 0x200000 + a.val * 0x10000 + b.val * 0x800)
  | .shl d a b => some (0x000001C0 + d.val * 0x200000 + a.val * 0x10000 + b.val * 0x800)
  | .shr d a b => some (0x00000200 + d.val * 0x200000 + a.val * 0x10000 + b.val * 0x800)
  | .sra d a b => some (0x00000240 + d.val * 0x200000 + a.val * 0x10000 + b.val * 0x800)
  | .ror d a b => some (0x00000280 + d.val * 0x200000 + a.val * 0x10000 + b.val * 0x800)
  | .shli d a h => some (0x000002C0 + d.val * 0x200000 + a.val * 0x10000 + h.val)
  | .shri d a h => some (0x00000300 + d.val * 0x200000 + a.val * 0x10000 + h.val)
  | .srai d a h => some (0x00000340 + d.val * 0x200000 + a.val * 0x10000 + h.val)
  | .rori d a h => some (0x00000380 + d.val * 0x200000 + a.val * 0x10000 + h.val)
  | .mul d a b => some (0x000003C0 + d.val * 0x200000 + a.val * 0x10000 + b.val * 0x800)
  | .mulh d a b => some (0x00000400 + d.val * 0x200000 + a.val * 0x10000 + b.val * 0x800)
  | .mulhu d a b => some (0x00000440 + d.val * 0x200000 + a.val * 0x10000 + b.val * 0x800)
  | .div d a b => some (0x00000480 + d.val * 0x200000 + a.val * 0x10000 + b.val * 0x800)
  | .divu d a b => some (0x000004C0 + d.val * 0x200000 + a.val * 0x10000 + b.val * 0x800)
  | .rem d a b => some (0x00000500 + d.val * 0x200000 + a.val * 0x10000 + b.val * 0x800)
  | .remu d a b => some (0x00000540 + d.val * 0x200000 + a.val * 0x10000 + b.val * 0x800)
  | .min d a b => some (0x00000580 + d.val * 0x200000 + a.val * 0x10000 + b.val * 0x800)
  | .max d a b => some (0x000005C0 + d.val * 0x200000 + a.val * 0x10000 + b.val * 0x800)
  | .minu d a b => some (0x00000600 + d.val * 0x200000 + a.val * 0x10000 + b.val * 0x800)
  | .maxu d a b => some (0x00000640 + d.val * 0x200000 + a.val * 0x10000 + b.val * 0x800)
  | .slt d a b => some (0x00000680 + d.val * 0x200000 + a.val * 0x10000 + b.val * 0x800)
  | .sltu d a b => some (0x000006C0 + d.val * 0x200000 + a.val * 0x10000 + b.val * 0x800)
  | .sext d a n => some (0x00000700 + d.val * 0x200000 + a.val * 0x10000 + n.val)
  | .clz d a => some (0x00000740 + d.val * 0x200000 + a.val * 0x10000)
  | .popc d a => some (0x00000780 + d.val * 0x200000 + a.val * 0x10000)
  | .adds d a b => some (0x000007C0 + d.val * 0x200000 + a.val * 0x10000 + b.val * 0x800)
  | .addi d a i => some (0x04000000 + d.val * 0x200000 + a.val * 0x10000 + i.toNat)
  | .andi d a i => some (0x08000000 + d.val * 0x200000 + a.val * 0x10000 + i.toNat)
  | .ori d a i => some (0x0C000000 + d.val * 0x200000 + a.val * 0x10000 + i.toNat)
  | .xori d a i => some (0x10000000 + d.val * 0x200000 + a.val * 0x10000 + i.toNat)
  | .movi d i => some (0x14000000 + d.val * 0x200000 + i.toNat)
  | .movhi d k i => some (0x18000000 + d.val * 0x200000 + k.val * 0x10000 + i.toNat)
  | .slti d a i => some (0x1C000000 + d.val * 0x200000 + a.val * 0x10000 + i.toNat)
  | .cmpEq p a b => some (0x20000000 + p.val * 0x200000 + a.val * 0x10000 + b.val * 0x800)
  | .cmpNe p a b => some (0x20000040 + p.val * 0x200000 + a.val * 0x10000 + b.val * 0x800)
  | .cmpLt p a b => some (0x20000080 + p.val * 0x200000 + a.val * 0x10000 + b.val * 0x800)
  | .cmpLe p a b => some (0x200000C0 + p.val * 0x200000 + a.val * 0x10000 + b.val * 0x800)
  | .cmpLtu p a b => some (0x20000100 + p.val * 0x200000 + a.val * 0x10000 + b.val * 0x800)
  | .cmpLeu p a b => some (0x20000140 + p.val * 0x200000 + a.val * 0x10000 + b.val * 0x800)
  | .pand d a b => some (0x20000200 + d.val * 0x200000 + a.val * 0x10000 + b.val * 0x800)
  | .por d a b => some (0x20000240 + d.val * 0x200000 + a.val * 0x10000 + b.val * 0x800)
  | .pxor d a b => some (0x20000280 + d.val * 0x200000 + a.val * 0x10000 + b.val * 0x800)
  | .pandn d a b => some (0x200002C0 + d.val * 0x200000 + a.val * 0x10000 + b.val * 0x800)
  | .pmov d a => some (0x20000300 + d.val * 0x200000 + a.val * 0x10000)
  | .ptos d a => some (0x20000340 + d.val * 0x200000 + a.val * 0x10000)
  | .cmpiEq p a i => some (0x24000000 + p.val * 0x200000 + a.val * 0x10000 + i.toNat)
  | .cmpiLt p a i => some (0x28000000 + p.val * 0x200000 + a.val * 0x10000 + i.toNat)
  | .cmpiLtu p a i => some (0x2C000000 + p.val * 0x200000 + a.val * 0x10000 + i.toNat)
  | .sel d a b p => some (0x30000000 + d.val * 0x200000 + a.val * 0x10000 + b.val * 0x800 + p.val)
  | .ldB d b s o => some (0x40000000 + d.val * 0x200000 + b.val * 0x10000 + s.val * 0x4000 + o.toNat)
  | .ldH d b s o => some (0x44000000 + d.val * 0x200000 + b.val * 0x10000 + s.val * 0x4000 + o.toNat)
  | .ldW d b s o => some (0x48000000 + d.val * 0x200000 + b.val * 0x10000 + s.val * 0x4000 + o.toNat)
  | .ldD d b s o => some (0x4C000000 + d.val * 0x200000 + b.val * 0x10000 + s.val * 0x4000 + o.toNat)
  | .stW d b s o => some (0x50000000 + d.val * 0x200000 + b.val * 0x10000 + s.val * 0x4000 + o.toNat)
  | .stD d b s o => some (0x54000000 + d.val * 0x200000 + b.val * 0x10000 + s.val * 0x4000 + o.toNat)
  | .stx d a b s z => some (0x58000000 + d.val * 0x200000 + a.val * 0x10000 + b.val * 0x800 + s.val * 0x10 + z.val * 0x4)
  | .swap d a b s z => some (0x58000048 + d.val * 0x200000 + a.val * 0x10000 + b.val * 0x800 + s.val * 0x10 + z.toNat * 0x4)
  | .cas d a b s z => some (0x58000088 + d.val * 0x200000 + a.val * 0x10000 + b.val * 0x800 + s.val * 0x10 + z.toNat * 0x4)
  | .aadd d a b s z => some (0x580000C8 + d.val * 0x200000 + a.val * 0x10000 + b.val * 0x800 + s.val * 0x10 + z.toNat * 0x4)
  | .aand d a b s z => some (0x58000108 + d.val * 0x200000 + a.val * 0x10000 + b.val * 0x800 + s.val * 0x10 + z.toNat * 0x4)
  | .aor d a b s z => some (0x58000148 + d.val * 0x200000 + a.val * 0x10000 + b.val * 0x800 + s.val * 0x10 + z.toNat * 0x4)
  | .axor d a b s z => some (0x58000188 + d.val * 0x200000 + a.val * 0x10000 + b.val * 0x800 + s.val * 0x10 + z.toNat * 0x4)
  | .amin d a b s z => some (0x580001C8 + d.val * 0x200000 + a.val * 0x10000 + b.val * 0x800 + s.val * 0x10 + z.toNat * 0x4)
  | .amax d a b s z => some (0x58000208 + d.val * 0x200000 + a.val * 0x10000 + b.val * 0x800 + s.val * 0x10 + z.toNat * 0x4)
  | .aminu d a b s z => some (0x58000248 + d.val * 0x200000 + a.val * 0x10000 + b.val * 0x800 + s.val * 0x10 + z.toNat * 0x4)
  | .amaxu d a b s z => some (0x58000288 + d.val * 0x200000 + a.val * 0x10000 + b.val * 0x800 + s.val * 0x10 + z.toNat * 0x4)
  | .acq d a s => some (0x580002CC + d.val * 0x200000 + a.val * 0x10000 + s.toNat * 0x10)
  | .rel a s => some (0x5800030C + a.val * 0x10000 + s.toNat * 0x10)
  | .mon a => some (0x58000340 + a.val * 0x10000)
  | .mwait d a => some (0x58000380 + d.val * 0x200000 + a.val * 0x10000)
  | .xfence f t => some (0x5C000000 + f.toNat * 0x20 + t.toNat)
  | .br p s o => some (0x60000000 + p.val * 0x800000 + s.toNat * 0x200000 + o.toNat)
  | .brN p s o => some (0x60400000 + p.val * 0x800000 + s.toNat * 0x200000 + o.toNat)
  | .call o => some (0x64200000 + o.toNat)
  | .jr a => some (0x68000000 + a.val * 0x10000)
  | .jrN a => some (0x68000002 + a.val * 0x10000)
  | .jrl d a => some (0x68000001 + d.val * 0x200000 + a.val * 0x10000)
  | .jrlN d a => some (0x68000003 + d.val * 0x200000 + a.val * 0x10000)
  | .yield => some (0x6C000000)
  | .exit => some (0x6C000040)
  | .spawn a => some (0x6C000080 + a.val * 0x10000)
  | .tmHold a b n => some (0x70000000 + a.val * 0x10000 + b.val * 0x800 + n.val * 0x8)
  | .tmDrop a b n => some (0x70000040 + a.val * 0x10000 + b.val * 0x800 + n.val * 0x8)
  | .tmMove d a b n => some (0x70000080 + d.val * 0x200000 + a.val * 0x10000 + b.val * 0x800 + n.val * 0x8)
  | .tmBar a n => some (0x700000C0 + a.val * 0x10000 + n.val * 0x8)
  | .tmWaitf a n => some (0x70000100 + a.val * 0x10000 + n.val * 0x8)
  | .tmFront d n => some (0x70000140 + d.val * 0x200000 + n.val * 0x8)
  | .tmMtt d a => some (0x70000180 + d.val * 0x200000 + a.val * 0x10000)
  | .tmMft d a => some (0x700001C0 + d.val * 0x200000 + a.val * 0x10000)
  | .tmEdge d a e n => some (0x70000200 + d.val * 0x200000 + a.val * 0x10000 + e.val * 0x800 + n.val * 0x8)
  | .tmAddc d i k => some (0x74000000 + d.val * 0x200000 + i.val * 0x10000 + k.toNat)
  | .emit v a => some (0x80000000 + v.val * 0x1000000 + a.val * 0x80000)
  | .emitP v a b k f => some (0x84000000 + v.val * 0x1000000 + a.val * 0x80000 + b.val * 0x4000 + k.val * 0x100 + f.val * 0x40)
  | .emitBc a m => some (0x88000000 + a.val * 0x80000 + m.toNat)
  | .eqWait v n => some (0x8C000000 + v.val * 0x1000000 + n.val)
  | .eqStat v d => some (0x90000000 + v.val * 0x1000000 + d.val * 0x80000)
  | .cpPut d a => some (0xA0000000 + d.val * 0x200000 + a.val * 0x10000)
  | .cpGet d a => some (0xA0000040 + d.val * 0x200000 + a.val * 0x10000)
  | .cpPuts d a => some (0xA0000080 + d.val * 0x200000 + a.val * 0x10000)
  | .cpMcast d a => some (0xA00000C0 + d.val * 0x200000 + a.val * 0x10000)
  | .cpGather d a => some (0xA0000100 + d.val * 0x200000 + a.val * 0x10000)
  | .cpMig d a => some (0xA0000140 + d.val * 0x200000 + a.val * 0x10000)
  | .hWait a s => some (0xA4000000 + a.val * 0x10000 + s.val)
  | .hStat d a => some (0xA4000040 + d.val * 0x200000 + a.val * 0x10000)
  | .hFree a => some (0xA4000080 + a.val * 0x10000)
  | .hBind a b => some (0xA40000C0 + a.val * 0x10000 + b.val * 0x800)
  | .hKeep a => some (0xA4000100 + a.val * 0x10000)
  | .hDisc a => some (0xA4000140 + a.val * 0x10000)
  | .blkLd d a b => some (0xA8000000 + d.val * 0x200000 + a.val * 0x10000 + b.val * 0x800)
  | .blkEvict a => some (0xA8000040 + a.val * 0x10000)
  | .blkWait d a => some (0xA8000080 + d.val * 0x200000 + a.val * 0x10000)
  | .waitC r c s l => some (0xAC000000 + r.val * 0x1000 + c.val * 0x100 + s.val * 0x10 + l.val)
  | .rgnDecl d a => some (0xB0000000 + d.val * 0x200000 + a.val * 0x10000)
  | .rgnBind a b => some (0xB0000040 + a.val * 0x10000 + b.val * 0x800)
  | .fmtSet a b => some (0xB4000000 + a.val * 0x10000 + b.val * 0x800)
  | .fmtGet d a => some (0xB4000040 + d.val * 0x200000 + a.val * 0x10000)
  | .prefI b s o => some (0xBC000000 + b.val * 0x10000 + s.val * 0x4000 + o.toNat)
  | .prefD b s o => some (0xBC200000 + b.val * 0x10000 + s.val * 0x4000 + o.toNat)
  | .prefM b s o => some (0xBC400000 + b.val * 0x10000 + s.val * 0x4000 + o.toNat)
  | .demoteD b s o => some (0xBC600000 + b.val * 0x10000 + s.val * 0x4000 + o.toNat)
  | .reservedHint k b s o => some (0xBC000000 + k.val * 0x200000 + b.val * 0x10000 + s.val * 0x4000 + o.toNat)
  | .mjOpen d => some (0xC0000000 + d.val * 0x200000)
  | .mjWr a b => some (0xC0000040 + a.val * 0x10000 + b.val * 0x800)
  | .mjCommit d => some (0xC0000080 + d.val * 0x200000)
  | .mjAbort => some (0xC00000C0)
  | .mjStat d a => some (0xC0000100 + d.val * 0x200000 + a.val * 0x10000)
  | .psSafe a => some (0xC4000000 + a.val * 0x10000)
  | .psWake d a => some (0xC4000040 + d.val * 0x200000 + a.val * 0x10000)
  | .psNap d => some (0xC4000080 + d.val * 0x200000)
  | .psDoze d => some (0xC40000C0 + d.val * 0x200000)
  | .rdtime d => some (0xC8000000 + d.val * 0x200000)
  | .rdcyc d => some (0xC8000040 + d.val * 0x200000)
  | .mfs d r => some (0xD0000000 + d.val * 0x200000 + r.toNat)
  | .mts a r => some (0xD0001000 + a.val * 0x10000 + r.toNat)
  | .trap i => some (0xD0002000 + i.toNat)
  | .rfe => some (0xD0003000)
  | .ctxStart a => some (0xD4000000 + a.val * 0x10000)
  | .ctxSave d a => some (0xD4001000 + d.val * 0x200000 + a.val * 0x10000)
  | .ctxRestore d a => some (0xD4002000 + d.val * 0x200000 + a.val * 0x10000)
  | .ctxEnd d a => some (0xD4003000 + d.val * 0x200000 + a.val * 0x10000)
  | .mtrl a k => some (0xD4004000 + a.val * 0x10000 + k.val)
  | _ => none

/-- The word of an instruction that has one. -/
def encode (i : Instr) : Option (BitVec 32) := (encodeNat i).map (BitVec.ofNat 32)

/-- The 32-bit word of four bytes, little-endian (00 R6, 02 R28). -/
def leWord (b0 b1 b2 b3 : Byte) : BitVec 32 := b3 ++ b2 ++ b1 ++ b0

/-- Decoding of the bytes at an address: a word needs four of them. -/
def decodeBytes : List Byte → Option (Except Illegal Instr × List Byte)
  | b0 :: b1 :: b2 :: b3 :: rest => some (decode (leWord b0 b1 b2 b3), rest)
  | _ => none

/-- The bytes of the word of value `w`, as memory stores them (00 R6). -/
def wordBytes (w : Nat) : List Byte := [.ofNat 8 w, .ofNat 8 (w / 0x100), .ofNat 8 (w / 0x10000), .ofNat 8 (w / 0x1000000)]

/-- The instruction that the decoder reads from an opcode-table row's bits: every word is 32 bits long. -/
def decodeTableWord (nbits w : Nat) : Option Instr :=
  match decodeBytes (wordBytes (w % 2 ^ nbits)) with
  | some (.ok i, _) => some i
  | _ => none

end Sys2Proof
end

