-- ==== Sys2Proof/Config.lean ====
section
/-! DEFINITION. What is fixed for one module but not by the spec, and the free values: opaque constants without a body. -/

namespace Sys2Proof.Config

/-- What happens at tick `n` when no occurrence is listed: which agent moves and how much time passes are free
(log 1; 00 R3, 05 R106). -/
opaque schedule : Nat → Occ

/-- Which line, counted from the least recently filled, leaves a data cache when line `n` is brought in; a number beyond the
lines held names none (12 R270 fixes no replacement; log 5). -/
opaque victim : Nat → Nat

/-- Which of several that the spec leaves open is taken at choice `n`: a free region number, a free block tag, the block that leaves
(12 R274; 14 R315; log 69). -/
opaque pick : Nat → Nat

/-- The frame that firmware or a bulk engine proposes for choice `n` (13 R286, 14 R312; log 7). -/
opaque frame : Nat → Nat

/-- The page, by a device-virtual address, that hardware proposes to migrate at choice `n`, if any (14 R312; log 6). -/
opaque migration : Nat → Option Nat

/-- What BPROV and BFLT of context F take with an engine-level fault of its work (15 R324 states CAUSE alone; log 21). -/
opaque engineRecord : Nat → BitVec 64

/-- The value that a group sum of `m * 2^e` that is no integer, or a NaN or infinity as (0, 0), adds in integer mode (09 R205
with 04 R91 states none; log 22). -/
opaque groupSum : Int → Int → Int

/-- The place of lane `i` in the order in which the lanes of element `n` of an indexed stream are stored (08 R182 states no order of
lanes that name the same bytes; log 23). -/
opaque laneRank : Nat → Nat → Nat

/-- How many attempts of write-check `n` to MRAM fail before one succeeds; 5 or more is a failure (16 R343, R353; log 6). -/
opaque failedAttempts : Nat → Nat

/-- Whether an A-path read `n` of the doubleword at an address gives the new value while MJ.COMMIT is between its first record copy and its
retirement (16 R354 allows either; log 36). -/
opaque readsNew : Nat → Nat → Bool

/-- Whether firmware's staging memory has room for the snapshot of a command's image at choice `n` (17 R363 gives no size; log 82). -/
opaque stagingRoom : Nat → Bool

/-- The ns of reference time that pass from power-fail warning `n` to the capture, modulo 27,001 (16 R350; log 6). -/
opaque stopTime : Nat → Nat

/-- The module identity IDN (17 R374; log 8). -/
opaque idn : BitVec 64

/-- Bits [47:0] of the module identity (15 Table 15-9). -/
def moduleId : BitVec 48 := idn.setWidth 48

/-- A signature check of the trust rules (17 R372, R373): Ed25519 where `ml` is false, ML-DSA-65 where it is true; the number of a key
pair, the message, the signature (log 8). -/
opaque signatureOk (ml : Bool) (key : Nat) (msg sig : List Byte) : Bool

/-- The number of the pair of Mbocon's patch keys (17 R372; log 8). -/
opaque patchKey : Nat

/-- The number of the pair of Mbocon's provisioning keys, and whether the body of a certificate names a slot of the image key store and
a key for it (17 R373; log 8). -/
opaque provisioningKey : Nat
opaque certifies (body : List Byte) (slot : Fin 8) (key : Nat) : Bool
/-- The bytes of the certificate that commissioning presents with key write `n` (17 R373; log 8). -/
opaque keyCertificate (n : Nat) : List Byte

/-- The bytes of the ROM, and those in which firmware writes a list of residences with the digests of their images: an attestation report
holds a digest of each (17 Table 17-7; log 8). -/
opaque rom : List Byte
opaque residenceList : List (Nat × Nat) → List Byte

/-- Byte `i` of the two signatures that the identity keys make over a message (17 R375; log 8). -/
opaque sign (msg : List Byte) (i : Nat) : Byte

/-- Byte `i` of the public identity keys, the number of the provisioning key pair, and byte `i` of its signatures (17 Table 17-8;
log 8). -/
opaque identityKey : Nat → Byte
opaque provisioner : Byte
opaque certificateSignature : Nat → Byte

end Sys2Proof.Config
end

