-- ==== Sys2Proof/Machine/Bits.lean ====
section
/-! DEFINITION. Small shared functions: canonical association lists, bytes, bit fields, integers of a given width. -/

namespace Sys2Proof.Machine

/-! ## Association lists in one canonical form: keys strictly rising, no entry equal to the default -/

/-- What a list holds at a key: the default where the key is not listed. -/
def mget {α : Type} (d : α) : List (Nat × α) → Nat → α
  | [], _ => d
  | (k, v) :: t, a => if k = a then v else mget d t a

/-- `(a, v)` in its place among rising keys. -/
def mins {α : Type} (a : Nat) (v : α) : List (Nat × α) → List (Nat × α)
  | [] => [(a, v)]
  | (k, w) :: t => if a < k then (a, v) :: (k, w) :: t else (k, w) :: mins a v t

/-- The list that holds `v` at `a` and is otherwise as before; writing the default removes the entry. -/
def mput {α : Type} [DecidableEq α] (d : α) (l : List (Nat × α)) (a : Nat) (v : α) : List (Nat × α) :=
  let l' := l.filter (fun e => e.1 ≠ a)
  if v = d then l' else mins a v l'

/-- Keys strictly rise. -/
def mrising {α : Type} : List (Nat × α) → Bool
  | [] => true
  | (k, _) :: t => t.all (fun e => decide (k < e.1)) && mrising t

/-- The canonical form. -/
def mwf {α : Type} [DecidableEq α] (d : α) (l : List (Nat × α)) : Bool :=
  mrising l && l.all (fun e => decide (e.2 ≠ d))

/-- Erases every entry whose key lies in `[a, a + n)`. -/
def mclear {α : Type} (l : List (Nat × α)) (a n : Nat) : List (Nat × α) :=
  l.filter (fun e => !(decide (a ≤ e.1) && decide (e.1 < a + n)))

/-! ## Bytes and words, little-endian (00 R6) -/

/-- The value of bytes, the first the least significant. -/
def leNat : List Byte → Nat
  | [] => 0
  | b :: t => b.toNat + 256 * leNat t

/-- The `n` bytes of a value, the least significant first. -/
def natLE : Nat → Nat → List Byte
  | 0, _ => []
  | n + 1, v => BitVec.ofNat 8 v :: natLE n (v / 256)

/-! ## Fields of 64-bit words -/

/-- Bits `[lo + n - 1 : lo]` of a word. -/
def bits (w : Word) (lo n : Nat) : Nat := fld w.toNat lo n

/-- Bit `i` of a word. -/
def bit (w : Word) (i : Nat) : Bool := w.getLsbD i

/-- The word of a value. -/
def word (n : Nat) : Word := BitVec.ofNat 64 n

/-- The word of a truth value. -/
def bword (b : Bool) : Word := if b then 1 else 0

/-- Signed value of the low `n` bits of `x`. -/
def sextN (x n : Nat) : Int :=
  let y := x % 2 ^ n
  if y < 2 ^ (n - 1) then (y : Int) else (y : Int) - 2 ^ n

/-- The word of an integer, modulo 2^64. -/
def intWord (i : Int) : Word := BitVec.ofInt 64 i

/-- `i` clamped to the signed range of `n` bits (04 R85). -/
def clampS (i : Int) (n : Nat) : Int :=
  if i < -(2 ^ (n - 1) : Int) then -(2 ^ (n - 1) : Int) else if i > 2 ^ (n - 1) - 1 then 2 ^ (n - 1) - 1 else i

/-- Number of leading zero bits of an `n`-bit value. -/
def clz (n x : Nat) : Nat := if x = 0 then n else n - 1 - Nat.log2 x

/-- Number of one bits among the low `n`. -/
def popc : Nat → Nat → Nat
  | 0, _ => 0
  | n + 1, x => x % 2 + popc n (x / 2)

/-- `x` rounded up to a multiple of `m`. -/
def roundUp (x m : Nat) : Nat := (x + m - 1) / m * m

/-- Quotient rounded up. -/
def ceilDiv (x m : Nat) : Nat := (x + m - 1) / m

/-- The vector with `x` at `i`. -/
def vset {α : Type} {n : Nat} (v : Vector α n) (i : Fin n) (x : α) : Vector α n := v.set i.val x i.isLt

/-- The first `some` of `f` over a list. -/
def firstSome {α β : Type} (f : α → Option β) : List α → Option β
  | [] => none
  | a :: t => match f a with
    | some b => some b
    | none => firstSome f t

/-- The list with its first element that meets `p` replaced by the elements `f` gives for it. -/
def updFirst {α : Type} (p : α → Bool) (f : α → List α) : List α → List α
  | [] => []
  | a :: t => if p a then f a ++ t else a :: updFirst p f t

/-- The element at place `i` replaced. -/
def updAt {α : Type} (f : α → α) : Nat → List α → List α
  | _, [] => []
  | 0, a :: t => f a :: t
  | i + 1, a :: t => a :: updAt f i t

end Sys2Proof.Machine
end

