-- ==== Sys2Proof/Machine/State.lean ====
section
/-! DEFINITION. The state of the module as plain data, its reset value, and the reasons a step can stop. -/

namespace Sys2Proof.Machine

/-! ## Control-core contexts (05, 06, 15) -/

/-- One entry of the fetch queue (06 R129). -/
structure QEnt where
  pc : Word
  nul : Bool
deriving DecidableEq, Repr, Inhabited

/-- The states of a tile context (05 Table 5-1). A task ended by a fault stays in `ending` with its cause until step 8 of
15 R325. -/
inductive CtxSt where
  | free | ready | active | ending
deriving DecidableEq, Repr, Inhabited

/-- A P-path load miss or a space-0 atomic that has not delivered its value (05 R124). `known` holds the bytes that the
context's own earlier stores fix (05 R123); an atomic has taken effect and carries its value. -/
structure LoadFlight where
  d : Reg
  size : Nat
  va : Nat
  pa : Nat
  known : List (Option Byte)
  value : Option Word
  po : Nat
deriving DecidableEq, Repr, Inhabited

/-- A posted space-0 store that is not yet performed nor in the data cache (05 R124). -/
structure Posted where
  va : Nat
  pa : Nat
  bytes : List Byte
  po : Nat
deriving DecidableEq, Repr, Inhabited

/-- A blocked instruction (05 R97): what it is, when its first execution began to wait (18 R376), when this execution did
(15 R323), and whether a service has interrupted it, so that it executes afresh (06 R145). -/
structure Blocked where
  instr : Instr
  since : Nat
  now : Nat
  afresh : Bool
deriving DecidableEq, Repr, Inhabited

/-- A waiting bundle-fault record (07 R160, R163); `cyc` is the square's arithmetic cycle in which it was made. -/
structure BRec where
  cause : Nat
  lvl : Nat
  core : Vc
  seq : BitVec 16
  gwa : BitVec 46
  slot : Slot
  late : Nat
  disc : Nat
  cyc : Nat
deriving DecidableEq, Repr, Inhabited

/-- The registers and dispatch state of one context (05 Table 5-4, Tables 2-4, 5-5, 6-3, 6-4, 7-6, 11-5, 15-4). -/
structure Ctx where
  s : Vector Word 32
  p : Vector Bool 8
  tm : Vector Word 4
  rl : Vector Word 16
  q0 : QEnt
  q1 : QEnt
  q2 : QEnt
  epc0 : Word
  epc1 : Word
  epc2 : Word
  enul : Word
  cause : Word
  badw : Word
  bprov : Word
  bflt : Word
  thnd : Word
  fill : Word
  fwdt : Word
  pstatRes : Nat
  pstatSafe : Bool
  fvrSeq : BitVec 16
  tidx : Word
  res : Nat
  pri : Nat
  scope : Fin 8
  st : CtxSt
  hold : Bool
  endCause : Option Nat
  seq : Vector (BitVec 16) 4
  rseq : Vector (BitVec 16) 4
  rv : Vector Bool 4
  ticket : BitVec 16
  records : List BRec
  blocked : Option Blocked
  loads : List LoadFlight
  posted : List Posted
  po : Nat
  instrs : Nat
  bounds : Nat
  acmds : Nat
  runStart : Nat
  inv : Option Nat
  tmpl : Nat
  tileTime : Word
  rect : Nat
  task : Nat
deriving DecidableEq, Repr, Inhabited

/-! ## Vector cores (07, 08, 10) -/

/-- A vector register: 64 lanes (08 R167). -/
abbrev VReg := Vector Lane 64

/-- A bundle with its provenance (02 R42, R50). -/
structure Entry where
  w : BitVec 192
  ctx : Cx
  seq : BitVec 16
  gwa : BitVec 46
deriving DecidableEq, Repr, Inhabited

/-- A stream generator (08 R180, R181). -/
structure Gen where
  configured : Bool
  fetching : Bool
  base : Word
  cnt : Vector Nat 4
  stride : Vector Word 4
  pos : Nat
  cfg : Word
deriving DecidableEq, Repr, Inhabited

/-- A unit operation that has not delivered (08 R174): its bundle, its unit, R, F and the conditions. -/
structure Pend where
  id : Nat
  unit : Slot
  rv : VReg
  rs : Word
  f : Option Word
  cond : BitVec 3
deriving DecidableEq, Repr, Inhabited

/-- One side of a V-path access: its space, the address of each lane (one for an E2M1X element), and the generator or handle
whose element it is, with the element's number (08 R180, 10 R223, R236). `stale` once the generator has been started over, or the handle
freed or bound, since the access was issued: its position is no longer that of the element. -/
structure VSide where
  space : Nat
  addrs : List Nat
  e2 : Bool
  gen : Option (Fin 8 × Nat)
  hnd : Option (Fin 64 × Nat)
  stale : Bool
deriving DecidableEq, Repr, Inhabited

/-- A V-path access that is not yet performed (08 R182): what it loads, where it stores (both for a stream copy), its lanes,
the register it loads into, and what it stores. `counted` is false for the accesses of loop replays (08 R186). -/
structure VAcc where
  id : Nat
  ent : Entry
  gm : Word
  from_ : Option VSide
  to_ : Option VSide
  dst : Option (Fin 4 × Fin 16)
  data : VReg
  counted : Bool
deriving DecidableEq, Repr, Inhabited

/-- An element of mrq: a landed vector, or the fault its pop reports (08 R183, R184). -/
inductive MElem where
  | val (v : VReg)
  | bad (cause : Nat)
deriving DecidableEq, Repr, Inhabited

/-- A bundle that has issued and not retired (07 R148). -/
structure Issued where
  id : Nat
  ent : Entry
  loop : Bool
deriving DecidableEq, Repr, Inhabited

/-- A running loop (08 R179): its counter, count, body length, the body captured so far, the iteration and the next entry. -/
structure LoopRun where
  x : Fin 4
  count : Nat
  n : Nat
  body : List Entry
  it : Nat
  next : Nat
  owner : Entry
  ownerId : Nat
deriving DecidableEq, Repr, Inhabited

/-- The states of a handle (10 Table 10-2). -/
inductive HSt where
  | free | filling | full | draining | error
deriving DecidableEq, Repr, Inhabited

/-- A buffer handle (10 R232): binding (SP 0 is unbound), state, position, keep mark, cause. -/
structure Hnd where
  sp : Nat
  len : Nat
  base : Nat
  st : HSt
  pos : Nat
  keep : Bool
  cause : Nat
deriving DecidableEq, Repr, Inhabited

/-- One vector core (08 Table 8-1), its emit queue (07 R147), handles (10 R232) and bank formats (10 R222). `gone` names the bundles that
have retired before an earlier one, with their contexts: a record of that one counts them in LATE (07 R161). -/
structure VCore where
  vf : Vector (Vector VReg 16) 4
  kf : Vector (Vector Word 16) 2
  m : Vector Word 8
  oa : Vector VReg 4
  ob : Vector VReg 4
  oc : Vector VReg 4
  sa : Vector Word 4
  sb : Vector Word 4
  sc : Vector Word 4
  rv : Vector VReg 4
  rs : Vector Word 4
  f : Vector Word 4
  gens : Vector Gen 8
  lc : Vector Word 4
  loop : Option LoopRun
  lbuf : List Entry
  vrm : BitVec 2
  vcond : BitVec 3
  qst : BitVec 3
  arq : List Word
  crq : List Word
  mrq : List MElem
  claim : Option (Fin 8)
  fresh : Bool
  eq : List Entry
  issued : List Issued
  gone : List (Nat × Cx)
  nextId : Nat
  pend : List Pend
  vpath : List VAcc
  fence : Option Nat
  headSince : Nat
  progress : Nat
  handles : Vector Hnd 64
  fmt : Vector Nat 16
deriving DecidableEq, Repr, Inhabited

/-! ## Squares (01 R19) -/

/-- Power states of a square (16 R332). -/
inductive SqPower where
  | run | nap | doze
deriving DecidableEq, Repr, Inhabited

/-- A data-cache line (12 R270): device-virtual line number, bytes, dirty mask, writer mask, the words of 8 bytes whose fill met
an uncorrectable error in their protection unit (05 R386), and whether DEMOTE.D has marked it first for eviction (02 R40). -/
structure DLine where
  tag : Nat
  bytes : BitVec 512
  dirty : BitVec 64
  writers : BitVec 9
  bad : BitVec 8
  demoted : Bool
deriving DecidableEq, Repr, Inhabited

/-- A superblock of the instruction cache (06 Table 6-2): tag, valid bits, whether it stands in way 7, F's way, and the bytes of its
lines. -/
structure IWay where
  tag : Nat
  valid : BitVec 4
  f : Bool
  data : Vector (List Byte) 4
deriving DecidableEq, Repr, Inhabited

/-- An instruction-cache fill in flight: its line number, the bytes it brings, whether they carry an uncorrectable error, and the contexts
whose fetch waits for it (06 R139, R140, R142). -/
structure IFill where
  line : Nat
  bytes : List Byte
  bad : Bool
  waiting : List Cx
deriving DecidableEq, Repr, Inhabited

/-- A translation held by a TLB (14 R310). -/
structure TlbEnt where
  va : Nat
  big : Bool
  frame : Nat
  own : Nat
  r : Bool
  w : Bool
  x : Bool
  p : Bool
  m : Bool
  l : Bool
deriving DecidableEq, Repr, Inhabited

/-- A superblock of a die's walk cache (14 R310): the number of its 256 bytes, and the bytes of those of its four 64-byte table lines
that it holds. -/
structure WalkSb where
  tag : Nat
  lines : Vector (Option (List Byte)) 4
deriving DecidableEq, Repr, Inhabited

/-- The metadata of a block of the square store (10 R226): selector, overflow bit, pool slot index. A block that is not listed holds
zeros, with selector 5. -/
structure BlkMeta where
  sel : Nat
  ovf : Bool
  slot : Nat
deriving DecidableEq, Repr, Inhabited

/-- The metadata of a block of zeros (10 R227). -/
def BlkMeta.zero : BlkMeta := { sel := 5, ovf := false, slot := 0 }

/-- A watch entry (08 R188): its square, the sector's device-virtual address and its number in the flat memory, its owner, the time it
was armed, and its two bits. -/
structure Watch where
  sq : Sq
  va : Nat
  sector : Nat
  owner : Cx
  armed : Nat
  fired : Bool
  restored : Bool
deriving DecidableEq, Repr, Inhabited

/-- Who owns tokens of a square's outstanding-time table (11 R257): a context, the dispatcher for one launch record, or a
saved context, by the number of its task. -/
inductive Owner where
  | ctx (c : Cx)
  | disp (rec : Nat)
  | saved (task : Nat)
deriving DecidableEq, Repr, Inhabited

/-- An entry of the outstanding-time table (11 R257). -/
structure Tok where
  scope : Fin 8
  time : Word
  owner : Owner
  count : Nat
deriving DecidableEq, Repr, Inhabited

/-- A message of a square's count stream (11 R261, 13 R293). -/
inductive Msg where
  | count (scope : Fin 8) (pairs : List (Word × Int))
  | accept (inv : Nat)
deriving DecidableEq, Repr, Inhabited

/-- An entry of the commit log (12 R281): the aligned 8-byte word by its number in the flat memory, the bytes written, the
key, the task that made it, whether it is held at its home, whether a 2 MiB page translated it (12 R285),
and for each byte the program-order number of the store that wrote it last (05 R123). -/
structure LogEnt where
  addr : Nat
  va : Option Nat
  mask : BitVec 8
  data : Word
  scope : Fin 8
  stamp : Word
  ctx : Cx
  po : Nat
  arrived : Bool
  inv : Option Nat
  task : Nat
  big : Bool
  pos : Vector Nat 8
deriving DecidableEq, Repr, Inhabited

/-- A launch record (13 Tables 13-3, 13-4), word by word. -/
structure LWords where
  w0 : Word
  tbase : Word
  tend : Word
  w3 : Word
  lv : Vector Word 4
deriving DecidableEq, Repr, Inhabited

/-- A record in a launch queue (13 R293): its place, words, invocation and template, the next tile's position in the walk
or list, and whether SPAWN posted it. -/
structure LRec where
  id : Nat
  place : Nat
  words : LWords
  inv : Nat
  tmpl : Nat
  next : Nat
  fromSpawn : Bool
deriving DecidableEq, Repr, Inhabited

/-- A copy descriptor (10 Table 10-6). -/
structure Desc where
  src : Word
  dst : Word
  w2 : Word
  sig : Word
  w4 : Word
  time : Word
  rect : Word
deriving DecidableEq, Repr, Inhabited

/-- A copy in an engine's queue (10 R238, R242, R248): issuer (`hw` where hardware migrates a page of its own choice), form,
descriptor, the handles that it names as they were bound when it was issued, ticket, the core of its crq entry; the destination being
written, its bytes performed, the bytes performed in the earlier
destinations and in all, the greatest destination extent; why it is halted (0 for a stall); its error, the first destination whose signal carries it,
whether the later destinations are zeroed; the destinations whose signals are settled; whether it still carries its token;
and the new frame of a migration. -/
structure Copy where
  sq : Sq
  ctx : Cx
  op : Fin 6
  d : Desc
  bound : List (Vc × Fin 64 × Hnd)
  res : Nat
  hw : Bool
  ticket : BitVec 16
  core : Option Vc
  started : Bool
  dest : Nat
  pos : Nat
  base : Nat
  done : Nat
  total : Nat
  halted : Option Nat
  err : Option Nat
  errFrom : Nat
  zero : Bool
  signalled : List Nat
  tok : Bool
  frame : Nat
deriving DecidableEq, Repr, Inhabited

/-- States of the MRAM journal (16 R352). -/
inductive JSt where
  | closed | opened | committing
deriving DecidableEq, Repr, Inhabited

/-- A square's MRAM journal (16 R352, R353); `half` is the half that the next MJ.OPEN tests (19 R380), so that an open journal
stands in the other one. Of an MJ.COMMIT: the copies of its record that have been attempted, whether one of them checks, the entries
applied, the homes that failed, and what the homes held before. Of an MJ.WR: the attempts made. `serial` is the number of the journal, by
which its commit record is known (log 17). -/
structure Journal where
  st : JSt
  owner : Cx
  half : Nat
  entries : List (Nat × Word)
  copies : Nat
  good : Bool
  applied : Nat
  failed : Nat
  olds : List (Nat × Word)
  tries : Nat
  serial : Nat
deriving DecidableEq, Repr, Inhabited

/-- The seal of a persist image (16 R341): the generations in its two copies, none where a copy is erased, and whether every chunk
matches its CRC. -/
structure Seal where
  copies : Vector (Option Word) 2
  chunks : Bool
deriving DecidableEq, Repr, Inhabited

/-! ## The array (09 Table 9-1) -/

/-- A command in a slot (09 R194, R203, R214): word, number, consumed specifiers, retired steps; steps and the cycle count at
the last retirement point; whether it is accepted, when it was written, whether it retires without effect, whether it counts
in the term, or in the term that its core's pending request will begin (R201), and whether it was accepted under that request; whether
it exceeds its task's ACMD (13 R298); the bundle that wrote it, and the handles it has taken (10 R233). -/
structure ACmd where
  word : Word
  seq : Nat
  specs : List Word
  steps : Nat
  pointSteps : Nat
  pointCyc : Nat
  accepted : Bool
  since : Nat
  void : Bool
  inTerm : Bool
  early : Bool
  excess : Bool
  ctx : Cx
  id : Nat
  handles : List (Fin 64)
deriving DecidableEq, Repr, Inhabited

/-- A lease request (09 Table 9-3). -/
structure AReq where
  lim : Nat
  keep : BitVec 2
  buf : BitVec 2
deriving DecidableEq, Repr, Inhabited

/-- The per-core state of the array (09 R192, R214, R215). -/
structure ACore where
  spq : List Word
  cur : Option ACmd
  nxt : Option ACmd
  hreg : List Word
  err : Option Nat
  cond : BitVec 3
  req : Option AReq
  rel : Option (BitVec 2)
  lim : Nat
  acseq : Nat
  steps : Nat
deriving DecidableEq, Repr, Inhabited

/-- The tag of a weight-buffer segment (09 R212): the residence, its range and the tile; where the segment's bytes begin in the range,
and how many of them it holds, for the refill of 09 R219. -/
structure Tag where
  res : Nat
  num : Nat
  tile : Nat
  off : Nat
  len : Nat
deriving DecidableEq, Repr, Inhabited

/-- A stationary tile fetched ahead of its step (19 R379): the core, the command's number, the step, and the bytes by their offsets in the
operand. -/
structure Ahead where
  core : Vc
  seq : Nat
  step : Nat
  bytes : List (Nat × List Byte)
deriving DecidableEq, Repr, Inhabited

/-- The array of a square. The buffers, counts, codebooks and segments list the words that are not 0. -/
structure Arr where
  acc : List (Nat × Lane)
  counts : List (Nat × Lane)
  cb : List (Nat × BitVec 16)
  seg : List (Nat × Byte)
  tags : Vector (Option Tag) 16
  ahead : Option Ahead
  holder : Option Vc
  prev : Vc
  term : Nat
  cores : Vector ACore 4
  bufs : Vector (Option Cx) 2
  keeps : Vector Bool 2
deriving DecidableEq, Repr, Inhabited

/-- One square (01 Table 1-2); `waking` records a posting, a PS.WAKE or a flit that wakes it (16 R335), `owed` the messages of
events that wait for room in the count stream (11 R261), `crqHeld` the completion that a full crq keeps from its core (10 R242), and `ifails`
the lines whose fill has come back with an error to a context that waits for it (06 R140). -/
structure Square where
  power : SqPower
  waking : Bool
  mchk : Bool
  cyc : Nat
  ctxs : Vector Ctx 9
  cores : Vector VCore 4
  active : Option (Fin 8)
  lastRun : Fin 8
  fcred : Nat
  fcycles : Nat
  fburst : Nat
  service : Option (Fin 8 × Nat)
  tsel : Word
  ctxr : Word
  drth : Word
  drcnt : BitVec 32
  droop : Option Nat
  idleSince : Nat
  icache : Vector (List IWay) 16
  ifills : List IFill
  ifails : List (Nat × Cx)
  dcache : List DLine
  tlb : List TlbEnt
  copyFreed : Nat
  launchQ : List LRec
  nextRec : Nat
  tokens : List Tok
  stream : List Msg
  owed : List Msg
  log : List LogEnt
  copyQ : List Copy
  crqHeld : Option (Vc × Word)
  journal : Journal
  blkMeta : List (Nat × BlkMeta)
  arr : Arr
  persist : Seal
deriving DecidableEq, Repr, Inhabited

/-! ## The package (01 R17, 12 R272, 13 R286, 16 R339, 17) -/

/-- Package power states (16 R337); `sealed` is the ride-through with the DRAM retained (16 R344). -/
inductive PkgPower where
  | run | brown | sealed | off
deriving DecidableEq, Repr, Inhabited

/-- Who declared a region (12 R272). -/
inductive RgnOwner where
  | res (n : Nat)
  | inv (n : Nat)
deriving DecidableEq, Repr, Inhabited

/-- An installed region (12 Tables 12-2, 12-3). -/
structure Region where
  space : Nat
  start : Nat
  len : Nat
  sync : Word
  pool : Nat
  cls : Nat
  plain : Bool
  owner : RgnOwner
deriving DecidableEq, Repr, Inhabited

/-- The release note of a lock word (12 R275). -/
structure Note where
  version : BitVec 48
  mask : BitVec 160
deriving DecidableEq, Repr, Inhabited

/-- An installed path-summary edge (11 R253, R255): modes byte, addends, and how many residences use it. -/
structure Edge where
  modes : Nat
  k : Vector Nat 4
  users : Nat
deriving DecidableEq, Repr, Inhabited

/-- A section of a residence (03 R69): kind, device-virtual address, size, its bytes as loaded, and the 64 KiB frames of MRAM that hold
its shadow, none for .bss and for weight-store sections (16 R339). -/
structure Sec where
  kind : Nat
  va : Nat
  size : Nat
  bytes : List Byte
  shadow : List Nat
deriving DecidableEq, Repr, Inhabited

/-- An MRAM range of a residence (03 R67, 09 R204): its number, the kind of the weight-store section that it is a range of, square, offset
in the weight store, and length. -/
structure MRange where
  num : Nat
  kind : Nat
  sq : Sq
  off : Nat
  len : Nat
deriving DecidableEq, Repr, Inhabited

/-- A PRESENT residence (13 R286): what LOAD recorded of its image, and the path-summary edges that LOAD installed for it, by scope and
number (11 R255). -/
structure Residence where
  num : Nat
  entry : Word
  psafe : Bool
  formats : List (Nat × Nat × Nat)
  sched : List Byte
  secs : List Sec
  ranges : List MRange
  edges : List (Nat × Edge)
  digest : Nat
deriving DecidableEq, Repr, Inhabited

/-- The record of one mapping that firmware has made (16 R339). -/
structure Mapping where
  va : Nat
  big : Bool
  frame : Nat
  own : Nat
  x : Bool
  w : Bool
  r : Bool
  p : Bool
  lost : Bool
deriving DecidableEq, Repr, Inhabited

/-- A block of a memory-side cache (14 R314): die, tag, generation, first byte, lines, owner, and whether it is filled. -/
structure Blk where
  die : Die
  tag : Nat
  gen : BitVec 16
  pa : Nat
  n : Nat
  owner : Option (Sq × Cx)
  filled : Bool
deriving DecidableEq, Repr, Inhabited

/-- A queue pair (17 Table 17-1). -/
structure Qp where
  sqb : Word
  cqb : Word
  sql : Nat
  cql : Nat
  ien : Bool
  en : Bool
  sqt : Nat
  cqh : Nat
  sqh : Nat
  ctail : Nat
  phase : Bool
deriving DecidableEq, Repr, Inhabited

/-- A command that firmware examines, at the head of its queue (17 R361 to R363): its queue, its entry, and the snapshot of its
indirect buffer. -/
structure Cmd where
  q : Fin 16
  w : Vector Word 8
  buf : List Byte
deriving DecidableEq, Repr, Inhabited

/-- An installation that runs in the background (17 R362); that of UPDATE IMAGE names the residence, and holds the sections and the ranges
that it replaces. -/
inductive Install where
  | load (q : Fin 16) (tag : BitVec 32) (r : Residence) (maps : List Mapping) (regions : List Region)
  | image (q : Fin 16) (tag : BitVec 32) (res : Nat) (secs : List Sec) (ranges : List MRange) (maps : List Mapping)
  | patch (q : Fin 16) (tag : BitVec 32) (level : BitVec 16) (body : List Byte)
deriving DecidableEq, Repr, Inhabited

/-- A task of an invocation that ended by a cause (15 R326). -/
structure TaskEnd where
  time : Word
  sq : Nat
  ctx : Nat
  cause : Nat
deriving DecidableEq, Repr, Inhabited

/-- An accepted and incomplete INVOKE (13 R290, R293, R300, R301); `unposted` holds the squares whose record firmware has not posted
yet, with the queue entry reserved in each, `waiting` those whose accept message the root has not applied, `begun` whether a tile of it has
been bound. Its number is the model's own, from 1. -/
structure Inv where
  id : Nat
  q : Fin 16
  tag : BitVec 32
  res : Nat
  tmpl : Nat
  words : LWords
  bufs : Vector Word 16
  deadline : Nat
  bound : Nat
  accepted : Nat
  waiting : List Sq
  token : Bool
  unposted : List (Sq × Nat)
  begun : Bool
  spawned : Nat
  ended : List TaskEnd
  lost : Nat
deriving DecidableEq, Repr, Inhabited

/-- A task that CTX.SAVE has moved out (15 R328): the square that parks its tokens, its save area, and what its end must
report; `bumps` counts the decode patches since the save (02 R54). -/
structure Saved where
  sq : Sq
  area : Nat
  task : Nat
  ctx : Cx
  res : Nat
  inv : Option Nat
  time : Word
  bumps : Nat
deriving DecidableEq, Repr, Inhabited

/-- A registered SIGNAL NOTIFY (17 R364). -/
structure Notify where
  q : Fin 16
  tag : BitVec 32
  scope : Fin 8
  time : Word
  addr : Word
  value : Word
deriving DecidableEq, Repr, Inhabited

/-- This module's posted SIGNAL REDUCE (17 R371). -/
structure Reduce where
  q : Fin 16
  tag : BitVec 32
  num : Word
  head : Word
  head1 : Word
  elems : List Lane
  addr : Word
deriving DecidableEq, Repr, Inhabited

/-- A broadcast of the root on its way (11 R263). -/
structure Bcast where
  scope : Fin 8
  frontier : Word
  seq : BitVec 16
deriving DecidableEq, Repr, Inhabited

/-- A completion entry that waits to be posted (17 R358, R366): its queue and its four words without the phase. -/
structure Comp where
  q : Fin 16
  w0 : Word
  ext : Word
  val0 : Word
  val1 : Word
deriving DecidableEq, Repr, Inhabited

/-- The recorded window fault (17 Table 17-1, WFLT). -/
structure Wflt where
  v : Bool
  ovf : Bool
  wr : Bool
  cause : Nat
  addr : Nat
deriving DecidableEq, Repr, Inhabited

/-- The module. `mem` is the one flat memory of Machine/Mem: HBM4, LPDDR-6 and MRAM at their physical addresses, then the
square stores, then the scratchpads. `trail` names the squares from which CTX.SAVE has moved a task, whose log and data cache may still
hold what it wrote there (12 R278). `unloads` names the queues whose head is an UNLOAD with FORCE that waits for its contexts (13 R287).
The last six fields are the model's own (log 1, log 4). -/
structure State where
  now : Nat
  power : PkgPower
  mchk : Bool
  mem : List Host.Cell
  bad : List Nat
  wear : List (Nat × Nat)
  ptbr : Word
  root : List (Nat × Int)
  bcast : List Bcast
  bseq : Vector (BitVec 16) 8
  localF : Vector Word 8
  edges : List (Nat × Option Edge)
  regions : List (Nat × Option Region)
  notes : List (Nat × Note)
  residences : List (Nat × Option Residence)
  maps : List Mapping
  blks : List Blk
  blkGen : List (Nat × BitVec 16)
  dieTlb : Vector (List TlbEnt) 4
  walkCache : Vector (List WalkSb) 4
  bulk : Vector (List Copy) 16
  bulkFreed : Vector Nat 4
  patchLevel : BitVec 16
  patchFloor : BitVec 16
  patchSlot : Bool
  patchStore : Vector (List Byte) 2
  keySlots : Vector (Option Nat) 8
  modn : BitVec 8
  peers : List (Fin 8)
  lup : Bool
  lanes : Nat
  winBase : BitVec 12
  wflt : Wflt
  qps : Vector Qp 16
  hostMem : List Host.Cell
  cur : Option (Fin 16)
  heads : Vector (Option Cmd) 16
  unloads : List (Fin 16)
  round : Nat
  installs : List Install
  invs : List Inv
  closedInvs : List Inv
  nextInv : Nat
  nextTask : Nat
  notifies : List Notify
  reduces : List Reduce
  held : List Comp
  msix : List Nat
  intervals : List (Nat × Nat)
  brownStart : Option Nat
  offStart : Option Nat
  persistGen : Word
  hubSeal : Seal
  saved : List Saved
  trail : List (Nat × Sq)
  watches : List Watch
  squares : Vector Square 160
  tick : Nat
  free : Nat
  agenda : List Occ
  fsq : Sq
  fcx : Cx
  lastRead : Option (List Byte)
deriving DecidableEq, Repr, Inhabited

/-! ## The reasons a step can stop -/

/-- Why the machine stops with a fault: it never does. Every instruction and every event answers with a next state in every state; what the
spec calls a fault is taken by the machine (07 R160, 15 R320, R324). -/
inductive Fault where
deriving DecidableEq, Repr

/-- Why an instruction has no meaning. -/
inductive Refusal where
  /-- Raised by an arm of `exec` whose instruction has no meaning yet, by its mnemonic. Safe. -/
  | notModelled (mnemonic : String)
deriving DecidableEq, Repr, Inhabited

/-! ## Reset: a cold start from OFF of a module as shipped (19 R378); registers without a reset value are in log 2 -/

/-- A context after reset (05 Table 5-6, 06 Tables 6-3 and 6-4, 11 Table 11-6, 15 Tables 15-2 to 15-5, 16 Table 16-10; log 2). -/
def Ctx.reset : Ctx :=
  { s := Vector.replicate 32 0, p := (Vector.replicate 8 false).set 0 true, tm := Vector.replicate 4 0,
    rl := Vector.replicate 16 0, q0 := ⟨0, false⟩, q1 := ⟨4, false⟩, q2 := ⟨8, false⟩,
    epc0 := 0, epc1 := 0, epc2 := 0, enul := 0, cause := 0, badw := 0, bprov := 0, bflt := 0, thnd := 0, fill := 0,
    fwdt := 100000, pstatRes := 0, pstatSafe := false, fvrSeq := 0, tidx := 0, res := 0, pri := 0, scope := 0,
    st := .free, hold := false, endCause := none,
    seq := Vector.replicate 4 0, rseq := Vector.replicate 4 0, rv := Vector.replicate 4 false, ticket := 0,
    records := [], blocked := none, loads := [], posted := [], po := 0, instrs := 0, bounds := 0, acmds := 0,
    runStart := 0, inv := none, tmpl := 0, tileTime := 0, rect := 0,
    task := 0 }

/-- A generator that is not configured (08 R181). -/
def Gen.reset : Gen :=
  { configured := false, fetching := false, base := 0, cnt := Vector.replicate 4 1, stride := Vector.replicate 4 0,
    pos := 0, cfg := 2 }

/-- An unbound FREE handle (10 R232). -/
def Hnd.reset : Hnd := { sp := 0, len := 0, base := 0, st := .free, pos := 0, keep := false, cause := 0 }

/-- A vector register of zeros. -/
def VReg.zero : VReg := Vector.replicate 64 0

/-- A vector core with the values of the claim reset (08 R168) and format 7 in every bank (16 R334; log 2). -/
def VCore.reset : VCore :=
  { vf := Vector.replicate 4 (Vector.replicate 16 VReg.zero), kf := Vector.replicate 2 (Vector.replicate 16 0),
    m := Vector.replicate 8 0, oa := Vector.replicate 4 VReg.zero, ob := Vector.replicate 4 VReg.zero,
    oc := Vector.replicate 4 VReg.zero, sa := Vector.replicate 4 0, sb := Vector.replicate 4 0,
    sc := Vector.replicate 4 0, rv := Vector.replicate 4 VReg.zero, rs := Vector.replicate 4 0,
    f := Vector.replicate 4 0, gens := Vector.replicate 8 Gen.reset, lc := Vector.replicate 4 0, loop := none,
    lbuf := [], vrm := 0, vcond := 0, qst := 0, arq := [], crq := [], mrq := [], claim := none, fresh := false,
    eq := [], issued := [], gone := [], nextId := 0, pend := [], vpath := [], fence := none, headSince := 0, progress := 0,
    handles := Vector.replicate 64 Hnd.reset, fmt := Vector.replicate 16 7 }

/-- The per-core state of the array after power-up (09 Table 9-6). -/
def ACore.reset : ACore :=
  { spq := [], cur := none, nxt := none, hreg := [], err := none, cond := 0, req := none, rel := none, lim := 16,
    acseq := 0, steps := 0 }

/-- The array after DOZE (16 R334). The previous holder, which the manual does not give, is core 3, so that core 0 comes first (log 2). -/
def Arr.reset : Arr :=
  { acc := [], counts := [], cb := [], seg := [], tags := Vector.replicate 16 none, ahead := none, holder := none, prev := 3,
    term := 0, cores := Vector.replicate 4 ACore.reset, bufs := Vector.replicate 2 none,
    keeps := Vector.replicate 2 false }

/-- An erased seal (16 R345 step 7). -/
def Seal.none : Seal := { copies := Vector.replicate 2 Option.none, chunks := false }

/-- The journal of a square whose journal has never been opened (19 R380). -/
def Journal.reset : Journal :=
  { st := .closed, owner := 0, half := 0, entries := [], copies := 0, good := false, applied := 0, failed := 0, olds := [], tries := 0,
    serial := 1 }

/-- A square in DOZE after a cold start (16 R334, Tables 16-8 and 16-9; 05 R100 for the context that ran last). -/
def Square.reset : Square :=
  { power := .doze, waking := false, mchk := false, cyc := 0, ctxs := Vector.replicate 9 Ctx.reset,
    cores := Vector.replicate 4 VCore.reset, active := none, lastRun := 7, fcred := 0, fcycles := 0, fburst := 0,
    service := none, tsel := 0, ctxr := 0, drth := 0x10019, drcnt := 0, droop := none, idleSince := 0,
    icache := Vector.replicate 16 [], ifills := [], ifails := [], dcache := [], tlb := [], copyFreed := 0,
    launchQ := [], nextRec := 0, tokens := [], stream := [], owed := [], log := [], copyQ := [], crqHeld := none,
    journal := Journal.reset, blkMeta := [], arr := Arr.reset, persist := Seal.none }

/-- A queue pair after reset (17 Table 17-1, R366). -/
def Qp.reset : Qp :=
  { sqb := 0, cqb := 0, sql := 0, cql := 0, ien := false, en := false, sqt := 0, cqh := 0, sqh := 0, ctail := 0,
    phase := true }

/-- The module right after a cold start (19 R378, 16 R332, 11 R263, 17 Table 17-1; log 2, log 3). -/
def State.reset : State :=
  { now := 0, power := .run, mchk := false, mem := [], bad := [], wear := [], ptbr := 0, root := [], bcast := [],
    bseq := Vector.replicate 8 0, localF := Vector.replicate 8 (BitVec.allOnes 64), edges := [], regions := [],
    notes := [], residences := [], maps := [], blks := [], blkGen := [], dieTlb := Vector.replicate 4 [],
    walkCache := Vector.replicate 4 [],
    bulk := Vector.replicate 16 [], bulkFreed := Vector.replicate 4 0, patchLevel := 0, patchFloor := 0, patchSlot := false, patchStore := Vector.replicate 2 [],
    keySlots := Vector.replicate 8 none, modn := 0xFF, peers := [], lup := false, lanes := 0, winBase := 0,
    wflt := { v := false, ovf := false, wr := false, cause := 0, addr := 0 }, qps := Vector.replicate 16 Qp.reset,
    hostMem := [], cur := none, heads := Vector.replicate 16 none, unloads := [], round := 0, installs := [], invs := [], closedInvs := [], nextInv := 1, nextTask := 1, notifies := [], reduces := [], held := [],
    msix := [], intervals := [], brownStart := none, offStart := none, persistGen := 0, hubSeal := Seal.none, saved := [], trail := [], watches := [],
    squares := Vector.replicate 160 Square.reset, tick := 0, free := 0, agenda := [], fsq := 0, fcx := 0,
    lastRead := none }

end Sys2Proof.Machine
end

