-- ==== Sys2Proof/Machine/Mem.lean ====
section
/-! DEFINITION. The flat memory: where each storage lies in it, reading and writing at the home, protection units, and the
square-store coders. -/

namespace Sys2Proof.Machine

/-! ## Places. Physical addresses (14 Table 14-1) stand at themselves; square stores, scratchpads and management windows follow -/

/-- Byte `o` of the square store of square `q` (05 R115, 10 R226). -/
def storeAddr (q o : Nat) : Nat := 2 ^ 48 + q * 2 ^ 23 + o

/-- Byte `o` of the scratchpad of core `c` of square `q` (10 R221). -/
def spadAddr (q c o : Nat) : Nat := 2 ^ 48 + 2 ^ 31 + (q * 4 + c) * 2 ^ 19 + o

/-- Byte `o` of the management window of square `q`, space 3 of its context F (05 Table 5-12; log 10). -/
def windowAddr (q o : Nat) : Nat := 2 ^ 48 + 2 ^ 32 + q * 2 ^ 16 + o

/-- Byte `o` of the private area of context `c` of square `q` (05 R115). -/
def privAddr (q c o : Nat) : Nat := storeAddr q (0x7DC000 + 0x4000 * c + o)

/-- End of the block-coded part of a square store (05 Table 5-12). -/
def storeEnd : Nat := 0x7DC000

/-- The first byte of the weight store of square `q` (14 Table 14-1). -/
def mramBase (q : Nat) : Nat := 0x040000000000 + q * 0x8000000

/-- Physical tiers (14 Table 14-1). -/
inductive Tier where
  | hbm | lpddr | mram | hole
deriving DecidableEq, Repr

/-- The tier of a physical address (14 Table 14-1). -/
def tierOf (p : Nat) : Tier :=
  if p < 0x006000000000 then .hbm
  else if 0x040000000000 ≤ p && p < 0x040500000000 then .mram
  else if 0x080000000000 ≤ p && p < 0x0A0000000000 then .lpddr
  else .hole

/-- The die of a square (01 R14). -/
def dieOfSquare (q : Nat) : Die := Fin.ofNat 4 (q % 16 / 8 + 2 * (q / 16 / 5))

/-- The home die of a physical address (14 Table 14-1). -/
def homeDie (p : Nat) : Die :=
  match tierOf p with
  | .hbm => Fin.ofNat 4 (p / 0x000C00000000 / 2)
  | .mram => dieOfSquare ((p - 0x040000000000) / 0x8000000)
  | _ => Fin.ofNat 4 (p / 2 ^ 21)

/-! ## Reading and writing bytes -/

/-- The byte at flat address `a`; an unlisted byte reads 0 (14 R303, 16 R334; log 3). -/
def State.rd (s : State) (a : Nat) : Byte := mget 0 s.mem a

/-- The `n` bytes from `a`. -/
def State.rdB (s : State) (a : Nat) : Nat → List Byte
  | 0 => []
  | n + 1 => s.rd a :: s.rdB (a + 1) n

/-- The little-endian value of the `n` bytes from `a` (00 R6). -/
def State.rdN (s : State) (a n : Nat) : Nat := leNat (s.rdB a n)

/-- Bytes at ascending flat addresses as the runs that stand next to each other: the first address of each run, and its bytes. -/
def runsOf : List (Nat × Byte) → List (Nat × List Byte)
  | [] => []
  | (a, b) :: t => match runsOf t with
    | (k, bs) :: r => if k = a + 1 then (a, b :: bs) :: r else (a, [b]) :: (k, bs) :: r
    | [] => [(a, [b])]

/-- Memory with the bytes written from `a` on. -/
def memPut : List Host.Cell → Nat → List Byte → List Host.Cell
  | m, _, [] => m
  | m, a, b :: t => memPut (mput 0 m a b) (a + 1) t

/-- Bytes of the protection unit that holds flat address `a` (05 R386). -/
def unitSize (a : Nat) : Nat :=
  if tierOf a = .mram then 8
  else if 2 ^ 48 ≤ a && a < 2 ^ 48 + 2 ^ 31 && decide ((a - 2 ^ 48) % 2 ^ 23 < storeEnd) then 512
  else 32

/-- First byte of the protection unit that holds flat address `a`. -/
def unitBase (a : Nat) : Nat := a / unitSize a * unitSize a

/-- Whether a byte of `[a, a + n)` lies in a unit with an uncorrectable error (05 R386). -/
def State.isBad (s : State) (a n : Nat) : Bool :=
  s.bad.any (fun u => decide (u < a + n) && decide (a < u + unitSize u))

/-- The blocks of the memory-side caches after an access to `[a, a + n)` at its home: those that hold a line of it are the most recently
used (14 R315; log 69). -/
def touchBlks (l : List Blk) (a n : Nat) : List Blk :=
  let hit := fun (b : Blk) => decide (b.pa < a + n) && decide (a < b.pa + 128 * b.n)
  l.filter hit ++ l.filter (fun b => !hit b)

/-- A read of `[a, a + n)` at its home uses the blocks of the memory-side caches that hold it. -/
def State.blkTouch (s : State) (a n : Nat) : State := { s with blks := touchBlks s.blks a n }

/-- One transfer performed at its home: its bytes are written, the errors of the units it covers whole are cleared
(05 R386), the watches on its sectors fire (08 R188), and it uses the blocks that hold it (14 R315). -/
def State.writeHome (s : State) (a : Nat) (bs : List Byte) : State :=
  let n := bs.length
  { s with
    mem := memPut s.mem a bs
    bad := s.bad.filter (fun u => !(decide (a ≤ u) && decide (u + unitSize u ≤ a + n)))
    blks := touchBlks s.blks a n
    watches := s.watches.map (fun w =>
      if decide (a / 32 ≤ w.sector) && decide (w.sector * 32 < a + n) then { w with fired := true } else w) }

/-- One transfer of bytes at ascending flat addresses, performed at its home: it covers a unit whole where it writes every byte of it
(05 R386). -/
def State.writeRuns (s : State) (l : List (Nat × Byte)) : State := (runsOf l).foldl (fun s r => s.writeHome r.1 r.2) s

/-- Bytes `[a, a + n)` set to zero with no transfer: a fresh frame, a fresh area (05 R104, 14 R303). -/
def State.zeroBytes (s : State) (a n : Nat) : State :=
  { s with mem := mclear s.mem a n, bad := s.bad.filter (fun u => !(decide (a ≤ u) && decide (u < a + n))) }

/-! ## Square-store coding (10 R226 to R231) -/

/-- Least and greatest of a list. -/
def listMin (l : List Nat) : Nat := l.foldl Nat.min (l.headD 0)
/-- The greatest of a list, 0 for none. -/
def listMax (l : List Nat) : Nat := l.foldl Nat.max 0

/-- Number of bits of a value. -/
def width (x : Nat) : Nat := if x = 0 then 0 else Nat.log2 x + 1

/-- The 32-bit words of bytes. -/
def words32 : List Byte → List Nat
  | b0 :: b1 :: b2 :: b3 :: t => leNat [b0, b1, b2, b3] :: words32 t
  | _ => []

/-- The zig-zag differences of neighbours (10 Table 10-1, selector 2). -/
def zigzags : List Nat → List Nat
  | a :: b :: t =>
    let d := (b + 2 ^ 32 - a) % 2 ^ 32
    (if d < 2 ^ 31 then 2 * d else 2 ^ 33 - 1 - 2 * d) :: zigzags (b :: t)
  | _ => []

/-- The values of a list with their counts, in order of first occurrence. -/
def histogram : List Nat → List (Nat × Nat) → List (Nat × Nat)
  | [], acc => acc
  | x :: t, acc =>
    histogram t (if acc.any (fun e => e.1 == x) then acc.map (fun e => if e.1 == x then (e.1, e.2 + 1) else e)
      else acc ++ [(x, 1)])

/-- The sum of the `k` greatest counts. -/
def topCounts : Nat → List (Nat × Nat) → Nat
  | 0, _ => 0
  | k + 1, l =>
    let m := listMax (l.map (·.2))
    m + topCounts k (updFirst (fun e => e.2 == m) (fun _ => []) l)

/-- Coded size by selector (10 Table 10-1). -/
def coderSize (ws : List Nat) (selector : Nat) : Nat :=
  match selector with
  | 0 => 512
  | 1 => 16 + 4 * (ws.filter (· ≠ 0)).length
  | 2 => 5 + 16 * width (listMax (zigzags ws))
  | 3 =>
    let h := histogram ws []
    let k := Nat.min 8 h.length
    1 + 4 * k + 64 + 4 * (128 - topCounts k h)
  | _ =>
    let es := ws.map (fun w => w / 2 ^ 23 % 256)
    2 + 16 * width (listMax es - listMin es) + 384

/-- Selector and coded size of a block (10 R227). -/
def codeBlock (ws : List Nat) : Nat × Nat :=
  if ws.all (· == 0) then (5, 0)
  else if ws.all (· == ws.headD 0) then (6, 4)
  else [1, 2, 3, 4].foldl (fun b k => if coderSize ws k < b.2 then (k, coderSize ws k) else b) (0, 512)

/-- The installed regions (12 R272). -/
def State.regionList (s : State) : List Region := s.regions.filterMap (·.2)

/-- The region of space `sp` that holds address `a`. -/
def State.regionAt (s : State) (sp a : Nat) : Option Region :=
  s.regionList.find? (fun r => r.space == sp && decide (r.start ≤ a) && decide (a < r.start + r.len))

/-- The metadata of block `b` (10 R226). -/
def Square.blk (x : Square) (b : Nat) : BlkMeta := mget .zero x.blkMeta b

/-- The square with the metadata of block `b` set. -/
def Square.setBlk (x : Square) (b : Nat) (m : BlkMeta) : Square := { x with blkMeta := mput .zero x.blkMeta b m }

/-- The class and the pool slots of the blocks of a region; outside every region the class is 512 and there is no pool (10 R226). -/
def classOf (reg : Option Region) : Nat := (reg.map (·.cls)).getD 512
/-- See `classOf`. -/
def slotsOf (reg : Option Region) : Nat := (reg.map (fun r => r.pool / 512)).getD 0

/-- The pool slots that blocks of a region hold in square `q` (10 R228). -/
def usedSlots (x : Square) (r : Region) : List Nat :=
  (x.blkMeta.filter (fun e => e.2.ovf && decide (r.start ≤ e.1 * 512) && decide (e.1 * 512 < r.start + r.len))).map (fun e => e.2.slot)

/-- The block metadata of square `x` after block `b` takes the contents `bs`, or none where it needs a slot and none is
free (10 R228): a block that fits is stored in its home with its selector, another one raw in the slot it holds or in a free one. -/
def placeBlock (x : Square) (reg : Option Region) (b : Nat) (bs : List Byte) : Option Square :=
  let (sel, size) := codeBlock (words32 bs)
  if size ≤ classOf reg then some (x.setBlk b { sel := sel, ovf := false, slot := 0 })
  else if (x.blk b).ovf && (x.blk b).slot < slotsOf reg then some (x.setBlk b { sel := 0, ovf := true, slot := (x.blk b).slot })
  else match reg with
    | none => none
    | some r => ((List.range (slotsOf reg)).find? (fun k => !(usedSlots x r).contains k)).map
        (fun k => x.setBlk b { sel := 0, ovf := true, slot := k })

/-- Cause codes (15 Table 15-1). -/
def STREAM_DECODE : Nat := 0x0E4
def POOL_EXHAUSTED : Nat := 0x0E3
def DATA_UNCORRECTABLE : Nat := 0x160

/-- The 32 planes of which selector 2 stores the first `n`: plane `j` holds bit `j` of each difference, padded to 16 bytes. -/
def planes (zs : List Nat) (n : Nat) : List Byte :=
  (List.range n).flatMap (fun j => natLE 16 (zs.foldr (fun z r => z / 2 ^ j % 2 + 2 * r) 0))

/-- The dictionary of selector 3: the up to eight most frequent values, a tie going to the earlier first occurrence. -/
def dictionary : Nat → List (Nat × Nat) → List Nat
  | 0, _ => []
  | _, [] => []
  | k + 1, h =>
    let m := listMax (h.map (·.2))
    match h.find? (fun e => e.2 == m) with
    | some e => e.1 :: dictionary k (h.filter (fun f => f.1 ≠ e.1))
    | none => []

/-- A little-endian string of fields of `n` bits each. -/
def packBits (n : Nat) : List Nat → Nat
  | [] => 0
  | x :: t => x + 2 ^ n * packBits n t

/-- The coded bytes of a block's words (10 Table 10-1); selector 7 reads as raw. -/
def codedBytes (ws : List Nat) (selector : Nat) : List Byte :=
  match selector with
  | 1 => natLE 16 (packBits 1 (ws.map (fun w => if w = 0 then 0 else 1))) ++ (ws.filter (· ≠ 0)).flatMap (natLE 4)
  | 2 =>
    let zs := zigzags ws
    let n := width (listMax zs)
    natLE 4 (ws.headD 0) ++ natLE 1 n ++ planes zs n
  | 3 =>
    let d := dictionary 8 (histogram ws [])
    let nib := fun w => match d.findIdx? (· == w) with | some i => i | none => 8
    natLE 1 d.length ++ d.flatMap (natLE 4) ++ natLE 64 (packBits 4 (ws.map nib)) ++
      (ws.filter (fun w => !d.contains w)).flatMap (natLE 4)
  | 4 =>
    let es := ws.map (fun w => w / 2 ^ 23 % 256)
    let lo := listMin es
    let n := width (listMax es - lo)
    natLE 1 lo ++ natLE 1 n ++ natLE (16 * n) (packBits n (es.map (· - lo))) ++
      natLE 384 (packBits 24 (ws.map (fun w => w / 2 ^ 31 * 2 ^ 23 + w % 2 ^ 23)))
  | 5 => []
  | 6 => natLE 4 (ws.headD 0)
  | _ => ws.flatMap (natLE 4)

/-- Whether a coded image is malformed by its own codes (10 R231). -/
def codeBad (selector : Nat) (img : List Byte) : Bool :=
  match selector with
  | 2 => decide ((img.getD 4 0).toNat > 32)
  | 3 =>
    let k := (img.getD 0 0).toNat
    k == 0 || decide (k > 8) || ((img.drop (1 + 4 * k)).take 64).any (fun b =>
      [b.toNat % 16, b.toNat / 16].any (fun n => decide (n > 8) || (decide (n ≠ 8) && decide (n ≥ k))))
  | 4 => decide ((img.getD 1 0).toNat > 8)
  | _ => false

/-- The stored image of block `b` of square `q`: coded in its home, raw in a pool slot (10 R228). -/
def State.image (s : State) (q : Sq) (b : Nat) : List Byte :=
  codedBytes (words32 (s.rdB (storeAddr q.val (b * 512)) 512)) ((s.squares[q]).blk b).sel

/-- Whether block `b` of square `q` is malformed (10 R231): its codes, a slot beyond the pool, an uncorrectable error in its stored
bytes. -/
def State.blockBad (s : State) (q : Sq) (b : Nat) : Bool :=
  let m := (s.squares[q]).blk b
  s.isBad (storeAddr q.val (b * 512)) 512 || (m.ovf && decide (slotsOf (s.regionAt 1 (b * 512)) ≤ m.slot)) ||
    codeBad m.sel (s.image q b)

/-- A write of bytes inside one block of the square store: the block is decoded, merged and encoded (10 R228, R229; 05 R386). -/
def State.writeBlock (s : State) (q : Sq) (o : Nat) (bs : List Byte) : Except Nat State :=
  let b := o / 512
  let base := storeAddr q.val (b * 512)
  if bs.length ≠ 512 && s.blockBad q b then .error STREAM_DECODE
  else
    let m := memPut s.mem (storeAddr q.val o) bs
    match placeBlock (s.squares[q]) (s.regionAt 1 (b * 512)) b (({ s with mem := m } : State).rdB base 512) with
    | none => .error POOL_EXHAUSTED
    | some x => .ok (({ s with squares := vset s.squares q x } : State).writeHome (storeAddr q.val o) bs)

/-- A write of some bytes of block `b` of the square store, at distinct flat addresses in ascending order, by one element: the block is
decoded, merged and encoded, and replaced whole only where every byte of it is written (10 R229; 05 R386). -/
def State.writeCells (s : State) (q : Sq) (b : Nat) (l : List (Nat × Byte)) : Except Nat State :=
  let base := storeAddr q.val (b * 512)
  if l.length ≠ 512 && s.blockBad q b then .error STREAM_DECODE
  else
    let m := l.foldl (fun m e => mput 0 m e.1 e.2) s.mem
    match placeBlock (s.squares[q]) (s.regionAt 1 (b * 512)) b (({ s with mem := m } : State).rdB base 512) with
    | none => .error POOL_EXHAUSTED
    | some x =>
      let s := ({ s with squares := vset s.squares q x } : State)
      .ok (s.writeRuns l)

/-- Bytes from `o` cut at the boundaries of blocks: `fuel` bounds the number of pieces. -/
def cutBlocks : Nat → Nat → List Byte → List (Nat × List Byte)
  | 0, _, _ => []
  | fuel + 1, o, bs =>
    if bs.isEmpty then [] else
      let k := 512 - o % 512
      (o, bs.take k) :: cutBlocks fuel (o + k) (bs.drop k)

/-- A write of bytes to the square store, block by block; the first block that cannot be placed or decoded ends it with its
cause. -/
def State.writeStore (s : State) (q : Sq) (o : Nat) (bs : List Byte) : Except Nat State :=
  (cutBlocks (bs.length + 1) o bs).foldlM (fun s (p : Nat × List Byte) => s.writeBlock q p.1 p.2) s

end Sys2Proof.Machine
end

