-- ==== Sys2Proof/Machine/Ops.lean ====
section
/-! DEFINITION. The named operations: reaching squares, contexts and cores; registers; the fetch queue; blocking; taking an
exception and returning from one; ending a task. -/

namespace Sys2Proof.Machine

/-- The outcome of a meaning. -/
abbrev Out := Host.Outcome State Fault Refusal

/-! ## Reaching the parts of the state -/

/-- Square `q`. -/
def State.sq (s : State) (q : Sq) : Square := s.squares[q]
/-- The state with square `q` replaced. -/
def State.setSq (s : State) (q : Sq) (x : Square) : State := { s with squares := vset s.squares q x }
/-- The state with `f` applied to square `q`. -/
def State.modSq (s : State) (q : Sq) (f : Square → Square) : State := s.setSq q (f (s.sq q))
/-- Context `c` of square `q`. -/
def State.ctx (s : State) (q : Sq) (c : Cx) : Ctx := (s.sq q).ctxs[c]
/-- The state with context `c` of square `q` replaced. -/
def State.setCtx (s : State) (q : Sq) (c : Cx) (x : Ctx) : State :=
  s.setSq q { s.sq q with ctxs := vset (s.sq q).ctxs c x }
/-- The state with `f` applied to context `c` of square `q`. -/
def State.modCtx (s : State) (q : Sq) (c : Cx) (f : Ctx → Ctx) : State := s.setCtx q c (f (s.ctx q c))
/-- Vector core `v` of square `q`. -/
def State.core (s : State) (q : Sq) (v : Vc) : VCore := (s.sq q).cores[v]
/-- The state with vector core `v` of square `q` replaced. -/
def State.setCore (s : State) (q : Sq) (v : Vc) (x : VCore) : State :=
  s.setSq q { s.sq q with cores := vset (s.sq q).cores v x }
/-- The state with `f` applied to vector core `v` of square `q`. -/
def State.modCore (s : State) (q : Sq) (v : Vc) (f : VCore → VCore) : State := s.setCore q v (f (s.core q v))
/-- The array of square `q`. -/
def State.arr (s : State) (q : Sq) : Arr := (s.sq q).arr
/-- The state with `f` applied to the array of square `q`. -/
def State.modArr (s : State) (q : Sq) (f : Arr → Arr) : State := s.modSq q (fun x => { x with arr := f x.arr })
/-- The issuing context (log 1). -/
def State.me (s : State) : Ctx := s.ctx s.fsq s.fcx
/-- The state with the issuing context replaced. -/
def State.setMe (s : State) (x : Ctx) : State := s.setCtx s.fsq s.fcx x
/-- The state with `f` applied to the issuing context. -/
def State.modMe (s : State) (f : Ctx → Ctx) : State := s.setMe (f s.me)
/-- Whether the issuing context is F. -/
def State.isF (s : State) : Bool := s.fcx == 8
/-- A fresh number of the model's own counter (log 4). -/
def State.bump (s : State) : State := { s with free := s.free + 1 }

/-- The context number as fields carry it: 0 to 7, or 0xF for F (05 Table 5-6). -/
def ctxNum (c : Cx) : Nat := if c = 8 then 15 else c.val
/-- A tile context as a context. -/
def tileCx (c : Fin 8) : Cx := ⟨c.val, by omega⟩
/-- The tile context of a context number, none for F. -/
def cxTile (c : Cx) : Option (Fin 8) := if h : c.val < 8 then some ⟨c.val, h⟩ else none

/-! ## Registers (02 R29, 05 Table 5-4) -/

/-- The value of s[r]; s0 reads 0. -/
def Ctx.rs_ (x : Ctx) (r : Reg) : Word := if r = 0 then 0 else x.s[r]
/-- s[r] written; a write to s0 is discarded. -/
def Ctx.setS (x : Ctx) (r : Reg) (v : Word) : Ctx := if r = 0 then x else { x with s := vset x.s r v }
/-- The value of p[r]; p0 reads true. -/
def Ctx.rp (x : Ctx) (r : Pr) : Bool := if r = 0 then true else x.p[r]
/-- p[r] written; a write to p0 is discarded. -/
def Ctx.setP (x : Ctx) (r : Pr) (v : Bool) : Ctx := if r = 0 then x else { x with p := vset x.p r v }
/-- s[r] of the issuing context. -/
def State.rs (s : State) (r : Reg) : Word := s.me.rs_ r
/-- p[r] of the issuing context. -/
def State.rp (s : State) (r : Pr) : Bool := s.me.rp r
/-- tm[r] of the issuing context. -/
def State.rt (s : State) (r : Tm) : Word := s.me.tm[r]
/-- s[r] of the issuing context written. -/
def State.wS (s : State) (r : Reg) (v : Word) : State := s.modMe (fun x => x.setS r v)
/-- p[r] of the issuing context written. -/
def State.wP (s : State) (r : Pr) (v : Bool) : State := s.modMe (fun x => x.setP r v)
/-- tm[r] of the issuing context written. -/
def State.wT (s : State) (r : Tm) (v : Word) : State := s.modMe (fun x => { x with tm := vset x.tm r v })

/-! ## The fetch queue (06 R129, R130) -/

/-- The queue shifted after an entry that is not a taken branch. -/
def Ctx.advance (x : Ctx) : Ctx :=
  { x with q0 := x.q1, q1 := x.q2, q2 := ⟨x.q2.pc + 4, false⟩, blocked := none }
/-- The queue after a control-flow instruction: `tgt` where it is taken, and both slots nullified where it squashes. -/
def Ctx.flow (x : Ctx) (tgt : Option Word) (squash : Bool) : Ctx :=
  { x with
    q0 := ⟨x.q1.pc, x.q1.nul || squash⟩
    q1 := ⟨x.q2.pc, x.q2.nul || squash⟩
    q2 := ⟨tgt.getD (x.q2.pc + 4), false⟩
    blocked := none }
/-- The link value: the address behind the second delay slot (06 R133). -/
def Ctx.link (x : Ctx) : Word := x.q2.pc + 4
/-- The queue set to `pc` and the two words behind it (06 R129, 15 R320). -/
def Ctx.start (x : Ctx) (pc : Word) : Ctx :=
  { x with q0 := ⟨pc, false⟩, q1 := ⟨pc + 4, false⟩, q2 := ⟨pc + 8, false⟩, blocked := none }
/-- The instruction of the issuing context retires: its queue shifts. -/
def State.retire (s : State) : State := s.modMe Ctx.advance
/-- The next state after the instruction retires. -/
def State.done (s : State) : Out := .next s.retire

/-! ## Blocking (05 R97, 06 R145) -/

/-- The issuing context is blocked in `i`, since the moment it first waited (18 R376). -/
def State.block (s : State) (i : Instr) : Out :=
  .next (s.modMe (fun x => { x with blocked := some (match x.blocked with
    | some b => { b with instr := i, now := if b.afresh then s.now else b.now, afresh := false }
    | none => { instr := i, since := s.now, now := s.now, afresh := false }) }))

/-- Whether the context stands in a blocked instruction. -/
def Ctx.waits (x : Ctx) : Bool := match x.blocked with
  | some b => !b.afresh
  | none => false

/-! ## Completion entries and the machine check (15 R324, 17 R366, R368) -/

/-- A completion entry without its phase (17 Table 17-6). -/
def mkComp (q : Fin 16) (tag : BitVec 32) (kind cause nf : Nat) (ext v0 v1 : Word) : Comp :=
  { q := q, w0 := word (kind * 2 ^ 60 + cause * 2 ^ 49 + Nat.min nf 0x1FFFF * 2 ^ 32 + tag.toNat), ext := ext, val0 := v0, val1 := v1 }

/-- Whether a completion ring may be posted to: its length is in range and it holds a free entry, measured against CQH; one entry
stays free, so that a full ring differs from an empty one (17 R366; log 24). -/
def Qp.room (p : Qp) : Bool :=
  decide (4 ≤ p.cql) && decide (p.cql ≤ 16) && (p.ctail + 1) % 2 ^ p.cql ≠ p.cqh % 2 ^ p.cql

/-- One completion entry posted to its ring, with the interrupt of its queue (17 Table 17-6). -/
def State.postOne (s : State) (c : Comp) : State :=
  let p := s.qps[c.q]
  let w0 := c.w0 ||| (if p.phase then 0x8000000000000000 else 0)
  let t := (p.ctail + 1) % 2 ^ p.cql
  { s with
    hostMem := memPut s.hostMem (p.cqb.toNat + 32 * p.ctail)
      (natLE 8 w0.toNat ++ natLE 8 c.ext.toNat ++ natLE 8 c.val0.toNat ++ natLE 8 c.val1.toNat)
    qps := vset s.qps c.q { p with ctail := t, phase := if t = 0 then !p.phase else p.phase }
    msix := if p.ien then s.msix ++ [c.q.val + 1] else s.msix }

/-- The entries of a list posted in their order; an entry that its ring holds back, or an earlier one of its queue, stays. -/
def State.postList (s : State) : List Comp → List Comp → State
  | [], kept => { s with held := kept }
  | c :: t, kept =>
    if kept.any (fun k => k.q == c.q) || !(s.qps[c.q]).room then s.postList t (kept ++ [c]) else (s.postOne c).postList t kept

/-- The held completion entries posted, as far as the link and the rings allow (17 R358, R366). -/
def State.postHeld (s : State) : State := if s.lup then s.postList s.held [] else s

/-- A command completes with an entry. -/
def State.complete (s : State) (c : Comp) : State := ({ s with held := s.held ++ [c] } : State).postHeld

/-- The queue and the tag of an installation. -/
def Install.who : Install → Fin 16 × BitVec 32
  | .load q t _ _ _ => (q, t)
  | .image q t _ _ _ _ => (q, t)
  | .patch q t _ _ => (q, t)

/-- Every incomplete command completes: an invocation with the entry that `g` gives it, another with that of `f`. -/
def State.endAll (s : State) (g : Inv → Comp) (f : Fin 16 → BitVec 32 → Comp) : State :=
  { s with
    held := s.held ++ s.invs.map g ++ s.installs.map (fun i => f i.who.1 i.who.2) ++
      s.notifies.map (fun n => f n.q n.tag) ++ s.reduces.map (fun r => f r.q r.tag) ++
      s.heads.toList.filterMap (fun h => h.map (fun (c : Cmd) => f c.q ((c.w[0]).setWidth 32)))
    closedInvs := s.closedInvs ++ s.invs, invs := [], installs := [], notifies := [], reduces := [], cur := none
    heads := Vector.replicate 16 none, unloads := [] }

/-- Every incomplete command completes as FAILED with a cause (17 R368). -/
def State.failAll (s : State) (cause : Nat) : State :=
  s.endAll (fun i => mkComp i.q i.tag 5 cause 0 0 0 0) (fun q t => mkComp q t 5 cause 0 0 0 0)

/-- A precise fault of context F: FIRMWARE_FAULT as a machine check (15 R324, 17 R368). -/
def State.machineCheck (s : State) (q : Sq) : State :=
  let s := s.modSq q (fun x => { x with mchk := true })
  (({ s with mchk := true, msix := s.msix ++ [0] } : State).failAll 0x161).postHeld

/-! ## Ending a task (15 R325) -/

/-- Whether a bundle of context `c` drives the running loop of a core. -/
def VCore.loopOf (v : VCore) (c : Cx) : Bool := match v.loop with
  | some l => l.owner.ctx == c
  | none => false

/-- The un-issued entries of a context leave a core's queue, and a running loop of it ends: its LOOP bundle retires once its issued replays
have (07 R160, 15 R325). -/
def VCore.dropEntries (v : VCore) (c : Cx) : VCore :=
  let v := { v with eq := v.eq.filter (fun e => e.ctx ≠ c) }
  if v.loopOf c then { v with loop := none } else v

/-- The array commands of a context retire with no effect (15 R325 step 3). -/
def ACore.voidOf (a : ACore) (c : Cx) : ACore :=
  let f := Option.map (fun (m : ACmd) => if m.ctx == c then { m with void := true } else m)
  { a with cur := f a.cur, nxt := f a.nxt }

/-- An accepted invocation, or one that is complete while something of it goes on. -/
def State.invOf (s : State) (k : Nat) : Option Inv := (s.invs ++ s.closedInvs).find? (fun i => i.id == k)

/-- Whether a task, saved or not, or a launch record names an invocation. -/
def State.invNamed (s : State) (k : Nat) : Bool :=
  s.squares.toList.any (fun x => x.ctxs.toList.any (fun c => c.st ≠ .free && c.inv == some k) || x.launchQ.any (fun r => r.inv == k)) ||
    s.saved.any (fun y => y.inv == some k)

/-- An invocation leaves the accepted commands; it stands among the complete ones while something names it (13 R297). -/
def State.closeInv (s : State) (k : Nat) : State :=
  let t := { s with
    invs := s.invs.filter (fun (j : Inv) => j.id ≠ k)
    closedInvs := s.closedInvs ++ s.invs.filter (fun (j : Inv) => j.id == k) }
  { t with closedInvs := t.closedInvs.filter (fun j => t.invNamed j.id) }

/-- A task of an invocation that ended by a cause is noted for its completion (15 R326). -/
def State.noteEnd (s : State) (inv : Option Nat) (e : TaskEnd) : State :=
  { s with invs := s.invs.map (fun (i : Inv) => if inv == some i.id then { i with ended := i.ended ++ [e] } else i) }

/-- Steps 1 to 3 of 15 R325: the context stops issuing, its waiting records are discarded, its un-issued entries leave the
queues, and its array commands will retire with no effect. The later steps are those of CONTEXT_FREE. -/
def State.endTask (s : State) (q : Sq) (c : Cx) (code : Nat) : State :=
  let t := s.ctx q c
  let s := s.modSq q (fun x => { x with
    active := if x.active.map tileCx == some c then none else x.active
    lastRun := if x.active.map tileCx == some c then x.active.getD x.lastRun else x.lastRun
    fburst := if x.active.map tileCx == some c then 16 else x.fburst
    service := if (x.service.map (fun p => tileCx p.1)) == some c then none else x.service
    cores := x.cores.map (fun v => v.dropEntries c)
    arr := { x.arr with cores := x.arr.cores.map (fun a => a.voidOf c) } })
  let s := s.modCtx q c (fun x => { x with st := .ending, endCause := some code, records := [], blocked := none, hold := false })
  s.noteEnd t.inv { time := t.tileTime, sq := q.val, ctx := c.val, cause := code }

/-! ## Taking an exception and returning from one (06 R144 to R146, 15 R318 to R323) -/

/-- Bits [47:2] of an address, as EPC0 to EPC2 hold them (06 Table 6-3). -/
def epcOf (pc : Word) : Word := pc &&& 0x0000FFFFFFFFFFFC
/-- ENUL of a queue (06 Table 6-4). -/
def enulOf (x : Ctx) : Word := bword x.q0.nul + 2 * bword x.q1.nul + 4 * bword x.q2.nul
/-- CAUSE (15 Table 15-2). -/
def causeWord (swc lvl code : Nat) : Word := word (swc * 2 ^ 36 + lvl * 2 ^ 34 + code)
/-- THND.EN (15 Table 15-3). -/
def Ctx.en (x : Ctx) : Bool := bit x.thnd 0
/-- THND.INH: the context is in its handler (15 Table 15-3). -/
def Ctx.inh (x : Ctx) : Bool := bit x.thnd 1
/-- The resume state and CAUSE written (15 R320). -/
def Ctx.saveResume (x : Ctx) (cause : Word) : Ctx :=
  { x with epc0 := epcOf x.q0.pc, epc1 := epcOf x.q1.pc, epc2 := epcOf x.q2.pc, enul := enulOf x, cause := cause }
/-- The queue reloaded from EPC0 to EPC2 and ENUL (06 R146). -/
def Ctx.reload (x : Ctx) : Ctx :=
  { x with q0 := ⟨x.epc0, bit x.enul 0⟩, q1 := ⟨x.epc1, bit x.enul 1⟩, q2 := ⟨x.epc2, bit x.enul 2⟩, blocked := none }

/-- Trap entry of a tile context (15 R320), the event's registers BADW, BPROV and BFLT being written by the caller: the resume
state and CAUSE are written, and then the handler is entered or the task ends. -/
def State.trapEnter (s : State) (q : Sq) (c : Cx) (swc lvl code : Nat) : State :=
  let s := s.modCtx q c (fun x => { x.saveResume (causeWord swc lvl code) with blocked := none })
  let x := s.ctx q c
  if x.en && !x.inh then
    s.setCtx q c ({ x with thnd := x.thnd ||| 2 }.start (epcOf x.thnd))
  else s.endTask q c code

/-- A precise fault of the issuing context (06 R131): nothing of the instruction takes effect; context F raises a machine
check (15 R324). -/
def State.trapSwc (s : State) (swc code : Nat) : Out :=
  if s.isF then .next (s.machineCheck s.fsq) else .next (s.trapEnter s.fsq s.fcx swc 0 code)

/-- A precise fault without a software code. -/
def State.trap (s : State) (code : Nat) : Out := s.trapSwc 0 code

/-- BADW as context F writes it (02 R39): with EWORD 0 all of [31:0], which a trap of class 0 fills with the whole word, else without the
reserved bits [31:27]. -/
def badwKept (v : Word) : Word := if bits v 32 32 = 0 then v else v &&& 0xFFFFFFFF07FFFFFF

/-- A precise fault that writes BADW first (02 R39); for context F the machine check alone. -/
def State.trapBad (s : State) (badw : Word) (code : Nat) : Out :=
  if s.isF then .next (s.machineCheck s.fsq) else (s.modMe (fun x => { x with badw := badw })).trap code

/-- TRAP 0 inside the handler: the queue is reloaded and INH becomes 0 (15 R321). -/
def State.handlerReturn (s : State) : State :=
  s.modMe (fun x => { x.reload with thnd := x.thnd &&& ~~~(2 : Word) })

/-- The end of a firmware interrupt service: TSEL.EN becomes 0 and the interrupted context resumes from its EPCs (15 R323);
its instruction executes afresh, and its watchdog goes on counting (18 R376). -/
def State.serviceEnd (s : State) (q : Sq) (c : Fin 8) : State :=
  let s := s.modSq q (fun x => { x with service := none, tsel := x.tsel &&& ~~~(0x10 : Word) })
  s.modCtx q (tileCx c) (fun x => { x.reload with blocked := x.blocked })

/-- BPROV of a record (07 Table 7-7). -/
def BRec.prov (r : BRec) : Word := word (r.core.val * 2 ^ 62 + r.seq.toNat * 2 ^ 46 + r.gwa.toNat)
/-- BFLT of a record (07 Table 7-8); counts beyond the fields show as their greatest values (log 71). MORE is computed as BFLT is
read. -/
def BRec.flt (r : BRec) : Word := word (Nat.min r.late 255 * 2 ^ 24 + Nat.min r.disc 64 * 2 ^ 16 + r.slot.val * 2 ^ 8)

/-- BFLT as it reads: MORE is 1 while a further record waits (07 R163). -/
def Ctx.bfltNow (x : Ctx) : Word := x.bflt ||| bword (x.records.any (fun r => r.lvl == 1))

/-- The fields of BFLT: what is not reserved (07 Table 7-8). -/
def bfltFields : Word := 0xFFFF0700

/-- A record among those that wait: in the order in which they were made, and within one cycle by core (07 R163). -/
def insertRecord (r : BRec) : List BRec → List BRec
  | [] => [r]
  | x :: t => if x.cyc == r.cyc && r.core.val < x.core.val then r :: x :: t else x :: insertRecord r t

/-- The oldest waiting record of a context is delivered at an instruction boundary (07 R162, R163): a trap of a tile context,
a write of CAUSE, BPROV and BFLT for context F (15 R324); what an engine-level fault writes to BPROV and BFLT is free (log 21). -/
def State.deliver (s : State) (q : Sq) (c : Cx) : State :=
  match (s.ctx q c).records with
  | [] => s
  | r :: t =>
    let s := if r.lvl = 3
      then (s.modCtx q c (fun x => { x with
        records := t, bprov := Config.engineRecord s.free, bflt := Config.engineRecord (s.free + 1) &&& bfltFields })).bump.bump
      else s.modCtx q c (fun x => { x with records := t, bprov := r.prov, bflt := r.flt })
    if c = 8 then s.modCtx q c (fun x => { x with cause := causeWord 0 r.lvl r.cause }) else s.trapEnter q c 0 r.lvl r.cause

/-- Whether MJ.COMMIT has begun its record and has not retired (16 R353, R354). -/
def Journal.inCommit (j : Journal) : Bool := j.st ≠ .closed && j.copies ≠ 0

/-- Whether a context stands in an MJ.COMMIT that has begun: it is past its instruction boundary (16 R353, R355). -/
def State.committing (s : State) (q : Sq) (c : Cx) : Bool := (s.sq q).journal.owner == c && (s.sq q).journal.inCommit

/-- Whether a record waits that goes before the context's next instruction, a blocked one included (07 R155, R162; 15 R320, R331). -/
def State.recordDue (s : State) (q : Sq) (c : Cx) : Bool :=
  !(s.ctx q c).records.isEmpty && (c == 8 || !(s.ctx q c).inh) && !s.committing q c

/-- An engine-level fault of context F's work becomes a record of level 3 (15 R324). -/
def State.engineRecord (s : State) (q : Sq) (c : Cx) (v : Vc) (cause : Nat) : State :=
  if c ≠ 8 then s
  else
    let r : BRec := { cause := cause, lvl := 3, core := v, seq := 0, gwa := 0, slot := 0, late := 0, disc := 0, cyc := (s.sq q).cyc }
    s.modCtx q c (fun x => { x with records := insertRecord r x.records })

/-! ## Control flow between an instruction's checks and its effect -/

/-- Continues with the value of a check, or takes its cause as a precise fault. -/
def State.orTrap {α : Type} (s : State) (e : Except Nat α) (k : α → Out) : Out :=
  match e with
  | .ok a => k a
  | .error c => s.trap c

/-- A check: the cause where it fails. -/
def need (b : Bool) (c : Nat) : Except Nat Unit := if b then .ok () else .error c

end Sys2Proof.Machine
end

