-- ==== Sys2Proof/Machine/Flags.lean ====
section
/-! DEFINITION. Truth values and conditions that instructions compute: predicates of compares (05 R110, R111), and the sticky
conditions NV, OF and SAT with their flags (08 R167, R175). -/

namespace Sys2Proof.Machine

/-- a < b as signed numbers. -/
def sLt {n : Nat} (a b : BitVec n) : Bool := a.slt b
/-- a ≤ b as signed numbers. -/
def sLe {n : Nat} (a b : BitVec n) : Bool := a.sle b
/-- a < b as unsigned numbers. -/
def uLt {n : Nat} (a b : BitVec n) : Bool := a.ult b
/-- a ≤ b as unsigned numbers. -/
def uLe {n : Nat} (a b : BitVec n) : Bool := a.ule b

/-- The conditions of one result: invalid, overflow, saturation (08 R167; 04 Table 4-6). -/
structure Cond where
  nv : Bool := false
  of : Bool := false
  sat : Bool := false
deriving DecidableEq, Repr, Inhabited

/-- No condition. -/
def Cond.none : Cond := {}
/-- The union of two results' conditions. -/
def Cond.or (a b : Cond) : Cond := { nv := a.nv || b.nv, of := a.of || b.of, sat := a.sat || b.sat }
/-- Whether any condition is raised, as F shows it (08 R175). -/
def Cond.any (a : Cond) : Bool := a.nv || a.of || a.sat
/-- The bits of VCOND: bit 0 NV, bit 1 OF, bit 2 SAT (08 Table 8-1). -/
def Cond.bits (a : Cond) : BitVec 3 :=
  (if a.nv then 1 else 0) ||| (if a.of then 2 else 0) ||| (if a.sat then 4 else 0)

/-- A 64-bit flag word from one bit a lane (08 R175). -/
def flagWord (f : Fin 64 → Bool) : Word := (List.finRange 64).foldl (fun w i => if f i then w ||| (1 <<< i.val) else w) 0

end Sys2Proof.Machine
end

