-- ==== Sys2Proof/Machine/Float.lean ====
section
/-! DEFINITION. Element formats, exact values, rounding, arithmetic and conversions (04 R73 to R95). -/

namespace Sys2Proof.Machine

/-! ## Values (04 R74, R75) -/

/-- The value of a floating-point code: a NaN, an infinity, or (-1)^neg * m * 2^e. -/
inductive FV where
  | nan
  | inf (neg : Bool)
  | fin (neg : Bool) (m : Nat) (e : Int)
deriving DecidableEq, Repr, Inhabited

/-- The kinds of floating-point formats: with infinities and NaNs, E4M3 with one NaN pattern, E2M1 with no special code. -/
inductive FKind where
  | ieee | e4m3 | e2m1
deriving DecidableEq, Repr

/-- A floating-point format (04 Table 4-1). -/
structure Fmt where
  eb : Nat
  mb : Nat
  bias : Nat
  kind : FKind
deriving DecidableEq, Repr

def fp32 : Fmt := { eb := 8, mb := 23, bias := 127, kind := .ieee }
def bf16 : Fmt := { eb := 8, mb := 7, bias := 127, kind := .ieee }
def fp16 : Fmt := { eb := 5, mb := 10, bias := 15, kind := .ieee }
def e5m2 : Fmt := { eb := 5, mb := 2, bias := 15, kind := .ieee }
def e4m3 : Fmt := { eb := 4, mb := 3, bias := 7, kind := .e4m3 }
def e2m1 : Fmt := { eb := 2, mb := 1, bias := 1, kind := .e2m1 }

/-- Width of a code. -/
def Fmt.width (f : Fmt) : Nat := 1 + f.eb + f.mb
/-- The sign bit of a code as a number. -/
def Fmt.signBit (f : Fmt) : Nat := 2 ^ (f.eb + f.mb)
/-- The code of +∞ in a format that has infinities. -/
def Fmt.infCode (f : Fmt) : Nat := (2 ^ f.eb - 1) * 2 ^ f.mb
/-- The code of the largest finite value (04 Table 4-1). -/
def Fmt.maxCode (f : Fmt) : Nat :=
  match f.kind with
  | .ieee => f.infCode - 1
  | .e4m3 => 0x7E
  | .e2m1 => 0x7
/-- The canonical NaN (04 Table 4-2); E2M1 has none. -/
def Fmt.nanCode (f : Fmt) : Nat :=
  match f.kind with
  | .ieee => f.infCode + 2 ^ (f.mb - 1)
  | .e4m3 => 0x7F
  | .e2m1 => 0

/-- The value of a code (04 R74, R75). -/
def Fmt.value (f : Fmt) (c : Nat) : FV :=
  let neg := fld c (f.eb + f.mb) 1 == 1
  let E := fld c f.mb f.eb
  let M := fld c 0 f.mb
  let special := match f.kind with
    | .ieee => E == 2 ^ f.eb - 1
    | .e4m3 => E == 15 && M == 7
    | .e2m1 => false
  if special then (if f.kind == .ieee && M == 0 then .inf neg else .nan)
  else if E = 0 then .fin neg M (1 - (f.bias : Int) - f.mb)
  else .fin neg (2 ^ f.mb + M) ((E : Int) - f.bias - f.mb)

/-! ## Rounding (04 R85, R86) -/

/-- `m` divided by 2^k and rounded to an integer under mode `rm` for a value of sign `neg`. -/
def roundShift (m k rm : Nat) (neg : Bool) : Nat :=
  let q := m / 2 ^ k
  let r := m % 2 ^ k
  let up := match rm with
    | 0 => decide (2 * r > 2 ^ k) || (decide (2 * r = 2 ^ k) && q % 2 == 1)
    | 1 => false
    | 2 => neg && r ≠ 0
    | _ => !neg && r ≠ 0
  if up then q + 1 else q

/-- The magnitude code of m * 2^e rounded to a format as if its exponents had no end, and whether it lies beyond the largest
finite value. -/
def Fmt.roundMag (f : Fmt) (neg : Bool) (m : Nat) (e : Int) (rm : Nat) : Nat × Bool :=
  if m = 0 then (0, false)
  else
    let lo : Int := 1 - (f.bias : Int) - f.mb
    let q : Int := Max.max lo ((Nat.log2 m : Int) + e - f.mb)
    let r := if q ≤ e then m * 2 ^ (e - q).toNat else roundShift m (q - e).toNat rm neg
    let c := r + (q - lo).toNat * 2 ^ f.mb
    (c, decide (c > f.maxCode))

/-- A code with a sign. -/
def Fmt.code (f : Fmt) (neg : Bool) (mag : Nat) : Nat := if neg then f.signBit + mag else mag

/-- The result of an arithmetic operation (04 R86): one rounding, and OF where a finite result overflows. -/
def Fmt.arith (f : Fmt) (rm : Nat) : FV → Nat × Cond
  | .nan => (f.nanCode, {})
  | .inf neg => (f.code neg (if f.kind = .ieee then f.infCode else f.maxCode), {})
  | .fin neg m e =>
    let r := f.roundMag neg m e rm
    if !r.2 then (f.code neg r.1, {})
    else
      let big := f.kind == .ieee && (match rm with
        | 0 => true
        | 1 => false
        | 2 => neg
        | _ => !neg)
      (f.code neg (if big then f.infCode else f.maxCode), { of := true })

/-- A conversion to a floating-point format (04 Table 4-7). SAT belongs to the rounded value: what rounds to the largest finite value
raises none (log 78). -/
def Fmt.convert (f : Fmt) (rm : Nat) : FV → Nat × Cond
  | .nan => (f.nanCode, { nv := f.kind == .e2m1 })
  | .inf neg => if f.kind = .ieee then (f.code neg f.infCode, {}) else (f.code neg f.maxCode, { sat := true })
  | .fin neg m e =>
    let r := f.roundMag neg m e rm
    if r.2 then (f.code neg f.maxCode, { sat := true }) else (f.code neg r.1, {})

/-- A conversion to an integer clamped to `[lo, hi]` (04 Table 4-7). -/
def toInteger (lo hi : Int) (rm : Nat) : FV → Int × Cond
  | .nan => (0, { nv := true })
  | .inf neg => (if neg then lo else hi, { sat := true })
  | .fin neg m e =>
    let r : Int := if 0 ≤ e then (m * 2 ^ e.toNat : Nat) else (roundShift m (-e).toNat rm neg : Nat)
    let v := if neg then -r else r
    if v < lo then (lo, { sat := true }) else if v > hi then (hi, { sat := true }) else (v, {})

/-! ## Exact arithmetic (04 R83, R84) -/

/-- The value of an integer. -/
def FV.ofInt (i : Int) : FV := .fin (decide (i < 0)) i.natAbs 0
/-- Whether a value is a NaN. -/
def FV.isNan : FV → Bool
  | .nan => true
  | _ => false
/-- The negated value. -/
def FV.neg : FV → FV
  | .nan => .nan
  | .inf n => .inf (!n)
  | .fin n m e => .fin (!n) m e
/-- The magnitude. -/
def FV.abs : FV → FV
  | .nan => .nan
  | .inf _ => .inf false
  | .fin _ m e => .fin false m e
/-- Signed mantissa at a lower exponent. -/
def scaled (neg : Bool) (m : Nat) (e lo : Int) : Int :=
  let v : Int := (m * 2 ^ (e - lo).toNat : Nat)
  if neg then -v else v

/-- The exact sum; NV for ∞ − ∞. An exact zero of opposite signs is −0 under RDN alone. -/
def FV.add (rm : Nat) : FV → FV → FV × Cond
  | .nan, _ => (.nan, {})
  | _, .nan => (.nan, {})
  | .inf a, .inf b => if a = b then (.inf a, {}) else (.nan, { nv := true })
  | .inf a, _ => (.inf a, {})
  | _, .inf b => (.inf b, {})
  | .fin a m e, .fin b n d =>
    let lo := Min.min e d
    let v := scaled a m e lo + scaled b n d lo
    if v = 0 then (.fin (if m = 0 && n = 0 && a = b then a else rm == 2) 0 0, {})
    else (.fin (decide (v < 0)) v.natAbs lo, {})

/-- The exact product; NV for 0 × ∞. -/
def FV.mul : FV → FV → FV × Cond
  | .nan, _ => (.nan, {})
  | _, .nan => (.nan, {})
  | .inf a, .inf b => (.inf (a ≠ b), {})
  | .inf a, .fin b n _ => if n = 0 then (.nan, { nv := true }) else (.inf (a ≠ b), {})
  | .fin a m _, .inf b => if m = 0 then (.nan, { nv := true }) else (.inf (a ≠ b), {})
  | .fin a m e, .fin b n d => (.fin (a ≠ b) (m * n) (e + d), {})

/-- a · b + c, exact; NV where a NaN arises from operands none of which is one. -/
def FV.fma (rm : Nat) (a b c : FV) : FV × Cond :=
  let p := a.mul b
  let r := p.1.add rm c
  if a.isNan || b.isNan || c.isNan then (.nan, {}) else (r.1, p.2.or r.2)

/-- a < b; false with a NaN; zeros are equal. -/
def FV.lt : FV → FV → Bool
  | .nan, _ => false
  | _, .nan => false
  | .inf a, .inf b => a && !b
  | .inf a, .fin _ _ _ => a
  | .fin _ _ _, .inf b => !b
  | .fin a m e, .fin b n d => decide (scaled a m e (Min.min e d) < scaled b n d (Min.min e d))

/-- a = b; false with a NaN; zeros are equal. -/
def FV.eq (a b : FV) : Bool := !a.isNan && !b.isNan && !a.lt b && !b.lt a
/-- a ≤ b; false with a NaN. -/
def FV.le (a b : FV) : Bool := a.lt b || a.eq b
/-- Whether a value is a zero. -/
def FV.isZero : FV → Bool
  | .fin _ m _ => m == 0
  | _ => false

/-! ## Quotients and roots -/

/-- 1 / a to enough bits for one rounding: a sticky bit stands for the rest. -/
def FV.recip : FV → FV
  | .nan => .nan
  | .inf n => .fin n 0 0
  | .fin n m e =>
    if m = 0 then .inf n
    else
      let k := Nat.log2 m + 64
      let q := 2 ^ k / m
      .fin n (2 * q + (if 2 ^ k % m = 0 then 0 else 1)) (-(k : Int) - 1 - e)

/-- The integer square root, one bit at a time from bit `n - 1` down. -/
def isqrt : Nat → Nat → Nat → Nat
  | 0, _, r => r
  | n + 1, x, r => if (r + 2 ^ n) * (r + 2 ^ n) ≤ x then isqrt n x (r + 2 ^ n) else isqrt n x r

/-- √a to enough bits for one rounding; a negative number is invalid. -/
def FV.sqrt : FV → FV × Cond
  | .nan => (.nan, {})
  | .inf n => if n then (.nan, { nv := true }) else (.inf false, {})
  | .fin n m e =>
    if m = 0 then (.fin n 0 0, {})
    else if n then (.nan, { nv := true })
    else
      let odd := (e % 2).toNat
      let x := m * 2 ^ odd * 2 ^ 64
      let r := isqrt 48 x 0
      (.fin false (2 * r + (if r * r = x then 0 else 1)) ((e - odd) / 2 - 33), {})

/-! ## Operations on codes -/

/-- A binary operation of a format: exact, then one rounding. -/
def Fmt.add (f : Fmt) (rm a b : Nat) : Nat × Cond :=
  let r := (f.value a).add rm (f.value b)
  let c := f.arith rm r.1
  (c.1, r.2.or c.2)
/-- a − b. -/
def Fmt.sub (f : Fmt) (rm a b : Nat) : Nat × Cond :=
  let r := (f.value a).add rm (f.value b).neg
  let c := f.arith rm r.1
  (c.1, r.2.or c.2)
/-- a · b. -/
def Fmt.mul (f : Fmt) (rm a b : Nat) : Nat × Cond :=
  let r := (f.value a).mul (f.value b)
  let c := f.arith rm r.1
  (c.1, r.2.or c.2)
/-- a · b + c with one rounding. -/
def Fmt.fma (f : Fmt) (rm a b c : Nat) : Nat × Cond :=
  let r := FV.fma rm (f.value a) (f.value b) (f.value c)
  let z := f.arith rm r.1
  (z.1, r.2.or z.2)

/-! ## Element encodings (04 Tables 4-1, 4-4; 02 Table 2-11) -/

/-- The value of an E2M1 code that is not the extra value (04 Table 4-3). -/
def e2m1Value (c : Nat) : FV := e2m1.value c
/-- The value of an E4M3 extra-value byte, with its substitute (04 R82). -/
def extraValue (x : Nat) : FV := match e4m3.value x with
  | .nan => .fin false 0 0
  | v => v
/-- The power of two of an E8M0 scale, with its substitute (04 R82). -/
def scaleExp (s : Nat) : Int := (if s = 0xFF then 0xFE else s : Nat) - 127
/-- A finite value times a power of two. -/
def FV.scale (v : FV) (k : Int) : FV := match v with
  | .fin n m e => .fin n m (e + k)
  | v => v
/-- Element of an E2M1X block: its code, the scale byte, the extra-value byte (04 R79). -/
def e2m1xValue (c s x : Nat) : FV := (if c = 8 then extraValue x else e2m1Value c).scale (scaleExp s)

/-- Twice the bits of an element of an encoding; E2M1X has 18 bytes for 32 elements (04 Table 4-1, R79). -/
def bits2 : Nat → Nat
  | 2 => 8
  | 5 => 32
  | 6 => 32
  | 7 => 64
  | 8 => 9
  | 12 => 8
  | 13 => 2
  | _ => 16

/-- The bytes of `n` elements of an encoding, and the elements of `n` bytes. -/
def encBytes (enc n : Nat) : Nat := n * bits2 enc / 16
def encElems (enc n : Nat) : Nat := n * 16 / bits2 enc

/-- Whether an encoding is an integer one: INT8, UINT8, INT4, bit data (04 R89). -/
def encInteger (enc : Nat) : Bool := enc ≤ 2 || enc == 13

/-- The value of a code of a plain encoding (all but E2M1X, the 2:4 forms and codebook indices). -/
def encValue (enc c : Nat) : FV :=
  match enc with
  | 0 => .ofInt (sextN c 8)
  | 1 => .ofInt (c % 256 : Nat)
  | 2 => .ofInt (sextN c 4)
  | 3 => e4m3.value c
  | 4 => e5m2.value c
  | 5 => bf16.value c
  | 6 => fp16.value c
  | 7 => fp32.value c
  | 13 => .ofInt (c % 2 : Nat)
  | _ => .ofInt (c % 16 : Nat)

/-- Code `i` of packed elements of `b` bits in a number. -/
def packed (n b i : Nat) : Nat := n / 2 ^ (b * i) % 2 ^ b

/-- The value converted to a plain encoding under R88: its code and conditions. -/
def encConvert (enc rm : Nat) (v : FV) : Nat × Cond :=
  let int := fun (lo hi : Int) (b : Nat) => let r := toInteger lo hi rm v; ((r.1 % 2 ^ b).toNat, r.2)
  match enc with
  | 0 => int (-128) 127 8
  | 1 => int 0 255 8
  | 2 => int (-8) 7 4
  | 3 => e4m3.convert rm v
  | 4 => e5m2.convert rm v
  | 5 => bf16.convert rm v
  | 6 => fp16.convert rm v
  | 13 => (if v.isZero then 0 else 1, {})
  | _ => fp32.convert rm v

/-! ## Quantisation to E2M1X (04 R94) -/

/-- A block: 16 code bytes, scale and extra value, the conditions of each element. -/
structure E2Block where
  codes : List Nat
  scale : Nat
  extra : Nat
  conds : List Cond
deriving DecidableEq, Repr

/-- |a − b| as an exact value. -/
def absDiff (a b : FV) : FV := ((a.add 0 b.neg).1).abs

/-- floor(log2) of a finite non-zero value. -/
def flog2 : FV → Int
  | .fin _ m e => (Nat.log2 m : Int) + e
  | _ => 0

/-- The largest finite FP32 value. -/
def fp32Max : FV := fp32.value fp32.maxCode

/-- The lowest index of the greatest of exact values. -/
def argGreatest (l : List FV) : Nat :=
  (l.zipIdx.foldl (fun (b : FV × Nat) p => if b.1.lt p.1 then p else b) (l.headD (.fin false 0 0), 0)).2

/-- A quotient of a value by a count to enough bits for one rounding: a sticky bit stands for the rest of one that is not exact. -/
def FV.quot (v : FV) (n : Nat) : FV :=
  match v with
  | .fin s m e =>
    if m % n = 0 then .fin s (m / n) e
    else .fin s (2 * (m * 2 ^ 64 / n) + (if m * 2 ^ 64 % n = 0 then 0 else 1)) (e - 65)
  | v => v

/-- A finite value times a count. -/
def FV.times (v : FV) (n : Nat) : FV :=
  match v with
  | .fin s m e => .fin s (m * n) e
  | v => v

/-- Quantises the 32 quotients of values by a count `d` to a block (04 R94). The errors are compared exactly, as `d` times each. -/
def quantiseBy (d : Nat) (xs : List FV) : E2Block :=
  let y0 := xs.map (fun x => match x with
    | .nan => (FV.fin false 0 0, ({ nv := true } : Cond))
    | .inf n => ((if n then fp32Max.neg else fp32Max).times d, { sat := true })
    | v => (v, {}))
  let amax := y0.foldl (fun (m : FV) p => if m.lt p.1.abs then p.1.abs else m) (.fin false 0 0)
  let e : Int := if amax.isZero then 0 else Min.min (Max.max (flog2 (amax.quot d) - 2) (-127)) 127
  let ys := y0.map (fun p => p.1.scale (-e))
  let qs := ys.map (fun y => e2m1.convert 0 (y.quot d))
  let errs := (ys.zip qs).map (fun p => absDiff p.1 ((e2m1.value p.2.1).times d))
  let j := argGreatest errs
  let x := if (errs.getD j (.fin false 0 0)).isZero then 0 else (e4m3.convert 0 ((ys.getD j (.fin false 0 0)).quot d)).1
  let codes := (ys.zip (qs.zip errs)).map (fun p =>
    if (absDiff p.1 ((e4m3.value x).times d)).lt p.2.2 then 8 else if (p.2.1.1) % 8 = 0 then 0 else p.2.1.1)
  { codes := codes, scale := (e + 127).toNat, extra := x, conds := (y0.zip qs).map (fun p => p.1.2.or p.2.2) }

/-- Quantises 32 values to a block. -/
def quantise (xs : List FV) : E2Block := quantiseBy 1 xs

/-- The 18 bytes of a block (04 R79). -/
def E2Block.bytes (b : E2Block) : List Byte :=
  (List.range 16).map (fun i => BitVec.ofNat 8 (b.codes.getD (2 * i) 0 + 16 * b.codes.getD (2 * i + 1) 0)) ++
    [BitVec.ofNat 8 b.scale, BitVec.ofNat 8 b.extra]

/-- Element `i` of a block held in 18 bytes. -/
def blockElem (bs : List Byte) (i : Nat) : FV :=
  let byte := (bs.getD (i / 2) 0).toNat
  e2m1xValue (if i % 2 = 0 then byte % 16 else byte / 16) (bs.getD 16 0).toNat (bs.getD 17 0).toNat

/-- An E2M1X value read into FP32 (04 R79): a result beyond the range becomes the largest finite value. -/
def e2m1xToFp32 (v : FV) : Nat := (fp32.convert 0 v).1

/-! ## 2:4 forms (04 R80, R82, R95) -/

/-- The two positions of a metadata nibble, with its substitute. -/
def nibblePos (n : Nat) : Nat × Nat :=
  let i0 := n % 4
  let i1 := n / 4 % 4
  if i1 ≤ i0 then (0, 1) else (i0, i1)

/-- Bytes per run of 32 elements of a 2:4 form. -/
def runBytes : Nat → Nat
  | 9 => 14
  | 10 => 20
  | _ => 36

/-- The codes of 32 elements of a run of a 2:4 form, with none at a position that is not kept. -/
def runCodes (enc : Nat) (bs : List Byte) : List (Option Nat) :=
  let n := leNat bs
  let vb := if enc = 9 then 4 else if enc = 10 then 8 else 16
  let meta_ := n / 2 ^ (16 * vb)
  (List.range 32).map (fun i =>
    let g := i / 4
    let p := nibblePos (meta_ / 16 ^ g % 16)
    if i % 4 = p.1 then some (packed n vb (2 * g)) else if i % 4 = p.2 then some (packed n vb (2 * g + 1)) else none)

/-- A scale byte and an extra-value byte as a unit writes them: never a reserved code, but what it reads as (04 R82). -/
def scaleByte (b : Byte) : Byte := if b = 0xFF then 0xFE else b
def extraByte (b : Byte) : Byte := if b &&& 0x7F = 0x7F then 0 else b

/-- The dense bytes of a run: an E2M1X block for enc 9, E4M3 codes for enc 10, BF16 codes for enc 11 (10 R225). -/
def expandRun (enc : Nat) (bs : List Byte) : List Byte :=
  let cs := (runCodes enc bs).map (·.getD 0)
  match enc with
  | 9 => (List.range 16).map (fun i => BitVec.ofNat 8 (cs.getD (2 * i) 0 + 16 * cs.getD (2 * i + 1) 0)) ++
      [scaleByte (bs.getD 12 0), extraByte (bs.getD 13 0)]
  | 10 => cs.map (BitVec.ofNat 8)
  | _ => cs.flatMap (natLE 2)

end Sys2Proof.Machine
end

