-- ==== Sys2Proof/Machine/Bundle.lean ====
section
/-! DEFINITION. Bundles: the fields of a move, the port map, the legality check, write targets and conflicts, patches
(02 R42 to R47, 07 R150, R153), and what a bundle counts (08 R186). -/

namespace Sys2Proof.Machine

/-- A move slot (02 Tables 2-6, 2-7). -/
structure Move where
  kind : Nat
  dom : Bool
  g : Nat
  src : Nat
  dst : Nat
  imm : Nat
deriving DecidableEq, Repr

/-- The 24 bits of slot `k` (02 R42). -/
def slotBits (w : BitVec 192) (k : Nat) : Nat := w.toNat / 2 ^ (24 * k) % 2 ^ 24

/-- The fields of a slot's bits. -/
def moveOf (m : Nat) : Move :=
  { kind := fld m 22 2, dom := fld m 21 1 == 1, g := fld m 18 3, src := fld m 9 9, dst := fld m 0 9, imm := fld m 9 12 }

/-- Slot `k` of a bundle. -/
def Entry.slot (e : Entry) (k : Nat) : Move := moveOf (slotBits e.w k)

/-- The move of a slot that does nothing: a no-op (02 Table 2-7). -/
def Move.nop (m : Move) : Bool := m.kind == 3

/-! ## Domains of ports (02 Table 2-8) -/

/-- The domain of a port. -/
inductive Dom where
  | vec | sca | both
deriving DecidableEq, Repr

/-- The domain of slot `k`'s own unit. -/
def unitDom (k : Nat) : Dom := if k < 4 then .vec else .sca

/-- The domain of port `p` of slot `k` as a source, none where it is reserved or not a source. -/
def srcDom (k p : Nat) : Option Dom :=
  if p < 0x10 then
    (if k < 4 then some .vec else if k < 6 then some .sca else if k == 6 then (if p < 8 then some .vec else none)
      else if p < 4 then some .sca else none)
  else if p < 0x18 then some .sca
  else if p == 0x28 then some (unitDom k)
  else if p == 0x29 then (if k < 4 then some .sca else none)
  else if p == 0x30 || p == 0x31 || p == 0x3B then some .sca
  else if p == 0x32 then some .vec
  else if 0x40 ≤ p && p < 0x80 then (if k == 6 then some .vec else none)
  else if p == 0x1FF then some .both
  else none

/-- Whether unit `k` has operation `n` (02 Table 2-9; 08 Tables 8-5 to 8-12). -/
def opAssigned (k n : Nat) : Bool :=
  if k < 4 then n ≤ 0x14 || (0x20 ≤ n && n ≤ 0x2F) || (0x40 ≤ n && n ≤ 0x4D) || (0x50 ≤ n && n ≤ 0x57) || (0x60 ≤ n && n ≤ 0x68)
  else if k < 6 then n ≤ 0x15
  else if k == 6 then n ≤ 0x04
  else n ≤ 0x05

/-- The domain of port `p` of slot `k` as a destination, none where it is reserved, not a destination, a copy port into the
own slot, or the trigger of an unassigned operation. -/
def dstDom (k p : Nat) : Option Dom :=
  if p < 0x18 then srcDom k p
  else if 0x20 ≤ p && p < 0x23 then some (unitDom k)
  else if 0x38 ≤ p && p < 0x3B then some .sca
  else if 0x40 ≤ p && p < 0x80 then (if k == 6 then some .vec else none)
  else if 0x80 ≤ p && p < 0xE0 then
    (let j := (p - 0x80) / 16
     if j == k then none else if j < 4 then some .vec else some .sca)
  else if 0x100 ≤ p && p < 0x180 then (if opAssigned k (p - 0x100) then some (unitDom k) else none)
  else if p == 0x1FF then some .both
  else none

/-- Whether a port is a result queue. -/
def isQueue (p : Nat) : Bool := p == 0x30 || p == 0x31 || p == 0x32

/-- Whether slot `k` passes the checks of 02 R47. -/
def moveLegal (k : Nat) (m : Nat) : Bool :=
  let v := moveOf m
  if v.kind == 3 then m == 0xC00000
  else match dstDom k v.dst with
    | none => false
    | some d =>
      let domOk := match d with
        | .both => true
        | .vec => v.dom
        | .sca => !v.dom
      if v.kind == 1 then domOk
      else match srcDom k v.src with
        | none => false
        | some sd =>
          domOk && !(sd == .vec && d == .sca) &&
            (v.kind == 2 || (v.g / 2 == 0 && (v.g == 0 || isQueue v.src)))

/-- The first slot that fails the legality check, in ascending order (02 R47). -/
def firstIllegal (w : BitVec 192) : Option Nat := (List.range 8).find? (fun k => !moveLegal k (slotBits w k))

/-! ## Write targets (07 Table 7-3) -/

/-- The write targets of slot `k`: 16·j + i is register i of slot j's file, 0x60 + i is mask i, 0x70 to 0x72 are the array's
ports, 0x80 to 0x82 the result queues. -/
def targets (k : Nat) (v : Move) : List Nat :=
  if v.nop then []
  else
    (if v.dst < 0x10 then (if k < 6 then [16 * k + v.dst] else [])
     else if v.dst < 0x18 then [0x60 + (v.dst - 0x10)]
     else if 0x38 ≤ v.dst && v.dst < 0x3B then [0x70 + (v.dst - 0x38)]
     else if 0x80 ≤ v.dst && v.dst < 0xE0 then [v.dst - 0x80]
     else []) ++
    (if v.kind ≠ 1 && isQueue v.src then [0x80 + (v.src - 0x30)] else [])

/-- Whether slots `i` and `j` of a bundle have a common write target. -/
def clash (w : BitVec 192) (i j : Nat) : Bool :=
  (targets i (moveOf (slotBits w i))).any (fun t => (targets j (moveOf (slotBits w j))).contains t)

/-- The higher slot of the first conflicting pair (07 R153). -/
def firstConflict (w : BitVec 192) : Option Nat :=
  (List.range 8).find? (fun j => (List.range j).any (fun i => clash w i j))

/-! ## Patches (07 Table 7-1) -/

/-- Bits `[lo + n - 1 : lo]` of a bundle replaced. -/
def setBits (w : BitVec 192) (lo n v : Nat) : BitVec 192 :=
  let mask : BitVec 192 := BitVec.ofNat 192 (2 ^ n - 1) <<< lo
  (w &&& ~~~mask) ||| ((BitVec.ofNat 192 (v % 2 ^ n)) <<< lo)

/-- The bundle with field `f` of slot `k` replaced by a register's value, none outside the range of Table 7-1. -/
def patch (w : BitVec 192) (k f : Nat) (v : Word) : Option (BitVec 192) :=
  match f with
  | 0 => if v.toNat ≤ 511 then some (setBits w (24 * k + 9) 9 v.toNat) else none
  | 1 => if v.toNat ≤ 511 then some (setBits w (24 * k) 9 v.toNat) else none
  | 2 => if v.toNat ≤ 7 then some (setBits w (24 * k + 18) 3 v.toNat) else none
  | _ => if -2048 ≤ v.toInt && v.toInt ≤ 2047 then some (setBits w (24 * k + 9) 12 v.toNat) else none

/-! ## What a bundle does, as far as waits need it -/

/-- Whether a port of slot 6 is a generator or handle. -/
def isStream (p : Nat) : Bool := p < 8 || (0x40 ≤ p && p < 0x80)
/-- Slot 6 reads a stream or handle. -/
def Entry.loads (e : Entry) : Bool := let m := e.slot 6; !m.nop && m.kind ≠ 1 && isStream m.src
/-- Slot 6 stores to a stream or handle. -/
def Entry.stores (e : Entry) : Bool := let m := e.slot 6; !m.nop && isStream m.dst
/-- A slot writes dpa.cmd. -/
def Entry.cmds (e : Entry) : Bool := (List.range 8).any (fun k => let m := e.slot k; !m.nop && m.dst == 0x38)
/-- The memory unit starts a generator's fetches (mem.grst, 08 Table 8-12). -/
def Entry.fetches (e : Entry) : Bool := let m := e.slot 6; !m.nop && m.dst == 0x103
/-- The bundle triggers ctl.loop. -/
def Entry.isLoop (e : Entry) : Bool := let m := e.slot 7; !m.nop && m.dst == 0x100

/-- Whether the running loop of a core, one of context `c`, replays a bundle that meets `p`. -/
def VCore.replays (v : VCore) (c : Cx) (p : Entry → Bool) : Bool := match v.loop with
  | some l => l.owner.ctx == c && l.body.any p
  | none => false

end Sys2Proof.Machine
end

