-- ==== Sys2Proof/Machine/Translate.lean ====
section
/-! DEFINITION. Translation of space 0: page tables, walks, TLBs, invalidation (14 R302 to R311). -/

namespace Sys2Proof.Machine

/-! ## Page-table entries (14 Table 14-2) -/

def ADDR_NONCANONICAL : Nat := 0x060
def PAGE_UNMAPPED : Nat := 0x061
def PAGE_DENIED : Nat := 0x062
def PT_MALFORMED : Nat := 0x063
def PT_UNCORRECTABLE : Nat := 0x064
def PAGE_LOST : Nat := 0x065

/-- ADDR of an entry: physical bits [47:12] of the next table or the frame. -/
def pteAddr (w : Word) : Nat := bits w 12 36 * 2 ^ 12
/-- K of an entry. -/
def pteKind (w : Word) : Nat := bits w 56 2
/-- Whether a reserved bit of a valid entry is set, or K is reserved (14 R305). -/
def pteReserved (w : Word) : Bool := bits w 58 2 ≠ 0 || bit w 11 || bits w 0 8 ≠ 0 || pteKind w == 3
/-- A well-formed pointer (14 R305). -/
def ptrOk (w : Word) : Bool :=
  !pteReserved w && pteKind w == 0 && bits w 60 3 == 0 && bits w 48 8 == 0 && bits w 8 3 == 0 && tierOf (pteAddr w) == .hbm
/-- Page size of a leaf. -/
def pageSize (big : Bool) : Nat := if big then 2 ^ 21 else 2 ^ 16
/-- A well-formed leaf of a kind (14 R305). -/
def leafOk (w : Word) (big : Bool) : Bool :=
  let a := pteAddr w
  !pteReserved w && pteKind w == (if big then 1 else 2) && a % pageSize big == 0 && tierOf a != .hole &&
    tierOf a == tierOf (a + pageSize big - 1) && !(tierOf a == .mram && bit w 9)

/-- The translation that a leaf gives for the page of `va`. -/
def leafEnt (w : Word) (big : Bool) (va : Nat) : TlbEnt :=
  { va := va / pageSize big * pageSize big, big := big, frame := pteAddr w, own := bits w 48 8, r := bit w 8, w := bit w 9,
    x := bit w 10, p := bit w 61, m := bit w 60, l := bit w 62 }

/-- One table read: an uncorrectable error and an entry with V clear end the walk (14 R305, R308). -/
def State.pte (s : State) (a : Nat) : Except Nat Word :=
  if s.isBad a 8 then .error PT_UNCORRECTABLE
  else
    let w := word (s.rdN a 8)
    if bit w 63 then .ok w else .error PAGE_UNMAPPED

/-- How a walker reads an entry. -/
abbrev PteRead := Nat → Except Nat Word

/-- The next table under a pointer. -/
def ptrBy (rd : PteRead) (a : Nat) : Except Nat Nat := do
  let w ← rd a
  if ptrOk w then .ok (pteAddr w) else .error PT_MALFORMED

/-- The level 3 table (14 Table 14-4). -/
def State.rootTable (s : State) : Nat := bits s.ptbr 12 36 * 2 ^ 12

/-- The walk for `va` (14 R304): the address of its leaf entry, the entry, and whether the page is 2 MiB. A root outside HBM4
is malformed (log 11). -/
def walkBy (rd : PteRead) (root va : Nat) : Except Nat (Nat × Word × Bool) := do
  if tierOf root != .hbm then throw PT_MALFORMED
  let t2 ← ptrBy rd (root + fld va 39 9 * 8)
  let t1 ← ptrBy rd (t2 + fld va 30 9 * 8)
  let a1 := t1 + fld va 21 9 * 8
  let w1 ← rd a1
  if pteKind w1 == 1 then
    if leafOk w1 true then .ok (a1, w1, true) else .error PT_MALFORMED
  else if ptrOk w1 then
    let a0 := pteAddr w1 + fld va 16 5 * 8
    let w0 ← rd a0
    if leafOk w0 false then .ok (a0, w0, false) else .error PT_MALFORMED
  else .error PT_MALFORMED

/-- The walk that reads the tables in memory. -/
def State.walk (s : State) (va : Nat) : Except Nat (Nat × Word × Bool) := walkBy s.pte s.rootTable va

/-! ## The walk cache of a die (14 R310) -/

/-- One table read through a walk cache: from a line it holds, else from memory. -/
def State.pteVia (s : State) (c : List WalkSb) (a : Nat) : Except Nat Word :=
  match (c.find? (·.tag == a / 256)).bind (fun b => b.lines[a % 256 / 64]) with
  | some bs =>
    let w := word (leNat ((bs.drop (a % 64)).take 8))
    if bit w 63 then .ok w else .error PAGE_UNMAPPED
  | none => s.pte a

/-- The walk of a die's walker. What ends without a translation, or at an entry with M set, is never taken from the walk cache: it is read
afresh (14 R307, R308; log 72). -/
def State.walkVia (s : State) (d : Die) (va : Nat) : Except Nat (Nat × Word × Bool) :=
  match walkBy (s.pteVia s.walkCache[d]) s.rootTable va with
  | .ok r => if bit r.2.1 60 then s.walk va else .ok r
  | .error _ => s.walk va

/-- The addresses of the entries that a walk reads, from the one at `a` on. -/
def walkPath (rd : PteRead) (va : Nat) : List (Nat × Nat) → Nat → List Nat
  | [], a => [a]
  | (lo, n) :: t, a => a :: (match rd a with
    | .ok w => if pteKind w == 0 then walkPath rd va t (pteAddr w + fld va lo n * 8) else []
    | .error _ => [])

/-- A walk cache of 256 superblocks with the table line of `a` in it, as most recently used; a line held stays as it is, and one of which
a unit carries an uncorrectable error is not held (14 R305; log 72). -/
def State.walkFill (s : State) (c : List WalkSb) (a : Nat) : List WalkSb :=
  let b := (c.find? (·.tag == a / 256)).getD { tag := a / 256, lines := Vector.replicate 4 none }
  let k : Fin 4 := Fin.ofNat 4 (a % 256 / 64)
  let base := a / 64 * 64
  if (b.lines[k]).isNone && s.isBad base 64 then c
  else ({ b with lines := vset b.lines k (some ((b.lines[k]).getD (s.rdB base 64))) } :: c.filter (fun x => x.tag ≠ a / 256)).take 256

/-- The walk cache of a die after a walk for `va`. -/
def State.walkDone (s : State) (d : Die) (va : Nat) : List WalkSb :=
  let path := walkPath (s.pteVia s.walkCache[d]) va [(30, 9), (21, 9), (16, 5)] (s.rootTable + fld va 39 9 * 8)
  path.foldl s.walkFill s.walkCache[d]

/-! ## Lookup (14 R308, R310) -/

/-- Why a translation does not give an address: it stalls on a page being migrated, or a cause. -/
inductive XStop where
  | stall
  | cause (c : Nat)
deriving DecidableEq, Repr

/-- Whether a held translation covers `va`. -/
def TlbEnt.covers (e : TlbEnt) (va : Nat) : Bool := va / pageSize e.big == e.va / pageSize e.big

/-- The physical address that a translation gives. -/
def TlbEnt.pa (e : TlbEnt) (va : Nat) : Nat := e.frame + va % pageSize e.big

/-- An entry made the most recently used of at most `n`. -/
def tlbTouch (n : Nat) (e : TlbEnt) (l : List TlbEnt) : List TlbEnt := (e :: l.filter (· ≠ e)).take n

/-- The translation of `va` for square `q`: its TLB, its die's TLB, the walk. -/
def State.findXl (s : State) (q : Sq) (va : Nat) : Except Nat TlbEnt :=
  match (s.sq q).tlb.find? (·.covers va) with
  | some e => .ok e
  | none => match (s.dieTlb[dieOfSquare q.val]).find? (·.covers va) with
    | some e => .ok e
    | none => (s.walkVia (dieOfSquare q.val) va).map (fun (p : Nat × Word × Bool) => leafEnt p.2.1 p.2.2 va)

/-- The state after a translation has been used: the square's TLB holds it as most recently used; where that missed, the die's TLB
does too; and where both missed, the walk has filled the walk cache. -/
def State.tlbUse (s : State) (q : Sq) (e : TlbEnt) : State :=
  let d := dieOfSquare q.val
  let hit := (s.sq q).tlb.contains e
  let dieHit := (s.dieTlb[d]).contains e
  let s := if hit || dieHit then s else { s with walkCache := vset s.walkCache d (s.walkDone d e.va) }
  let s := if hit then s else { s with dieTlb := vset s.dieTlb d (tlbTouch 8192 e s.dieTlb[d]) }
  s.modSq q (fun x => { x with tlb := tlbTouch 512 e x.tlb })

/-- The rights an access needs (14 R308). -/
structure Need where
  r : Bool := false
  w : Bool := false
  x : Bool := false
deriving DecidableEq, Repr



/-- Translation and permission of one space-0 access, checks 1 to 5 of 14 R308 in their order. `who` is the residence of
the issuing context, none for context F. -/
def State.translate (s : State) (q : Sq) (who : Option Nat) (n : Need) (va : Nat) : Except XStop (Nat × State) :=
  if va ≥ 2 ^ 48 then .error (.cause ADDR_NONCANONICAL)
  else match s.findXl q va with
    | .error c => .error (.cause c)
    | .ok e =>
      if e.m then .error .stall
      else if e.l then .error (.cause PAGE_LOST)
      else if (match who with
          | none => false
          | some res => (e.own ≠ 0xFF && e.own ≠ res) || (n.r && !e.r) || (n.w && !e.w) || (n.x && !e.x)) then
        .error (.cause PAGE_DENIED)
      else .ok (e.pa va, s.tlbUse q e)

/-- Whose rights a context's accesses carry. -/
def Ctx.who (x : Ctx) (c : Cx) : Option Nat := if c = 8 then none else some x.res

/-! ## Invalidation (14 R306, R307) -/

/-- What a TLBI names: every entry, or one page. -/
structure TlbiArg where
  all : Bool
  va : Nat
  big : Bool
deriving DecidableEq, Repr

/-- TLBI (14 Table 14-5). -/
def tlbiArg (w : Word) : TlbiArg := { all := bit w 1, va := bits w 16 32 * 2 ^ 16, big := bit w 0 }

/-- Whether a device-virtual address lies in what a TLBI names. -/
def TlbiArg.hits (t : TlbiArg) (va : Nat) : Bool := t.all || va / pageSize t.big == t.va / pageSize t.big

/-- Whether an entry is removed: it shares an address with the named page. -/
def TlbiArg.removes (t : TlbiArg) (e : TlbEnt) : Bool := t.hits e.va || e.covers t.va

/-- Whether a translation of `va` by a page of either size shares an address with what a TLBI names. -/
def TlbiArg.meets (t : TlbiArg) (va : Nat) (big : Bool) : Bool :=
  t.all || va / pageSize (big || t.big) == t.va / pageSize (big || t.big)

/-- The contexts with an access that may have been translated through a removed entry and is not performed yet, so that its TLB does not
acknowledge. Accesses of the V and C paths and of the array translate as they are performed. -/
def State.tlbBusy (s : State) (t : TlbiArg) : List (Sq × Cx) :=
  (s.squares.toList.zipIdx).flatMap (fun p => (p.1.ctxs.toList.zipIdx).filterMap (fun k =>
    if k.1.loads.any (fun l => l.value.isNone && t.meets l.va true) || k.1.posted.any (fun y => t.meets y.va true) then
      some (Fin.ofNat 160 p.2, Fin.ofNat 9 k.2)
    else none))

/-- A discarded plain-shared store is counted with the invocation that made it (12 R285). -/
def State.loseEntries (s : State) (es : List LogEnt) : State :=
  { s with invs := s.invs.map (fun i => { i with lost := i.lost + (es.filter (fun e => e.inv == some i.id)).length }) }

/-- The log entries that meet `p` are discarded, wherever they are held (12 R285). -/
def State.discardLog (s : State) (p : LogEnt → Bool) : State :=
  let gone := s.squares.toList.flatMap (fun x => x.log.filter p)
  ({ s with squares := s.squares.map (fun (x : Square) => { x with log := x.log.filter (fun e => !p e) }) }).loseEntries gone

/-- The matching translations leave every TLB of the package, and every walk cache is emptied; plain-shared entries made through a
removed translation are discarded (14 R306, 12 R285). Its flits wake the squares in NAP (16 R335). -/
def State.shootdown (s : State) (t : TlbiArg) (discard : Bool) : State :=
  let s := { s with
    squares := s.squares.map (fun (x : Square) => { x with
      tlb := x.tlb.filter (fun e => !t.removes e), waking := x.waking || x.power == .nap })
    dieTlb := s.dieTlb.map (fun l => l.filter (fun e => !t.removes e))
    walkCache := Vector.replicate 4 [] }
  if discard then s.discardLog (fun e => match e.va with | some v => t.meets v e.big | none => false) else s

end Sys2Proof.Machine
end

