-- ==== Sys2Proof/Machine/Cache.lean ====
section
/-! DEFINITION. The control-core data cache: lines, fills, write-backs, invalidations (12 R270). -/

namespace Sys2Proof.Machine

/-- Lines of a data cache: 32 KiB in lines of 64 bytes (01 Table 1-2, 12 R270). -/
def dcacheLines : Nat := 512

/-- The line of a device-virtual line number. -/
def Square.line (x : Square) (tag : Nat) : Option DLine := x.dcache.find? (·.tag == tag)

/-- Byte `i` of a line. -/
def DLine.get (l : DLine) (i : Nat) : Byte := (l.bytes >>> (8 * i)).setWidth 8

/-- A line with byte `i` written by context `c` and marked dirty. -/
def DLine.put (l : DLine) (i : Nat) (b : Byte) (c : Cx) : DLine :=
  { l with
    bytes := (l.bytes &&& ~~~((0xFF : BitVec 512) <<< (8 * i))) ||| (b.setWidth 512 <<< (8 * i))
    dirty := l.dirty ||| (1 <<< i)
    writers := l.writers ||| (1 <<< c.val) }

/-- The bytes of a line from a list. -/
def lineOf : List Byte → BitVec 512
  | [] => 0
  | b :: t => b.setWidth 512 ||| (lineOf t <<< 8)

/-- The dirty bytes of sector `k` of a line, at their places. -/
def DLine.sectorDirty (l : DLine) (k : Nat) : List (Nat × Byte) :=
  ((List.range 32).map (· + 32 * k)).filterMap (fun i => if l.dirty.getLsbD i then some (i, l.get i) else none)

/-- The dirty bytes of one sector performed at physical address `pa` of the line, in one transfer: a write of the whole sector, or in the
weight store of a word, where the mask covers it (05 R386). -/
def State.writeSector (s : State) (pa : Nat) (ds : List (Nat × Byte)) : State := s.writeRuns (ds.map (fun d => (pa + d.1, d.2)))

/-- The write-back of one line, which translates afresh through the TLBs (12 R270, 14 R310, R312). The bytes of a line whose page no
longer translates have no home, and are dropped (log 12). A page that is being migrated is written before its contents are copied, and
its translation, which has M set, is not held (log 12). -/
def State.writeLine (s : State) (q : Sq) (l : DLine) : State :=
  if l.dirty = 0 then s
  else match s.findXl q (l.tag * 64) with
    | .error _ => s
    | .ok e =>
      let pa := e.pa (l.tag * 64)
      ((if e.m then s else s.tlbUse q e).writeSector pa (l.sectorDirty 0)).writeSector pa (l.sectorDirty 1)

/-- A line after its write-back to a home with protection units of `u` bytes: a unit that was dirty throughout has no error (05 R386). -/
def DLine.clean (l : DLine) (u : Nat) : DLine :=
  let whole := fun (i : Nat) => (List.range u).all (fun j => l.dirty.getLsbD (8 * i / u * u + j))
  { l with dirty := 0, writers := 0, bad := (List.range 8).foldl (fun b i => if whole i then b &&& ~~~((1 : BitVec 8) <<< i) else b) l.bad }

/-- Bytes of the protection unit of the home of the line of device-virtual line number `tag` (05 R386). -/
def State.lineUnit (s : State) (q : Sq) (tag : Nat) : Nat := match s.findXl q (tag * 64) with
  | .ok e => unitSize (e.pa (tag * 64))
  | .error _ => 32

/-- Whether byte `i` of a line has a value: its word was read without an error, or the byte has been written. -/
def DLine.good (l : DLine) (i : Nat) : Bool := l.dirty.getLsbD i || !l.bad.getLsbD (i / 8)

/-- The words of 8 bytes of the 64 bytes at `pa` that stand in a unit with an uncorrectable error (05 R386). -/
def State.badWords (s : State) (pa : Nat) : BitVec 8 :=
  (List.range 8).foldl (fun m i => if s.isBad (pa + 8 * i) 8 then m ||| (1 <<< i) else m) 0

/-- A flit reaches square `q`: it wakes from NAP (16 R335). -/
def State.flit (s : State) (q : Sq) : State :=
  if (s.sq q).power = .nap then s.modSq q (fun x => { x with waking := true }) else s

/-- Every line of square `q` that meets `p` is written back and stays, clean. -/
def State.writeBack (s : State) (q : Sq) (p : DLine → Bool) : State :=
  let ls := (s.sq q).dcache.filter (fun l => p l && l.dirty != 0)
  let s := ls.foldl (fun s l => s.writeLine q l) s
  let unit := s.lineUnit q
  s.modSq q (fun x => { x with dcache := x.dcache.map (fun l => if p l && l.dirty != 0 then l.clean (unit l.tag) else l) })

/-- The clean bytes of every line of square `q` that meets `p` are invalidated: a clean line leaves, and one of which some bytes are
dirty is written back first; a line that is dirty throughout stays (12 R277, R279; log 73). -/
def State.dropClean (s : State) (q : Sq) (p : DLine → Bool) : State :=
  (s.writeBack q (fun l => p l && l.dirty != BitVec.allOnes 64)).modSq q
    (fun x => { x with dcache := x.dcache.filter (fun l => !(p l && l.dirty == 0)) })

/-- A line leaves: its dirty bytes are written back. -/
def State.evictLine (s : State) (q : Sq) (tag : Nat) : State :=
  match (s.sq q).line tag with
  | none => s
  | some l => (s.writeLine q l).modSq q (fun x => { x with dcache := x.dcache.filter (·.tag ≠ tag) })

/-- Which line leaves before a fill: the one that DEMOTE.D has marked first (02 R40), else the free choice; and a line in any case where
the cache is full (log 5). -/
def State.victimTag (s : State) (q : Sq) : Option Nat :=
  let x := s.sq q
  let first := fun (l : DLine) => some ((x.dcache.find? (·.demoted)).getD l).tag
  match (x.dcache[Config.victim s.free]?) with
  | some l => first l
  | none => if x.dcache.length < dcacheLines then none else x.dcache.head?.bind first

/-- The line of `tag` present in the cache, filled from its home at physical address `pa` of its first byte. -/
def State.fillLine (s : State) (q : Sq) (tag pa : Nat) : State :=
  match (s.sq q).line tag with
  | some _ => s
  | none =>
    let s := match s.victimTag q with
      | some t => s.evictLine q t
      | none => s
    let l : DLine :=
      { tag := tag, bytes := lineOf (s.rdB pa 64), dirty := 0, writers := 0, bad := s.badWords pa, demoted := false }
    ((s.blkTouch pa 64).modSq q (fun x => { x with dcache := x.dcache ++ [l] })).bump

/-- Bytes of a store of context `c` written into the line of `va` and marked dirty. -/
def State.putLine (s : State) (q : Sq) (c : Cx) (va : Nat) (bs : List Byte) : State :=
  s.modSq q (fun x => { x with dcache := x.dcache.map (fun l =>
    if l.tag == va / 64 then (bs.zipIdx).foldl (fun l p => l.put (va % 64 + p.2) p.1 c) l else l) })

/-- A line whose byte `i` takes a home's value; a dirty byte stays. -/
def DLine.refresh (l : DLine) (i : Nat) (b : Byte) : DLine :=
  if l.dirty.getLsbD i then l
  else { l with bytes := (l.bytes &&& ~~~((0xFF : BitVec 512) <<< (8 * i))) ||| (b.setWidth 512 <<< (8 * i)) }

/-- The clean bytes of the aligned 8-byte word at `va` in the cache of square `q` take their home's values, from `pa` on. -/
def State.refreshWord (s : State) (q : Sq) (va pa : Nat) : State :=
  s.modSq q (fun x => { x with dcache := x.dcache.map (fun l =>
    if l.tag == va / 64 then ((s.rdB pa 8).zipIdx).foldl (fun l p => l.refresh (va % 64 / 8 * 8 + p.2) p.1) l else l) })

/-- Whether a line meets a region of space 0. -/
def Region.hasLine (r : Region) (l : DLine) : Bool :=
  r.space == 0 && decide (r.start < l.tag * 64 + 64) && decide (l.tag * 64 < r.start + r.len)

/-- Whether a line meets a region that `p` selects. -/
def State.lineIn (s : State) (p : Region → Bool) (l : DLine) : Bool := s.regionList.any (fun r => p r && r.hasLine l)

end Sys2Proof.Machine
end

