-- ==== Sys2Proof/Machine/Tokens.lean ====
section
/-! DEFINITION. Tokens, count streams and the root (11 R249 to R267), the commit of plain stores (12 R281 to R285), and when a
context may send a decrement (12 R278). -/

namespace Sys2Proof.Machine

def TM_OVERFLOW : Nat := 0x103
def TM_COUNT : Nat := 0x106

/-- ⊤ (11 R249). -/
def top : Word := BitVec.allOnes 64

/-- Counter `i` of a time (11 R249). -/
def ctr (t : Word) (i : Nat) : Nat := bits t (16 * i) 16

/-- The time of four counters. -/
def timeOf (c0 c1 c2 c3 : Nat) : Word := word (c0 + c1 * 2 ^ 16 + c2 * 2 ^ 32 + c3 * 2 ^ 48)

/-- The successor of a time, none where it would be ⊤ (11 R250). -/
def timeSucc (t : Word) : Option Word := if t.toNat + 1 ≥ 2 ^ 64 - 1 then none else some (t + 1)

/-- An edge applied to a time, none on overflow (11 R254). -/
def Edge.apply (e : Edge) (t : Word) : Option Word :=
  let rec go : Nat → Nat → List Nat → Option (List Nat)
    | 0, _, acc => some acc.reverse
    | n + 1, carry, acc =>
      let i := 3 - n
      let v := ctr t i + carry
      let (v, carry) := match fld e.modes (2 * i) 2 with
        | 1 => (v + e.k.toList.getD i 0, 0)
        | 2 => (0, 1)
        | _ => (v, 0)
      if v > 0xFFFF then none else go n carry (v :: acc)
  match go 4 0 [] with
  | some [c0, c1, c2, c3] => let r := timeOf c0 c1 c2 c3; if r = top then none else some r
  | _ => none

/-! ## The outstanding-time table of a square (11 R257) -/

/-- The tokens an owner holds at a scope and time. -/
def Square.held (x : Square) (o : Owner) (n : Fin 8) (t : Word) : Nat :=
  ((x.tokens.find? (fun k => k.owner == o && k.scope == n && k.time == t)).map (·.count)).getD 0

/-- Whether an owner holds a token of a scope at a time ≤ `t`. -/
def Square.holdsBy (x : Square) (o : Owner) (n : Fin 8) (t : Word) : Bool :=
  x.tokens.any (fun k => k.owner == o && k.scope == n && decide (k.time ≤ t))

/-- The least time at which an owner holds a token of a scope. -/
def Square.leastHeld (x : Square) (o : Owner) (n : Fin 8) : Option Word :=
  ((x.tokens.filter (fun k => k.owner == o && k.scope == n)).map (·.time)).foldl
    (fun m t => match m with
      | none => some t
      | some u => some (if t < u then t else u)) none

/-- Whether the table has an entry for tokens of an owner at (scope, time): an entry of its own, or a free one. -/
def Square.tokRoom (x : Square) (o : Owner) (n : Fin 8) (t : Word) : Bool :=
  x.held o n t ≠ 0 || decide (x.tokens.length < 64)

/-- `k` tokens added to an owner at (scope, time). -/
def Square.addTok (x : Square) (o : Owner) (n : Fin 8) (t : Word) (k : Nat) : Square :=
  if k = 0 then x
  else if x.held o n t ≠ 0 then
    { x with tokens := x.tokens.map (fun e => if e.owner == o && e.scope == n && e.time == t then { e with count := e.count + k } else e) }
  else { x with tokens := x.tokens ++ [{ scope := n, time := t, owner := o, count := k }] }

/-- `k` tokens of an owner at (scope, time) removed; an entry whose count reaches 0 is freed. -/
def Square.subTok (x : Square) (o : Owner) (n : Fin 8) (t : Word) (k : Nat) : Square :=
  let l := x.tokens.map (fun e => if e.owner == o && e.scope == n && e.time == t then { e with count := e.count - k } else e)
  { x with tokens := l.filter (fun e => e.count ≠ 0) }

/-- Whether the stream has room for `k` messages: it holds 32, and none of an earlier event waits (11 R261). -/
def Square.streamRoom (x : Square) (k : Nat) : Bool := x.owed.isEmpty && decide (x.stream.length + k ≤ 32)

/-- The messages of events that wait enter the stream, in their order, as far as it has room (11 R261). -/
def Square.flush (x : Square) : Square :=
  let k := 32 - x.stream.length
  { x with stream := x.stream ++ x.owed.take k, owed := x.owed.drop k }

/-- A count message enters the stream. -/
def Square.send (x : Square) (n : Fin 8) (ps : List (Word × Int)) : Square := { x with stream := x.stream ++ [.count n ps] }

/-- Drops of every token of an owner, one message an entry, and the entries freed (11 Table 11-4); the messages that find no room in the
stream wait, and the event with them. -/
def Square.dropAll (x : Square) (o : Owner) : Square :=
  let mine := x.tokens.filter (·.owner == o)
  ({ x with
    tokens := x.tokens.filter (fun e => !(e.owner == o))
    owed := x.owed ++ mine.map (fun e => Msg.count e.scope [(e.time, -(e.count : Int))]) } : Square).flush

/-- As many drops of an owner's tokens as the stream has room for. -/
def Square.dropSome (x : Square) (o : Owner) : Square :=
  let now := (x.tokens.filter (·.owner == o)).take (if x.owed.isEmpty then 32 - x.stream.length else 0)
  { x with
    tokens := x.tokens.filter (fun e => !now.contains e)
    stream := x.stream ++ now.map (fun e => Msg.count e.scope [(e.time, -(e.count : Int))]) }

/-! ## The root (11 R262, R263) -/

/-- The key of (scope, time) in the root table. -/
def rootKey (n : Fin 8) (t : Word) : Nat := n.val * 2 ^ 64 + t.toNat

/-- The frontier of a scope: the least time whose total is not zero, or ⊤ (11 R262). -/
def State.frontier (s : State) (n : Fin 8) : Word :=
  match s.root.find? (fun e => e.1 / 2 ^ 64 == n.val) with
  | some e => word (e.1 % 2 ^ 64)
  | none => top

/-- The pairs of one message applied in one step; a change of the frontier is broadcast (11 R261 to R263). -/
def State.applyPairs (s : State) (n : Fin 8) (ps : List (Word × Int)) : State :=
  let old := s.frontier n
  let s := { s with root := ps.foldl (fun r p => mput 0 r (rootKey n p.1) (mget 0 r (rootKey n p.1) + p.2)) s.root }
  let new := s.frontier n
  if new = old then s
  else { s with bcast := s.bcast ++ [{ scope := n, frontier := new, seq := s.bseq[n] + 1 }], bseq := vset s.bseq n (s.bseq[n] + 1) }

/-! ## The commit log (12 R281, R282) -/

/-- The key of an entry: stamp, square, context, program-order number. -/
def LogEnt.key (e : LogEnt) (q : Nat) : Nat := ((e.stamp.toNat * 256 + q) * 16 + e.ctx.val) * 2 ^ 64 + e.po

/-- Whether the frontier of its scope has passed an entry's stamp and its home holds it. -/
def State.passed (s : State) (e : LogEnt) : Bool := e.arrived && decide (e.stamp < s.localF[e.scope])

/-- The bytes of an entry with their places. -/
def LogEnt.bytes (e : LogEnt) : List (Nat × Byte) :=
  (List.range 8).filterMap (fun i => if e.mask.getLsbD i then some (e.addr + i, BitVec.ofNat 8 (e.data.toNat / 2 ^ (8 * i))) else none)

/-- One entry applied at its home: in the square store through its coder; an entry that cannot be placed is lost (12 R285). -/
def State.applyEntry (s : State) (e : LogEnt) : State :=
  if e.addr < 2 ^ 48 then
    if e.mask = 0xFF then s.writeHome e.addr (natLE 8 e.data.toNat) else e.bytes.foldl (fun s p => s.writeHome p.1 [p.2]) s
  else
    let q := (e.addr - 2 ^ 48) / 2 ^ 23 % 160
    let o := (e.addr - 2 ^ 48) % 2 ^ 23
    let old := s.rdB e.addr 8
    let new := (List.range 8).map (fun i => if e.mask.getLsbD i then BitVec.ofNat 8 (e.data.toNat / 2 ^ (8 * i)) else old.getD i 0)
    match s.writeBlock (Fin.ofNat 160 q) o new with
    | .ok s => s
    | .error _ => s.loseEntries [e]

/-- The squares whose data cache may serve the context that made an entry in square `q`: that square, and where CTX.SAVE has moved the task
on, those in which it stands (05 R123). -/
def State.viewers (s : State) (e : LogEnt) (q : Sq) : List Sq :=
  if s.trail.contains (e.task, q) then
    q :: (List.finRange 160).filter (fun r => r ≠ q && (s.sq r).ctxs.toList.any (fun k => k.task == e.task))
  else [q]

/-- Every held entry whose stamp its frontier has passed is applied, in ascending key order, and its log entry is freed; the cached
clean bytes of the squares that their contexts see take the committed values (05 R123). -/
def State.commitPassed (s : State) : State :=
  let es := (s.squares.toList.zipIdx).flatMap (fun (p : Square × Nat) => (p.1.log.filter s.passed).map (fun e => (e, p.2)))
  if es.isEmpty then s
  else
    let sorted := es.foldl (fun l e => mins (e.1.key e.2) e.1 l) []
    let s' := { s with squares := s.squares.map (fun (x : Square) => { x with log := x.log.filter (fun e => !s.passed e) }) }
    let s' := sorted.foldl (fun s e => s.applyEntry e.2) s'
    es.foldl (fun s e => match e.1.va with
      | some va => (s.viewers e.1 (Fin.ofNat 160 e.2)).foldl (fun s q => s.refreshWord q va e.1.addr) s
      | none => s) s'

/-! ## What must stand before a decrement of scope N at time t is sent (12 R278) -/

/-- Whether a region is bound to a frontier scope (12 Table 12-3). -/
def Region.ofScope (r : Region) (n : Fin 8) : Bool := bits r.sync 62 2 == 3 && bits r.sync 0 3 == n.val

/-- Whether flat address or device-virtual address `a` of space `sp` lies in a region bound to a scope. -/
def State.inScope (s : State) (n : Fin 8) (sp a : Nat) : Bool :=
  s.regionList.any (fun r => r.ofScope n && r.space == sp && decide (r.start ≤ a) && decide (a < r.start + r.len))

/-- The squares besides `q` in which a task has run before CTX.SAVE moved it. -/
def State.trailOf (s : State) (q : Sq) (task : Nat) : List Sq :=
  (s.trail.filter (fun p => p.1 == task && p.2 ≠ q)).map (·.2)

/-- The log entries of a square that meet `p` are delivered to their homes (12 R278). -/
def State.deliverLog (s : State) (q : Sq) (p : LogEnt → Bool) : State :=
  s.modSq q (fun x => { x with log := x.log.map (fun e => if p e then { e with arrived := true } else e) })

/-- Whether the context's earlier writes to regions of the scope are performed or in the data cache, the stores and commands of queued
bundles and of the replays of a loop's body among them, and its entries of any scope with a stamp ≤ t are at their homes, those among them
that its task made in another square or as another context. -/
def State.dropReady (s : State) (q : Sq) (c : Cx) (n : Fin 8) (t : Word) : Bool :=
  let x := s.sq q
  let k := s.ctx q c
  let any := s.regionList.any (·.ofScope n)
  let stores := x.cores.toList.any (fun v =>
    v.eq.any (fun e => e.ctx == c && (e.stores || e.cmds)) || v.replays c (fun e => e.stores || e.cmds) ||
      v.vpath.any (fun a => a.ent.ctx == c && a.to_.isSome)) ||
    x.arr.cores.toList.any (fun a => (a.cur.map (·.ctx)) == some c || (a.nxt.map (·.ctx)) == some c)
  let sent := fun (e : LogEnt) => decide (t < e.stamp) || e.arrived
  (!any || (k.posted.all (fun p => !s.inScope n 0 p.va) && !stores && x.copyQ.all (fun y => y.ctx ≠ c))) &&
    x.log.all (fun e => (e.ctx ≠ c && (k.task == 0 || e.task ≠ k.task)) || sent e) &&
    (s.trailOf q k.task).all (fun r => (s.sq r).log.all (fun e => e.task ≠ k.task || sent e))

/-- The dirty bytes of the scope's regions are written back for a decrement, in every square in which the context's task has run
(12 R278). -/
def State.dropWrites (s : State) (q : Sq) (c : Cx) (n : Fin 8) : State :=
  (q :: s.trailOf q (s.ctx q c).task).foldl (fun s r => s.writeBack r (s.lineIn (·.ofScope n))) s

end Sys2Proof.Machine
end

