-- ==== Sys2Proof/Machine/Operands.lean ====
section
/-! DEFINITION. Operand forms: immediates, branch targets, effective addresses, and the checks of a P-path access
(02 R31, R32; 05 R114 to R120). -/

namespace Sys2Proof.Machine

/-- imm16 sign-extended (02 R31). -/
def simm (i : BitVec 16) : Word := i.signExtend 64
/-- imm16 zero-extended (02 R31). -/
def zimm (i : BitVec 16) : Word := i.setWidth 64
/-- off14 times the access size, sign-extended (02 R31). -/
def off14 (o : BitVec 14) (size : Nat) : Word := o.signExtend 64 * word size
/-- The target of BR and CALL at address `a` (02 R31). -/
def brTarget (a : Word) (o : BitVec 21) : Word := a + 4 * o.signExtend 64
/-- The effective address of the MEM format (02 R31). -/
def State.ea (s : State) (b : Reg) (o : BitVec 14) (size : Nat) : Word := s.rs b + off14 o size
/-- The access size of a MEMX size field (02 Table 2-3). -/
def sizeOf4 (z : Fin 4) : Nat := 2 ^ z.val
/-- The access size of an atomic: W or D (02 R34). -/
def sizeOfD (z : Bool) : Nat := if z then 8 else 4

/-- The executing square's and context's flat address of a byte of spaces 1 to 3 (05 Table 5-12). -/
def State.flat (s : State) (sp : Fin 4) (a : Nat) : Nat :=
  if sp = 1 then storeAddr s.fsq.val a else if sp = 3 then windowAddr s.fsq.val a else privAddr s.fsq.val s.fcx.val a

/-- The end of a space's range (05 Table 5-12). -/
def spaceEnd (sp : Fin 4) : Nat :=
  match sp with
  | 0 => 2 ^ 48
  | 1 => storeEnd
  | 2 => 0x4000
  | 3 => 0x10000

def MISALIGNED : Nat := 0x040
def SPACE_RANGE : Nat := 0x041
def SPACE_DENIED : Nat := 0x042
def ATOMIC_IN_PLAIN : Nat := 0x043
def PLAIN_PATH : Nat := 0x116

/-- What the checks of an access give: the flat address of its home and the state in which the translation has been used, a
stall on a page being migrated, or a cause. -/
inductive Acc where
  | at (flat : Nat) (s : State)
  | stall
  | cause (c : Nat)

/-- Checks 2 to 5 of 05 R120 for an access of the issuing context. The bytes of F's management window hold what its accesses leave there
(05 R114, R117; log 10). -/
def State.access (s : State) (sp : Fin 4) (ea : Word) (size : Nat) (n : Need) : Acc :=
  if sp = 3 && !s.isF then .cause SPACE_DENIED
  else if ea.toNat % size ≠ 0 then .cause MISALIGNED
  else if sp = 0 then
    match s.translate s.fsq (s.me.who s.fcx) n ea.toNat with
    | .ok (pa, s) => .at pa s
    | .error .stall => .stall
    | .error (.cause c) => .cause c
  else if ea.toNat ≥ spaceEnd sp then .cause SPACE_RANGE
  else .at (s.flat sp ea.toNat) s

/-- The plain-shared region of the accessed address, if any (12 R273): space 0 by device-virtual address, space 1 by offset. -/
def State.plainAt (s : State) (sp : Fin 4) (ea : Word) : Option Region :=
  if sp = 0 || sp = 1 then (s.regionAt sp.val ea.toNat).filter (·.plain) else none

/-- Continues an instruction `i` after its access checks. -/
def State.withAccess (s : State) (i : Instr) (sp : Fin 4) (ea : Word) (size : Nat) (n : Need) (k : Nat → State → Out) : Out :=
  match s.access sp ea size n with
  | .at a s => k a s
  | .stall => s.block i
  | .cause c => s.trap c

end Sys2Proof.Machine
end

