-- ==== Sys2Proof/Machine/Counters.lean ====
section
/-! DEFINITION. The outstanding counters of a context, computed from the work in flight (08 R186, Table 8-14). -/

namespace Sys2Proof.Machine

/-- Entries of a context in a core's queue that meet `p`. -/
def VCore.queued (v : VCore) (c : Cx) (p : Entry → Bool) : Nat := (v.eq.filter (fun e => e.ctx == c && p e)).length

/-- LOOP bundles of a context in a core: queued, or issued and not through their last replay. -/
def VCore.loops (v : VCore) (c : Cx) : Nat :=
  v.queued c Entry.isLoop + (v.issued.filter (fun i => i.loop && i.ent.ctx == c)).length

/-- Sum over the cores of a square. -/
def Square.sumCores (x : Square) (f : VCore → Nat) : Nat := (x.cores.toList.map f).sum

/-- The loads class. -/
def Square.outLoads (x : Square) (c : Cx) : Nat :=
  (x.ctxs[c]).loads.length + x.sumCores (fun v =>
    v.queued c Entry.loads + v.loops c + (v.vpath.filter (fun a => a.counted && a.ent.ctx == c && a.from_.isSome)).length)

/-- The stores class. -/
def Square.outStores (x : Square) (c : Cx) : Nat :=
  (x.ctxs[c]).posted.length + x.sumCores (fun v =>
    v.queued c Entry.stores + v.loops c + (v.vpath.filter (fun a => a.counted && a.ent.ctx == c && a.to_.isSome)).length)

/-- The copies class; the migrations that F issues count for F (14 R313). -/
def State.outCopies (s : State) (q : Sq) (c : Cx) : Nat :=
  ((s.sq q).copyQ.filter (fun y => y.ctx == c)).length + (s.sq q).sumCores (fun v => v.loops c) +
    (if c = 8 then (s.bulk.toList.flatten.filter (fun y => !y.hw && y.sq == q && y.ctx == c)).length else 0)

/-- Commands of a context in a core's slots of the array. -/
def ACore.cmdsOf (a : ACore) (c : Cx) : Nat :=
  ([a.cur, a.nxt].filterMap id).countP (fun m => m.ctx == c)

/-- The array class. -/
def Square.outArray (x : Square) (c : Cx) : Nat :=
  x.sumCores (fun v => v.queued c Entry.cmds + v.loops c) + (x.arr.cores.toList.map (fun a => a.cmdsOf c)).sum

/-- The greatest value of a counter (08 R186). -/
def counterMax : Nat := 4095

/-- Whether every counter of the context is zero (05 R97). -/
def State.quiet (s : State) (q : Sq) (c : Cx) : Bool :=
  (s.sq q).outLoads c == 0 && (s.sq q).outStores c == 0 && s.outCopies q c == 0 && (s.sq q).outArray c == 0

end Sys2Proof.Machine
end

