-- ==== Sys2Proof/Machine/Local.lean ====
section
/-! DEFINITION. Claims of vector cores, buffer handles and place words: what instructions, bundles, copies and the array share
(08 R168, 10 R222, R232 to R237, R240, R241). -/

namespace Sys2Proof.Machine

def CORE_CLAIMED : Nat := 0x084
def HANDLE_UNBOUND : Nat := 0x0E0
def HANDLE_RANGE : Nat := 0x0E1
def HANDLE_ERROR : Nat := 0x0E2
def HANDLE_PARTIAL : Nat := 0x0EB

/-! ## Claims (08 R168) -/

/-- A PRESENT residence by number (13 R286). -/
def State.residence (s : State) (n : Nat) : Option Residence := mget none s.residences n

/-- The format that a residence gives bank `b` of core `v`: that of its .format directive, the first in the order of the symbol table where
several records name the bank, which 03 R66 leaves open (log 85), or FP32 (10 R222). -/
def Residence.formatOf (r : Residence) (v b : Nat) : Nat :=
  ((r.formats.find? (fun e => e.1 == v && e.2.1 == b)).map (·.2.2)).getD 7

/-- Whether another context claims core `v`. -/
def State.claimedBy (s : State) (q : Sq) (v : Vc) : Option Cx := (s.core q v).claim.map tileCx

/-- Whether core `v` is claimed by a context other than `c`. -/
def State.foreign (s : State) (q : Sq) (v : Vc) (c : Cx) : Bool :=
  match s.claimedBy q v with
  | some d => d ≠ c
  | none => false

/-- A side as stale where it meets `p`. -/
def VSide.mark (p : VSide → Bool) (z : VSide) : VSide := if p z then { z with stale := true } else z

/-- The outstanding accesses of a core with the sides that meet `p` stale: what they reach has been set anew. -/
def VCore.stale (x : VCore) (p : VSide → Bool) : VCore :=
  { x with vpath := x.vpath.map (fun a => { a with from_ := a.from_.map (VSide.mark p), to_ := a.to_.map (VSide.mark p) }) }

/-- Context `c` takes the claim of core `v`, if it is a tile context and the core is unclaimed: the handles become unbound and
FREE, the formats those of its residence, the result queues empty (with the word that waits for room in arq) and QST 0; the rest is
reset at its first bundle. -/
def State.claim (s : State) (q : Sq) (v : Vc) (c : Cx) : State :=
  match (s.core q v).claim, cxTile c with
  | none, some t =>
    let res := s.residence (s.ctx q c).res
    let s := s.modArr q (fun a => { a with cores := vset a.cores v { a.cores[v] with hreg := [] } })
    s.modCore q v (fun x =>
      { x.stale (fun z => z.hnd.isSome) with
        claim := some t
        fresh := true
        handles := Vector.replicate 64 Hnd.reset
        fmt := Vector.ofFn (fun (b : Fin 16) => match res with | some r => r.formatOf v.val b.val | none => 7)
        arq := []
        crq := []
        mrq := []
        qst := 0 })
  | _, _ => s

/-! ## Handles (10 R232 to R236) -/

/-- Whether a handle is bound. -/
def Hnd.bound (h : Hnd) : Bool := h.sp ≠ 0
/-- Length in bytes. -/
def Hnd.bytes (h : Hnd) : Nat := (h.len + 1) * 512
/-- The number of the last element (10 Table 10-2). -/
def Hnd.last (h : Hnd) : Nat := 2 * h.len + 1
/-- State number (10 Table 10-5). -/
def HSt.num : HSt → Nat
  | .free => 0
  | .filling => 1
  | .full => 2
  | .draining => 3
  | .error => 4
/-- A handle in a new state; FREE and FULL set POS to 0 (10 R233), and leaving ERROR clears the cause. -/
def Hnd.goto (h : Hnd) (st : HSt) : Hnd :=
  { h with st := st, pos := if st = .free || st = .full then 0 else h.pos, cause := if st = .error then h.cause else 0 }
/-- A handle set to ERROR with a cause. -/
def Hnd.fail (h : Hnd) (cause : Nat) : Hnd := { h with st := .error, cause := cause }

/-- Handle `h` of core `v`. -/
def State.hnd (s : State) (q : Sq) (v : Vc) (h : Fin 64) : Hnd := (s.core q v).handles[h]
/-- A handle that an instruction frees or binds: its outstanding accesses no longer move it. -/
def State.resetHnd (s : State) (q : Sq) (v : Vc) (h : Fin 64) (f : Hnd → Hnd) : State :=
  s.modCore q v (fun x => { x.stale (fun z => (z.hnd.map (·.1)) == some h) with handles := vset x.handles h (f x.handles[h]) })
/-- The state with `f` applied to a handle. -/
def State.modHnd (s : State) (q : Sq) (v : Vc) (h : Fin 64) (f : Hnd → Hnd) : State :=
  s.modCore q v (fun x => { x with handles := vset x.handles h (f x.handles[h]) })
/-- A handle as an instruction of context `c` sees it: a claim that the instruction would take leaves it unbound (10 R232). -/
def State.seenHnd (s : State) (q : Sq) (v : Vc) (c : Cx) (h : Fin 64) : Hnd :=
  if (s.core q v).claim.isNone && c ≠ 8 then Hnd.reset else s.hnd q v h

/-- The handles of core `v` that meet `p` become ERROR with a cause. -/
def VCore.failHnds (v : VCore) (p : Fin 64 → Hnd → Bool) (cause : Nat) : VCore :=
  { v with handles := Vector.ofFn (fun (h : Fin 64) => if p h v.handles[h] then v.handles[h].fail cause else v.handles[h]) }

/-- Whether a handle is half-way: FILLING or DRAINING. -/
def Hnd.partly (h : Hnd) : Bool := h.st == .filling || h.st == .draining

/-! ## Place words (10 Table 10-7) -/

/-- A place of a copy. -/
inductive Place where
  | glob (a : Nat)
  | store (q : Sq) (o : Nat)
  | pad (v : Vc) (o : Nat)
  | hnd (v : Vc) (h : Fin 64)
deriving DecidableEq, Repr

/-- The place of a place word, none where it is malformed or has reserved bits set. -/
def placeOf (w : Word) : Option Place :=
  match bits w 60 4 with
  | 0 => if bits w 48 12 = 0 then some (.glob (bits w 0 48)) else none
  | 1 => if bits w 23 29 = 0 && decide (bits w 52 8 < 160) then some (.store (Fin.ofNat 160 (bits w 52 8)) (bits w 0 23)) else none
  | 2 => if bits w 52 8 = 0 && bits w 19 31 = 0 then some (.pad (Fin.ofNat 4 (bits w 50 2)) (bits w 0 19)) else none
  | 3 => if bits w 52 8 = 0 && bits w 6 44 = 0 then some (.hnd (Fin.ofNat 4 (bits w 50 2)) (Fin.ofNat 64 (bits w 0 6))) else none
  | _ => none

/-- The squares of a rectangle word x, y, height, width (10 Table 10-6), in ascending index. -/
def rectSquares (r : Nat) : List Sq :=
  let x := fld r 24 8
  let y := fld r 16 8
  let h := fld r 8 8
  let w := fld r 0 8
  (List.finRange 160).filter (fun q =>
    decide (x ≤ q.val % 16) && decide (q.val % 16 < x + w) && decide (y ≤ q.val / 16) && decide (q.val / 16 < y + h))

/-- Whether a rectangle lies on the mesh (01 R21). -/
def rectOnMesh (r : Nat) : Bool :=
  let x := fld r 24 8
  let y := fld r 16 8
  let h := fld r 8 8
  let w := fld r 0 8
  decide (1 ≤ w) && decide (x + w ≤ 16) && decide (1 ≤ h) && decide (y + h ≤ 10)

/-- Fields of a copy descriptor (10 Table 10-6). -/
def Desc.len (d : Desc) : Nat := bits d.w2 0 32
def Desc.senc (d : Desc) : Nat := bits d.w2 32 8
def Desc.cq (d : Desc) : Bool := bit d.w2 40
def Desc.cmask (d : Desc) : Nat := bits d.w2 44 4
def Desc.dec (d : Desc) : Nat := bits d.w4 0 32
def Desc.scope (d : Desc) : Fin 8 := Fin.ofNat 8 (bits d.w4 32 3)
def Desc.tv (d : Desc) : Bool := bit d.w4 35
def Desc.rectW (d : Desc) : Nat := bits d.rect 0 32

/-- The cores of CMASK. -/
def Desc.cores (d : Desc) : List Vc := (List.finRange 4).filter (fun v => d.cmask.testBit v.val)

/-- A place supplied with each core of CMASK or each square of RECT (10 R241). -/
def Place.spread (p : Place) (d : Desc) : List Place :=
  if d.cmask ≠ 0 then
    d.cores.map (fun v => match p with
      | .pad _ o => .pad v o
      | .hnd _ h => .hnd v h
      | p => p)
  else
    (rectSquares d.rectW).map (fun q => match p with
      | .store _ o => .store q o
      | p => p)

/-- The sources of a copy of form `op`, in their order (10 Table 10-8). -/
def Desc.sources (d : Desc) (op : Nat) : List Place :=
  match placeOf d.src with
  | none => []
  | some p => if op = 4 then p.spread d else [p]

/-- The destinations of a copy of form `op`, in their order. -/
def Desc.dests (d : Desc) (op : Nat) : List Place :=
  match placeOf d.dst with
  | none => []
  | some p => if op = 3 then p.spread d else [p]

/-- The handles that a copy names, with whether as a destination. -/
def Desc.handles (d : Desc) (op : Nat) : List (Vc × Fin 64 × Bool) :=
  let f := fun (dst : Bool) (p : Place) => match p with
    | .hnd v h => some (v, h, dst)
    | _ => none
  (d.sources op).filterMap (f false) ++ (d.dests op).filterMap (f true)

/-- The cores that a copy names (08 R168). -/
def Desc.named (d : Desc) (op : Nat) : List Vc :=
  (List.finRange 4).filter (fun v => d.cmask.testBit v.val || ((d.sources op) ++ (d.dests op)).any (fun p => match p with
    | .pad w _ => w == v
    | .hnd w _ => w == v
    | _ => false))

/-- Whether a copy in the queue of square `q` transfers through handle `h` of core `v`; a copy with an error does no more (10 R245). -/
def State.copyUses (s : State) (q : Sq) (v : Vc) (h : Fin 64) : Bool :=
  (s.sq q).copyQ.any (fun y => y.err.isNone && (y.d.handles y.op.val).any (fun e => e.1 == v && e.2.1 == h))

/-- Whether a command of core `v` in the array of square `q` uses handle `h`. -/
def State.arrayUses (s : State) (q : Sq) (v : Vc) (h : Fin 64) : Bool :=
  let a := (s.sq q).arr.cores[v]
  (match a.cur with | some m => m.handles.contains h | none => false) ||
    (match a.nxt with | some m => m.handles.contains h | none => false)

/-- The half-way handles of the cores that context `c` claims become ERROR with HANDLE_PARTIAL; where `all` is not set, only
those that no copy and no command uses (10 R237, 15 R325). -/
def State.partials (s : State) (q : Sq) (c : Cx) (all : Bool) : State :=
  (List.finRange 4).foldl (fun s v =>
    if s.claimedBy q v == some c then
      let s' := s
      s.modCore q v (fun x => x.failHnds
        (fun h y => y.partly && (all || !(s'.copyUses q v h || s'.arrayUses q v h))) HANDLE_PARTIAL)
    else s) s

end Sys2Proof.Machine
end

