-- ==== Sys2Proof/Machine/Sched.lean ====
section
/-! DEFINITION. The schedule section of a residence: templates, cost summaries and counts (13 R288, R298). -/

namespace Sys2Proof.Machine

def BUDGET_EXCEEDED : Nat := 0x131

/-! ## Path-summary edges (11 R255) -/

/-- Edges installed: each counts the residence. -/
def State.addEdges (s : State) (es : List (Nat × Edge)) : State :=
  { s with edges := es.foldl (fun l e => mput none l e.1 (some { e.2 with users := ((mget none l e.1).map (fun o => o.users)).getD 0 + 1 })) s.edges }

/-- Edges of a residence given up; one without users becomes empty. -/
def State.dropEdges (s : State) (es : List (Nat × Edge)) : State :=
  { s with edges := es.foldl (fun l e => mput none l e.1 (match mget none l e.1 with
      | some o => if o.users ≤ 1 then none else some { o with users := o.users - 1 }
      | none => none)) s.edges }

/-! ## Words of .sched -/

/-- The 8-byte word of .sched at an offset; bytes beyond the section read 0. -/
def Residence.sw (r : Residence) (o : Nat) : Word := word (leNat ((r.sched.drop o).take 8))
/-- NL, NE, SPB and RUNMAX of the header (13 Table 13-1). -/
def Residence.nl (r : Residence) : Nat := bits (r.sw 0) 48 16
def Residence.ne (r : Residence) : Nat := bits (r.sw 0) 32 16
def Residence.spb (r : Residence) : Nat := bits (r.sw 0) 0 32
def Residence.runmax (r : Residence) : Nat := (r.sw 8).toNat

/-- The cost summary of template `t`, word `k` (13 Table 13-6). -/
def Residence.cost (r : Residence) (t k : Nat) : Nat := (r.sw (16 + 64 * r.nl + 64 * t + 8 * k)).toNat

/-- The count of a cost summary that holds a context, none where it is not counted: only tile tasks of priority 3 are (13
R298). -/
def State.budget (s : State) (q : Sq) (c : Cx) (k : Nat) : Option Nat :=
  let x := s.ctx q c
  if c = 8 || x.pri ≠ 3 then none
  else (s.residence x.res).map (fun r => r.cost x.tmpl k)

end Sys2Proof.Machine
end

