-- ==== Sys2Proof/Machine/ArrayWords.lean ====
section
/-! DEFINITION. Array command words and specifiers: fields, roles, legality, extents and the place of every element
(02 R48, R49; 09 R195, R204, R205, R209). -/

namespace Sys2Proof.Machine

def NO_LEASE : Nat := 0x0C0
def ILLEGAL_ARRAY_OP : Nat := 0x0C1
def ILLEGAL_SPECIFIER : Nat := 0x0C2
def SPEC_MISSING : Nat := 0x0C3
def OPERAND_RANGE : Nat := 0x0C4
def BANK_FORMAT : Nat := 0x0C5
def MRAM_RANGE : Nat := 0x0C6
def OPERAND_HANDLE : Nat := 0x0C7
def ARRAY_STALL : Nat := 0x0C8
def ACC_NOT_HELD : Nat := 0x0C9
def ACC_ORDER : Nat := 0x0CA
def LEASE_WORD : Nat := 0x0CB
def OPERAND_OVERLAP : Nat := 0x0CC
def SPAD_DENIED : Nat := 0x0CD
def SEGMENT_INVALID : Nat := 0x0CE

/-! ## Command words (02 Table 2-10, 09 R196) -/

/-- The fields of a command word. -/
structure CWord where
  op : Nat
  ab : Nat
  z : Bool
  rows : Nat
  var : Nat
  tie : Nat
  top2 : Bool
  post : Bool
  x : Nat
  cols : Nat
  kb : Nat
deriving DecidableEq, Repr

/-- The fields of a word. -/
def cword (w : Word) : CWord :=
  { op := bits w 58 6, ab := bits w 57 1, z := bit w 56, rows := bits w 48 8 + 1, var := bits w 44 4, tie := bits w 42 2,
    top2 := bit w 41, post := bit w 31, x := bits w 16 15, cols := bits w 8 7 + 1, kb := bits w 0 8 + 1 }

/-- What an operand is to its operation: streamed, stationary, drained output, records written, records read, dense source,
codebook source, weight source, 2:4 or index output, counts output. -/
inductive Role where
  | a | w | out | recs | asg | src | book | wld | cmp | idx | counts | cdest
deriving DecidableEq, Repr

/-- The operands of an operation in queue order, none where it is unassigned (09 Table 9-4). -/
def opRoles (op : Nat) : Option (List Role) :=
  match op with
  | 0x00 => some [.a, .w]
  | 0x01 => some [.wld]
  | 0x03 => some []
  | 0x04 => some [.out]
  | 0x05 => some [.src]
  | 0x06 => some []
  | 0x07 => some [.book]
  | 0x08 => some []
  | 0x10 => some [.a, .w]
  | 0x11 => some [.a, .w, .recs]
  | 0x12 => some [.a, .asg]
  | 0x13 => some [.w, .cdest]
  | 0x14 => some [.counts]
  | 0x15 => some [.src, .cmp]
  | 0x16 => some [.src, .idx]
  | _ => none

/-- Which fields an operation uses: ab, z, rows, cols, kb, a metric, and its greatest x bits (09 Table 9-4). -/
def opUses (op : Nat) : Bool × Bool × Bool × Bool × Bool × Bool × Nat :=
  match op with
  | 0x00 => (true, true, true, true, true, false, 0)
  | 0x01 => (false, false, false, true, false, false, 0x7FFF)
  | 0x03 => (true, false, false, false, false, false, 0)
  | 0x04 => (true, true, true, true, false, false, 7)
  | 0x05 => (true, false, true, true, false, false, 0)
  | 0x06 => (true, false, true, true, false, false, 4)
  | 0x07 => (false, false, false, true, false, false, 0)
  | 0x08 => (false, false, false, false, false, false, 0x7FFF)
  | 0x10 => (true, true, true, true, true, true, 0)
  | 0x11 => (true, true, true, true, true, true, 0x7FFF)
  | 0x12 => (true, true, true, true, false, false, 0)
  | 0x13 => (true, false, true, true, false, false, 7)
  | 0x14 => (true, false, false, true, false, false, 0)
  | 0x15 => (false, false, true, false, true, false, 0)
  | _ => (false, false, true, true, false, false, 0)

/-- Whether a command word is legal (02 R49, 09 R209). -/
def cmdLegal (w : Word) : Bool :=
  let c := cword w
  let (ab, z, rows, cols, kb, metric, x) := opUses c.op
  (opRoles c.op).isSome && bits w 32 9 == 0 && !bit w 15 && c.tie ≠ 3 && decide (c.var ≤ 3) &&
    (metric || c.var == 0) && (c.op == 0x11 || (c.tie == 0 && !c.top2)) && c.x &&& x == c.x &&
    (c.op ≠ 0x11 || c.tie == 2 || c.x == 0) && (c.op ≠ 0x01 || decide (c.x % 16 ≤ 11)) &&
    (ab || c.ab == 0) && (z || !c.z) && (rows || c.rows == 1) && (cols || c.cols == 1) && (kb || c.kb == 1)

/-! ## Specifiers (02 Table 2-11, 09 R204) -/

/-- The fields of a specifier. -/
structure Spec where
  src : Nat
  enc : Nat
  lay : Nat
  scl : Nat
  idx : Nat
deriving DecidableEq, Repr

/-- The fields of a word. -/
def specOf (w : Word) : Spec := { src := bits w 28 4, enc := bits w 24 4, lay := bits w 20 4, scl := bits w 16 4, idx := bits w 0 16 }

/-- Whether a role is a destination in memory. -/
def Role.dest : Role → Bool
  | .out => true
  | .recs => true
  | .cmp => true
  | .idx => true
  | .counts => true
  | .cdest => true
  | _ => false

/-- Whether an encoding has codes that stand alone (not E2M1X, not 2:4). -/
def plainEnc (e : Nat) : Bool := e ≤ 7 || e == 12 || e == 13

/-- The encodings that an operation allows an operand (09 R209). -/
def roleEnc (c : CWord) (r : Role) (p : Spec) : Bool :=
  match r with
  | .a => c.op ≠ 0x12 || decide (p.enc ≤ 8)
  | .w => true
  | .out => decide (p.enc ≤ 8) && (p.enc ≠ 8 || c.cols % 32 == 0)
  | .cdest => decide (p.enc ≤ 8) && (p.enc ≠ 8 || c.cols % 32 == 0)
  | .recs => p.enc == 7
  | .asg => p.enc == 7
  | .src => if c.op = 0x05 then p.enc == 7 else if c.op = 0x15 then decide (3 ≤ p.enc) && decide (p.enc ≤ 7)
      else decide (5 ≤ p.enc) && decide (p.enc ≤ 7)
  | .book => p.enc == 5 && p.lay == 0
  | .wld => p.src == 2
  | .cmp => p.enc == 9 || p.enc == 10 || p.enc == 11
  | .idx => p.enc == 12
  | .counts => p.enc == 7

/-- Whether a consumed specifier is legal (check 4 of 09 R195). -/
def specLegal (c : CWord) (r : Role) (w : Word) : Bool :=
  let p := specOf w
  let rec_ := r == .recs || r == .asg
  bits w 32 32 == 0 && decide (p.src ≤ 4) && decide (p.enc ≤ 13) && decide (p.lay ≤ 3) && decide (p.scl ≤ 3) &&
    (p.src ≠ 1 || decide (p.idx ≤ 11)) && (decide (p.src < 3) || decide (p.idx ≤ 63)) &&
    !(p.src == 0 && (p.enc == 9 || p.enc == 10 || p.enc == 11)) && !(p.enc == 12 && r == .a) &&
    (!(p.enc == 8 || p.enc == 9 || p.enc == 10 || p.enc == 11) || p.lay == 0 || p.lay == 2) &&
    (p.lay == 3) == rec_ && (!r.dest || p.src == 0 || p.src == 3 || p.src == 4) && roleEnc c r p

/-- Whether the encodings of A and W fit the metric (04 R90, 09 R204, R209). -/
def pairLegal (c : CWord) (specs : List Word) : Bool :=
  if c.op = 0x00 || c.op = 0x10 || c.op = 0x11 then
    let a := (specOf (specs.getD 0 0)).enc
    let w := (specOf (specs.getD 1 0)).enc
    if c.op ≠ 0x00 && c.var = 2 then a == w && (a == 2 || a == 13) else a ≠ 13 && w ≠ 13
  else true

/-- Integer mode (04 R89, 20 R381). -/
def intMode (c : CWord) (specs : List Word) : Bool :=
  let e := fun i => encInteger (specOf (specs.getD i 0)).enc
  match c.op with
  | 0x00 => e 0 && e 1
  | 0x10 => e 0 && e 1
  | 0x11 => e 0 && e 1
  | 0x12 => e 0
  | _ => c.x.testBit 2

/-- Steps of a command (09 Table 9-4). -/
def CWord.nsteps (c : CWord) : Nat := if c.op = 0x00 || c.op = 0x10 || c.op = 0x11 || c.op = 0x15 then c.kb else 1

/-! ## Extents and places of elements (09 R205, R383) -/

/-- Bytes of `n` consecutive elements along a row or column. -/
def lineBytes (enc n : Nat) : Nat :=
  if enc = 9 || enc = 10 || enc = 11 then ceilDiv n 32 * runBytes enc
  else if enc = 8 then ceilDiv n 32 * 18
  else ceilDiv (n * (bits2 enc / 2)) 8

/-- Whether a role lies in the stationary layout. -/
def Role.stationary : Role → Bool
  | .w => true
  | .cdest => true
  | .wld => true
  | _ => false

/-- The shape of an operand: its lines (rows, or columns of every K-block) and the elements in each. -/
def shapeOf (c : CWord) (r : Role) : Nat × Nat :=
  match r with
  | .a => (c.rows, 256 * c.kb)
  | .w => (c.cols * c.kb, 256)
  | .cdest => (c.cols, 256)
  | .wld => (c.cols, 256)
  | .out => (c.rows, c.cols)
  | .idx => (c.rows, c.cols)
  | .src => if c.op = 0x15 then (c.rows, 256 * c.kb) else (c.rows, c.cols)
  | .cmp => (c.rows, 256 * c.kb)
  | .book => (c.cols, 16)
  | .counts => (1, c.cols)
  | _ => (c.rows, 4)

/-- Bytes between lines: padded to 64 under layout 2. -/
def lineStride (enc lay n : Nat) : Nat := if lay = 2 then roundUp (lineBytes enc n) 64 else lineBytes enc n

/-- Bytes of one scale entry. -/
def sclBytes : Nat → Nat
  | 1 => 1
  | 2 => 2
  | 3 => 4
  | _ => 0

/-- Bytes of the data of an operand. Lines of layout 0 follow one another element by element. -/
def dataBytes (c : CWord) (r : Role) (p : Spec) : Nat :=
  if r == .recs || r == .asg then 16 * c.rows
  else
    let (n, len) := shapeOf c r
    if plainEnc p.enc && p.lay ≠ 2 then ceilDiv (n * len * (bits2 p.enc / 2)) 8 else n * lineStride p.enc p.lay len

/-- Entries of a scale vector: one a streamed row or a stationary column. -/
def sclEntries (c : CWord) (r : Role) : Nat := if r.stationary then c.cols else c.rows

/-- Bytes of an operand with its scale vector; a destination has none. -/
def extentOf (c : CWord) (r : Role) (p : Spec) : Nat :=
  dataBytes c r p + (if r.dest || r == .asg then 0 else sclEntries c r * sclBytes p.scl)

/-- Bytes of an operand that a step has read, by their offsets in it. -/
abbrev Spans := List (Nat × List Byte)

/-- Byte `i` of an operand; 0 where it has not been read. -/
def Spans.at_ (l : Spans) (i : Nat) : Byte :=
  match l.find? (fun e => decide (e.1 ≤ i) && decide (i < e.1 + e.2.length)) with
  | some e => e.2.getD (i - e.1) 0
  | none => 0

/-- The `n` bytes from offset `o`. -/
def Spans.bytes (l : Spans) (o n : Nat) : List Byte := (List.range n).map (fun i => l.at_ (o + i))

/-- The bit at which element `j` of line `i` begins, for a plain encoding. Lines of a stationary operand are the columns of
K-block 0, then those of K-block 1. -/
def elemBit (c : CWord) (r : Role) (p : Spec) (i j : Nat) : Nat :=
  let b := bits2 p.enc / 2
  let (n, len) := shapeOf c r
  match p.lay with
  | 1 => if r.stationary then ((256 * (i / c.cols) + j) * c.cols + i % c.cols) * b else (j * n + i) * b
  | 2 => i * lineStride p.enc 2 len * 8 + j * b
  | _ => (i * len + j) * b

/-- The byte at which the block or run of elements 32g to 32g + 31 of line `i` begins. -/
def blockByte (c : CWord) (r : Role) (p : Spec) (i g : Nat) : Nat :=
  let (_, len) := shapeOf c r
  i * lineStride p.enc p.lay len + g * (if p.enc = 8 then 18 else runBytes p.enc)

/-- The bytes that the first `k` elements of a block or run need, at their offsets in it: those of the codes of the values, or groups of
four values, among them, and what the block holds for all its values (04 R79, R80, R82; log 77). -/
def blockPart (enc k : Nat) : List (Nat × Nat) :=
  let g := ceilDiv k 4
  match enc with
  | 8 => [(0, ceilDiv k 2), (16, 2)]
  | 9 => [(0, g), (8, ceilDiv g 2), (12, 2)]
  | 10 => [(0, 2 * g), (16, ceilDiv g 2)]
  | _ => [(0, 4 * g), (32, ceilDiv g 2)]

/-- The bytes of elements `j` to `j + k - 1` of lines `i` to `i + n - 1`: offset and length. -/
def elemSpans (c : CWord) (r : Role) (p : Spec) (i n j k : Nat) : List (Nat × Nat) :=
  if plainEnc p.enc then
    let b := bits2 p.enc / 2
    let span := fun (lo hi : Nat) => (lo / 8, ceilDiv hi 8 - lo / 8)
    if p.lay = 1 then [span (elemBit c r p i j) (elemBit c r p (i + n - 1) (j + k - 1) + b)]
    else (List.range n).map (fun d => span (elemBit c r p (i + d) j) (elemBit c r p (i + d) j + k * b))
  else (List.range n).flatMap (fun d =>
    let base := blockByte c r p (i + d) (j / 32)
    let size := if p.enc = 8 then 18 else runBytes p.enc
    (base, k / 32 * size) :: (if k % 32 = 0 then [] else (blockPart p.enc (k % 32)).map (fun e => (base + k / 32 * size + e.1, e.2))))

/-- The bytes of an operand that step `b` reads: its K-block of a streamed or stationary operand, rows below the dimension alone for
DPA.CDIV (20 R383), the whole of any other; the scale vector stands beside it (09 R204, R205, R213). -/
def stepSpans (c : CWord) (r : Role) (p : Spec) (b : Nat) : List (Nat × Nat) :=
  let data := match r with
    | .a => elemSpans c r p 0 c.rows (256 * b) 256
    | .src => if c.op = 0x15 then elemSpans c r p 0 c.rows (256 * b) 256 else [(0, dataBytes c r p)]
    | .w => if c.op = 0x13 then elemSpans c r p 0 c.cols 0 c.rows else elemSpans c r p (c.cols * b) c.cols 0 256
    | _ => [(0, dataBytes c r p)]
  data ++ [(dataBytes c r p, extentOf c r p - dataBytes c r p)]

/-- The number of `n` bits at bit `i` of bytes. -/
def bitsAt (bs : Spans) (i n : Nat) : Nat := leNat (bs.bytes (i / 8) ((i % 8 + n + 7) / 8)) / 2 ^ (i % 8) % 2 ^ n

/-- The code of element `j` of line `i` of a plain operand. -/
def codeAt (c : CWord) (r : Role) (p : Spec) (bs : Spans) (i j : Nat) : Nat := bitsAt bs (elemBit c r p i j) (bits2 p.enc / 2)

/-- A scale factor (09 R205). -/
def sclValue (c : CWord) (r : Role) (p : Spec) (bs : Spans) (i : Nat) : Option FV :=
  let k := if r.stationary then i % c.cols else i
  let at_ := fun n => leNat (bs.bytes (dataBytes c r p + k * n) n)
  match p.scl with
  | 1 => some (.fin false 1 (scaleExp (at_ 1)))
  | 2 => some (bf16.value (at_ 2))
  | 3 => some (fp32.value (at_ 4))
  | _ => none

/-- The exact value of element `j` of line `i` through the decode chain (09 R206), and the condition of its product with the scale
entry (04 R87); `book` gives the codebook of a line. -/
def elemValue (c : CWord) (r : Role) (p : Spec) (book : Nat → Nat → Nat) (bs : Spans) (i j : Nat) : FV × Cond :=
  let v : FV :=
    if p.enc = 8 then blockElem (bs.bytes (blockByte c r p i (j / 32)) 18) (j % 32)
    else if p.enc = 9 || p.enc = 10 || p.enc = 11 then
      let run := bs.bytes (blockByte c r p i (j / 32)) (runBytes p.enc)
      match (runCodes p.enc run).getD (j % 32) none with
      | none => .fin false 0 0
      | some k => if p.enc = 9 then e2m1xValue k (run.getD 12 0).toNat (run.getD 13 0).toNat else if p.enc = 10 then e4m3.value k else bf16.value k
    else if p.enc = 12 then bf16.value (book (i % c.cols) (codeAt c r p bs i j))
    else encValue p.enc (codeAt c r p bs i j)
  match sclValue c r p bs i with
  | none => (v, {})
  | some k => v.mul k

/-! ## Sums (04 R90, R91) -/

/-- A cell term and the conditions of forming it. -/
def cellTerm (metric : Option Nat) (a w : FV) : FV × Cond :=
  match metric with
  | none => a.mul w
  | some 0 => let r := a.add 0 w.neg; (r.1.abs, r.2)
  | some 1 => let r := a.add 0 w.neg; let t := r.1.mul r.1; (t.1, r.2.or t.2)
  | _ => let r := a.mul w; (r.1.neg, r.2)

/-- The exact sum of terms, with the conditions of forming them: a NaN operand gives a NaN and raises nothing; infinities of both signs
are invalid (04 R87). -/
def exactSum (ts : List (FV × Cond)) : FV × Cond :=
  let vs := ts.map (·.1)
  let c := ts.foldl (fun d t => d.or t.2) {}
  if vs.any FV.isNan then (.nan, c)
  else if vs.contains (.inf false) && vs.contains (.inf true) then (.nan, c.or { nv := true })
  else (vs.foldl (fun r v => (r.add 0 v).1) (.fin false 0 0), c)

/-- An exact value as an integer; a value that is none takes a free one (log 22). -/
def FV.toInt : FV → Int
  | .fin n m e =>
    let v : Int := if n then -(m : Int) else m
    if 0 ≤ e then v * 2 ^ e.toNat
    else if m % 2 ^ (-e).toNat = 0 then v / 2 ^ (-e).toNat
    else Config.groupSum v e
  | _ => Config.groupSum 0 0

/-- An accumulator word after one group (04 R91). -/
def accGroup (int : Bool) (acc : Lane) (ts : List (FV × Cond)) : Lane × Cond :=
  let s := exactSum ts
  if int then
    let v := acc.toInt + s.1.toInt
    (BitVec.ofInt 32 (clampS v 32), s.2.or { sat := decide (clampS v 32 ≠ v) })
  else
    let g := match s.1 with
      | .fin n m e => if m = 0 then (0, ({} : Cond)) else fp32.arith 0 (.fin n m e)
      | v => fp32.arith 0 v
    let r := fp32.add 0 acc.toNat g.1
    (BitVec.ofNat 32 r.1, (s.2.or g.2).or r.2)



/-! ## 2:4 compression and codebook encoding (04 R93, R95) -/

/-- The two kept positions of a group of four values. -/
def keptPair (g : List FV) : Nat × Nat :=
  let rank := fun (i : Nat) => (g.getD i (.fin false 0 0)).abs
  let above := fun (i j : Nat) => ((rank i).isNan && !(rank j).isNan) || (!(rank i).isNan && (rank j).lt (rank i))
  let best := [1, 2, 3].foldl (fun b i => if above i b then i else b) 0
  let rest := [0, 1, 2, 3].filter (· ≠ best)
  let second := (rest.drop 1).foldl (fun b i => if above i b then i else b) (rest.headD 0)
  (Nat.min best second, Nat.max best second)

/-- The stored bytes of a run of 32 values in a 2:4 form. -/
def compressRun (enc : Nat) (xs : List FV) : List Byte × Cond :=
  let pairs := (List.range 8).map (fun g => keptPair ((xs.drop (4 * g)).take 4))
  let meta_ := (pairs.zipIdx).foldl (fun n p => n + (p.1.1 + 4 * p.1.2) * 16 ^ p.2) 0
  let kept := fun (i : Nat) => let p := pairs.getD (i / 4) (0, 0); i % 4 == p.1 || i % 4 == p.2
  if enc = 9 then
    let b := quantise (xs.zipIdx.map (fun p => if kept p.2 then p.1 else .fin false 0 0))
    let codes := (List.range 32).filterMap (fun i => if kept i then some (b.codes.getD i 0) else none)
    ((List.range 8).map (fun i => BitVec.ofNat 8 (codes.getD (2 * i) 0 + 16 * codes.getD (2 * i + 1) 0)) ++ natLE 4 meta_ ++
      [BitVec.ofNat 8 b.scale, BitVec.ofNat 8 b.extra], b.conds.foldl Cond.or {})
  else
    let e := if enc = 10 then 3 else 5
    let rs := (List.range 32).filterMap (fun i => if kept i then some (encConvert e 0 (xs.getD i (.fin false 0 0))) else none)
    (rs.flatMap (fun r => natLE (if enc = 10 then 1 else 2) r.1) ++ natLE 4 meta_, rs.foldl (fun c r => c.or r.2) {})

/-- The codebook index of a value among 16 entries (04 R93). The distance of an infinite value from an entry that is the same infinity is
taken as 0 (log 75). -/
def encodeIndex (entries : List FV) (x : FV) : Nat × Cond :=
  if x.isNan then (0, { nv := true })
  else
    let dist := fun (i : Nat) =>
      let c := entries.getD i .nan
      match x, c with
      | _, .nan => FV.nan
      | .inf a, .inf b => if a = b then .fin false 0 0 else .inf false
      | _, _ => ((x.add 0 c.neg).1).abs
    let better := fun (i j : Nat) => (!(dist i).isNan && (dist j).isNan) || (dist i).lt (dist j)
    ((List.range 16).foldl (fun b i => if better i b then i else b) 0, {})

end Sys2Proof.Machine
end

