-- ==== Sys2Proof/Machine/Time.lean ====
section
/-! DEFINITION. Logical times, tokens and waits on frontiers (11 R249 to R267, 12 R278, R279). -/

namespace Sys2Proof.Machine

def TM_NOT_HELD : Nat := 0x100
def TM_NO_BASE : Nat := 0x101
def TM_ORDER : Nat := 0x102
def TM_EDGE_EMPTY : Nat := 0x104
def FRONTIER_STALL : Nat := 0x105
def TM_DEADLOCK : Nat := 0x107

/-! ## Time arithmetic (11 Table 11-1) -/

/-- TM.MTT (11 Table 11-1). -/
def execTmMtt (d : Tm) (a : Reg) (s : State) : Out :=
  if s.rs a = top then s.trap TM_OVERFLOW else (s.wT d (s.rs a)).done
/-- TM.MFT (11 Table 11-1). -/
def execTmMft (d : Reg) (a : Tm) (s : State) : Out := (s.wS d (s.rt a)).done

/-- Edge `e` of scope `n`, none where it is empty (11 R253). -/
def State.edge (s : State) (n : Fin 8) (e : Fin 16) : Option Edge := mget none s.edges (n.val * 16 + e.val)

/-- TM.EDGE (11 R254). -/
def execTmEdge (d a : Tm) (e : Fin 16) (n : Fin 8) (s : State) : Out :=
  match s.edge n e with
  | none => s.trap TM_EDGE_EMPTY
  | some g => match g.apply (s.rt a) with
    | none => s.trap TM_OVERFLOW
    | some t => (s.wT d t).done

/-- Counter `i` advanced by `k`, those below it cleared (11 Table 11-1), none on overflow. -/
def addCounter (t : Word) (i : Fin 4) (k : Nat) : Option Word :=
  let v := ctr t i.val + k
  if v > 0xFFFF then none
  else
    let r := word (t.toNat / 2 ^ (16 * i.val + 16) * 2 ^ (16 * i.val + 16) + v * 2 ^ (16 * i.val))
    if r = top then none else some r

/-- TM.ADDC (11 Table 11-1). -/
def execTmAddc (d : Tm) (i : Fin 4) (k : BitVec 16) (s : State) : Out :=
  match addCounter (s.rt d) i k.toNat with
  | none => s.trap TM_OVERFLOW
  | some t => (s.wT d t).done

/-! ## Tokens (11 R257, R259) -/

/-- The number of tokens an instruction names, none outside 1 to 65,535. -/
def State.count (s : State) (b : Reg) : Option Nat :=
  let n := if b = 0 then 1 else (s.rs b).toNat
  if n = 0 || n > 65535 then none else some n

/-- The owner of the issuing context's tokens. -/
def State.owner (s : State) : Owner := .ctx s.fcx

/-- TM.HOLD (11 R259). -/
def execTmHold (a : Tm) (b : Reg) (n : Fin 8) (s : State) : Out :=
  let x := s.sq s.fsq
  let t := s.rt a
  match s.count b with
  | none => s.trap TM_COUNT
  | some k =>
    if !x.holdsBy s.owner n t then s.trap TM_NO_BASE
    else if x.held s.owner n t + k > 65535 then s.trap TM_COUNT
    else if !x.tokRoom s.owner n t || !x.streamRoom 1 then s.block (.tmHold a b n)
    else (s.modSq s.fsq (fun x => (x.addTok s.owner n t k).send n [(t, (k : Int))])).done

/-- TM.DROP (11 R259, 12 R278). -/
def execTmDrop (a : Tm) (b : Reg) (n : Fin 8) (s : State) : Out :=
  let x := s.sq s.fsq
  let t := s.rt a
  match s.count b with
  | none => s.trap TM_COUNT
  | some k =>
    if x.held s.owner n t < k then s.trap TM_NOT_HELD
    else if !s.dropReady s.fsq s.fcx n t || !x.streamRoom 1 then s.block (.tmDrop a b n)
    else
      let s := s.dropWrites s.fsq s.fcx n
      (s.modSq s.fsq (fun x => (x.subTok s.owner n t k).send n [(t, -(k : Int))])).done

/-- `k` tokens of an owner moved from time `t` to `t'` with one message: the entry at `t` that empties becomes the one at
`t'` (11 R259). -/
def Square.moveTok (x : Square) (o : Owner) (n : Fin 8) (t t' : Word) (k : Nat) : Square :=
  ((x.subTok o n t k).addTok o n t' k).send n [(t', (k : Int)), (t, -(k : Int))]

/-- Whether a move of `k` tokens finds an entry. -/
def Square.moveRoom (x : Square) (o : Owner) (n : Fin 8) (t t' : Word) (k : Nat) : Bool :=
  x.tokRoom o n t' || x.held o n t == k

/-- TM.MOVE (11 R259). -/
def execTmMove (d a : Tm) (b : Reg) (n : Fin 8) (s : State) : Out :=
  let x := s.sq s.fsq
  let t := s.rt a
  let t' := s.rt d
  match s.count b with
  | none => s.trap TM_COUNT
  | some k =>
    if t' < t then s.trap TM_ORDER
    else if x.held s.owner n t < k then s.trap TM_NOT_HELD
    else if t' = t then s.done
    else if x.held s.owner n t' + k > 65535 then s.trap TM_COUNT
    else if !x.moveRoom s.owner n t t' k || !s.dropReady s.fsq s.fcx n t || !x.streamRoom 1 then s.block (.tmMove d a b n)
    else ((s.dropWrites s.fsq s.fcx n).modSq s.fsq (fun x => x.moveTok s.owner n t t' k)).done

/-! ## Waits (11 R260, 12 R279) -/

/-- Whether a wait of the issuing context for scope `n` to pass `t` could not end: it, or a READY tile context, holds a token at a
time ≤ t. -/
def State.deadlock (s : State) (n : Fin 8) (t : Word) : Bool :=
  let x := s.sq s.fsq
  x.holdsBy s.owner n t ||
    (List.finRange 8).any (fun c => (x.ctxs[tileCx c]).st == .ready && x.holdsBy (.ctx (tileCx c)) n t)

/-- local(N): the frontier last received (11 R263). -/
def State.local_ (s : State) (n : Fin 8) : Word := s.localF[n]

/-- The wait of TM.WAITF and TM.BAR: the check for a deadlock stands before the wait, once (`first`); when the frontier has passed, the
clean lines of the scope's regions are invalidated. -/
def State.waitPast (s : State) (i : Instr) (n : Fin 8) (t : Word) (first : Bool) : Out :=
  if first && s.deadlock n t then s.trap TM_DEADLOCK
  else if t < s.local_ n then (s.dropClean s.fsq (s.lineIn (·.ofScope n))).done
  else s.block i

/-- TM.WAITF (11 R260). -/
def execTmWaitf (a : Tm) (n : Fin 8) (s : State) : Out := s.waitPast (.tmWaitf a n) n (s.rt a) !s.me.waits

/-- TM.BAR (11 R260): it moves every token at tm[a] to the successor, once, and then waits. -/
def execTmBar (a : Tm) (n : Fin 8) (s : State) : Out :=
  let x := s.sq s.fsq
  let t := s.rt a
  let k := x.held s.owner n t
  match timeSucc t with
  | none => s.trap TM_OVERFLOW
  | some t' =>
    if k ≠ 0 then
      if x.held s.owner n t' + k > 65535 then s.trap TM_COUNT
      else if !s.dropReady s.fsq s.fcx n t || !x.streamRoom 1 then s.block (.tmBar a n)
      else ((s.dropWrites s.fsq s.fcx n).modSq s.fsq (fun x => x.moveTok s.owner n t t' k)).waitPast (.tmBar a n) n t true
    else if x.held s.owner n t' = 0 then s.trap TM_NOT_HELD
    else s.waitPast (.tmBar a n) n t !s.me.waits

/-- TM.FRONT (11 R260). -/
def execTmFront (d : Reg) (n : Fin 8) (s : State) : Out := (s.wS d (s.local_ n)).done

/-! ## Watchdogs of waits (11 R267, 18 R376) -/

/-- FWDT.LIM of a context in µs (11 Table 11-6). -/
def Ctx.lim (x : Ctx) : Nat := bits x.fwdt 0 32

/-- Whether a context stands in a blocked instruction that meets `p` and the frontier watchdog has run out. -/
def State.overdue (s : State) (q : Sq) (c : Cx) (p : Instr → Bool) : Bool :=
  let x := s.ctx q c
  match x.blocked with
  | some b => x.waits && p b.instr && x.lim ≠ 0 && decide (b.since + x.lim * 1000 ≤ s.now)
  | none => false

/-- A precise fault of a context that is blocked, its instruction not begun; a waiting record goes first (15 R331). -/
def State.stallTrap (s : State) (q : Sq) (c : Cx) (code : Nat) : State :=
  if s.recordDue q c then s.deliver q c else if c = 8 then s.machineCheck q else s.trapEnter q c 0 0 code

end Sys2Proof.Machine
end

