-- ==== Sys2Proof/Machine/Array.lean ====
section
/-! DEFINITION. The distance-product array: ports, lease, acceptance, faults, steps and completions (09 R192 to R220). -/

namespace Sys2Proof.Machine

/-! ## Reaching the array -/

/-- The per-core state of the array. -/
def State.acore (s : State) (q : Sq) (v : Vc) : ACore := (s.arr q).cores[v]
/-- The state with `f` applied to the per-core state of the array. -/
def State.modACore (s : State) (q : Sq) (v : Vc) (f : ACore → ACore) : State :=
  s.modArr q (fun a => { a with cores := vset a.cores v (f a.cores[v]) })
/-- The context for which a core acts: the claiming one, or F. -/
def State.coreCtx (s : State) (q : Sq) (v : Vc) : Cx := (s.claimedBy q v).getD 8
/-- Whether the current command is suspended: it has retired steps and its core is not the holder (09 R203). -/
def State.suspended (s : State) (q : Sq) (v : Vc) : Bool :=
  (match (s.acore q v).cur with
    | some m => m.accepted && !m.void && m.steps ≠ 0
    | none => false) && (s.arr q).holder ≠ some v
/-- Whether a context is being saved, which pre-empts its commands at their next step (09 R208, R217). -/
def State.saving (s : State) (q : Sq) (c : Cx) : Bool :=
  match (s.ctx q 8).blocked with
  | some b => (match b.instr with
    | .ctxSave _ a => bits ((s.ctx q 8).rs_ a) 0 4 == c.val
    | _ => false)
  | none => false
/-- Commands of a core accepted and not retired. -/
def ACore.accepted (a : ACore) : List ACmd := ([a.cur, a.nxt].filterMap id).filter (·.accepted)

/-- The status word of core `v` (09 Table 9-6). With no current command and ST other than ERROR, STEPS shows the count of the last command, or
0 after a clear from ERROR (log 104). -/
def State.arrStat (s : State) (q : Sq) (v : Vc) : Word :=
  let a := s.acore q v
  let arr := s.arr q
  let st := if a.err.isSome then 2 else if a.accepted.isEmpty then 0 else 1
  let steps := match a.err, a.cur with
    | none, some m => if m.accepted then m.steps else a.steps
    | _, _ => a.steps
  let held := fun (b : Fin 2) => if arr.bufs[b] == some (s.coreCtx q v) then 2 ^ (46 + b.val) else 0
  word (st * 2 ^ 62 + a.err.getD 0 % 512 * 2 ^ 53 + (if a.cond.getLsbD 0 then 2 ^ 52 else 0) +
    (if a.cond.getLsbD 1 then 2 ^ 51 else 0) + (if a.cond.getLsbD 2 then 2 ^ 50 else 0) +
    (if arr.holder == some v then 2 ^ 49 else 0) + (if a.req.isSome || s.suspended q v then 2 ^ 48 else 0) +
    held 0 + held 1 + ([a.cur, a.nxt].filterMap id).length % 4 * 2 ^ 44 + a.spq.length % 16 * 2 ^ 40 +
    a.acseq % 2 ^ 16 * 2 ^ 16 + steps % 2 ^ 16)

/-! ## Terms (09 R198 to R201) -/

/-- The buffers of a two-bit mask. -/
def maskBufs (b : BitVec 2) : List (Fin 2) := (List.finRange 2).filter (fun i => b.getLsbD i.val)

/-- Whether every buffer that a request names is free or held by its context (09 R199). -/
def State.bufsFree (s : State) (q : Sq) (v : Vc) (r : AReq) : Bool :=
  (maskBufs r.buf).all (fun b => match (s.arr q).bufs[b] with
    | none => true
    | some c => c == s.coreCtx q v)

/-- Whether core `v` has a request that can be granted (09 R199, R200): the standing one, which names no buffer, or the written one. The
commands of a context that is being saved stay suspended (09 R217). -/
def State.grantable (s : State) (q : Sq) (v : Vc) : Bool :=
  !s.saving q (s.coreCtx q v) && (s.suspended q v || (match (s.acore q v).req with
    | none => false
    | some r => s.bufsFree q v r))

/-- Whether another core than `v` has a request that can be granted. -/
def State.otherGrantable (s : State) (q : Sq) (v : Vc) : Bool := (List.finRange 4).any (fun w => w ≠ v && s.grantable q w)

/-- The priority of a core: that of its context, with F below 0. -/
def State.corePri (s : State) (q : Sq) (v : Vc) : Nat := if s.coreCtx q v = 8 then 0 else (s.ctx q (s.coreCtx q v)).pri + 1

/-- The next holder: highest priority, then the first core after the previous holder (09 R200). -/
def State.nextHolder (s : State) (q : Sq) : Option Vc :=
  let cs := ([1, 2, 3, 4].map (fun k => (Fin.ofNat 4 ((s.arr q).prev.val + k) : Vc))).filter (s.grantable q)
  let top := listMax (cs.map (s.corePri q))
  cs.find? (fun v => s.corePri q v == top)

/-- The point of a command set to now (09 R208). -/
def ACmd.point (m : ACmd) (cyc : Nat) : ACmd := { m with pointSteps := m.steps, pointCyc := cyc }

/-- A term begins for core `v`: its written request takes its buffers, sets the keep marks and the limit, where it can be granted (09 R198
to R200). A command accepted while a request was pending counts in this term (09 R201). -/
def State.beginTerm (s : State) (q : Sq) (v : Vc) : State :=
  let c := s.coreCtx q v
  let cyc := (s.sq q).cyc
  let s := s.modArr q (fun a => { a with holder := some v, term := 0 })
  let late := Option.map (fun (m : ACmd) => { m with early := false })
  let s := s.modACore q v (fun a => { a with cur := (late a.cur).map (·.point cyc), nxt := late a.nxt })
  match (s.acore q v).req with
  | none => s
  | some r =>
    if !s.bufsFree q v r then s
    else
    let s := s.modArr q (fun a =>
      let bufs := Vector.ofFn (fun (b : Fin 2) => if r.buf.getLsbD b.val then some c else a.bufs[b])
      { a with
        bufs := bufs
        keeps := Vector.ofFn (fun (b : Fin 2) => if bufs[b] == some c then r.keep.getLsbD b.val else a.keeps[b]) })
    s.modACore q v (fun a => { a with req := none, lim := r.lim })

/-- The term of the holder ends: the tile fetched for it is gone (19 R379), and of its commands those accepted under a pending request
count in the next term (09 R201). -/
def State.endTerm (s : State) (q : Sq) : State :=
  match (s.arr q).holder with
  | none => s
  | some v =>
    let f := Option.map (fun (m : ACmd) => { m with inTerm := m.early })
    (s.modArr q (fun a => { a with holder := none, prev := v, term := 0, ahead := none })).modACore q v (fun a => { a with cur := f a.cur, nxt := f a.nxt })

/-- The term ends by the limit or at a retirement point: another core's request, or at once a new term for the same core
(09 R201). -/
def State.turnTerm (s : State) (q : Sq) (v : Vc) : State :=
  if s.otherGrantable q v || s.saving q (s.coreCtx q v) then s.endTerm q else (s.endTerm q).beginTerm q v

/-- The term of a holder that has no current command ends as soon as another core has a request that can be granted (09 R201). One that
begins in that state ends at the next grant (log 93). -/
def State.yieldIdle (s : State) (q : Sq) : State :=
  match (s.arr q).holder with
  | some v => if (s.acore q v).cur.isNone && s.otherGrantable q v then s.endTerm q else s
  | none => s

/-- Buffers that a context holds are freed, so that a request may become grantable. -/
def State.freeBufs (s : State) (q : Sq) (c : Cx) (b : BitVec 2) : State :=
  (s.modArr q (fun a =>
    { a with bufs := Vector.ofFn (fun (i : Fin 2) => if b.getLsbD i.val && a.bufs[i] == some c then none else a.bufs[i]) })).yieldIdle q

/-- A release takes effect once the accepted commands of its core have retired (09 R201). -/
def State.settleRelease (s : State) (q : Sq) (v : Vc) : State :=
  match (s.acore q v).rel with
  | none => s
  | some b =>
    if !(s.acore q v).accepted.isEmpty then s
    else
      let s := s.freeBufs q (s.coreCtx q v) b
      let s := s.modACore q v (fun a => { a with rel := none, req := none })
      if (s.arr q).holder = some v then s.endTerm q else s

/-- LEASE_GRANT: a holder without a current command gives way to a request that can be granted, and the array without a
holder takes the next one (09 R200, R201). -/
def execLeaseGrant (q : Sq) (s : State) : Out :=
  let s := s.yieldIdle q
  match (s.arr q).holder with
  | some _ => .next s
  | none => match s.nextHolder q with
    | some v => .next (s.beginTerm q v)
    | none => .next s

/-! ## Engine-level faults (09 R213) -/

/-- The half-way handles that commands have taken become ERROR (10 R233, Table 10-2). -/
def State.failCmdHnds (s : State) (q : Sq) (v : Vc) (ms : List ACmd) (cause : Nat) : State :=
  s.modCore q v (fun x => x.failHnds (fun h y => y.partly && ms.any (fun m => m.handles.contains h)) cause)

/-- An engine-level fault of core `v`: ERROR with the cause and the retired steps, the accepted commands retire with no
effect, and the term ends. -/
def State.arrayFault (s : State) (q : Sq) (v : Vc) (cause steps : Nat) : State :=
  let a := s.acore q v
  let s := s.failCmdHnds q v a.accepted cause
  let keep := fun (m : Option ACmd) => match m with
    | some m => if m.accepted then none else some m
    | none => none
  let s := s.modACore q v (fun a => { a with err := some cause, steps := steps, cur := keep a.cur, nxt := keep a.nxt })
  let s := if (s.arr q).holder = some v then s.endTerm q else s
  (s.engineRecord q (s.coreCtx q v) v cause).settleRelease q v

/-! ## Specifiers, commands and lease words (09 R193 to R199) -/

/-- A specifier enters the queue (09 R193). -/
def State.putSpec (s : State) (q : Sq) (v : Vc) (x : Word) : State := s.modACore q v (fun a => { a with spq := a.spq ++ [x] })

/-- SPECIFIER_WRITE (09 R193): a move to dpa.spec with room in the queue. -/
def execSpecifierWrite (q : Sq) (v : Vc) (x : Word) (s : State) : Out :=
  if (s.acore q v).spq.length < 4 then .next (s.putSpec q v x) else .next s

/-- The scratchpad bytes that a specifier of bank source names: core, first byte, end. -/
def spadSpan (c : CWord) (r : Role) (w : Word) : Nat × Nat × Nat :=
  let p := specOf w
  let o := p.idx % 16 * 0x8000 + p.idx / 64 * 32
  (p.idx / 16 % 4, o, o + extentOf c r p)

/-- Whether a destination overlaps a source of the same command (check 5 of 09 R195). -/
def overlaps (c : CWord) (rs : List (Role × Word)) : Bool :=
  rs.any (fun d => d.1.dest && rs.any (fun e => !e.1.dest &&
    (let p := specOf d.2
     let r := specOf e.2
     if p.src = 0 && r.src = 0 then
       let x := spadSpan c d.1 d.2
       let y := spadSpan c e.1 e.2
       x.1 == y.1 && decide (x.2.1 < y.2.2) && decide (y.2.1 < x.2.2)
     else (p.src == 3 || p.src == 4) && (r.src == 3 || r.src == 4) && p.idx == r.idx)))

/-- The checks at acceptance, given the specifiers taken: the budget of 13 R298 first (log 105), then the five of 09 R195 in their order. -/
def State.cmdCheck (s : State) (q : Sq) (v : Vc) (m : ACmd) (want : Nat) : Except Nat Unit := do
  let c := cword m.word
  need (!m.excess) BUDGET_EXCEEDED
  need ((s.arr q).holder == some v || (s.acore q v).req.isSome || s.suspended q v) NO_LEASE
  need (cmdLegal m.word) ILLEGAL_ARRAY_OP
  need (decide (want ≤ m.specs.length)) SPEC_MISSING
  let rs := ((opRoles c.op).getD []).zip m.specs
  need (rs.all (fun e => specLegal c e.1 e.2) && pairLegal c m.specs) ILLEGAL_SPECIFIER
  need (!overlaps c rs) OPERAND_OVERLAP



/-- A command accepted (09 R194, R195). A core in ERROR retires it at once with no effect (09 R213), and so does the end of its task (15
R325). -/
def State.acceptCmd (s : State) (q : Sq) (v : Vc) (m : ACmd) : State :=
  let a := s.acore q v
  let want := ((opRoles (cword m.word).op).getD []).length
  let m := { m with
    accepted := true, seq := a.acseq, specs := a.spq.take want
    inTerm := (s.arr q).holder == some v || a.req.isSome || s.suspended q v, early := a.req.isSome || s.suspended q v
    pointCyc := (s.sq q).cyc }
  let s := s.modACore q v (fun a => { a with acseq := (a.acseq + 1) % 2 ^ 16, spq := a.spq.drop want })
  if a.err.isSome || m.void then s
  else match s.cmdCheck q v m want with
    | .error c => s.arrayFault q v c 0
    | .ok () => s.modACore q v (fun a => if a.cur.isNone then { a with cur := some m } else { a with nxt := some m })

/-- Whether one more array command exceeds ACMD of a task (13 R298). -/
def State.overAcmd (s : State) (q : Sq) (c : Cx) : Bool := match s.budget q c 4 with
  | some n => decide (n < (s.ctx q c).acmds + 1)
  | none => false

/-- A command word written to dpa.cmd by bundle `id` of context `c` (09 R194, R214); one that exceeds its task's ACMD is not counted
(13 R298). -/
def State.offerCmd (s : State) (q : Sq) (v : Vc) (c : Cx) (id : Nat) (x : Word) : State :=
  let excess := s.overAcmd q c
  let s := if excess then s else s.modCtx q c (fun k => { k with acmds := k.acmds + 1 })
  let m : ACmd :=
    { word := x, seq := 0, specs := [], steps := 0, pointSteps := 0, pointCyc := 0, accepted := false, since := s.now,
      void := false, inTerm := false, early := false, excess := excess, ctx := c, id := id, handles := [] }
  if bit x 31 && !(s.acore q v).hreg.isEmpty then s.modACore q v (fun a => { a with nxt := some m })
  else s.acceptCmd q v m

/-- A command of the array as its own step: the current bundle of the core writes the word to dpa.cmd. -/
def State.command (s : State) (q : Sq) (v : Vc) (op : Nat) (x : Word) : Out :=
  if bits x 58 6 = op && (s.acore q v).nxt.isNone then .next (s.offerCmd q v (s.coreCtx q v) ((s.core q v).nextId - 1) x) else .next s

/-- DPA.MM offered (09 Table 9-4). -/
def execDpaMm (q : Sq) (v : Vc) (x : Word) (s : State) : Out := s.command q v 0x00 x
/-- DPA.WLD offered (09 Table 9-4). -/
def execDpaWld (q : Sq) (v : Vc) (x : Word) (s : State) : Out := s.command q v 0x01 x
/-- DPA.ZERO offered (09 Table 9-4). -/
def execDpaZero (q : Sq) (v : Vc) (x : Word) (s : State) : Out := s.command q v 0x03 x
/-- DPA.DRAIN offered (09 Table 9-4). -/
def execDpaDrain (q : Sq) (v : Vc) (x : Word) (s : State) : Out := s.command q v 0x04 x
/-- DPA.ACCLD offered (09 Table 9-4). -/
def execDpaAccld (q : Sq) (v : Vc) (x : Word) (s : State) : Out := s.command q v 0x05 x
/-- DPA.ACCADD offered (09 Table 9-4). -/
def execDpaAccadd (q : Sq) (v : Vc) (x : Word) (s : State) : Out := s.command q v 0x06 x
/-- DPA.CBLD offered (09 Table 9-4). -/
def execDpaCbld (q : Sq) (v : Vc) (x : Word) (s : State) : Out := s.command q v 0x07 x
/-- DPA.SYNC offered (09 Table 9-4). -/
def execDpaSync (q : Sq) (v : Vc) (x : Word) (s : State) : Out := s.command q v 0x08 x
/-- DPA.DIST offered (09 Table 9-4). -/
def execDpaDist (q : Sq) (v : Vc) (x : Word) (s : State) : Out := s.command q v 0x10 x
/-- DPA.NEAR offered (09 Table 9-4). -/
def execDpaNear (q : Sq) (v : Vc) (x : Word) (s : State) : Out := s.command q v 0x11 x
/-- DPA.CUPD offered (09 Table 9-4). -/
def execDpaCupd (q : Sq) (v : Vc) (x : Word) (s : State) : Out := s.command q v 0x12 x
/-- DPA.CDIV offered (09 Table 9-4). -/
def execDpaCdiv (q : Sq) (v : Vc) (x : Word) (s : State) : Out := s.command q v 0x13 x
/-- DPA.CNTR offered (09 Table 9-4). -/
def execDpaCntr (q : Sq) (v : Vc) (x : Word) (s : State) : Out := s.command q v 0x14 x
/-- DPA.CMP24 offered (09 Table 9-4). -/
def execDpaCmp24 (q : Sq) (v : Vc) (x : Word) (s : State) : Out := s.command q v 0x15 x
/-- DPA.CBENC offered (09 Table 9-4). -/
def execDpaCbenc (q : Sq) (v : Vc) (x : Word) (s : State) : Out := s.command q v 0x16 x

/-- Whether a lease word is well formed (09 R197). -/
def leaseOk (x : Word) : Bool :=
  bits x 16 48 == 0 && bits x 6 2 == 0 && (match bits x 0 2 with
    | 0 => true
    | 1 => bits x 8 8 == 0 && bits x 4 2 == 0
    | 2 => bits x 8 8 == 0 && !bit x 5
    | _ => false)

/-- An engine-level fault found while a core writes its lease port. -/
def State.leaseFault (s : State) (q : Sq) (v : Vc) (cause : Nat) : State :=
  s.arrayFault q v cause (((s.acore q v).cur.map (·.steps)).getD 0)

/-- A request (09 R198, R199). -/
def State.leaseReq (s : State) (q : Sq) (v : Vc) (x : Word) : State :=
  let c := s.coreCtx q v
  let held := (List.finRange 2).filter (fun b => (s.arr q).bufs[b] == some c)
  let buf := BitVec.ofNat 2 (bits x 2 2)
  if !held.isEmpty && (maskBufs buf).any (fun b => !held.contains b) then s.leaseFault q v ACC_ORDER
  else
    let r : AReq := { lim := if bits x 8 8 = 0 then 16 else bits x 8 8, keep := BitVec.ofNat 2 (bits x 4 2), buf := buf }
    (s.modACore q v (fun a => { a with req := some r })).yieldIdle q

/-- A release, which takes effect with those that wait before it (09 R201). -/
def State.leaseRel (s : State) (q : Sq) (v : Vc) (x : Word) : State :=
  let b := BitVec.ofNat 2 (bits x 2 2)
  if (s.arr q).holder ≠ some v && (s.acore q v).req.isNone && !s.suspended q v then s.freeBufs q (s.coreCtx q v) b
  else (s.modACore q v (fun a => { a with rel := some (a.rel.getD 0 ||| b) })).settleRelease q v

/-- A clear (09 R197, R213). -/
def State.leaseClr (s : State) (q : Sq) (v : Vc) (x : Word) : State :=
  s.modACore q v (fun a =>
    { a with err := none, steps := if a.err.isSome then 0 else a.steps, cond := a.cond &&& ~~~(BitVec.ofNat 3 (bits x 2 3)) })

/-- A lease word written to dpa.lease (09 R197). -/
def State.leaseWord (s : State) (q : Sq) (v : Vc) (x : Word) : State :=
  if !leaseOk x then s.leaseFault q v LEASE_WORD
  else match bits x 0 2 with
    | 0 => s.leaseReq q v x
    | 1 => s.leaseRel q v x
    | _ => s.leaseClr q v x

/-- LEASE_REQUEST: a lease word with OP 0 (09 R198, R199). -/
def execLeaseRequest (q : Sq) (v : Vc) (x : Word) (s : State) : Out := if bits x 0 2 = 0 then .next (s.leaseWord q v x) else .next s
/-- LEASE_RELEASE: a lease word with OP 1 (09 R201). -/
def execLeaseRelease (q : Sq) (v : Vc) (x : Word) (s : State) : Out := if bits x 0 2 = 1 then .next (s.leaseWord q v x) else .next s
/-- LEASE_CLEAR: a lease word with OP 2 (09 R197, R213). -/
def execLeaseClear (q : Sq) (v : Vc) (x : Word) (s : State) : Out := if bits x 0 2 = 2 then .next (s.leaseWord q v x) else .next s

/-- ARRAY_DEFERRED_ACCEPT: a waiting command word is accepted once the holding register is empty (09 R214). -/
def execArrayDeferredAccept (q : Sq) (v : Vc) (s : State) : Out :=
  let a := s.acore q v
  match a.nxt with
  | some m =>
    if m.accepted || !a.hreg.isEmpty then .next s
    else .next ((s.modACore q v (fun a => { a with nxt := none })).acceptCmd q v m)
  | none => .next s

/-- ARRAY_STALL: a word that has waited 1 ms for the holding register is accepted and faults, and the register is dropped (09 R214); the
word of a task that has ended retires with no effect (15 R325). -/
def execArrayStall (q : Sq) (v : Vc) (s : State) : Out :=
  let a := s.acore q v
  match a.nxt with
  | some m =>
    if m.accepted || s.now < m.since + 1000000 then .next s
    else if m.void then .next ((s.modACore q v (fun a => { a with nxt := none })).acceptCmd q v m)
    else if a.hreg.isEmpty then .next s
    else
      let s := s.modACore q v (fun a =>
        { a with
          nxt := none, hreg := [], acseq := (a.acseq + 1) % 2 ^ 16
          spq := a.spq.drop (((opRoles (cword m.word).op).getD []).length) })
      .next (s.arrayFault q v ARRAY_STALL 0)
  | none => .next s

/-! ## Operands in memory (09 Table 9-4a, R213) -/

/-- Bytes `n` from flat address `a`, unless a unit of them is bad. -/
def State.goodBytes (s : State) (a n : Nat) : Except XStop (List Byte) :=
  if s.isBad a n then .error (.cause DATA_UNCORRECTABLE) else .ok (s.rdB a n)

/-- A byte of MRAM as the A path reads it, from its value at the home: inside a commit, each journalled doubleword is old or new (16 R354). -/
def State.commitByte (s : State) (q : Sq) (a : Nat) (b : Byte) : Byte :=
  let j := (s.sq q).journal
  let at_ := fun (l : List (Nat × Word)) => (l.find? (fun e => e.1 == a / 8 * 8)).map (fun (e : Nat × Word) => (e.2 >>> (8 * (a % 8))).setWidth 8)
  match at_ j.entries.reverse with
  | some x => if Config.readsNew s.free (a / 8) then x else (at_ j.olds).getD b
  | none => b

/-- Bytes of MRAM of square `q` from `a` on as the A path reads them. -/
def State.commitBytes (s : State) (q : Sq) (a : Nat) (bs : List Byte) : List Byte :=
  if (s.sq q).journal.inCommit then bs.zipIdx.map (fun (e : Byte × Nat) => s.commitByte q (a + e.2) e.1) else bs

/-- Bytes of space 0 read at their home `pa` as the A path reads them: those of a weight store stand under the journal of its square
(16 R354). -/
def State.pathBytes (s : State) (pa : Nat) (bs : List Byte) : List Byte × State :=
  let t := s.blkTouch pa bs.length
  if tierOf pa = .mram then
    let q : Sq := Fin.ofNat 160 ((pa - mramBase 0) / 0x8000000)
    (s.commitBytes q pa bs, if (s.sq q).journal.inCommit then t.bump else t)
  else (bs, t)

/-- `n` bytes of space 0, in pieces inside pages of 512 bytes. -/
def State.globBytes (s : State) (q : Sq) (who : Option Nat) : Nat → Nat → Nat → Except XStop (List Byte × State)
  | 0, _, _ => .ok ([], s)
  | fuel + 1, va, n =>
    if n = 0 then .ok ([], s)
    else
      let k := Nat.min n (512 - va % 512)
      match s.translate q who { r := true } va with
      | .error e => .error e
      | .ok (pa, s) =>
        match s.goodBytes pa k with
        | .error e => .error e
        | .ok bs =>
          let r := s.pathBytes pa bs
          match r.2.globBytes q who fuel (va + k) (n - k) with
          | .error e => .error e
          | .ok (t, s) => .ok (r.1 ++ t, s)

/-- Byte `i` of the weight buffer. -/
def Arr.segByte (a : Arr) (i : Nat) : Byte := mget 0 a.seg i

/-- The flat address of a weight-store range of the context's residence that lies in the issuing square (09 Table 9-4a). -/
def State.rangeAt (s : State) (q : Sq) (c : Cx) (num n : Nat) : Except XStop Nat :=
  match (if c = 8 then none else s.residence (s.ctx q c).res) with
  | none => .error (.cause MRAM_RANGE)
  | some r => match r.ranges.find? (fun g => g.num == num && g.sq == q) with
    | none => .error (.cause MRAM_RANGE)
    | some g => if g.len < n then .error (.cause MRAM_RANGE) else .ok (mramBase q.val + g.off)

/-- The checks of a scratchpad operand (09 Table 9-4a): its flat address. -/
def State.spadAt (s : State) (q : Sq) (v : Vc) (c : Cx) (p : Spec) (n : Nat) : Except XStop Nat :=
  let w : Vc := Fin.ofNat 4 (p.idx / 16)
  let o := p.idx % 16 * 0x8000 + p.idx / 64 * 32
  if w ≠ v && s.claimedBy q w ≠ some c then .error (.cause SPAD_DENIED)
  else if o + n > 0x80000 then .error (.cause OPERAND_RANGE)
  else if (List.range 16).any (fun b => decide (o / 0x8000 ≤ b) && decide (b * 0x8000 < o + n) && (s.core q w).fmt[Fin.ofNat 16 b] ≠ p.enc) then
    .error (.cause BANK_FORMAT)
  else .ok (spadAddr q.val w.val o)

/-- The handle of a specifier, ready for its use: a wait stalls, ERROR or no binding faults. `mine` where the command has taken it already. A
binding to another place than src names is OPERAND_HANDLE, and an operand longer than the buffer OPERAND_RANGE (log 106). -/
def State.handleAt (s : State) (q : Sq) (v : Vc) (p : Spec) (n : Nat) (dest mine : Bool) : Except XStop Hnd :=
  let y := s.hnd q v (Fin.ofNat 64 p.idx)
  if !y.bound then .error (.cause HANDLE_UNBOUND)
  else if y.st = .error || y.sp ≠ (if p.src = 3 then 1 else 3) then .error (.cause OPERAND_HANDLE)
  else if n > y.bytes then .error (.cause OPERAND_RANGE)
  else if mine || y.st = (if dest then .free else .full) then .ok y
  else .error .stall

/-- Spans of an operand read by `f`, one after another. -/
def readSpans (f : State → Nat → Nat → Except XStop (List Byte × State)) : State → List (Nat × Nat) → Except XStop (Spans × State)
  | s, [] => .ok ([], s)
  | s, (o, n) :: t =>
    match f s o n with
    | .error e => .error e
    | .ok (bs, s) => match readSpans f s t with
      | .error e => .error e
      | .ok (l, s) => .ok ((o, bs) :: l, s)



/-- The checks of a source operand of `n` bytes, and the bytes of it that a step reads (09 R204, R213). -/
def State.readOp (s : State) (q : Sq) (v : Vc) (m : ACmd) (p : Spec) (n : Nat) (l : List (Nat × Nat)) : Except XStop (Spans × State) :=
  let l := l.filter (fun e => e.2 ≠ 0)
  match p.src with
  | 0 => do
    let a ← s.spadAt q v m.ctx p n
    readSpans (fun s o k => (s.goodBytes (a + o) k).map (fun bs => (bs, s))) s l
  | 1 =>
    let a := s.arr q
    let first := p.idx * 65536
    if first + n > 12 * 65536 then .error (.cause OPERAND_RANGE)
    else if (List.range 12).any (fun g => decide (first < (g + 1) * 65536) && decide (g * 65536 < first + n) && (a.tags[Fin.ofNat 16 g]).isNone) then
      .error (.cause SEGMENT_INVALID)
    else .ok (l.map (fun e => (e.1, (List.range e.2).map (fun i => a.segByte (first + e.1 + i)))), s)
  | 2 => do
    let a ← s.rangeAt q m.ctx p.idx n
    let r ← readSpans (fun s o k => (s.goodBytes (a + o) k).map (fun bs => (s.commitBytes q (a + o) bs, s.blkTouch (a + o) k))) s l
    pure (r.1, if (s.sq q).journal.inCommit then r.2.bump else r.2)
  | 3 => do
    let y ← s.handleAt q v p n false (m.steps ≠ 0)
    readSpans (fun s o k =>
      if (List.range (k / 512 + 2)).any (fun i => decide (i * 512 < (y.base + o) % 512 + k) && s.blockBad q ((y.base + o) / 512 + i)) then
        .error (.cause STREAM_DECODE)
      else .ok (s.rdB (storeAddr q.val (y.base + o)) k, s)) s l
  | _ => do
    let y ← s.handleAt q v p n false (m.steps ≠ 0)
    readSpans (fun s o k => s.globBytes q ((s.ctx q m.ctx).who m.ctx) (k / 512 + 2) (y.base + o) k) s l

/-- The stationary tile of step `b` of a command: fetched ahead, or afresh (19 R379); the checks of 09 Table 9-4a are made in either case. -/
def State.readTile (s : State) (q : Sq) (v : Vc) (m : ACmd) (b : Nat) : Except XStop (Spans × State) :=
  let c := cword m.word
  let p := specOf (m.specs.getD 1 0)
  let fresh := s.readOp q v m p (extentOf c .w p) (stepSpans c .w p b)
  match (s.arr q).ahead with
  | some a =>
    if a.core = v && a.seq = m.seq && a.step = b then (s.readOp q v m p (extentOf c .w p) []).map (fun r => (a.bytes, r.2)) else fresh
  | none => fresh

/-- The tile fetched ahead for core `v` is dropped where its command names handle `h`, which an instruction frees or binds: the command reads
it afresh as it finds it (10 R233, Table 10-2). -/
def State.dropTile (s : State) (q : Sq) (v : Vc) (h : Fin 64) : State :=
  let a := s.acore q v
  let named := fun (t : Ahead) => t.core == v && ([a.cur, a.nxt].filterMap id).any (fun m =>
    m.seq == t.seq && m.specs.any (fun w => let p := specOf w; (p.src == 3 || p.src == 4) && p.idx == h.val))
  s.modArr q (fun r => { r with ahead := r.ahead.filter (fun t => !named t) })

/-- Bytes of space 0 written in pieces inside pages of 512 bytes. -/
def State.globWrite (s : State) (q : Sq) (who : Option Nat) : Nat → Nat → List Byte → Except XStop State
  | 0, _, _ => .ok s
  | fuel + 1, va, bs =>
    if bs.isEmpty then .ok s
    else
      let k := 512 - va % 512
      match s.translate q who { w := true } va with
      | .error e => .error e
      | .ok (pa, s) => (s.writeHome pa (bs.take k)).globWrite q who fuel (va + k) (bs.drop k)

/-- Bytes at offsets of a destination operand of `n` bytes, in ascending order (09 R207, 12 R283). -/
def State.writeOp (s : State) (q : Sq) (v : Vc) (m : ACmd) (p : Spec) (n : Nat) (mine : Bool) (ws : List (Nat × Byte)) : Except XStop State :=
  let runs := runsOf ws
  match p.src with
  | 0 => do
    let a ← s.spadAt q v m.ctx p n
    return runs.foldl (fun s r => s.writeHome (a + r.1) r.2) s
  | 3 => do
    let y ← s.handleAt q v p n true mine
    if runs.any (fun r => s.regionList.any (fun g => g.plain && g.space == 1 && decide (y.base + r.1 < g.start + g.len) && decide (g.start < y.base + r.1 + r.2.length))) then
      throw (.cause PLAIN_PATH)
    runs.foldlM (fun s r => match s.writeStore q (y.base + r.1) r.2 with
      | .ok s => .ok s
      | .error c => .error (XStop.cause c)) s
  | _ => do
    let y ← s.handleAt q v p n true mine
    if runs.any (fun r => s.regionList.any (fun g => g.plain && g.space == 0 && decide (y.base + r.1 < g.start + g.len) && decide (g.start < y.base + r.1 + r.2.length))) then
      throw (.cause PLAIN_PATH)
    runs.foldlM (fun s r => s.globWrite q ((s.ctx q m.ctx).who m.ctx) (r.2.length + 1) (y.base + r.1) r.2) s

/-- Fields of bits laid over old bytes: the bytes they touch, in ascending order. -/
def layBits (old : Nat → Byte) (us : List (Nat × Nat × Nat)) : List (Nat × Byte) :=
  let one := fun (l : List (Nat × Option Byte)) (u : Nat × Nat × Nat) =>
    if u.2.1 ≥ 8 then (natLE (u.2.1 / 8) u.2.2).zipIdx.foldl (fun l b => mput none l (u.1 / 8 + b.2) (some b.1)) l
    else
      let k := u.1 / 8
      let b := ((mget none l k).getD (old k)).toNat
      let sh := u.1 % 8
      let cleared := b - b / 2 ^ sh % 2 ^ u.2.1 * 2 ^ sh
      mput none l k (some (BitVec.ofNat 8 (cleared + u.2.2 % 2 ^ u.2.1 * 2 ^ sh)))
  (us.foldl one []).filterMap (fun e => e.2.map (fun b => (e.1, b)))

/-- The bytes that a destination holds now, as far as partial bytes need them: 0 where they cannot be read. -/
def State.oldOp (s : State) (q : Sq) (v : Vc) (p : Spec) (i : Nat) : Byte :=
  match p.src with
  | 0 => s.rd (spadAddr q.val (p.idx / 16 % 4) (p.idx % 16 * 0x8000 + p.idx / 64 * 32 + i))
  | 3 => s.rd (storeAddr q.val ((s.hnd q v (Fin.ofNat 64 p.idx)).base + i))
  | _ => match s.findXl q ((s.hnd q v (Fin.ofNat 64 p.idx)).base + i) with
    | .ok e => s.rd (e.pa ((s.hnd q v (Fin.ofNat 64 p.idx)).base + i))
    | .error _ => 0

/-! ## The effects of steps (09 R210 to R212) -/

/-- The place of accumulator word (r, n) of buffer `ab`. -/
def accKey (ab r n : Nat) : Nat := ab * 32768 + r * 128 + n
/-- An accumulator word. -/
def Arr.accAt (a : Arr) (ab r n : Nat) : Lane := mget 0 a.acc (accKey ab r n)
/-- A count register. -/
def Arr.cntAt (a : Arr) (ab n : Nat) : Lane := mget 0 a.counts (ab * 128 + n)
/-- Entry `i` of codebook `n`. -/
def Arr.bookAt (a : Arr) (n i : Nat) : Nat := (mget 0 a.cb (n * 16 + i)).toNat
/-- Accumulator words written. -/
def Arr.putAcc (a : Arr) (ab : Nat) (ws : List (Nat × Nat × Lane)) : Arr :=
  { a with acc := ws.foldl (fun l w => mput 0 l (accKey ab w.1 w.2.1) w.2.2) a.acc }

/-- The value of an accumulator word as a drain reads it. -/
def wordValue (int : Bool) (w : Lane) : FV := if int then .ofInt w.toInt else fp32.value w.toNat

/-- All pairs of rows and columns. -/
def cells (rows cols : Nat) : List (Nat × Nat) := (List.range rows).flatMap (fun r => (List.range cols).map (fun n => (r, n)))

/-- One K-block of a product or distance command: the new words and the conditions (04 R90, R91). -/
def kblock (a : Arr) (c : CWord) (pa pw : Spec) (ba bw : Spans) (b : Nat) (int : Bool) : List (Nat × Nat × Lane) × Cond :=
  let metric := if c.op = 0x00 then none else some c.var
  let ev := fun r k => elemValue c .a pa a.bookAt ba r (256 * b + k)
  let wv := fun n k => elemValue c .w pw a.bookAt bw (c.cols * b + n) k
  let ham := fun (r n k : Nat) =>
    let x := codeAt c .a pa ba r (256 * b + k) ^^^ codeAt c .w pw bw (c.cols * b + n) k
    (FV.ofInt (popc 4 x : Nat), ({} : Cond))
  (cells c.rows c.cols).foldl (fun acc rn =>
    let w0 : Lane := if b = 0 && c.z then 0 else a.accAt c.ab rn.1 rn.2
    let r := (List.range 16).foldl (fun (x : Lane × Cond) g =>
      let ts := (List.range 16).map (fun i => let k := 16 * g + i
        if metric = some 2 then ham rn.1 rn.2 k
        else
          let x := ev rn.1 k
          let y := wv rn.2 k
          let t := cellTerm metric x.1 y.1
          (t.1, (x.2.or y.2).or t.2))
      let y := accGroup int x.1 ts
      (y.1, x.2.or y.2)) (w0, {})
    (acc.1 ++ [(rn.1, rn.2, r.1)], acc.2.or r.2)) ([], {})

/-- CUPD: each row added to the column of its record (09 R211). -/
def cupdRow (c : CWord) (pa : Spec) (ba bq : Spans) (int : Bool) (a : Arr) (r : Nat) : Arr × Cond :=
  let n := leNat (bq.bytes (16 * r + 8) 2)
  if n ≥ c.cols then (a, {})
  else
    let ws := (List.range 256).map (fun k =>
      let x := elemValue c .a pa a.bookAt ba r k
      let w := a.accAt c.ab k n
      if int then
        let v := w.toInt + x.1.toInt
        ((k, n, (BitVec.ofInt 32 (clampS v 32) : Lane)), ({ sat := decide (clampS v 32 ≠ v) } : Cond).or x.2)
      else
        let t := (fp32.value w.toNat).add 0 x.1
        let z := fp32.arith 0 t.1
        ((k, n, BitVec.ofNat 32 z.1), (x.2.or t.2).or z.2))
    let cnt := a.cntAt c.ab n
    let a := a.putAcc c.ab (ws.map (·.1))
    let full := cnt == BitVec.allOnes 32
    ({ a with counts := mput 0 a.counts (c.ab * 128 + n) (if full then cnt else cnt + 1) },
      ws.foldl (fun d w => d.or w.2) { sat := full })

/-- The order of columns for a row: by value, then by key (09 R210). -/
def colKey (c : CWord) (r n : Nat) : Nat :=
  match c.tie with
  | 0 => n
  | 1 => 127 - n
  | _ => (n + 2 * c.cols * 32768 - (c.x + r)) % c.cols

/-- Whether column `i` ranks before column `j`. -/
def ranksBefore (a : Arr) (c : CWord) (int : Bool) (r i j : Nat) : Bool :=
  let x := wordValue int (a.accAt c.ab r i)
  let y := wordValue int (a.accAt c.ab r j)
  let less := fun (u v : FV) => (!u.isNan && v.isNan) || u.lt v
  less x y || (!less y x && decide (colKey c r i < colKey c r j))

/-- The record of a row (09 R210). -/
def nearRecord (a : Arr) (c : CWord) (int : Bool) (r : Nat) : List Byte :=
  let pick := fun (l : List Nat) => (l.drop 1).foldl (fun b i => if ranksBefore a c int r i b then i else b) (l.headD 0)
  let best := pick (List.range c.cols)
  let second := pick ((List.range c.cols).filter (· ≠ best))
  let two := c.top2 && decide (c.cols > 1)
  natLE 4 (a.accAt c.ab r best).toNat ++ natLE 4 (if two then (a.accAt c.ab r second).toNat else 0) ++ natLE 2 best ++
    natLE 2 (if two then second else 0xFFFF) ++ natLE 4 0

/-- Elements of an output written in an encoding: the fields of bits, and the conditions. For E2M1X each run of 32 is one
block. -/
def outFields (c : CWord) (r : Role) (p : Spec) (rm lines len : Nat) (f : Nat → Nat → FV) : List (Nat × Nat × Nat) × Cond :=
  if p.enc = 8 then
    (cells lines ((len + 31) / 32)).foldl (fun acc ig =>
      let b := quantise ((List.range 32).map (fun k => f ig.1 (32 * ig.2 + k)))
      (acc.1 ++ b.bytes.zipIdx.map (fun y => (8 * (blockByte c r p ig.1 ig.2 + y.2), 8, y.1.toNat)), acc.2.or (b.conds.foldl Cond.or {}))) ([], {})
  else
    (cells lines len).foldl (fun acc ij =>
      let e := encConvert p.enc rm (f ij.1 ij.2)
      (acc.1 ++ [(elemBit c r p ij.1 ij.2, bits2 p.enc / 2, e.1)], acc.2.or e.2)) ([], {})

/-- DPA.CDIV's element (k, n) (09 R211): the code of the old centroid as it stands where the cluster is empty and the encodings are equal,
or a value to convert; a scale vector on the old centroids leaves no equal encoding (log 76). -/
def cdivElem (a : Arr) (c : CWord) (int : Bool) (p : Spec) (bw : Spans) (n k : Nat) : FV × Cond :=
  let cnt := (a.cntAt c.ab n).toNat
  if cnt = 0 then elemValue c .w p a.bookAt bw n k
  else
    let x := (wordValue int (a.accAt c.ab k n)).quot cnt
    (if int then .ofInt (toInteger (-(2 ^ 31)) (2 ^ 31 - 1) (c.x % 4) x).1 else x, {})

/-- The fields that DPA.CDIV writes, and the conditions: elements (k, n) with k below the dimension alone (20 R383). A block of E2M1X
quantises the exact quotients (R211); its part above the dimension keeps its codes and does not count in its scale (log 77). -/
def cdivFields (a : Arr) (c : CWord) (int : Bool) (p d : Spec) (bw : Spans) : List (Nat × Nat × Nat) × Cond :=
  let kept := fun (n : Nat) => a.cntAt c.ab n == 0 && p.enc == d.enc && p.scl == 0
  if d.enc = 8 then
    (cells c.cols ((c.rows + 31) / 32)).foldl (fun acc ng =>
      let on := (List.range 32).map (fun i => decide (32 * ng.2 + i < c.rows))
      let cnt := (a.cntAt c.ab ng.1).toNat
      let whole := int || cnt = 0
      let elem := fun (k : Nat) => if whole then cdivElem a c int p bw ng.1 k else (wordValue int (a.accAt c.ab k ng.1), {})
      let es := on.zipIdx.map (fun o => if o.1 then elem (32 * ng.2 + o.2) else (.fin false 0 0, {}))
      let b := quantiseBy (if whole then 1 else cnt) (es.map (·.1))
      let bs := if kept ng.1 then bw.bytes (blockByte c .w p ng.1 ng.2) 18 else b.bytes
      let o := blockByte c .cdest d ng.1 ng.2
      let codes := on.zipIdx.filterMap (fun x =>
        if x.1 then some (8 * o + 4 * x.2, 4, (bs.getD (x.2 / 2) 0).toNat / 16 ^ (x.2 % 2) % 16) else none)
      (acc.1 ++ codes ++ [(8 * (o + 16), 8, (bs.getD 16 0).toNat), (8 * (o + 17), 8, (bs.getD 17 0).toNat)],
        if kept ng.1 then acc.2 else (es.foldl (fun z e => z.or e.2) acc.2).or (b.conds.foldl Cond.or {}))) ([], {})
  else
    (cells c.cols c.rows).foldl (fun acc nk =>
      let x := cdivElem a c int p bw nk.1 nk.2
      let e := if kept nk.1 then (codeAt c .w p bw nk.1 nk.2, {}) else encConvert d.enc (c.x % 4) x.1
      (acc.1 ++ [(elemBit c .cdest d nk.1 nk.2, bits2 d.enc / 2, e.1)], (if kept nk.1 then acc.2 else acc.2.or x.2).or e.2)) ([], {})

/-- The state with an array replaced. -/
def State.setArr (s : State) (q : Sq) (a : Arr) : State := s.modArr q (fun _ => a)

/-- The effect of step `b` of a command on the array and on memory, or what stops it (09 R207, R210 to R213). The bytes of DPA.WLD's last segment
beyond those of the tile become 0, also at a refill (log 107). -/
def State.stepEffect (s : State) (q : Sq) (v : Vc) (m : ACmd) : Except XStop (State × Cond) := do
  let c := cword m.word
  let b := m.steps
  let int := intMode c m.specs
  let p := fun i => specOf (m.specs.getD i 0)
  let read := fun (s : State) (i : Nat) (r : Role) => s.readOp q v m (p i) (extentOf c r (p i)) (stepSpans c r (p i) b)
  let write := fun (s : State) (i : Nat) (r : Role) (us : List (Nat × Nat × Nat)) =>
    s.writeOp q v m (p i) (extentOf c r (p i)) (b ≠ 0) (layBits (s.oldOp q v (p i)) us)
  match c.op with
  | 0x00 => do
    let (ba, s) ← read s 0 .a
    let (bw, s) ← s.readTile q v m b
    let r := kblock (s.arr q) c (p 0) (p 1) ba bw b int
    return (s.modArr q (·.putAcc c.ab r.1), r.2)
  | 0x10 => do
    let (ba, s) ← read s 0 .a
    let (bw, s) ← s.readTile q v m b
    let r := kblock (s.arr q) c (p 0) (p 1) ba bw b int
    return (s.modArr q (·.putAcc c.ab r.1), r.2)
  | 0x11 => do
    let (ba, s) ← read s 0 .a
    let (bw, s) ← s.readTile q v m b
    let s ← if b + 1 = c.nsteps then s.writeOp q v m (p 2) (extentOf c .recs (p 2)) false [] else pure s
    let r := kblock (s.arr q) c (p 0) (p 1) ba bw b int
    return (s.modArr q (·.putAcc c.ab r.1), r.2)
  | 0x01 => do
    let n := extentOf c .wld (p 0)
    let first := c.x % 16
    let k := ceilDiv n 65536
    if first + k > 12 then throw (.cause OPERAND_RANGE)
    let (l, s) ← s.readOp q v m (p 0) (c.x / 16 * n + n) [(c.x / 16 * n, n)]
    let bs := l.bytes (c.x / 16 * n) n
    let res := (s.ctx q m.ctx).res
    let tag := fun (k : Nat) => Tag.mk res (p 0).idx (c.x / 16) (c.x / 16 * n + k * 65536) (Nat.min 65536 (n - k * 65536))
    return (s.modArr q (fun a =>
      { a with
        seg := bs.zipIdx.foldl (fun l y => mput 0 l (first * 65536 + y.2) y.1) (mclear a.seg (first * 65536) (k * 65536))
        tags := Vector.ofFn (fun (i : Fin 16) => if decide (first ≤ i.val) && decide (i.val < first + k) then some (tag (i.val - first)) else a.tags[i]) }), {})
  | 0x03 => return (s.modArr q (fun a => { a with acc := mclear a.acc (c.ab * 32768) 32768, counts := mclear a.counts (c.ab * 128) 128 }), {})
  | 0x04 => do
    let a := s.arr q
    let f := outFields c .out (p 0) (c.x % 4) c.rows c.cols (fun r n => wordValue int (a.accAt c.ab r n))
    let s ← write s 0 .out f.1
    return (if c.z then s.modArr q (·.putAcc c.ab ((cells c.rows c.cols).map (fun e => (e.1, e.2, 0)))) else s, f.2)
  | 0x05 => do
    let (bs, s) ← read s 0 .src
    return (s.modArr q (·.putAcc c.ab ((cells c.rows c.cols).map (fun e => (e.1, e.2, BitVec.ofNat 32 (codeAt c .src (p 0) bs e.1 e.2))))), {})
  | 0x06 =>
    let a := s.arr q
    let ws := (cells c.rows c.cols).map (fun e =>
      let x := a.accAt c.ab e.1 e.2
      let y := a.accAt (1 - c.ab) e.1 e.2
      if int then
        let t := x.toInt + y.toInt
        ((e.1, e.2, (BitVec.ofInt 32 (clampS t 32) : Lane)), ({ sat := decide (clampS t 32 ≠ t) } : Cond))
      else let z := fp32.add 0 x.toNat y.toNat; ((e.1, e.2, BitVec.ofNat 32 z.1), z.2))
    return (s.modArr q (·.putAcc c.ab (ws.map (·.1))), ws.foldl (fun d w => d.or w.2) {})
  | 0x07 => do
    let (bs, s) ← read s 0 .book
    return (s.modArr q (fun a =>
      { a with cb := (cells c.cols 16).foldl (fun l e => mput 0 l (e.1 * 16 + e.2) (BitVec.ofNat 16 (codeAt c .book (p 0) bs e.1 e.2))) a.cb }), {})
  | 0x08 => return (s, {})
  | 0x12 => do
    let (ba, s) ← read s 0 .a
    let (bq, s) ← read s 1 .asg
    let a := s.arr q
    let a := if c.z then { a with acc := mclear a.acc (c.ab * 32768) 32768, counts := mclear a.counts (c.ab * 128) 128 } else a
    let r := (List.range c.rows).foldl (fun (x : Arr × Cond) r => let y := cupdRow c (p 0) ba bq int x.1 r; (y.1, x.2.or y.2)) (a, {})
    return (s.setArr q r.1, r.2)
  | 0x13 => do
    let (bw, s) ← read s 0 .w
    let a := s.arr q
    let f := cdivFields a c int (p 0) (p 1) bw
    let s ← write s 1 .cdest f.1
    return (s, f.2)
  | 0x14 => do
    let a := s.arr q
    let s ← write s 0 .counts ((List.range c.cols).map (fun n => (elemBit c .counts (p 0) 0 n, 32, (a.cntAt c.ab n).toNat)))
    return (s, {})
  | 0x15 => do
    let (bs, s) ← read s 0 .src
    let a := s.arr q
    let rs := (cells c.rows 8).map (fun e =>
      let g := 8 * b + e.2
      let xs := (List.range 32).map (fun k => elemValue c .src (p 0) a.bookAt bs e.1 (32 * g + k))
      let z := compressRun (p 1).enc (xs.map (·.1))
      (z.1.zipIdx.map (fun y => (8 * (blockByte c .cmp (p 1) e.1 g + y.2), 8, y.1.toNat)), xs.foldl (fun d x => d.or x.2) z.2))
    let s ← write s 1 .cmp (rs.flatMap (·.1))
    return (s, rs.foldl (fun d r => d.or r.2) {})
  | _ => do
    let (bs, s) ← read s 0 .src
    let a := s.arr q
    let rs := (cells c.rows c.cols).map (fun e =>
      let x := elemValue c .src (p 0) a.bookAt bs e.1 e.2
      let z := encodeIndex ((List.range 16).map (fun i => bf16.value (a.bookAt e.2 i))) x.1
      ((elemBit c .idx (p 1) e.1 e.2, 4, z.1), x.2.or z.2))
    let s ← write s 1 .idx (rs.map (·.1))
    return (s, rs.foldl (fun d r => d.or r.2) {})

/-- The buffers that a command names (09 Table 9-4). -/
def CWord.bufs (c : CWord) : List (Fin 2) :=
  match c.op with
  | 0x01 => []
  | 0x06 => [0, 1]
  | 0x07 => []
  | 0x08 => []
  | 0x15 => []
  | 0x16 => []
  | _ => [Fin.ofNat 2 c.ab]

/-- The buffer that a command writes, its target (09 R218). -/
def CWord.target (c : CWord) : List (Fin 2) :=
  if [0x00, 0x03, 0x05, 0x06, 0x10, 0x11, 0x12].contains c.op then [Fin.ofNat 2 c.ab] else []

/-- The handles that the next step of a command takes, with whether as destinations: those of its operands at the first step, that of the
records of DPA.NEAR at the last (10 R233, Table 10-2). -/
def ACmd.takes (m : ACmd) : List (Fin 64 × Bool) :=
  let c := cword m.word
  (((opRoles c.op).getD []).zip m.specs).filterMap (fun e =>
    let p := specOf e.2
    if (p.src = 3 || p.src = 4) && (if e.1 == .recs then m.steps + 1 == c.nsteps else m.steps == 0) then
      some (Fin.ofNat 64 p.idx, e.1.dest)
    else none)

/-- They go from FULL to DRAINING, and from FREE to FILLING. -/
def State.takeHnds (s : State) (q : Sq) (v : Vc) (m : ACmd) : State :=
  m.takes.foldl (fun s e => s.modHnd q v e.1 (·.goto (if e.2 then .filling else .draining))) s

/-- Whether an earlier V-path access of the core is outstanding (09 R216). -/
def State.vpathBefore (s : State) (q : Sq) (v : Vc) (id : Nat) : Bool := (s.core q v).vpath.any (fun a => decide (a.id < id))

/-- Whether an accepted command of core `v` is going to take handle `h` in the state that a source, or a destination, needs (10 R233). -/
def State.cmdAwaits (s : State) (q : Sq) (v : Vc) (h : Fin 64) (dest : Bool) : Bool :=
  (s.acore q v).accepted.any (fun m => !m.void && (((opRoles (cword m.word).op).getD []).zip m.specs).any (fun e =>
    let p := specOf e.2
    (p.src == 3 || p.src == 4) && p.idx == h.val && e.1.dest == dest &&
      (if e.1 == .recs then decide (m.steps < (cword m.word).nsteps) else m.steps == 0)))

/-- The current command that the holder may run. -/
def State.running (s : State) (q : Sq) : Option (Vc × ACmd) :=
  match (s.arr q).holder with
  | none => none
  | some v => match (s.acore q v).cur with
    | some m => if m.accepted && !m.void then some (v, m) else none
    | none => none

/-- The command whose next step's tile is fetched while command `m` of core `v` runs the step before it: the command itself, or the next
one accepted, where it is a K-block step with a tile to fetch (09 Table 9-5, 19 R379). -/
def State.tileNext (s : State) (q : Sq) (v : Vc) (m : ACmd) : Option ACmd :=
  let kstep := fun (y : ACmd) => [0x00, 0x10, 0x11].contains (cword y.word).op && [2, 3, 4].contains (specOf (y.specs.getD 1 0)).src
  if m.steps < (cword m.word).nsteps then (if kstep m then some m else none)
  else match (s.acore q v).nxt with
    | some y => if y.accepted && !y.void && kstep y && !s.vpathBefore q v y.id then some y else none
    | none => none

/-- The tile of the next step is fetched during the step that ends; what its own step would find wrong is left to that step. -/
def State.fetchAhead (s : State) (q : Sq) (v : Vc) (m : ACmd) : State :=
  match s.tileNext q v m with
  | none => s.modArr q (fun a => { a with ahead := none })
  | some y => match (s.modArr q (fun a => { a with ahead := none })).readTile q v y y.steps with
    | .ok (l, s) => s.modArr q (fun a => { a with ahead := some { core := v, seq := y.seq, step := y.steps, bytes := l } })
    | .error _ => s.modArr q (fun a => { a with ahead := none })

/-- ARRAY_STEP_RETIRE: the next step of the holder's current command retires, with its retirement point (09 R207, R208, R213). Before the
first step a buffer that is not held is found before what is wrong with an operand (log 91), and a step performs its writes to memory as
it retires (log 92). The last step of DPA.NEAR fetches nothing ahead: its records are still to be written (09 R216). -/
def execArrayStepRetire (q : Sq) (s : State) : Out :=
  match s.running q with
  | none => .next s
  | some (v, m) =>
    let c := cword m.word
    if m.steps ≥ c.nsteps || s.vpathBefore q v m.id then .next s
    else if m.steps = 0 && c.bufs.any (fun b => (s.arr q).bufs[b] ≠ some m.ctx) then .next (s.arrayFault q v ACC_NOT_HELD 0)
    else match s.stepEffect q v m with
      | .error .stall => .next s
      | .error (.cause k) => .next (s.arrayFault q v k m.steps)
      | .ok (t, cond) =>
        let t := t.takeHnds q v m
        let m' := { m with steps := m.steps + 1, handles := m.handles ++ m.takes.map (·.1) }
        let cyc := (s.sq q).cyc
        let point := decide (m'.steps - m'.pointSteps ≥ 64) || decide (cyc - m'.pointCyc ≥ 14328) || s.saving q m.ctx
        let t := t.modACore q v (fun a =>
          { a with cur := some (if point then m'.point cyc else m'), cond := a.cond ||| cond.bits, steps := m'.steps })
        if point && (t.otherGrantable q v || s.saving q m.ctx) then .next (t.endTerm q)
        else if c.op = 0x11 && m'.steps = c.nsteps then .next (t.modArr q (fun a => { a with ahead := none }))
        else .next (t.fetchAhead q v m')

/-- The completion entry of a command (09 Table 9-7). -/
def cmdEntry (m : ACmd) : Word :=
  let c := cword m.word
  word (2 ^ 63 + (if c.op = 8 then c.x else 0) * 2 ^ 48 + m.seq % 2 ^ 16 * 2 ^ 32 + m.steps % 2 ^ 16 * 2 ^ 16 + c.op)

/-- A completion of a command of context `c` posted: to arq, or behind it in the holding register (09 R214). The queues of a claimed core
take entries for the claiming context alone (08 R168, R185). -/
def State.postArq (s : State) (q : Sq) (v : Vc) (c : Cx) (w : Word) : State :=
  if s.coreCtx q v ≠ c then s
  else if (s.core q v).arq.length < 32 && (s.acore q v).hreg.isEmpty then s.modCore q v (fun x => { x with arq := x.arq ++ [w] })
  else s.modACore q v (fun a => { a with hreg := a.hreg ++ [w] })

/-- The holding register passes its entries to arq as it has room. -/
def State.refillArq (s : State) (q : Sq) (v : Vc) : State :=
  let n := 32 - (s.core q v).arq.length
  let h := (s.acore q v).hreg
  (s.modCore q v (fun x => { x with arq := x.arq ++ h.take n })).modACore q v (fun a => { a with hreg := a.hreg.drop n })

/-- The current command of core `v` leaves its slot; the next accepted one becomes current, and a holder left with none gives way
(09 R201). -/
def State.retireCmd (s : State) (q : Sq) (v : Vc) : State :=
  let cyc := (s.sq q).cyc
  let s := s.modACore q v (fun a => match a.nxt with
    | some m => if m.accepted then { a with cur := some (m.point cyc), nxt := none } else { a with cur := none }
    | none => { a with cur := none })
  (s.settleRelease q v).yieldIdle q

/-- The end of a command that has retired every step: the comparator chain of DPA.NEAR, the handles, the completion, and the
count of the term (09 R201, R210, R214). After the records of DPA.NEAR the tile of the next command is fetched (19 R379). -/
def State.cmdTail (s : State) (q : Sq) (v : Vc) (m : ACmd) : Except XStop State := do
  let c := cword m.word
  let int := intMode c m.specs
  let p := specOf (m.specs.getD 2 0)
  let s ← if c.op = 0x11 then
      s.writeOp q v m p (extentOf c .recs p) true
        (((List.range c.rows).flatMap (nearRecord (s.arr q) c int)).zipIdx.map (fun y => (y.2, y.1)))
    else pure s
  let s := m.handles.foldl (fun s h => s.modHnd q v h (fun y =>
    if y.st = .filling then y.goto .full else if y.st = .draining then y.goto .free else y)) s
  let s := if c.op = 0x11 then s.fetchAhead q v m else s
  let s := if c.post then s.postArq q v m.ctx (cmdEntry m) else s
  let s := s.modArr q (fun a => { a with term := if m.inTerm then a.term + 1 else a.term })
  let s := s.retireCmd q v
  return if (s.arr q).holder = some v && m.inTerm && decide ((s.acore q v).lim ≤ (s.arr q).term) then s.turnTerm q v else s

/-- ARRAY_COMMAND_RETIRE: the holder's current command retires after its last step, or a command that a task's end has
voided retires with no effect (09 R201, R214; 15 R325). -/
def execArrayCommandRetire (q : Sq) (s : State) : Out :=
  match (List.finRange 4).find? (fun v => match (s.acore q v).cur with | some m => m.void | none => false) with
  | some v => .next (s.retireCmd q v)
  | none => match s.running q with
    | none => .next s
    | some (v, m) =>
      if m.steps < (cword m.word).nsteps then .next s
      else match s.cmdTail q v m with
        | .ok s => .next s
        | .error .stall => .next s
        | .error (.cause k) => .next (s.arrayFault q v k m.steps)

end Sys2Proof.Machine
end

