-- ==== Sys2Proof/Machine/Control.lean ====
section
/-! DEFINITION. Branches, calls, jumps and runs (06 R129 to R138). -/

namespace Sys2Proof.Machine

def PC_MISALIGNED : Nat := 0x020

/-- A branch on p[p] = `sense`; `n` squashes its slots where it is not taken (06 Table 6-1). -/
def State.branch (s : State) (p : Pr) (sense : Bool) (o : BitVec 21) (n : Bool) : Out :=
  let taken := s.rp p == sense
  .next (s.modMe (fun x => x.flow (if taken then some (brTarget x.q0.pc o) else none) (n && !taken)))

/-- BR (06 Table 6-1). -/
def execBr (p : Pr) (sense : Bool) (o : BitVec 21) (s : State) : Out := s.branch p sense o false
/-- BR.N (06 Table 6-1). -/
def execBrN (p : Pr) (sense : Bool) (o : BitVec 21) (s : State) : Out := s.branch p sense o true
/-- CALL (06 Table 6-1). -/
def execCall (o : BitVec 21) (s : State) : Out :=
  .next (s.modMe (fun x => ((x.setS 31 x.link).flow (some (brTarget x.q0.pc o)) false)))

/-- A jump to s[a], which is read before the link is written (06 R133, R134). -/
def State.jump (s : State) (link : Option Reg) (a : Reg) (squash : Bool) : Out :=
  let t := s.rs a
  if bits t 0 2 ≠ 0 then s.trap PC_MISALIGNED
  else .next (s.modMe (fun x => ((match link with | some d => x.setS d x.link | none => x).flow (some t) squash)))

/-- JR (06 Table 6-1). -/
def execJr (a : Reg) (s : State) : Out := s.jump none a false
/-- JR.N (06 Table 6-1). -/
def execJrN (a : Reg) (s : State) : Out := s.jump none a true
/-- JRL (06 Table 6-1). -/
def execJrl (d a : Reg) (s : State) : Out := s.jump (some d) a false
/-- JRL.N (06 Table 6-1). -/
def execJrlN (d a : Reg) (s : State) : Out := s.jump (some d) a true

/-! ## Runs (06 R136, R137) -/

/-- The instructions F may issue at one boundary (05 R101). -/
def burst : Nat := 16

/-- The run of tile context `c` ends: no context is ACTIVE until the next is chosen (05 R100), and a boundary opens for F. -/
def State.runEnds (s : State) (q : Sq) (c : Fin 8) : State :=
  s.modSq q (fun x => { x with active := none, lastRun := c, fburst := burst })

/-- YIELD: the context goes to READY. In context F, which has no run, it ends F's burst (log 15). -/
def execYield (s : State) : Out :=
  match cxTile s.fcx with
  | none => .next (s.retire.modSq s.fsq (fun x => { x with fburst := 0 }))
  | some c => .next ((s.retire.modMe (fun x => { x with st := .ready, bounds := x.bounds + 1 })).runEnds s.fsq c)

/-- Whether an emit queue holds an entry of a context or a bundle of it has issued and not retired. -/
def Square.bundlesOf (x : Square) (c : Cx) : Bool :=
  x.cores.toList.any (fun v => v.eq.any (fun e => e.ctx == c) || v.issued.any (fun i => i.ent.ctx == c))

/-- EXIT (06 R136, 07 R164, 10 R237): it waits for the context's bundles; a record that waits in the handler ends the task
(log 16). Context F has no task, and its EXIT only retires (log 15). -/
def execExit (s : State) : Out :=
  match cxTile s.fcx with
  | none => s.done
  | some c =>
    if (s.sq s.fsq).bundlesOf s.fcx then s.block .exit
    else if !s.me.records.isEmpty then .next (s.deliver s.fsq s.fcx)
    else
      let s := (s.partials s.fsq s.fcx false).retire
      .next ((s.modMe (fun x => { x with st := .ending, endCause := none, bounds := x.bounds + 1 })).runEnds s.fsq c)

end Sys2Proof.Machine
end

