-- ==== Sys2Proof/Machine/LoadStore.lean ====
section
/-! DEFINITION. Loads, stores, STX, atomics, and the delivery and performing of what they leave in flight (05 R118 to R126). -/

namespace Sys2Proof.Machine

def PLAIN_NO_TIME : Nat := 0x117
def LOG_FULL : Nat := 0x110

/-! ## The context's own view (05 R123) -/

/-- What a log entry fixes of the byte at `a`, with the program-order number of the store that wrote it. -/
def LogEnt.at_ (e : LogEnt) (a : Nat) : Option (Nat × Byte) :=
  (e.bytes.find? (fun p => p.1 == a)).map (fun p => (e.pos[Fin.ofNat 8 (a - e.addr)], p.2))

/-- What a posted store fixes of the byte at `a`. -/
def Posted.at_ (p : Posted) (a : Nat) : Option (Nat × Byte) :=
  if decide (p.pa ≤ a) && decide (a < p.pa + p.bytes.length) then some (p.po, p.bytes.getD (a - p.pa) 0) else none

/-- The latest of stores in program order. -/
def latest : List (Nat × Byte) → Option (Nat × Byte)
  | [] => none
  | p :: t => match latest t with
    | some r => if r.1 < p.1 then some p else some r
    | none => some p

/-- The log entries of a context's own stores: those of its task, in its square and in every other one in which the task has run
(05 R123, 11 R266). -/
def State.ownLog (s : State) (q : Sq) (c : Cx) : List LogEnt :=
  let k := (s.ctx q c).task
  (q :: s.trailOf q k).flatMap (fun r => (s.sq r).log.filter (fun e => e.task == k && (e.task ≠ 0 || e.ctx == c)))

/-- The byte at flat address `a` that the context's own stores fix: the latest in program order among its log entries and posted stores. -/
def State.ownByte (s : State) (q : Sq) (c : Cx) (a : Nat) : Option Byte :=
  (latest ((s.ownLog q c).filterMap (·.at_ a) ++ (s.ctx q c).posted.filterMap (·.at_ a))).map (·.2)

/-- What the own stores fix of `n` bytes. -/
def State.ownBytes (s : State) (q : Sq) (c : Cx) (a n : Nat) : List (Option Byte) :=
  (List.range n).map (fun i => s.ownByte q c (a + i))

/-- Bytes of a list, each replaced where the own stores fix it. -/
def overlay (known : List (Option Byte)) (bs : List Byte) : List Byte :=
  (known.zip bs).map (fun p => p.1.getD p.2)

/-! ## Loads (05 R118, R120) -/

/-- The bytes of a line at `va`. -/
def DLine.slice (l : DLine) (va n : Nat) : List Byte := (List.range n).map (fun i => l.get (va % 64 + i))

/-! ## Performing what is in flight (05 R123, R124; 12 R269) -/

/-- The oldest posted store of a context enters the data cache, which allocates its line (12 R270; log 13). -/
def State.performPosted (s : State) (q : Sq) (c : Cx) : State :=
  match (s.ctx q c).posted with
  | [] => s
  | p :: t =>
    let s := s.modCtx q c (fun x => { x with posted := t })
    (s.fillLine q (p.va / 64) (p.pa - p.pa % 64)).putLine q c p.va p.bytes

/-- Every posted store of a context enters the data cache, in program order. -/
def State.drainPosted (s : State) (q : Sq) (c : Cx) : State :=
  (s.ctx q c).posted.foldl (fun s _ => s.performPosted q c) s

/-- The value that a load in flight reads now: its line is filled from its home, and the bytes that the context's own stores
fix are laid over it. -/
def State.performLoad (s : State) (q : Sq) (l : LoadFlight) : Word × State :=
  match l.value with
  | some v => (v, s)
  | none =>
    let s := s.fillLine q (l.va / 64) (l.pa - l.pa % 64)
    let bs := match (s.sq q).line (l.va / 64) with
      | some d => d.slice l.va l.size
      | none => s.rdB l.pa l.size
    (word (leNat (overlay l.known bs)), s)

/-- Every load miss of a context is performed, in program order; its value is delivered later. -/
def State.performLoads (s : State) (q : Sq) (c : Cx) : State :=
  let r := (s.ctx q c).loads.foldl (fun (r : List LoadFlight × State) l =>
    let p := r.2.performLoad q l
    (r.1 ++ [{ l with value := some p.1 }], p.2)) ([], s)
  r.2.modCtx q c (fun x => { x with loads := r.1 })

/-- Every earlier P-path access of a context is performed: its loads, its posted stores, and the dirty bytes of the lines it
has written (07 R158, 10 R239). -/
def State.performAll (s : State) (q : Sq) (c : Cx) : State :=
  ((s.performLoads q c).drainPosted q c).writeBack q (fun l => l.writers.getLsbD c.val)

/-- The program-order number that the issuing context's next P-path access takes. -/
def State.nextPo (s : State) : Nat × State := (s.me.po, s.modMe (fun x => { x with po := x.po + 1 }))

/-- The load of `n` bytes at flat address `a` into s[d] of the issuing context (05 R118): a value that the context's own
stores or the data cache hold is delivered at once, a space-0 miss later. -/
def State.load (s : State) (i : Instr) (sp : Fin 4) (ea : Word) (n : Nat) (d : Reg) (a : Nat) : Out :=
  let q := s.fsq
  let known := s.ownBytes q s.fcx a n
  if sp = 0 then
    match (s.sq q).line (ea.toNat / 64) with
    | some l =>
      if (List.range n).all (fun k => (known.getD k none).isSome || l.good (ea.toNat % 64 + k)) then
        (s.wS d (word (leNat (overlay known (l.slice ea.toNat n))))).done
      else s.trap DATA_UNCORRECTABLE
    | none =>
      if known.all (·.isSome) then (s.wS d (word (leNat (overlay known (List.replicate n 0))))).done
      else if s.isBad a n then s.trap DATA_UNCORRECTABLE
      else if (s.sq q).outLoads s.fcx ≥ counterMax then s.block i
      else
        let (po, s) := s.nextPo
        (s.modMe (fun x => { x with loads := x.loads ++
          [{ d := d, size := n, va := ea.toNat, pa := a, known := known, value := none, po := po }] })).done
  else if sp = 1 && s.blockBad q (ea.toNat / 512) then s.trap STREAM_DECODE
  else if s.isBad a n then s.trap DATA_UNCORRECTABLE
  else
    let s := s.performLoads q s.fcx
    (s.wS d (word (leNat (overlay known (s.rdB a n))))).done

/-- A MEM load of `n` bytes (05 Table 5-13). -/
def State.execLoad (s : State) (i : Instr) (d b : Reg) (sp : Fin 4) (o : BitVec 14) (n : Nat) : Out :=
  let ea := s.ea b o n
  s.withAccess i sp ea n { r := true } (fun a s => s.load i sp ea n d a)

/-- LD.B (05 Table 5-13). -/
def execLdB (d b : Reg) (sp : Fin 4) (o : BitVec 14) (s : State) : Out := s.execLoad (.ldB d b sp o) d b sp o 1
/-- LD.H (05 Table 5-13). -/
def execLdH (d b : Reg) (sp : Fin 4) (o : BitVec 14) (s : State) : Out := s.execLoad (.ldH d b sp o) d b sp o 2
/-- LD.W (05 Table 5-13). -/
def execLdW (d b : Reg) (sp : Fin 4) (o : BitVec 14) (s : State) : Out := s.execLoad (.ldW d b sp o) d b sp o 4
/-- LD.D (05 Table 5-13). -/
def execLdD (d b : Reg) (sp : Fin 4) (o : BitVec 14) (s : State) : Out := s.execLoad (.ldD d b sp o) d b sp o 8

/-! ## Stores (05 R118 to R122, 12 R281, R283, R284) -/

/-- The bytes of a store merged into an aligned 8-byte word: its mask and data. -/
def wordMask (a n : Nat) : BitVec 8 := BitVec.ofNat 8 ((2 ^ n - 1) * 2 ^ (a % 8))
/-- The data word with the store's bytes at their place. -/
def wordData (old : Word) (a n v : Nat) : Word :=
  let m : Word := word ((2 ^ (8 * n) - 1) * 2 ^ (8 * (a % 8)))
  (old &&& ~~~m) ||| (word (v * 2 ^ (8 * (a % 8))) &&& m)

/-- The program-order numbers of the last stores to the bytes of a word, after a store of `n` bytes at `a`. -/
def storedAt (pos : Vector Nat 8) (a n po : Nat) : Vector Nat 8 :=
  Vector.ofFn (fun k => if (wordMask a n).getLsbD k.val then po else pos[k])

/-- Whether a 2 MiB page translates `va` for the issuing square. -/
def State.throughBig (s : State) (va : Nat) : Bool := match s.findXl s.fsq va with
  | .ok e => e.big
  | .error _ => false

/-- The bytes that a load in flight reads now: those of its line where the data cache holds it, else those of its home. -/
def State.seenNow (s : State) (q : Sq) (l : LoadFlight) : List Byte :=
  match (s.sq q).line (l.va / 64) with
  | some d => d.slice l.va l.size
  | none => s.rdB l.pa l.size

/-- The loads in flight of the issuing context that read a byte of the word at `a` read it now: a store of the context that follows them is
not what they return (05 R123). -/
def State.fixLoads (s : State) (a : Nat) : State :=
  s.modMe (fun x => { x with loads := x.loads.map (fun l =>
    if l.value.isNone && decide (l.pa < a / 8 * 8 + 8) && decide (a / 8 * 8 < l.pa + l.size) then
      { l with known := (overlay l.known (s.seenNow s.fsq l)).map some }
    else l) })

/-- A store to a plain-shared region of a scope enters the commit log (12 R281, R284); what the context's earlier loads of the word return
is fixed first (05 R123). -/
def State.logStore (s : State) (sp : Fin 4) (ea : Word) (a n v : Nat) (scope : Fin 8) : Out :=
  let x := s.sq s.fsq
  match x.leastHeld (.ctx s.fcx) scope with
  | none => s.trap PLAIN_NO_TIME
  | some stamp =>
    let same := fun (e : LogEnt) => e.task == s.me.task && e.ctx == s.fcx && e.addr == a / 8 * 8 && e.scope == scope && e.stamp == stamp
    if x.log.any same then
      let (po, s) := (s.fixLoads a).nextPo
      (s.modSq s.fsq (fun x => { x with log := x.log.map (fun e =>
        if same e then { e with mask := e.mask ||| wordMask a n, data := wordData e.data a n v, arrived := false, pos := storedAt e.pos a n po }
        else e) })).done
    else if x.log.length ≥ 2048 then s.trap LOG_FULL
    else
      let (po, s) := (s.fixLoads a).nextPo
      let e : LogEnt :=
        { addr := a / 8 * 8, va := if sp = 0 then some ea.toNat else none, mask := wordMask a n,
          data := wordData 0 a n v, scope := scope, stamp := stamp, ctx := s.fcx, po := po, arrived := false,
          inv := s.me.inv, task := s.me.task, big := sp = 0 && s.throughBig ea.toNat
          pos := storedAt (Vector.replicate 8 0) a n po }
      (s.modSq s.fsq (fun x => { x with log := x.log ++ [e] })).done

/-- The store of the low `n` bytes of `v` at flat address `a` (05 R118, R122). -/
def State.store (s : State) (i : Instr) (sp : Fin 4) (ea : Word) (n : Nat) (v : Word) (a : Nat) : Out :=
  match s.plainAt sp ea with
  | some r =>
    if s.isF then s.trap PLAIN_PATH
    else s.logStore sp ea a n (v.toNat % 2 ^ (8 * n)) (Fin.ofNat 8 (bits r.sync 0 3))
  | none =>
    let bs := natLE n v.toNat
    if sp = 0 then
      if (s.sq s.fsq).outStores s.fcx ≥ counterMax then s.block i
      else
        let (po, s) := s.nextPo
        (s.modMe (fun x => { x with posted := x.posted ++ [{ va := ea.toNat, pa := a, bytes := bs, po := po }] })).done
    else if sp = 1 then s.orTrap ((s.performLoads s.fsq s.fcx).writeStore s.fsq ea.toNat bs) State.done
    else ((s.performLoads s.fsq s.fcx).writeHome a bs).done

/-- A store of `n` bytes with its checks. -/
def State.execStore (s : State) (i : Instr) (sp : Fin 4) (ea : Word) (n : Nat) (v : Word) : Out :=
  s.withAccess i sp ea n { w := true } (fun a s => s.store i sp ea n v a)

/-- ST.W (05 Table 5-13). -/
def execStW (d b : Reg) (sp : Fin 4) (o : BitVec 14) (s : State) : Out :=
  s.execStore (.stW d b sp o) sp (s.ea b o 4) 4 (s.rs d)
/-- ST.D (05 Table 5-13). -/
def execStD (d b : Reg) (sp : Fin 4) (o : BitVec 14) (s : State) : Out :=
  s.execStore (.stD d b sp o) sp (s.ea b o 8) 8 (s.rs d)
/-- STX: its offset is not scaled (05 R119). -/
def execStx (d a b : Reg) (sp z : Fin 4) (s : State) : Out :=
  s.execStore (.stx d a b sp z) sp (s.rs a + s.rs b) (sizeOf4 z) (s.rs d)

/-- The accesses of every context made through translations that a TLBI may remove are performed: its loads take their values, and its
posted stores enter the data caches (14 R306). -/
def State.settle (s : State) (t : TlbiArg) : State :=
  (s.tlbBusy t).foldl (fun s p => (s.performLoads p.1 p.2).drainPosted p.1 p.2) s

/-- TLBI with every acknowledgement: what was translated before is performed, then the entries leave. -/
def State.tlbInvalidate (s : State) (t : TlbiArg) (discard : Bool) : State := (s.settle t).shootdown t discard

/-! ## Atomics (05 R125, R126) -/

/-- The line of `va` leaves the data cache of `q`, its dirty bytes written back, so that the home holds them. -/
def State.flushLine (s : State) (q : Sq) (va : Nat) : State := s.evictLine q (va / 64)

/-- The new value at the home from the old one, the operand and the compare value, all of `8 * n` bits (05 Table 5-14). -/
abbrev AFun := (w : Nat) → BitVec w → BitVec w → BitVec w → BitVec w

/-- An atomic of access width `n` at s[a] (05 R125, R126): the context's earlier accesses are performed, it acts at the home, and a space-0
atomic delivers its value later. -/
def State.atomic (s : State) (i : Instr) (d a b : Reg) (sp : Fin 4) (z : Bool) (f : AFun) : Out :=
  let ea := s.rs a
  let n := sizeOfD z
  let v := s.rs b
  let cmp := s.rs d
  s.withAccess i sp ea n { r := true, w := true } (fun at_ s =>
    if (s.plainAt sp ea).isSome then s.trap ATOMIC_IN_PLAIN
    else
      let act := fun (s : State) =>
        let old := s.rdN at_ n
        let new := f (8 * n) (BitVec.ofNat _ old) (BitVec.ofNat _ v.toNat) (BitVec.ofNat _ cmp.toNat)
        (word old, natLE n new.toNat)
      if sp = 0 then
        let h := ((s.performLoads s.fsq s.fcx).drainPosted s.fsq s.fcx).flushLine s.fsq ea.toNat
        if h.isBad at_ n then h.trap DATA_UNCORRECTABLE
        else if (s.sq s.fsq).outLoads s.fcx ≥ counterMax then s.block i
        else
          let s := h
          let (old, bs) := act s
          let (po, s) := (s.writeHome at_ bs).nextPo
          (s.modMe (fun x => { x with loads := x.loads ++
            [{ d := d, size := n, va := ea.toNat, pa := at_, known := [], value := some old, po := po }] })).done
      else if sp = 1 then
        if s.blockBad s.fsq (ea.toNat / 512) then s.trap STREAM_DECODE
        else
          let (old, bs) := act s
          let s := s.performLoads s.fsq s.fcx
          s.orTrap (s.writeStore s.fsq ea.toNat bs) (fun s => (s.wS d old).done)
      else if s.isBad at_ n then s.trap DATA_UNCORRECTABLE
      else
        let (old, bs) := act s
        (((s.performLoads s.fsq s.fcx).writeHome at_ bs).wS d old).done)

/-- SWAP (05 Table 5-14). -/
def execSwap (d a b : Reg) (sp : Fin 4) (z : Bool) (s : State) : Out := s.atomic (.swap d a b sp z) d a b sp z (fun _ _ v _ => v)
/-- CAS (05 Table 5-14). -/
def execCas (d a b : Reg) (sp : Fin 4) (z : Bool) (s : State) : Out :=
  s.atomic (.cas d a b sp z) d a b sp z (fun _ old v c => if old = c then v else old)
/-- AADD (05 Table 5-14). -/
def execAadd (d a b : Reg) (sp : Fin 4) (z : Bool) (s : State) : Out := s.atomic (.aadd d a b sp z) d a b sp z (fun _ old v _ => old + v)
/-- AAND (05 Table 5-14). -/
def execAand (d a b : Reg) (sp : Fin 4) (z : Bool) (s : State) : Out := s.atomic (.aand d a b sp z) d a b sp z (fun _ old v _ => old &&& v)
/-- AOR (05 Table 5-14). -/
def execAor (d a b : Reg) (sp : Fin 4) (z : Bool) (s : State) : Out := s.atomic (.aor d a b sp z) d a b sp z (fun _ old v _ => old ||| v)
/-- AXOR (05 Table 5-14). -/
def execAxor (d a b : Reg) (sp : Fin 4) (z : Bool) (s : State) : Out := s.atomic (.axor d a b sp z) d a b sp z (fun _ old v _ => old ^^^ v)
/-- AMIN (05 Table 5-14). -/
def execAmin (d a b : Reg) (sp : Fin 4) (z : Bool) (s : State) : Out :=
  s.atomic (.amin d a b sp z) d a b sp z (fun _ old v _ => if sLt v old then v else old)
/-- AMAX (05 Table 5-14). -/
def execAmax (d a b : Reg) (sp : Fin 4) (z : Bool) (s : State) : Out :=
  s.atomic (.amax d a b sp z) d a b sp z (fun _ old v _ => if sLt old v then v else old)
/-- AMINU (05 Table 5-14). -/
def execAminu (d a b : Reg) (sp : Fin 4) (z : Bool) (s : State) : Out :=
  s.atomic (.aminu d a b sp z) d a b sp z (fun _ old v _ => if uLt v old then v else old)
/-- AMAXU (05 Table 5-14). -/
def execAmaxu (d a b : Reg) (sp : Fin 4) (z : Bool) (s : State) : Out :=
  s.atomic (.amaxu d a b sp z) d a b sp z (fun _ old v _ => if uLt old v then v else old)

/-! ## What is in flight -/

/-- LOAD_VALUE_DELIVERY: the oldest load or atomic in flight of a context delivers its value and leaves the load class
(05 R124); a load miss fills its line. -/
def execLoadValueDelivery (q : Sq) (c : Cx) (s : State) : Out :=
  match (s.ctx q c).loads with
  | [] => .next s
  | l :: t =>
    let p := (s.modCtx q c (fun x => { x with loads := t })).performLoad q l
    .next (p.2.modCtx q c (fun x => x.setS l.d p.1))

/-- Whether the oldest posted store of a context may be performed: no earlier load miss of the context is in flight. -/
def Ctx.storeReady (x : Ctx) : Bool :=
  match x.posted with
  | [] => false
  | p :: _ => x.loads.all (fun l => l.value.isSome || decide (p.po < l.po))

end Sys2Proof.Machine
end

