-- ==== Sys2Proof/Machine/Emit.lean ====
section
/-! DEFINITION. Emission of bundles (07 R147 to R158). -/

namespace Sys2Proof.Machine

def BUNDLE_CONFLICT : Nat := 0x080
def ILLEGAL_MOVE : Nat := 0x081
def PATCH_RANGE : Nat := 0x082
def EMIT_STALL : Nat := 0x083

/-! ## Reading a template (07 R149) -/

/-- One aligned 8-byte word of space 0 read as a P-path load of the issuing context, at once: its translation and check 7 of
05 R120. -/
def State.readWord (s : State) (va : Nat) : Except XStop (Nat × State) :=
  match s.translate s.fsq (s.me.who s.fcx) { r := true } va with
  | .error e => .error e
  | .ok (pa, s) =>
    let known := s.ownBytes s.fsq s.fcx pa 8
    let bad := match (s.sq s.fsq).line (va / 64) with
      | some l => !(List.range 8).all (fun k => (known.getD k none).isSome || l.good (va % 64 + k))
      | none => !known.all (·.isSome) && s.isBad pa 8
    if bad then .error (.cause DATA_UNCORRECTABLE)
    else
      let s := if ((s.sq s.fsq).line (va / 64)).isSome then s else s.performLoads s.fsq s.fcx
      let s := s.fillLine s.fsq (va / 64) (pa - pa % 64)
      let bs := match (s.sq s.fsq).line (va / 64) with
        | some l => l.slice va 8
        | none => s.rdB pa 8
      .ok (leNat (overlay known bs), s)

/-- The 24 bytes at a device-virtual address. -/
def State.readTemplate (s : State) (va : Nat) : Except XStop (BitVec 192 × State) := do
  let (w0, s) ← s.readWord va
  let (w1, s) ← s.readWord (va + 8)
  let (w2, s) ← s.readWord (va + 16)
  return (BitVec.ofNat 192 (w0 + w1 * 2 ^ 64 + w2 * 2 ^ 128), s)

/-! ## Enqueueing (07 R152, R162) -/

/-- The word of an instruction in the upper half of BADW, with a slot and a move (02 R39). -/
def badwOf (i : Instr) (slot m : Nat) : Word := word (((encode i).getD 0).toNat * 2 ^ 32 + slot * 2 ^ 24 + m)

/-- What the bundle adds to the counters of its context for each core: loads, stores, copies, array (08 R186). -/
def Entry.adds (e : Entry) : Nat × Nat × Nat × Nat :=
  let l := if e.isLoop then 1 else 0
  ((if e.loads then 1 else 0) + l, (if e.stores then 1 else 0) + l, l, (if e.cmds then 1 else 0) + l)

/-- Whether `k` copies of a bundle fit the counters of the issuing context. -/
def State.countsFit (s : State) (e : Entry) (k : Nat) : Bool :=
  let x := s.sq s.fsq
  let (l, t, c, a) := e.adds
  decide (x.outLoads s.fcx + k * l ≤ counterMax) && decide (x.outStores s.fcx + k * t ≤ counterMax) &&
    decide (s.outCopies s.fsq s.fcx + k * c ≤ counterMax) && decide (x.outArray s.fcx + k * a ≤ counterMax)

/-- The bundle enters the queue of core `v`, which the context claims; where a record of this core waits for the context, the core discards it (07
R160, R162). -/
def State.enqueue (s : State) (v : Vc) (w : BitVec 192) : State :=
  let q := s.fsq
  let c := s.fcx
  let s := s.claim q v c
  let e : Entry := { w := w, ctx := c, seq := s.me.seq[v], gwa := BitVec.ofNat 46 (bits s.me.q0.pc 2 46) }
  let gone := s.me.records.any (fun r => r.core == v && r.lvl == 1)
  let s := s.modMe (fun x =>
    { x with
      seq := vset x.seq v (x.seq[v] + 1)
      records := if gone then updFirst (fun r => r.core == v && r.lvl == 1) (fun r => [{ r with disc := r.disc + 1 }]) x.records else x.records })
  if gone then s
  else s.modCore q v (fun x => { x with eq := x.eq ++ [e], headSince := if x.eq.isEmpty && x.loop.isNone then s.now else x.headSince })

/-- After an EMIT-family instruction of a tile context retires, F may issue (05 R101), and the context counts a boundary (13 R298). -/
def State.emitDone (s : State) : Out :=
  if s.isF then s.done
  else .next ((s.retire.modMe (fun x => { x with bounds := x.bounds + 1 })).modSq s.fsq (fun x => { x with fburst := burst }))

/-- A trap of an EMIT-family instruction that writes BADW. -/
def State.emitTrap (s : State) (i : Instr) (slot m cause : Nat) : Out := s.trapBad (badwOf i slot m) cause

/-- EMIT, EMIT.P and EMIT.BC after the decode checks (07 R152): `patchOf` names the patched slot, the field and the value. -/
def State.emitTo (s : State) (i : Instr) (vs : List Vc) (a : Reg) (patchOf : Option (Fin 8 × Fin 4 × Word)) : Out :=
  let va := (s.rs a).toNat
  if va % 8 ≠ 0 then s.trap MISALIGNED
  else match s.readTemplate va with
    | .error .stall => s.block i
    | .error (.cause c) => s.trap c
    | .ok (w, s) =>
      match (match patchOf with
        | none => Except.ok w
        | some (k, f, v) => match patch w k.val f.val v with
          | some w' => Except.ok w'
          | none => Except.error (k.val, slotBits w k.val)) with
      | .error (k, m) => s.emitTrap i k m PATCH_RANGE
      | .ok w =>
        match firstIllegal w with
        | some k => s.emitTrap i k (slotBits w k) ILLEGAL_MOVE
        | none => match firstConflict w with
          | some k => s.emitTrap i k (slotBits w k) BUNDLE_CONFLICT
          | none =>
            if vs.any (fun v => s.foreign s.fsq v s.fcx) then s.emitTrap i 0 0 CORE_CLAIMED
            else if !(vs.all (fun v => decide ((s.core s.fsq v).eq.length < 64))) ||
                !s.countsFit { w := w, ctx := s.fcx, seq := 0, gwa := 0 } vs.length then s.block i
            else (vs.foldl (fun s v => s.enqueue v w) s).emitDone

/-- EMIT (07 R152). -/
def execEmit (v : Vc) (a : Reg) (s : State) : Out := s.emitTo (.emit v a) [v] a none

/-- EMIT.P (07 R150, R152). -/
def execEmitP (v : Vc) (a b : Reg) (k : Fin 8) (f : Fin 4) (s : State) : Out :=
  s.emitTo (.emitP v a b k f) [v] a (some (k, f, s.rs b))

/-- EMIT.BC (07 R152). -/
def execEmitBc (a : Reg) (m : BitVec 4) (s : State) : Out :=
  s.emitTo (.emitBc a m) ((List.finRange 4).filter (fun v => m.getLsbD v.val)) a none

/-- Whether core `v` meets the condition of EQ.WAIT (07 R154). -/
def VCore.roomFor (x : VCore) (n : Nat) : Bool :=
  if n = 0 then x.eq.isEmpty && x.issued.isEmpty else decide (x.eq.length + n ≤ 64)

/-- EQ.WAIT (07 R154). -/
def execEqWait (v : Vc) (n : Fin 65) (s : State) : Out :=
  if (s.core s.fsq v).roomFor n.val then s.emitDone else s.block (.eqWait v n)

/-- The snapshot of EQ.STAT (07 Table 7-4). -/
def State.eqStat (s : State) (v : Vc) : Word :=
  let x := s.core s.fsq v
  let c := s.me
  word (c.seq[v].toNat * 2 ^ 48 + c.rseq[v].toNat * 2 ^ 32 + (if c.rv[v] then 2 ^ 31 else 0) +
    x.queued s.fcx (fun _ => true) * 2 ^ 16 + (64 - x.eq.length))

/-- EQ.STAT (07 R156). -/
def execEqStat (v : Vc) (d : Reg) (s : State) : Out := (s.wS d (s.eqStat v)).emitDone

end Sys2Proof.Machine
end

