-- ==== Sys2Proof/Machine/Extents.lean ====
section
/-! DEFINITION. What a copy covers: places under handles, sub-rectangles, conversions and the extents that they give (10 R225, R233,
R240, R241). -/

namespace Sys2Proof.Machine

/-! ## Places and extents -/

/-- A place with a handle replaced by the buffer that `look` says it is bound to, and the bytes of `len` that stand in it; none stand in an
unbound handle (10 R233). -/
def Place.through (p : Place) (look : Vc → Fin 64 → Hnd) (q : Sq) (len : Nat) : Place × Nat :=
  match p with
  | .hnd v h =>
    let y := look v h
    (match y.sp with
      | 1 => .store q y.base
      | 2 => .pad v y.base
      | _ => .glob y.base, if y.bound then Nat.min len y.bytes else 0)
  | p => (p, len)

/-- A place as an instruction of context `c` finds it. -/
def State.under (s : State) (q : Sq) (c : Cx) (p : Place) (len : Nat) : Place × Nat := p.through (fun v h => s.seenHnd q v c h) q len

/-- A handle of a copy as it was bound when the copy was issued: the copy works on that buffer to its end, whatever the handle is bound to
by then (10 R233, R245). -/
def Copy.look (y : Copy) (v : Vc) (h : Fin 64) : Hnd :=
  match y.bound.find? (fun e => e.1 == v && e.2.1 == h) with
  | some e => e.2.2
  | none => Hnd.reset

/-- A place of a copy that has been issued. -/
def Copy.under (y : Copy) (p : Place) (len : Nat) : Place × Nat := p.through y.look y.sq len

/-- Whether a place other than a handle is aligned and `len` bytes stay in it (10 R240). -/
def Place.fits (p : Place) (len : Nat) : Bool :=
  match p with
  | .glob a => a % 32 == 0 && decide (a + len ≤ 2 ^ 48)
  | .store _ o => o % 32 == 0 && decide (o + len ≤ storeEnd)
  | .pad _ o => o % 32 == 0 && decide (o + len ≤ 0x80000)
  | .hnd _ _ => true

/-- Whether a place is local to square `q` (10 R241). -/
def Place.isLocal (p : Place) (q : Sq) : Bool :=
  match p with
  | .store r _ => r == q
  | _ => true

/-- Whether a place is a spread over cores: kind 2 or 3 with C zero. -/
def Place.spreadsCores : Place → Bool
  | .pad v _ => v == 0
  | .hnd v _ => v == 0
  | _ => false

/-- Whether a place is a spread over squares: kind 1 with SQ zero. -/
def Place.spreadsSquares : Place → Bool
  | .store q _ => q == 0
  | _ => false

/-- Whether an aligned sub-rectangle of a launch rectangle (01 R22). -/
def subRect (r launch : Nat) : Bool :=
  let x := fld r 24 8
  let y := fld r 16 8
  let h := fld r 8 8
  let w := fld r 0 8
  let x0 := fld launch 24 8
  let y0 := fld launch 16 8
  let h0 := fld launch 8 8
  let w0 := fld launch 0 8
  (List.range 5).any (fun i => w == 2 ^ i) && (List.range 5).any (fun j => h == 2 ^ j) &&
    decide (x0 ≤ x) && decide (y0 ≤ y) && (x - x0) % w == 0 && (y - y0) % h == 0 &&
    decide (x + w ≤ x0 + w0) && decide (y + h ≤ y0 + h0)

/-! ## Conversion (10 R225) -/

/-- Pieces of `n` of a list; `fuel` bounds their number. -/
def pieces {α : Type} (n : Nat) : Nat → List α → List (List α)
  | 0, _ => []
  | fuel + 1, l => if l.isEmpty then [] else l.take n :: pieces n fuel (l.drop n)

/-- The codes of packed elements of an encoding. -/
def codesOf (enc : Nat) (bs : List Byte) : List Nat :=
  let b := bits2 enc / 2
  (pieces (Nat.max 1 (b / 8)) bs.length bs).flatMap (fun g => (List.range (8 * g.length / b)).map (packed (leNat g) b))

/-- The bytes of codes of an encoding. -/
def bytesOfCodes (enc : Nat) (cs : List Nat) : List Byte :=
  let b := bits2 enc / 2
  (pieces (Nat.max 1 (8 / b)) cs.length cs).flatMap (fun g =>
    natLE (Nat.max 1 (b / 8)) ((g.zipIdx).foldl (fun n p => n + p.1 * 2 ^ (b * p.2)) 0))

/-- The values of the elements of bytes in a bank format. -/
def valuesOf (enc : Nat) (bs : List Byte) : List FV :=
  if enc = 8 then (pieces 18 bs.length bs).flatMap (fun g => (List.range 32).map (blockElem g))
  else (codesOf enc bs).map (encValue enc)

/-- Elements converted to a bank format: quantised to E2M1X in runs of 32, else converted with RNE. -/
def bytesOf (enc : Nat) (xs : List FV) : List Byte :=
  if enc = 8 then (pieces 32 xs.length xs).flatMap (fun g => (quantise g).bytes)
  else bytesOfCodes enc (xs.map (fun x => (encConvert enc 0 x).1))

/-- How a copy changes the bytes of one source. -/
inductive Conv where
  | same
  | runs (senc : Nat)
  | fmt (a b : Nat)
deriving DecidableEq, Repr

/-- The bytes that a conversion makes of `n` source bytes. -/
def Conv.size (v : Conv) (n : Nat) : Nat :=
  match v with
  | .same => n
  | .runs e => n / runBytes e * (if e = 9 then 18 else if e = 10 then 32 else 64)
  | .fmt a b => encBytes b (encElems a n)

/-- The destination bytes. -/
def Conv.bytes (v : Conv) (bs : List Byte) : List Byte :=
  match v with
  | .same => bs
  | .runs e => ((pieces (runBytes e) bs.length bs).filter (fun g => g.length == runBytes e)).flatMap (expandRun e)
  | .fmt a b => bytesOf b (valuesOf a bs)

/-- The format of bank `b` of core `v` as the claim of context `c` would leave it. -/
def State.seenFmt (s : State) (q : Sq) (v : Vc) (c : Cx) (b : Nat) : Nat :=
  let x := s.core q v
  if x.claim.isNone && c ≠ 8 then
    match s.residence (s.ctx q c).res with
    | some r => r.formatOf v.val b
    | none => 7
  else x.fmt[Fin.ofNat 16 b]

/-- The one format of the banks of an extent, none where they differ. -/
def State.extentFmt (s : State) (q : Sq) (c : Cx) (v : Vc) (o len : Nat) : Option Nat :=
  let f := s.seenFmt q v c (o / 0x8000)
  if (List.range 16).all (fun b => decide (b < o / 0x8000) || decide (o + len ≤ b * 0x8000) || s.seenFmt q v c b == f) then some f
  else none

/-- The conversion from a source to a destination (10 R225). -/
def State.convOf (s : State) (q : Sq) (c : Cx) (senc : Nat) (src dst : Place) : Conv :=
  if senc ≠ 0 then .runs senc
  else
    match src, dst with
    | .pad v o, .pad w p =>
      let a := s.seenFmt q v c (o / 0x8000)
      let b := s.seenFmt q w c (p / 0x8000)
      if a = b then .same else .fmt a b
    | _, _ => .same

/-- The bytes of destination `p`: what the conversions of the sources give one after another, up to its buffer's length (10 R225, R233). -/
def State.sizeBy (s : State) (look : Vc → Fin 64 → Hnd) (q : Sq) (c : Cx) (d : Desc) (op : Nat) (p : Place) : Nat :=
  let dst := (p.through look q 0).1
  let n := (d.sources op).foldl (fun k r =>
    let u := r.through look q d.len
    k + (s.convOf q c d.senc u.1 dst).size u.2) 0
  (p.through look q n).2

/-- The bytes of destination `p` of a copy that context `c` issues. -/
def State.destSize (s : State) (q : Sq) (c : Cx) (d : Desc) (op : Nat) (p : Place) : Nat :=
  s.sizeBy (fun v h => s.seenHnd q v c h) q c d op p

/-- The bytes of destination `p` of an issued copy. -/
def State.copySize (s : State) (y : Copy) (p : Place) : Nat := s.sizeBy y.look y.sq y.ctx y.d y.op.val p

/-- The greatest destination extent. -/
def State.destMax (s : State) (q : Sq) (c : Cx) (d : Desc) (op : Nat) : Nat :=
  (d.dests op).foldl (fun m p => Nat.max m (s.destSize q c d op p)) 0

/-- Whether the formats of `n` bytes of a source and of the `m` bytes of the whole destination allow the conversion (10 R225). -/
def State.fmtsOk (s : State) (q : Sq) (c : Cx) (senc : Nat) (src dst : Place) (n m : Nat) : Bool :=
  if senc ≠ 0 then
    match dst with
    | .pad v o => s.extentFmt q c v o m == some (if senc = 9 then 8 else if senc = 10 then 3 else 5)
    | _ => false
  else
    match src, dst with
    | .pad v o, .pad w p => match s.extentFmt q c v o n, s.extentFmt q c w p m with
      | some a, some b => a == b || (a ≠ 12 && b ≠ 12)
      | _, _ => false
    | _, _ => true

/-- Whether `n` bytes of a source are whole units of the conversion; an enc 8 bank moved unchanged into another goes in 512 elements, which
are 288 bytes, too (10 R225). -/
def Conv.lenOk (v : Conv) (n : Nat) (blocks : Bool) : Bool :=
  match v with
  | .same => !blocks || n % 288 == 0
  | .runs e => n % (if e = 9 then 224 else if e = 10 then 160 else 288) == 0
  | .fmt a b =>
    let k := encElems a n
    (v.size n) % 32 == 0 && n % 32 == 0 && encBytes a k == n && (!(a == 8 || b == 8) || k % 512 == 0)

/-- Whether source and destination of a copy without 2:4 expansion are both scratchpad places, the source's bank of format 8. -/
def State.blockCopy (s : State) (q : Sq) (c : Cx) (senc : Nat) (src dst : Place) : Bool :=
  match src, dst with
  | .pad v o, .pad _ _ => senc == 0 && s.seenFmt q v c (o / 0x8000) == 8
  | _, _ => false

end Sys2Proof.Machine
end

