-- ==== Sys2Proof/Machine/Handles.lean ====
section
/-! DEFINITION. Handle instructions and bank formats (10 R224, R232 to R235). -/

namespace Sys2Proof.Machine

def FORMAT_WORD : Nat := 0x0E9

/-- The core and handle of a selector (10 R235), none where a high bit is set. -/
def selector (w : Word) : Option (Vc × Fin 64) :=
  if bits w 8 56 = 0 then some (Fin.ofNat 4 (bits w 6 2), Fin.ofNat 64 (bits w 0 6)) else none

/-- An H instruction after its selector is read: a handle of a core that another context claims is refused (10 R232). -/
def State.withHandle (s : State) (i : Instr) (a : Reg) (k : Vc → Fin 64 → Hnd → Out) : Out :=
  match selector (s.rs a) with
  | none => s.trap HANDLE_RANGE
  | some (v, h) =>
    if s.foreign s.fsq v s.fcx then s.trapBad (badwOf i 0 0) CORE_CLAIMED
    else k v h (s.seenHnd s.fsq v s.fcx h)

/-- The instruction takes its claim of core `v`, if the core is unclaimed. -/
def State.take (s : State) (v : Vc) : State := s.claim s.fsq v s.fcx

/-- H.WAIT (10 Table 10-3, R234): an unbound handle is FREE for state 0 alone, and ERROR ends the wait for another state. -/
def execHWait (a : Reg) (st : Fin 5) (s : State) : Out :=
  s.withHandle (.hWait a st) a (fun v _ y =>
    if !y.bound && st ≠ 0 then s.trap HANDLE_UNBOUND
    else if y.st.num = st.val then (s.take v).done
    else if y.st = .error then s.trap HANDLE_ERROR
    else s.block (.hWait a st))

/-- The status word of a handle (10 Table 10-5). -/
def Hnd.status (h : Hnd) : Word :=
  word (h.st.num * 2 ^ 61 + (if h.st = .error then h.cause % 512 else 0) * 2 ^ 52 + (if h.bound then 2 ^ 51 else 0) +
    (if h.keep then 2 ^ 50 else 0) + h.sp % 4 * 2 ^ 48 + h.len % 2 ^ 14 * 2 ^ 34 + h.pos % 2 ^ 16)

/-- H.STAT (10 Table 10-3). -/
def execHStat (d a : Reg) (s : State) : Out :=
  s.withHandle (.hStat d a) a (fun v _ y => ((s.take v).wS d y.status).done)

/-- H.FREE (10 Table 10-3). -/
def execHFree (a : Reg) (s : State) : Out :=
  s.withHandle (.hFree a) a (fun v h y =>
    if !y.bound then s.trap HANDLE_UNBOUND
    else if y.partly then s.block (.hFree a)
    else (((s.take v).dropTile s.fsq v h).resetHnd s.fsq v h (fun y => if y.st = .free then y else y.goto .free)).done)

/-- The end of a place's range for a binding (10 R235). -/
def bindEnd (sp : Nat) : Nat := if sp = 1 then storeEnd else if sp = 2 then 0x80000 else 2 ^ 48

/-- The handle that a bind word makes (10 Table 10-4), none where it is malformed. -/
def bindOf (w : Word) : Option Hnd :=
  if w = 0 then some Hnd.reset
  else
    let h : Hnd :=
      { sp := bits w 62 2, len := bits w 48 14, base := bits w 9 39 * 512, st := if bit w 0 then .full else .free, pos := 0,
        keep := false, cause := 0 }
    if h.sp = 0 || bits w 1 8 ≠ 0 || h.base + h.bytes > bindEnd h.sp then none else some h

/-- H.BIND (10 R235). -/
def execHBind (a b : Reg) (s : State) : Out :=
  s.withHandle (.hBind a b) a (fun v h y =>
    match bindOf (s.rs b) with
    | none => s.trap HANDLE_RANGE
    | some n => if y.partly then s.block (.hBind a b) else (((s.take v).dropTile s.fsq v h).resetHnd s.fsq v h (fun _ => n)).done)

/-- The keep mark of a bound handle written. -/
def State.setKeep (s : State) (i : Instr) (a : Reg) (k : Bool) : Out :=
  s.withHandle i a (fun v h y =>
    if !y.bound then s.trap HANDLE_UNBOUND else ((s.take v).modHnd s.fsq v h (fun y => { y with keep := k })).done)

/-- H.KEEP (10 Table 10-3). -/
def execHKeep (a : Reg) (s : State) : Out := s.setKeep (.hKeep a) a true
/-- H.DISC (10 Table 10-3). -/
def execHDisc (a : Reg) (s : State) : Out := s.setKeep (.hDisc a) a false

/-! ## Bank formats (10 R222, R224) -/

/-- The core and bank of a selector, none where a high bit is set. -/
def bankOf (w : Word) : Option (Vc × Fin 16) :=
  if bits w 6 58 = 0 then some (Fin.ofNat 4 (bits w 4 2), Fin.ofNat 16 (bits w 0 4)) else none

/-- Whether a value is a bank format (10 R222). -/
def formatOk (f : Nat) : Bool := f ≤ 8 || f == 12 || f == 13

/-- Whether `len` bytes of a place that is no handle include bytes of bank `b` of core `v`. -/
def Place.inBank (p : Place) (len : Nat) (v : Vc) (b : Nat) : Bool :=
  match p with
  | .pad w o => w == v && decide (o / 0x8000 ≤ b) && decide (b * 0x8000 < o + len)
  | _ => false

/-- Whether the source or the destination of a queued copy includes bank `b` of core `v` (10 R224). -/
def State.copyBank (s : State) (q : Sq) (v : Vc) (b : Nat) : Bool :=
  (s.sq q).copyQ.any (fun y =>
    (y.d.sources y.op.val).any (fun p => let u := y.under p y.d.len; u.1.inBank u.2 v b) ||
    (y.d.dests y.op.val).any (fun p => (y.under p 0).1.inBank (s.copySize y p) v b))

/-- Whether a command that the array has accepted from a core, of whichever context, has not retired. -/
def ACore.holding (a : ACore) : Bool := [a.cur, a.nxt].any (fun m => (m.map (·.accepted)).getD false)

/-- FMT.SET (10 R224). -/
def execFmtSet (a b : Reg) (s : State) : Out :=
  match bankOf (s.rs a) with
  | none => s.trap FORMAT_WORD
  | some (v, k) =>
    let f := (s.rs b).toNat
    if !formatOk f then s.trap FORMAT_WORD
    else if s.foreign s.fsq v s.fcx then s.trapBad (badwOf (.fmtSet a b) 0 0) CORE_CLAIMED
    else
      let x := s.core s.fsq v
      if x.eq.any (fun e => e.ctx == s.fcx) || x.issued.any (fun e => e.ent.ctx == s.fcx) ||
          (s.sq s.fsq).arr.cores[v].holding || s.copyBank s.fsq v k.val then s.block (.fmtSet a b)
      else ((s.take v).modCore s.fsq v (fun x => { x with fmt := vset x.fmt k f })).done

/-- FMT.GET (10 R224). -/
def execFmtGet (d a : Reg) (s : State) : Out :=
  match bankOf (s.rs a) with
  | none => s.trap FORMAT_WORD
  | some (v, k) => (s.wS d (word ((s.core s.fsq v).fmt[k]))).done

end Sys2Proof.Machine
end

