-- ==== Sys2Proof/Machine/Special.lean ====
section
/-! DEFINITION. Special registers, traps and returns, counters, TLBI (02 R36, R54; 05 R102, R105, R113; 14 R306; 15 R318 to R323;
16 R348). -/

namespace Sys2Proof.Machine

def PRIVILEGED : Nat := 0x003
def ILLEGAL_FIELD : Nat := 0x002
def SOFTWARE_TRAP : Nat := 0x004
def TRAP_STATE : Nat := 0x005

/-- Check 4 of 02 R37 fails: the whole word goes to BADW, and PRIVILEGED is raised. -/
def State.denied (s : State) (i : Instr) : Out := s.trapBad (word ((encodeNat i).getD 0)) PRIVILEGED

/-- The context whose registers an access of the issuing context names: TSEL.CTX for F while TSEL.EN is 1 and the register is one
of 0x000 to 0x00F, 0x101 and 0x210 (15 R323). -/
def State.target (s : State) (redirected : Bool) : Cx :=
  let t := (s.sq s.fsq).tsel
  if s.isF && redirected && bit t 4 then tileCx (Fin.ofNat 8 (bits t 0 4)) else s.fcx

/-- Whether TSEL redirects a register number. -/
def redirects (r : Nat) : Bool := decide (r < 0x010) || r == 0x101 || r == 0x210

/-- FVR (02 Table 2-13). -/
def State.fvr (s : State) (x : Ctx) : Word := word (9 * 2 ^ 48 + 2 ^ 40 + s.patchLevel.toNat * 2 ^ 16 + x.fvrSeq.toNat)
/-- CTXN (05 Table 5-6). -/
def State.ctxn (q : Sq) (c : Cx) (x : Ctx) : Word :=
  word (q.val * 2 ^ 32 + (if c = 8 then 0 else x.res % 256 * 2 ^ 24 + x.pri % 4 * 2 ^ 20 + x.scope.val * 2 ^ 16) + ctxNum c)
/-- VCLM (08 Table 8-3). -/
def Square.vclm (x : Square) : Word :=
  word ((List.finRange 4).foldl (fun n v => n + (match x.cores[v].claim with
    | some c => c.val * 16 ^ v.val + 2 ^ (16 + v.val)
    | none => 0)) 0)
/-- PSTAT (16 Table 16-10). -/
def Ctx.pstat (x : Ctx) : Word := word (x.pstatRes % 2 ^ 16 * 2 ^ 48 + (if x.pstatSafe then 1 else 0))

/-- The value that MFS reads (02 R36). TLBI is write-only and reads 0 (00 R7). -/
def State.sprRead (s : State) (r : Nat) : Word :=
  let sq := s.sq s.fsq
  let c := s.target (redirects r)
  let x := s.ctx s.fsq c
  match r with
  | 0x000 => x.epc0
  | 0x001 => x.epc1
  | 0x002 => x.epc2
  | 0x003 => x.enul
  | 0x004 => x.cause
  | 0x005 => x.badw
  | 0x006 => x.bprov
  | 0x007 => x.bfltNow
  | 0x008 => x.thnd
  | 0x100 => s.fvr x
  | 0x101 => x.fill
  | 0x102 => State.ctxn s.fsq c x
  | 0x103 => if c = 8 then 0 else x.tidx
  | 0x104 => sq.vclm
  | 0x200 => sq.drth
  | 0x201 => sq.drcnt.setWidth 64
  | 0x202 => x.pstat
  | 0x210 => x.fwdt
  | 0x300 => word sq.fcred
  | 0x301 => s.ptbr
  | 0x303 => sq.tsel
  | 0x304 => sq.ctxr
  | _ => if 0x110 ≤ r && r ≤ 0x11F then x.rl[Fin.ofNat 16 (r - 0x110)] else 0

/-- Whether context F, or a tile context, may read a register (02 R36). -/
def mfsAllowed (f : Bool) (r : Nat) : Bool := f || r < 0x300
/-- Whether it may write it (02 R36). -/
def mtsAllowed (f : Bool) (r : Nat) : Bool :=
  r == 0x008 || r == 0x101 || (f && (r ≤ 0x007 || r == 0x200 || r == 0x210 || r == 0x301 || r == 0x302 || r == 0x303))

/-- The fields of a register taken from `v` where `m` has ones (00 R7, R8). -/
def field (old v m : Word) : Word := (old &&& ~~~m) ||| (v &&& m)

/-- The state after MTS of `v` to register `r`, field by field (05 R113); TLBI and TSEL are treated by execMts. -/
def State.sprWrite (s : State) (r : Nat) (v : Word) : State :=
  let m := fun (f : Ctx → Ctx) => s.modCtx s.fsq (s.target (redirects r)) f
  match r with
  | 0x000 => m (fun x => { x with epc0 := field x.epc0 v 0x0000FFFFFFFFFFFC })
  | 0x001 => m (fun x => { x with epc1 := field x.epc1 v 0x0000FFFFFFFFFFFC })
  | 0x002 => m (fun x => { x with epc2 := field x.epc2 v 0x0000FFFFFFFFFFFC })
  | 0x003 => m (fun x => { x with enul := field x.enul v 0x7 })
  | 0x004 => m (fun x => { x with cause := field x.cause v 0x0000FFFC000001FF })
  | 0x005 => m (fun x => { x with badw := badwKept v })
  | 0x006 => m (fun x => { x with bprov := v })
  | 0x007 => m (fun x => { x with bflt := field x.bflt v 0xFFFF0701 })
  | 0x008 => m (fun x => { x with thnd := field x.thnd v 0x0000FFFFFFFFFFFD })
  | 0x101 => m (fun x => { x with fill := field x.fill v 0xFFFFFFFF })
  | 0x200 => s.modSq s.fsq (fun x => { x with drth := field x.drth v 0x1003F })
  | 0x210 => m (fun x => { x with fwdt := field x.fwdt v 0xFFFFFFFF })
  | 0x301 => { s with ptbr := field s.ptbr v 0x0000FFFFFFFFF000 }
  | 0x303 => s.modSq s.fsq (fun x => { x with tsel := field x.tsel v 0x1F })
  | _ => s

/-- MFS (05 R113). The permission is a decode check, made here too. -/
def execMfs (d : Reg) (r : BitVec 12) (s : State) : Out :=
  if mfsAllowed s.isF r.toNat then (s.wS d (s.sprRead r.toNat)).done else s.denied (.mfs d r)

/-- TLBI: the MTS of s[a] to special register 0x302 (14 R306). Every TLB acknowledges once the accesses translated through a removed
entry are performed, which they are at once; the plain-shared stores made through the removed entries are discarded (12 R285). -/
def execTlbi (a : Reg) (s : State) : Out :=
  if !s.isF then s.denied (.mts a 0x302)
  else
    (s.tlbInvalidate (tlbiArg (s.rs a)) true).done

/-- MTS (05 R113): to TLBI it is TLBI, and a target context of TSEL from 8 to 15 is ILLEGAL_FIELD (15 Table 15-6). -/
def execMts (a : Reg) (r : BitVec 12) (s : State) : Out :=
  if !mtsAllowed s.isF r.toNat then s.denied (.mts a r)
  else if r = 0x302 then execTlbi a s
  else if r = 0x303 && bit (s.rs a) 3 then s.trap ILLEGAL_FIELD
  else (s.sprWrite r.toNat (s.rs a)).done

/-- TRAP (15 R321). -/
def execTrap (i : BitVec 12) (s : State) : Out :=
  if i ≠ 0 then s.trapSwc i.toNat SOFTWARE_TRAP
  else if s.me.inh && !s.isF then .next s.handlerReturn
  else s.trap TRAP_STATE

/-- RFE (15 R322, R323): outside a service it is a precise fault of F. -/
def execRfe (s : State) : Out :=
  if !s.isF then s.denied .rfe
  else match (s.sq s.fsq).service with
    | some (c, _) => .next (s.retire.serviceEnd s.fsq c)
    | none => s.trap TRAP_STATE

/-- RDTIME (16 R348). -/
def execRdtime (d : Reg) (s : State) : Out := (s.wS d (word s.now)).done
/-- RDCYC (16 R348). -/
def execRdcyc (d : Reg) (s : State) : Out := (s.wS d (word (s.sq s.fsq).cyc)).done

end Sys2Proof.Machine
end

