-- ==== Sys2Proof/Machine/Sync.lean ====
section
/-! DEFINITION. Regions, locks, fences, WAIT.C and watches (12 R272 to R280, 08 R187 to R190). -/

namespace Sys2Proof.Machine

def REGION_OVERLAP : Nat := 0x111
def REGION_FULL : Nat := 0x112
def REGION_DESC : Nat := 0x113
def LOCK_STATE : Nat := 0x114
def LOCK_PLACE : Nat := 0x115
def LOCK_STALL : Nat := 0x118

/-! ## Regions (12 R272 to R274) -/

/-- Whether a lock word lies in a plain-shared region of its space. -/
def State.inPlain (s : State) (sp a : Nat) : Bool := ((s.regionAt sp a).map (·.plain)).getD false

/-- Whether a synchronisation word is well formed (12 Table 12-3); `plain` where the region is plain-shared. -/
def State.syncOk (s : State) (w : Word) (plain : Bool) : Bool :=
  match bits w 62 2 with
  | 0 => w == 0 && !plain
  | 1 => bits w 48 14 == 0 && bits w 0 3 == 0 && !plain && !s.inPlain 0 (bits w 0 48)
  | 2 => bits w 23 39 == 0 && bits w 0 3 == 0 && decide (bits w 0 23 ≤ 0x7DBFF8) && !plain && !s.inPlain 1 (bits w 0 23)
  | _ => bits w 3 59 == 0

/-- The region of a descriptor (12 Table 12-2), none where it is malformed. -/
def State.regionOf (s : State) (w0 w1 sync w3 : Word) (o : RgnOwner) : Option Region :=
  let r : Region :=
    { space := bits w0 62 2, start := bits w0 0 48, len := bits w1 0 48, sync := sync, pool := bits w3 32 32,
      cls := bits w3 0 4 * 64, plain := bit w3 8, owner := o }
  let zero := bits w0 48 14 == 0 && bits w1 48 16 == 0 && bits w3 9 23 == 0 && bits w3 4 4 == 0
  let shape := decide (r.space ≤ 1) && r.start % 512 == 0 && r.len % 512 == 0 && r.len ≠ 0 && r.pool % 512 == 0 &&
    decide (128 ≤ r.cls) && decide (r.cls ≤ 512) &&
    decide (r.start + r.len ≤ (if r.space = 0 then 2 ^ 48 else storeEnd))
  let coding := if r.space = 0 then r.cls == 512 && r.pool == 0 else decide (r.len / 512 * r.cls + r.pool ≤ r.len)
  if zero && shape && coding && s.syncOk sync r.plain then some r else none

/-- Whether two regions share a byte. -/
def Region.meets (r t : Region) : Bool :=
  r.space == t.space && decide (r.start < t.start + t.len) && decide (t.start < r.start + r.len)

/-- The number that the next declared region takes: a free one of the 1,024, which the spec does not single out (12 R274; log 69). -/
def State.freeRegion (s : State) : Option Nat :=
  let l := (List.range 1024).filter (fun n => (mget none s.regions n).isNone)
  l[Config.pick s.free % l.length]?

/-- A 64-bit word of the issuing context's space 2, its own view (05 R123). -/
def State.privWord (s : State) (a : Nat) : Word := word (s.rdN (s.flat 2 a) 8)

/-- The checks of a read of `n` bytes of space 2 aligned to `al`. -/
def State.privRead (s : State) (a : Word) (n al : Nat) : Except Nat Nat :=
  if a.toNat % al ≠ 0 then .error MISALIGNED
  else if a.toNat + n > 0x4000 then .error SPACE_RANGE
  else if s.isBad (s.flat 2 a.toNat) n then .error DATA_UNCORRECTABLE
  else .ok a.toNat

/-- RGN.DECL (12 R274). -/
def execRgnDecl (d a : Reg) (s : State) : Out :=
  s.orTrap (s.privRead (s.rs a) 32 32) (fun p =>
    match s.regionOf (s.privWord p) (s.privWord (p + 8)) (s.privWord (p + 16)) (s.privWord (p + 24))
        (.inv (s.me.inv.getD 0)) with
    | none => s.trap REGION_DESC
    | some r =>
      if r.space ≠ 0 then s.trap REGION_DESC
      else if s.regionList.any r.meets then s.trap REGION_OVERLAP
      else match s.freeRegion with
        | none => s.trap REGION_FULL
        | some n => (({ s with regions := mput none s.regions n (some r) } : State).bump.wS d (word n)).done)

/-- Whether region `r` is bound to the lock word at `a` of space `sp` (12 Table 12-3). -/
def Region.ofLock (r : Region) (sp a : Nat) : Bool :=
  (sp == 0 && bits r.sync 62 2 == 1 && bits r.sync 0 48 == a) || (sp == 1 && bits r.sync 62 2 == 2 && bits r.sync 0 23 == a)

/-- The key of a lock word's release note: the device-virtual address, or the place in the square store. -/
def noteKey (q : Sq) (sp a : Nat) : Nat := if sp = 0 then a else storeAddr q.val a
/-- The release note of a lock word (12 R275). -/
def State.note (s : State) (k : Nat) : Note := mget { version := 0, mask := 0 } s.notes k
/-- A release note written. -/
def State.setNote (s : State) (k : Nat) (n : Note) : State := { s with notes := mput { version := 0, mask := 0 } s.notes k n }

/-- The squares of a mask. -/
def maskSquares (m : BitVec 160) : List Sq := (List.finRange 160).filter (fun q => m.getLsbD q.val)

/-- Dirty bytes of the regions that `p` selects are written back at every square of a mask (12 R276). -/
def State.pull (s : State) (m : BitVec 160) (p : Region → Bool) : State :=
  (maskSquares m).foldl (fun s q => (if q = s.fsq then s else s.flit q).writeBack q (s.lineIn p)) s

/-- Whether the lock word to which a synchronisation word binds reads H = 1 at its home, for RGN.BIND (12 R274): in space 0 it is a read of
the issuing context, translated with its checks (14 R308), in space 1 one of its square's store (log 98). -/
def State.lockTaken (s : State) (sync : Word) : Except XStop (Bool × State) :=
  match bits sync 62 2 with
  | 1 => match s.translate s.fsq (s.me.who s.fcx) { r := true } (bits sync 0 48) with
    | .error e => .error e
    | .ok (pa, t) =>
      if t.isBad pa 8 then .error (.cause DATA_UNCORRECTABLE) else .ok (bit (word (t.rdN pa 8)) 63, t.blkTouch pa 8)
  | 2 =>
    let o := bits sync 0 23
    if s.blockBad s.fsq (o / 512) then .error (.cause STREAM_DECODE) else .ok (bit (word (s.rdN (storeAddr s.fsq.val o) 8)) 63, s)
  | _ => .ok (false, s)

/-- RGN.BIND (12 R274): it waits until the log entries of the region are committed and its old lock reads H = 0, and the
dirty bytes that the old lock's note names are written back. -/
def execRgnBind (a b : Reg) (s : State) : Out :=
  let n := (s.rs a).toNat
  match mget none s.regions n with
  | none => s.trap REGION_DESC
  | some r =>
    if r.owner ≠ .inv (s.me.inv.getD 0) || !s.syncOk (s.rs b) r.plain then s.trap REGION_DESC
    else
      let logged := s.squares.toList.any (fun x => x.log.any (fun e => match e.va with
        | some v => decide (r.start ≤ v) && decide (v < r.start + r.len)
        | none => false))
      if logged then s.block (.rgnBind a b)
      else match s.lockTaken r.sync with
        | .error .stall => s.block (.rgnBind a b)
        | .error (.cause c) => s.trap c
        | .ok (true, t) => t.block (.rgnBind a b)
        | .ok (false, t) =>
          let u := match bits r.sync 62 2 with
            | 1 => t.pull (t.note (noteKey s.fsq 0 (bits r.sync 0 48))).mask (fun g => g == r)
            | 2 => t.pull (t.note (noteKey s.fsq 1 (bits r.sync 0 23))).mask (fun g => g == r)
            | _ => t
          ({ u with regions := mput none u.regions n (some { r with sync := s.rs b }) } : State).done

/-! ## Locks (12 R275 to R277) -/

/-- The holder fields of a lock word for the issuing context: square and context (12 Table 12-5). -/
def State.holder (s : State) : Nat := s.fsq.val * 16 + ctxNum s.fcx
/-- Whether a lock word is held by the issuing context. -/
def State.holds (s : State) (w : Word) : Bool := bit w 63 && bits w 48 12 == s.holder

/-- The new value of a lock word performed at its home, as an atomic is. -/
def State.lockWrite (s : State) (sp : Bool) (ea : Word) (at_ : Nat) (w : Word) : Except Nat State :=
  if sp then s.writeStore s.fsq ea.toNat (natLE 8 w.toNat) else .ok (s.writeHome at_ (natLE 8 w.toNat))

/-- The state in which a lock word is read at its home: the context's earlier P-path accesses are performed, and the line of a lock word of
space 0 is out of the data cache. -/
def State.lockHome (s : State) (sp : Bool) (ea : Word) : State :=
  let h := (s.performLoads s.fsq s.fcx).drainPosted s.fsq s.fcx
  if sp then h else h.flushLine s.fsq ea.toNat

/-- A lock instruction after checks 1 to 5 of 05 R120, the place of the lock word, and check 7 (log 18): `k` gets the flat
address and the state in which the context's earlier P-path accesses are performed. -/
def State.lockOp (s : State) (i : Instr) (a : Reg) (sp : Bool) (k : Nat → State → Out) : Out :=
  let ea := s.rs a
  s.withAccess i (if sp then 1 else 0) ea 8 { r := true, w := true } (fun at_ s =>
    if s.inPlain (if sp then 1 else 0) ea.toNat then s.trap LOCK_PLACE
    else if sp && s.blockBad s.fsq (ea.toNat / 512) then s.trap STREAM_DECODE
    else
      let h := s.lockHome sp ea
      if h.isBad at_ 8 then h.trap DATA_UNCORRECTABLE else k at_ h)

/-- Whether an ACQ of the issuing context that can reach its lock word finds H set in it (12 R276). -/
def State.lockHeld (s : State) (a : Reg) (sp : Bool) : Bool :=
  match s.access (if sp then 1 else 0) (s.rs a) 8 { r := true, w := true } with
  | .at at_ s => bit (word ((s.lockHome sp (s.rs a)).rdN at_ 8)) 63
  | _ => false

/-- ACQ (12 R276). -/
def execAcq (d a : Reg) (sp : Bool) (s : State) : Out :=
  let ea := s.rs a
  let spn := if sp then 1 else 0
  s.lockOp (.acq d a sp) a sp (fun at_ s =>
    let w := word (s.rdN at_ 8)
    if s.holds w then s.trap LOCK_STATE
    else if bit w 63 then (if sp then s else s.blkTouch at_ 8).block (.acq d a sp)
    else
      let v := bits w 0 48
      s.orTrap (s.lockWrite sp ea at_ (word (2 ^ 63 + s.holder * 2 ^ 48 + v))) (fun s =>
        let k := noteKey s.fsq spn ea.toNat
        let bound := fun (r : Region) => r.ofLock spn ea.toNat
        let s := s.pull (s.note k).mask bound
        let s := s.setNote k { s.note k with mask := 0 }
        ((s.dropClean s.fsq (s.lineIn bound)).wS d (word v)).done))

/-- REL (12 R276). -/
def execRel (a : Reg) (sp : Bool) (s : State) : Out :=
  let ea := s.rs a
  let spn := if sp then 1 else 0
  s.lockOp (.rel a sp) a sp (fun at_ s =>
    let w := word (s.rdN at_ 8)
    if !s.holds w then s.trap LOCK_STATE
    else
      let v := (bits w 0 48 + 1) % 2 ^ 48
      s.orTrap (s.lockWrite sp ea at_ (word v)) (fun s =>
        let k := noteKey s.fsq spn ea.toNat
        let n := s.note k
        let dirty := (s.sq s.fsq).dcache.any (fun l => l.dirty ≠ 0 && s.lineIn (fun r => r.ofLock spn ea.toNat) l)
        (s.setNote k { version := BitVec.ofNat 48 v, mask := if dirty then n.mask ||| (1 <<< s.fsq.val) else n.mask }).done))

/-! ## XFENCE and WAIT.C (12 R280, 08 R187) -/



/-- Whether a bundle that a context has enqueued has a V-path access to come or in flight: in the queue, in a loop's replays, or one that
is not performed (12 R280). -/
def Square.vBusy (x : Square) (c : Cx) : Bool :=
  x.cores.toList.any (fun v => v.eq.any (fun e => e.ctx == c && (e.loads || e.stores)) || v.replays c (fun e => e.loads || e.stores) ||
    v.vpath.any (fun a => a.ent.ctx == c))

/-- Whether a bundle that a context has enqueued has an array command that has not retired (12 R280). -/
def Square.aBusy (x : Square) (c : Cx) : Bool :=
  x.cores.toList.any (fun v => v.eq.any (fun e => e.ctx == c && e.cmds) || v.replays c Entry.cmds) ||
    x.arr.cores.toList.any (fun a => a.cmdsOf c ≠ 0)

/-- The waits of XFENCE for its from-mask: V, C, A, M; P waits for loads in flight. -/
def State.fenceBusy (s : State) (f : BitVec 5) : Bool :=
  let x := s.sq s.fsq
  (f.getLsbD 0 && !s.me.loads.isEmpty) || (f.getLsbD 1 && x.vBusy s.fcx) ||
    (f.getLsbD 2 && x.copyQ.any (fun y => y.ctx == s.fcx)) ||
    (f.getLsbD 3 && x.aBusy s.fcx) ||
    (f.getLsbD 4 && s.bulk.toList.flatten.any (fun y => !y.hw && y.sq == s.fsq && y.ctx == s.fcx))

/-- Whether a line records a context as a writer. -/
def DLine.by (l : DLine) (c : Cx) : Bool := l.writers.getLsbD c.val

/-- XFENCE (12 R280). -/
def execXfence (f t : BitVec 5) (s : State) : Out :=
  if s.fenceBusy f then s.block (.xfence f t)
  else
    let s := if f.getLsbD 0 then (s.drainPosted s.fsq s.fcx).writeBack s.fsq (fun l => l.by s.fcx) else s
    (if t.getLsbD 0 then s.dropClean s.fsq (fun _ => true) else s).done

/-- WAIT.C (08 R187): loads, stores, copies, array; a field of 15 places no condition. -/
def execWaitC (ar cp st ld : Fin 16) (s : State) : Out :=
  let x := s.sq s.fsq
  let ok := fun (f : Fin 16) (n : Nat) => f.val == 15 || decide (n ≤ f.val)
  if ok ld (x.outLoads s.fcx) && ok st (x.outStores s.fcx) && ok cp (s.outCopies s.fsq s.fcx) && ok ar (x.outArray s.fcx) then
    s.done
  else s.block (.waitC ar cp st ld)

/-! ## Watches (08 R188 to R190) -/

/-- The watch entry of context `c` of square `q`. -/
def State.watchOf (s : State) (q : Sq) (c : Cx) : Option Watch := s.watches.find? (fun w => w.sq == q && w.owner == c)
/-- The watch entry of a context released. -/
def State.dropWatch (s : State) (q : Sq) (c : Cx) : State :=
  { s with watches := s.watches.filter (fun w => !(w.sq == q && w.owner == c)) }
/-- The entries of a square. -/
def State.watchesOf (s : State) (q : Sq) : List Watch := s.watches.filter (fun w => w.sq == q)

/-- The entry with the oldest arming time. -/
def oldest : List Watch → Option Watch
  | [] => none
  | w :: t => match oldest t with
    | none => some w
    | some v => if v.armed < w.armed then some v else some w

/-- A new entry armed: the context's own is reused, else a free one is taken, else the oldest of another context is evicted
(08 R189), by a restore as by MON (log 99). -/
def State.arm (s : State) (q : Sq) (c : Cx) (va sector : Nat) (restored : Bool) : State :=
  let s := s.dropWatch q c
  let s := if (s.watchesOf q).length < 8 then s else match oldest (s.watchesOf q) with
    | none => s
    | some v => s.dropWatch q v.owner
  { s with watches := s.watches ++
    [{ sq := q, va := va, sector := sector, owner := c, armed := s.now, fired := false, restored := restored }] }

/-- MON (08 R189): checks 1 and 4 of 05 R120 and the translation; no alignment. -/
def execMon (a : Reg) (s : State) : Out :=
  let ea := s.rs a
  match s.translate s.fsq (s.me.who s.fcx) { r := true } ea.toNat with
  | .error .stall => s.block (.mon a)
  | .error (.cause c) => s.trap c
  | .ok (pa, s) => (s.arm s.fsq s.fcx (ea.toNat / 32 * 32) (pa / 32) false).done

/-- The launch priority of a tile context that is READY, above that of context `c` (08 R190). -/
def State.higherReady (s : State) (q : Sq) (c : Cx) : Bool :=
  (List.finRange 8).any (fun t =>
    let x := s.ctx q (tileCx t)
    x.st == .ready && (c == 8 || decide ((s.ctx q c).pri < x.pri)))

/-- The timeout of an MWAIT in ns. -/
def mwaitLimit (w : Word) : Nat := Nat.min w.toNat 0xFFFFFFFF

/-- The reason with which an MWAIT that began to wait at `t0` ends, the first that holds; an entry that is gone was evicted
(08 R190). -/
def State.mwaitReason (s : State) (q : Sq) (c : Cx) (t0 limit : Nat) : Option Nat :=
  match s.watchOf q c with
  | some w =>
    if w.fired then some 1
    else if s.now - t0 ≥ limit then some 2
    else if s.higherReady q c then some 5
    else none
  | none => some 3

/-- MWAIT ends with a reason. -/
def State.mwaitEnd (s : State) (d : Reg) (r : Nat) : Out :=
  let s := if r = 1 then s.dropWatch s.fsq s.fcx else s
  (s.wS d (word r)).done

/-- MWAIT (08 R190): the first execution tests the entry; a waiting one ends with the first reason that holds. -/
def execMwait (d a : Reg) (s : State) : Out :=
  if s.me.waits then
    match s.me.blocked with
    | some b =>
      match s.mwaitReason s.fsq s.fcx b.now (mwaitLimit (s.rs a)) with
      | some r => s.mwaitEnd d r
      | none => s.block (.mwait d a)
    | none => s.block (.mwait d a)
  else match s.watchOf s.fsq s.fcx with
    | none => s.mwaitEnd d 3
    | some w =>
      if w.restored then
        (({ s with watches := s.watches.map (fun v => if v == w then { v with restored := false } else v) } : State).wS d 4).done
      else match s.mwaitReason s.fsq s.fcx s.now (mwaitLimit (s.rs a)) with
        | some r => s.mwaitEnd d r
        | none => s.block (.mwait d a)

end Sys2Proof.Machine
end

