-- ==== Sys2Proof/Machine/Copies.lean ====
section
/-! DEFINITION. Copies: descriptors and their checks, the engines, signals, errors, page migration (10 R225, R238 to R246;
11 R264; 14 R312, R313). -/

namespace Sys2Proof.Machine

def MIG_REFUSED : Nat := 0x066
def COPY_STALL : Nat := 0x0E5
def COPY_DESC : Nat := 0x0E6
def COPY_FORMAT : Nat := 0x0E7
def SIGNAL_PLACE : Nat := 0x0EA
def SQUARE_DOZING : Nat := 0x0EC
def SUBRECT_ILLEGAL : Nat := 0x121

/-! ## Checks at issue (10 R239 to R241) -/

/-- The signal counter's place, none for no signal; malformed where it is no counter (10 Table 10-6). -/
def Desc.counter (d : Desc) : Option Place := if d.sig = 0 then none else placeOf d.sig
/-- Whether SIG is zero or a counter aligned to 8 of kind 0 or 1. -/
def Desc.sigOk (d : Desc) : Bool :=
  d.sig == 0 || (match placeOf d.sig with
    | some (.glob a) => a % 8 == 0
    | some (.store _ o) => o % 8 == 0 && decide (o + 8 ≤ storeEnd)
    | _ => false)

/-- Whether a descriptor of form 0 to 4 meets 10 Tables 10-6 to 10-8. `w7` is its last word. -/
def State.descOk (s : State) (d : Desc) (w7 : Word) (op : Nat) : Bool :=
  let q := s.fsq
  let zero := bits d.w2 48 16 == 0 && bits d.w2 41 3 == 0 && bits d.w4 36 28 == 0 && bits d.rect 32 32 == 0 && w7 == 0
  let lenOk := d.len % 32 == 0 && decide (32 ≤ d.len) && decide (d.len ≤ 0x4000000)
  let sencOk := d.senc == 0 || d.senc == 9 || d.senc == 10 || d.senc == 11
  let one := (d.cmask ≠ 0) != (d.rectW ≠ 0)
  let none_ := d.cmask == 0 && d.rectW == 0
  match placeOf d.src, placeOf d.dst with
  | some a, some b =>
    let form := match op with
      | 0 => a.isLocal q && d.sig == 0 && none_
      | 1 => b.isLocal q && d.sig == 0 && none_
      | 2 => a.isLocal q && d.sig ≠ 0 && none_
      | 3 => a.isLocal q && one && (if d.cmask ≠ 0 then b.spreadsCores else b.spreadsSquares) &&
          (d.cmask ≠ 0 || (match d.counter with
            | some (.store r _) => r == 0
            | _ => true))
      | _ => b.isLocal q && one && (if d.cmask ≠ 0 then a.spreadsCores else a.spreadsSquares)
    zero && lenOk && sencOk && d.sigOk && (d.sig == 0 || d.dec ≠ 0) && form && a.fits d.len &&
      (d.dests op).all (fun p => p.fits (s.destSize q s.fcx d op p)) && b.fits 0
  | _, _ => false

/-- Whether `len` bytes of a place meet a plain-shared region (12 R283). -/
def State.meetsPlain (s : State) (p : Place) (len : Nat) : Bool :=
  let f := fun (sp a : Nat) => s.regionList.any (fun r =>
    r.plain && r.space == sp && decide (a < r.start + r.len) && decide (r.start < a + len))
  match p with
  | .glob a => f 0 a
  | .store _ o => f 1 o
  | _ => false

/-- The claim that context `c` has, or would take, of a core among `vs` (08 R168, 10 R242). -/
def State.crqCore (s : State) (q : Sq) (c : Cx) (vs : List Vc) : Option Vc :=
  (List.finRange 4).find? (fun v => s.claimedBy q v == some c || (c ≠ 8 && (s.core q v).claim.isNone && vs.contains v))

/-- Checks 3 to 5 of 10 R239 in their order: the first cause, or the greatest destination extent. -/
def State.copyCheck (s : State) (d : Desc) (w7 : Word) (op : Nat) : Except Nat Nat := do
  let q := s.fsq
  let c := s.fcx
  need (s.descOk d w7 op && (!d.cq || (s.crqCore q c (d.named op)).isSome)) COPY_DESC
  need (d.rectW == 0 || (rectOnMesh d.rectW && subRect d.rectW s.me.rect)) SUBRECT_ILLEGAL
  need (match d.counter with
    | some p => !s.meetsPlain p 8
    | none => true) SIGNAL_PLACE
  need ((d.dests op).all (fun p => !s.meetsPlain (s.under q c p 0).1 (s.destSize q c d op p))) PLAIN_PATH
  need ((d.named op).all (fun v => !s.foreign q v c)) CORE_CLAIMED
  need ((d.handles op).all (fun e => (s.seenHnd q e.1 c e.2.1).bound)) HANDLE_UNBOUND
  need (!d.tv || (s.sq q).held (.ctx c) d.scope d.time ≠ 0) 0x100
  let pairs := (d.dests op).flatMap (fun p => (d.sources op).map (fun r => ((s.under q c r d.len), (s.under q c p 0).1, s.destSize q c d op p)))
  need (pairs.all (fun e => s.fmtsOk q c d.senc e.1.1 e.2.1 e.1.2 e.2.2)) COPY_FORMAT
  need (pairs.all (fun e => (s.convOf q c d.senc e.1.1 e.2.1).lenOk e.1.2 (s.blockCopy q c d.senc e.1.1 e.2.1))) COPY_DESC
  need ((d.handles op).all (fun e => (s.seenHnd q e.1 c e.2.1).st ≠ .error)) HANDLE_ERROR
  return s.destMax q c d op

/-- The descriptor at offset `p` of space 2, and its last word. -/
def State.descAt (s : State) (p : Nat) : Desc × Word :=
  ({ src := s.privWord p, dst := s.privWord (p + 8), w2 := s.privWord (p + 16), sig := s.privWord (p + 24),
     w4 := s.privWord (p + 32), time := s.privWord (p + 40), rect := s.privWord (p + 48) }, s.privWord (p + 56))

/-- A copy as it enters a queue, with the handles that it names as they are bound by then. -/
def State.newCopy (s : State) (d : Desc) (op : Fin 6) (total : Nat) (core : Option Vc) : Copy :=
  { sq := s.fsq, ctx := s.fcx, op := op, d := d, bound := (d.handles op.val).map (fun e => (e.1, e.2.1, s.hnd s.fsq e.1 e.2.1)), res := s.me.res, hw := false, ticket := s.me.ticket, core := core,
    started := false, dest := 0, pos := 0, base := 0, done := 0, total := total, halted := none, err := none, errFrom := 0,
    zero := false, signalled := [], tok := d.tv, frame := 0 }

/-- A copy instruction of form `op` (10 R239); it comes after the accepted commands of the array that need one of its handles in the same
state (10 R233). -/
def State.copy (s : State) (i : Instr) (op : Fin 6) (r a : Reg) : Out :=
  let q := s.fsq
  let c := s.fcx
  s.orTrap (s.privRead (s.rs a) 64 64) (fun p =>
    let (d, w7) := s.descAt p
    match s.copyCheck d w7 op.val with
    | .error x => if x = CORE_CLAIMED then s.trapBad (badwOf i 0 0) x else s.trap x
    | .ok total =>
      let ready := (d.handles op.val).all (fun e =>
        (s.hnd q e.1 e.2.1).st == (if e.2.2 then .free else .full) && !s.cmdAwaits q e.1 e.2.1 e.2.2)
      if !ready || (s.sq q).copyQ.length ≥ 32 || s.outCopies q c ≥ counterMax then s.block i
      else
        let s := (d.named op.val).foldl (fun s v => s.claim q v c) s
        let s := (d.handles op.val).foldl (fun s e => s.modHnd q e.1 e.2.1 (fun y => y.goto (if e.2.2 then .filling else .draining))) s
        let core := if d.cq then s.crqCore q c [] else none
        let y := s.newCopy d op total core
        let s := s.modSq q (fun x =>
          let x := { x with copyQ := x.copyQ ++ [y] }
          if d.tv then x.subTok (.ctx c) d.scope d.time 1 else x)
        ((s.modMe (fun x => { x with ticket := x.ticket + 1 })).wS r (word y.ticket.toNat)).done)

/-- CP.PUT (10 Table 10-8). -/
def execCpPut (d a : Reg) (s : State) : Out := s.copy (.cpPut d a) 0 d a
/-- CP.GET (10 Table 10-8). -/
def execCpGet (d a : Reg) (s : State) : Out := s.copy (.cpGet d a) 1 d a
/-- CP.PUTS (10 Table 10-8). -/
def execCpPuts (d a : Reg) (s : State) : Out := s.copy (.cpPuts d a) 2 d a
/-- CP.MCAST (10 Table 10-8). -/
def execCpMcast (d a : Reg) (s : State) : Out := s.copy (.cpMcast d a) 3 d a
/-- CP.GATHER (10 Table 10-8). -/
def execCpGather (d a : Reg) (s : State) : Out := s.copy (.cpGather d a) 4 d a

/-! ## Migration (14 R312, R313) -/

/-- Whether a valid leaf may be migrated now: unpinned, not lost, not being migrated, in a DRAM tier. -/
def migratable (w : Word) : Bool :=
  !bit w 61 && !bit w 62 && !bit w 60 && (tierOf (pteAddr w) == .hbm || tierOf (pteAddr w) == .lpddr)

/-- The tier of DST[1:0]. -/
def migTier (n : Nat) : Tier := if n = 0 then .hbm else .lpddr

/-- The bulk engine of a die that takes a migration: its lowest-numbered with a free entry (log 20). -/
def State.bulkOf (s : State) (d : Die) : Option (Fin 16) :=
  ((List.finRange 16).filter (fun e => e.val / 4 == d.val)).find? (fun e => decide ((s.bulk[e]).length < 64))

/-- CP.MIG (14 R313). -/
def execCpMig (d a : Reg) (s : State) : Out :=
  if !s.isF then s.denied (.cpMig d a)
  else
    s.orTrap (s.privRead (s.rs a) 64 64) (fun p =>
      let (y, w7) := s.descAt p
      let zero := y.w2 == 0 && y.sig == 0 && y.w4 == 0 && y.time == 0 && y.rect == 0 && w7 == 0 && bits y.dst 2 62 == 0
      match placeOf y.src with
      | some (.glob va) =>
        if !zero || va % 2 ^ 16 ≠ 0 then s.trap COPY_DESC
        else match s.walk va with
          | .error c => s.trap c
          | .ok (_, w, big) =>
            if va % pageSize big ≠ 0 then s.trap COPY_DESC
            else if !migratable w || bits y.dst 0 2 > 1 then s.trap MIG_REFUSED
            else if s.outCopies s.fsq s.fcx ≥ counterMax then s.block (.cpMig d a)
            else match s.bulkOf (homeDie (pteAddr w)) with
              | none => s.block (.cpMig d a)
              | some e =>
                let c := s.newCopy y 5 0 none
                let s := { s with bulk := vset s.bulk e (s.bulk[e] ++ [c]) }
                ((s.modMe (fun x => { x with ticket := x.ticket + 1 })).wS d (word c.ticket.toNat)).done
      | _ => s.trap COPY_DESC)

/-- The tables that the walk for `va` reads, in use as frames of 4 KiB. -/
def State.tablesOf (s : State) (va : Nat) : List Nat :=
  let root := bits s.ptbr 12 36 * 2 ^ 12
  let next := fun (a : Nat) => match ptrBy s.pte a with
    | .ok b => some b
    | .error _ => none
  match next (root + fld va 39 9 * 8) with
  | none => [root]
  | some t2 => match next (t2 + fld va 30 9 * 8) with
    | none => [root, t2]
    | some t1 => match next (t1 + fld va 21 9 * 8) with
      | none => [root, t2, t1]
      | some t0 => [root, t2, t1, t0]

/-- The mappings that an installation in the background has allotted. -/
def Install.maps : Install → List Mapping
  | .load _ _ _ m _ => m
  | .image _ _ _ _ _ m => m
  | .patch _ _ _ _ => []

/-- Whether `n` bytes of frame from `f` lie clear of a mapping. -/
def Mapping.clears (m : Mapping) (f n : Nat) : Bool := decide (f + n ≤ m.frame) || decide (m.frame + pageSize m.big ≤ f)

/-- The sections that an installation brings. -/
def Install.secs : Install → List Sec
  | .load _ _ r _ _ => r.secs
  | .image _ _ _ l _ _ => l
  | .patch _ _ _ _ => []

/-- The frames of the shadows of every residence, PRESENT or being installed (16 R339). -/
def State.shadowFrames (s : State) : List Nat :=
  ((s.residences.filterMap (·.2)).flatMap (·.secs) ++ s.installs.flatMap Install.secs).flatMap (·.shadow)

/-- Whether `n` bytes of frame from `f` are free: no mapping, made or allotted, no shadow and no table lies there, nor the root (13 R286, 14
R303, 16 R339). -/
def State.frameFree (s : State) (f n : Nat) : Bool :=
  let root := bits s.ptbr 12 36 * 2 ^ 12
  s.shadowFrames.all (fun g => decide (f + n ≤ g) || decide (g + 0x10000 ≤ f)) &&
  (decide (f + n ≤ root) || decide (root + 4096 ≤ f)) && s.installs.all (fun i => i.maps.all (fun m => m.clears f n)) &&
    s.maps.all (fun m => m.clears f n && (s.tablesOf m.va).all (fun t => decide (f + n ≤ t) || decide (t + 4096 ≤ f)))

/-- The frame that a page takes in a tier: the firmware's free choice, where it is a free frame (log 7). -/
def State.newFrame (s : State) (big : Bool) (t : Tier) : Option Nat :=
  let f := Config.frame s.free
  let n := pageSize big
  if f % n == 0 && tierOf f == t && tierOf (f + n - 1) == t && s.frameFree f n then some f else none

/-- The page contents and everything held at its old frame moved to the new one (14 R312 steps 2 to 5). -/
def State.movePage (s : State) (ea : Nat) (w : Word) (big : Bool) (va frame : Nat) : State :=
  let n := pageSize big
  let old := pteAddr w
  let bs := (s.mem.filter (fun (e : Nat × Byte) => decide (old ≤ e.1) && decide (e.1 < old + n))).map
    (fun (e : Nat × Byte) => (e.1 - old, e.2))
  let bad := s.bad.filterMap (fun u => if decide (old ≤ u) && decide (u < old + n) then some (u - old + frame) else none)
  let s := (s.zeroBytes old n).zeroBytes frame n
  let s := { s with
    mem := bs.foldl (fun m (e : Nat × Byte) => mput 0 m (frame + e.1) e.2) s.mem
    bad := s.bad ++ bad
    blks := s.blks.filter (fun b => !(decide (b.pa < old + n) && decide (old < b.pa + 128 * b.n)))
    watches := s.watches.map (fun (x : Watch) =>
      if decide (old ≤ x.sector * 32) && decide (x.sector * 32 < old + n) then { x with sector := x.sector - old / 32 + frame / 32 } else x)
    maps := s.maps.map (fun (m : Mapping) => if m.va == va then { m with frame := frame } else m)
    squares := s.squares.map (fun (x : Square) => { x with log := x.log.map (fun (e : LogEnt) =>
      if decide (old ≤ e.addr) && decide (e.addr < old + n) then { e with addr := e.addr - old + frame } else e) }) }
  let w' := word (w.toNat % 2 ^ 12 + frame % 2 ^ 48 + w.toNat / 2 ^ 48 * 2 ^ 48) &&& ~~~(word (2 ^ 60))
  s.writeHome ea (natLE 8 w'.toNat)

/-- The head of a bulk engine's queue replaced. -/
def State.setBulk (s : State) (e : Fin 16) (y : Copy) : State := { s with bulk := vset s.bulk e (y :: (s.bulk[e]).tail) }

/-- Ends a migration with a cause, none for success; a cause is reported to the context that asked for it. -/
def State.migEnd (s : State) (e : Fin 16) (y : Copy) (c : Option Nat) : State :=
  let s := s.setBulk e { y with dest := 1, err := c }
  match c with
  | some k => if y.hw then s else s.engineRecord y.sq y.ctx 0 k
  | none => s

/-- A migration of the page at `va` to a tier by bulk engine `e`, at its next phase: M set and the shootdown issued, with every access
translated before performed; then the page moved. A page that has been lost ends it with PAGE_LOST (16 R347), and one that another engine
moves is waited for. -/
def State.migrate (s : State) (e : Fin 16) (y : Copy) (va : Nat) (t : Tier) : State :=
  match s.walk va with
  | .error c => s.migEnd e y (some c)
  | .ok (ea, w, big) =>
    let arg : TlbiArg := { all := false, va := va, big := big }
    if bit w 62 then s.migEnd e y (some PAGE_LOST)
    else if !y.started then
      if bit w 60 then s
      else if !migratable w then s.migEnd e y (some MIG_REFUSED)
      else if tierOf (pteAddr w) = t then s.migEnd e y none
      else match s.newFrame big t with
        | none => s.bump
        | some f =>
          let s := s.bump
          let s := s.writeHome ea (natLE 8 (w ||| word (2 ^ 60)).toNat)
          (s.tlbInvalidate arg false).setBulk e { y with started := true, frame := f }
    else if s.frameFree y.frame (pageSize big) then (s.movePage ea w big va y.frame).migEnd e y none
    else match s.newFrame big t with
      | none => s.bump
      | some f => s.bump.setBulk e { y with frame := f }

/-- The page that an engine of die `d` migrates next of hardware's own choice, a leaf that 14 R312 allows whose old home is that die
(log 6). -/
def State.hwPage (s : State) (d : Die) : Option (Nat × Bool) :=
  match Config.migration s.free with
  | none => none
  | some va =>
    if va ≥ 2 ^ 48 then none
    else match s.walk va with
      | .error _ => none
      | .ok (_, w, big) => if migratable w && homeDie (pteAddr w) == d then some (va / pageSize big * pageSize big, tierOf (pteAddr w) == .hbm) else none

/-- PAGE_MIGRATION: bulk engine `e` works on the migration at the head of its queue; one without work may take up a page of
hardware's choice, which moves to the other DRAM tier (14 R312). -/
def execPageMigration (e : Fin 16) (s : State) : Out :=
  match s.bulk[e] with
  | y :: _ =>
    if y.dest ≠ 0 then .next s
    else .next (s.migrate e y (bits y.d.src 0 48) (migTier (bits y.d.dst 0 2)))
  | [] =>
    match s.hwPage (Fin.ofNat 4 (e.val / 4)) with
    | none => .next s.bump
    | some (va, hbm) =>
      let d : Desc := { src := word va, dst := if hbm then 1 else 0, w2 := 0, sig := 0, w4 := 0, time := 0, rect := 0 }
      let y : Copy := { s.newCopy d 5 0 none with hw := true }
      .next { s.bump with bulk := vset s.bulk e [y] }

/-! ## The square copy engine (10 R242 to R246) -/

/-- Why a copy stops at a sector: it waits for a translation, or it ends with a cause; `zero` where the rest of the
destination is zeroed (R245), else kept (R246). -/
inductive CStop where
  | stall
  | cause (c : Nat) (zero : Bool)
deriving DecidableEq, Repr

/-- Whose rights a copy has. -/
def Copy.who (y : Copy) : Option Nat := if y.ctx = 8 then none else some y.res

/-- One source sector of 32 bytes at offset `o` of a place. -/
def State.readSector (s : State) (y : Copy) (p : Place) (o : Nat) : Except CStop (List Byte × State) :=
  match p with
  | .glob a =>
    match s.translate y.sq y.who { r := true } (a + o) with
    | .error .stall => .error .stall
    | .error (.cause c) => .error (.cause c true)
    | .ok (pa, s) => if s.isBad pa 32 then .error (.cause DATA_UNCORRECTABLE true) else .ok (s.rdB pa 32, s.blkTouch pa 32)
  | .store q b =>
    if (s.sq q).power = .doze then .error (.cause SQUARE_DOZING false)
    else if s.blockBad q ((b + o) / 512) then .error (.cause STREAM_DECODE true)
    else .ok (s.rdB (storeAddr q.val (b + o)) 32, if q = y.sq then s else s.flit q)
  | .pad v b =>
    let a := spadAddr y.sq.val v.val (b + o)
    if s.isBad a 32 then .error (.cause DATA_UNCORRECTABLE true) else .ok (s.rdB a 32, s)
  | .hnd _ _ => .ok ([], s)

/-- `k` sectors of a place from offset `o`, or what stops the read. -/
def State.readPlace (s : State) (y : Copy) (p : Place) : Nat → Nat → Except CStop (List Byte × State)
  | 0, _ => .ok ([], s)
  | k + 1, o =>
    match s.readSector y p o with
    | .error e => .error e
    | .ok (bs, s) => match s.readPlace y p k (o + 32) with
      | .error e => .error e
      | .ok (t, s) => .ok (bs ++ t, s)

/-- The source that gives byte `o` of a destination: its place, its bytes, the conversion, and the byte's number in its part. -/
def State.sourceAt (s : State) (y : Copy) (dst : Place) : List Place → Nat → Option (Place × Nat × Conv × Nat)
  | [], _ => none
  | p :: t, o =>
    let (src, n) := y.under p y.d.len
    let v := s.convOf y.sq y.ctx y.d.senc src dst
    if o < v.size n then some (src, n, v, o) else s.sourceAt y dst t (o - v.size n)

/-- Source and destination bytes of the smallest unit of a conversion. -/
def Conv.unit : Conv → Nat × Nat
  | .same => (32, 32)
  | .runs e => (runBytes e, if e = 9 then 18 else if e = 10 then 32 else 64)
  | .fmt a b => (encBytes a 32, encBytes b 32)

/-- The destination sector at offset `o`, from the source bytes that it needs. -/
def State.sectorBytes (s : State) (y : Copy) (dst : Place) (o : Nat) : Except CStop (List Byte × State) :=
  match s.sourceAt y dst (y.d.sources y.op.val) o with
  | none => .ok (List.replicate 32 0, s)
  | some (src, n, v, o) =>
    let (su, du) := v.unit
    let lo := o / du * su
    let hi := Nat.min n (((o + 31) / du + 1) * su)
    match s.readPlace y src (ceilDiv (hi - lo / 32 * 32) 32) (lo / 32 * 32) with
    | .error e => .error e
    | .ok (bs, s) => .ok (((v.bytes ((bs.drop (lo % 32)).take (hi - lo))).drop (o % du)).take 32, s)

/-- `k` destination sectors from offset `o`, up to the first that stops the read: their bytes, the state after the reads, and the stop. -/
def State.sectors (s : State) (y : Copy) (dst : Place) : Nat → Nat → List Byte × State × Option CStop
  | 0, _ => ([], s, none)
  | k + 1, o =>
    match s.sectorBytes y dst o with
    | .error e => ([], s, some e)
    | .ok (bs, s) =>
      let r := s.sectors y dst k (o + 32)
      (bs ++ r.1, r.2)

/-- One piece of a destination. -/
def State.writePiece (s : State) (y : Copy) (p : Place) (o : Nat) (bs : List Byte) : Except CStop State :=
  match p with
  | .glob a =>
    match s.translate y.sq y.who { w := true } (a + o) with
    | .error .stall => .error .stall
    | .error (.cause c) => .error (.cause c false)
    | .ok (pa, s) => .ok (s.writeHome pa bs)
  | .store q b =>
    if (s.sq q).power = .doze then .error (.cause SQUARE_DOZING false)
    else match (if q = y.sq then s else s.flit q).writeBlock q (b + o) bs with
      | .ok s => .ok s
      | .error c => .error (.cause c false)
  | .pad v b => .ok (s.writeHome (spadAddr y.sq.val v.val (b + o)) bs)
  | .hnd _ _ => .ok s

/-- Bytes in the piece of a destination of `n` bytes at offset `o`: a sector (10 R242), or a whole malformed block of a square store that
the destination covers, which a transfer replaces (05 R386; log 80). -/
def State.pieceLen (s : State) (p : Place) (o n : Nat) : Nat :=
  match p with
  | .store q b => if (b + o) % 512 = 0 && decide (o + 512 ≤ n) && s.blockBad q ((b + o) / 512) then 512 else 32
  | _ => 32

/-- The first byte of the chunk of 4 KiB, aligned on destination addresses, that holds offset `o` (10 R242). -/
def chunkStart (p : Place) (o : Nat) : Nat :=
  let b := match p with
    | .glob a => a
    | .store _ a => a
    | .pad _ a => a
    | .hnd _ _ => 0
  o - Nat.min o ((b + o) % 4096)

/-- The head of a square engine's queue replaced. -/
def State.setCopy (s : State) (q : Sq) (y : Copy) : State := s.modSq q (fun x => { x with copyQ := y :: x.copyQ.tail })

/-- The half-way handles of a copy become ERROR (10 R245). -/
def State.failCopy (s : State) (y : Copy) (cause : Nat) : State :=
  (y.d.handles y.op.val).foldl (fun s e => s.modHnd y.sq e.1 e.2.1 (fun h => if h.partly then h.fail cause else h)) s

/-- The number of destinations of a copy. -/
def Copy.count (y : Copy) : Nat := (y.d.dests y.op.val).length
/-- Whether every destination has been written. -/
def Copy.written (y : Copy) : Bool := decide (y.count ≤ y.dest)

/-- A copy takes an error from its current destination on. -/
def State.copyErr (s : State) (y : Copy) (cause : Nat) (zero : Bool) : State × Copy :=
  match y.err with
  | some _ => (s, y)
  | none => ((s.failCopy y cause).engineRecord y.sq y.ctx 0 cause, { y with err := some cause, errFrom := y.dest, zero := zero })

/-- The copy at its next destination. -/
def Copy.nextDest (y : Copy) : Copy := { y with dest := y.dest + 1, pos := 0, base := y.done, halted := none }

/-- The copy at the start of the chunk being written; the zeros that follow an error are not started over (10 R245, R246). -/
def Copy.restart (y : Copy) (dst : Place) : Copy := { y with pos := if y.err.isSome then y.pos else chunkStart dst y.pos, halted := none }

/-- A class 3 cause (15 Table 15-1). -/
def class3 (c : Nat) : Bool := decide (0x060 ≤ c) && decide (c ≤ 0x07F)

/-- A piece of `k` bytes of the head copy written at its position: a class 3 fault or a stall at the destination halts it at its chunk, and
another fault there ends it (10 R242, R246). -/
def State.copyWrite (s : State) (y : Copy) (dst : Place) (size k : Nat) (bs : List Byte) : State :=
  let q := y.sq
  match s.writePiece y dst y.pos bs with
  | .error .stall => s.setCopy q { y with halted := some 0 }
  | .error (.cause c _) =>
    if y.err.isNone && class3 c then s.setCopy q { y with halted := some c }
    else let (s, y) := s.copyErr y c false; s.setCopy q y.nextDest
  | .ok t =>
    let y := { y with pos := y.pos + k, done := Nat.max y.done (y.base + y.pos + k) }
    t.setCopy q (if size ≤ y.pos then y.nextDest else y)

/-- The next piece of the head copy written (10 R242, R245, R246): a source that cannot be read ends the copy with zeros from there on, also
within a piece. -/
def State.copySector (s : State) (y : Copy) : State :=
  let q := y.sq
  match (y.d.dests y.op.val)[y.dest]? with
  | none => s
  | some p =>
    let dst := (y.under p 0).1
    let size := s.copySize y p
    if y.err.isSome && !y.zero then s.setCopy q y.nextDest
    else
      let k := s.pieceLen dst y.pos size
      if y.err.isSome then s.copyWrite y dst size k (List.replicate k 0)
      else match s.sectors y dst (k / 32) y.pos with
        | (bs, t, none) => t.copyWrite y dst size k bs
        | (_, _, some .stall) => s
        | (bs, t, some (.cause c z)) =>
          let (t, y) := t.copyErr y c z
          if z && !bs.isEmpty then t.copyWrite y dst size k (bs ++ List.replicate (k - bs.length) 0) else t.setCopy q y

/-- Whether the next destination may be written: the signals of the earlier ones are settled (10 R242, R244). -/
def Copy.mayWrite (y : Copy) : Bool := y.d.sig == 0 || (List.range y.dest).all (fun i => y.signalled.contains i)

/-- COPY_START: the square copy engine takes up the copy at the head of its queue, after the context's earlier P-path accesses, or goes on
with it: it writes one sector (10 R239, R242). A completion that a full crq holds back holds the engine before its next copy. Bulk engines
work by PAGE_MIGRATION alone. -/
def execCopyStart (e : Eng) (s : State) : Out :=
  if h : e.val < 160 then
    let q : Sq := ⟨e.val, h⟩
    match (s.sq q).copyQ with
    | [] => .next s
    | y :: _ =>
      if y.written || y.halted.isSome || !y.mayWrite || (!y.started && (s.sq q).crqHeld.isSome) then .next s
      else
        let s := if y.started then s else s.performAll q y.ctx
        .next (s.copySector { y with started := true })
  else .next s

/-- What the destination's translation answers at offset `o`. -/
def State.destReach (s : State) (y : Copy) (p : Place) (o : Nat) : Except CStop State :=
  match p with
  | .glob a => match s.translate y.sq y.who { w := true } (a + o) with
    | .error .stall => .error .stall
    | .error (.cause c) => .error (.cause c false)
    | .ok (_, s) => .ok s
  | _ => .ok s

/-- COPY_CHUNK_RESTART: a halted copy whose condition is resolved restarts its chunk; one that stays unresolved ends it, and a page being
migrated keeps it halted (10 R246). -/
def execCopyChunkRestart (e : Eng) (s : State) : Out :=
  if h : e.val < 160 then
    let q : Sq := ⟨e.val, h⟩
    match (s.sq q).copyQ with
    | [] => .next s
    | y :: _ =>
      match y.halted, (y.d.dests y.op.val)[y.dest]? with
      | some _, some p =>
        let dst := (y.under p 0).1
        match s.destReach y dst y.pos with
        | .error .stall => .next s
        | .error (.cause c _) => let (s, y) := s.copyErr y c false; .next (s.setCopy q y.nextDest)
        | .ok t => .next (t.setCopy q (y.restart dst))
      | _, _ => .next s
  else .next s

/-! ## Signals (10 R244, R246; 11 R264, 20 R384) -/

/-- The counter of destination `i` of a copy. -/
def Copy.counterAt (y : Copy) (i : Nat) : Option Place :=
  match y.d.counter with
  | some (.store q o) =>
    if y.op = 3 && y.d.rectW ≠ 0 then (rectSquares y.d.rectW)[i]?.map (fun r => .store r o) else some (.store q o)
  | p => p

/-- The new value of a counter (10 R244). -/
def signalled (old : Word) (dec : Nat) (err : Bool) : Word :=
  word ((bits old 0 63 + 2 ^ 63 - dec) % 2 ^ 63 + (if bit old 63 || err then 2 ^ 63 else 0))

/-- One decrement of a counter at its home. -/
def State.signal (s : State) (y : Copy) (p : Place) (err : Bool) : Except CStop State :=
  match p with
  | .glob a =>
    match s.translate y.sq y.who { w := true } a with
    | .error .stall => .error .stall
    | .error (.cause c) => .error (.cause c false)
    | .ok (pa, s) =>
      if s.isBad pa 8 then .error (.cause DATA_UNCORRECTABLE false)
      else .ok (s.writeHome pa (natLE 8 (signalled (word (s.rdN pa 8)) y.d.dec err).toNat))
  | .store q o =>
    if (s.sq q).power = .doze then .error (.cause SQUARE_DOZING false)
    else
      let s := if q = y.sq then s else s.flit q
      match s.writeBlock q o (natLE 8 (signalled (word (s.rdN (storeAddr q.val o) 8)) y.d.dec err).toNat) with
      | .ok s => .ok s
      | .error c => .error (.cause c false)
  | _ => .ok s

/-- The square that destroys the token of a copy when its last signal is applied: the counter's home for a counter in a square
store, else the issuing square (11 R264, 20 R384). -/
def Copy.tokSquare (y : Copy) (p : Place) : Sq := match p with
  | .store q _ => q
  | _ => y.sq

/-- The token of a copy destroyed by square `q`: −1 at TIME. -/
def State.dropCopyTok (s : State) (q : Sq) (y : Copy) : State := s.modSq q (fun x => x.send y.d.scope [(y.d.time, -1)])

/-- COPY_SIGNAL_APPLY: the signal of destination `i` of the head copy (10 R244). -/
def execCopySignalApply (e : Eng) (i : Nat) (s : State) : Out :=
  if h : e.val < 160 then
    let q : Sq := ⟨e.val, h⟩
    match (s.sq q).copyQ with
    | [] => .next s
    | y :: _ =>
      match y.counterAt i with
      | none => .next s
      | some p =>
        let last := i + 1 = y.count && y.tok
        if i ≥ y.dest || y.signalled.contains i then .next s
        else if last && !(s.sq (y.tokSquare p)).streamRoom 1 then .next s
        else
          match s.signal y p (y.err.isSome && decide (y.errFrom ≤ i)) with
          | .ok s =>
            let s := if last then s.dropCopyTok (y.tokSquare p) y else s
            .next (s.setCopy q { y with signalled := y.signalled ++ [i], tok := y.tok && !last })
          | .error .stall => .next s
          | .error (.cause c _) =>
            let (s, y) := s.copyErr y c true
            .next (s.setCopy q { y with signalled := y.signalled ++ [i] })
  else .next s

/-! ## Completion (10 R242, Table 10-9) -/

/-- The crq entry of a copy. -/
def Copy.entry (y : Copy) : Word := word (2 ^ 63 + y.err.getD 0 % 512 * 2 ^ 48 + y.ticket.toNat * 2 ^ 32 + y.done % 2 ^ 32)

/-- COPY_COMPLETE: the head copy of an engine, whole and signalled, leaves; its entry waits where crq is full (10 R242; 14 R313). A copy
without an error ends the transfers of its handles; one with an error has ended them already (10 R233, R245). -/
def execCopyComplete (e : Eng) (s : State) : Out :=
  if h : e.val < 160 then
    let q : Sq := ⟨e.val, h⟩
    match (s.sq q).copyQ with
    | [] => .next s
    | y :: t =>
      let signals := y.d.sig == 0 || (List.range y.count).all (fun i => y.signalled.contains i)
      if !y.written || !signals || (y.tok && !(s.sq q).streamRoom 1) then .next s
      else
        let s := (y.d.handles y.op.val).foldl (fun s e => s.modHnd q e.1 e.2.1 (fun h =>
          if y.err.isSome then h else if h.st = .filling then h.goto .full else if h.st = .draining then h.goto .free else h)) s
        let s := match y.core with
          | some v => if (s.core q v).crq.length < 32 then s.modCore q v (fun x => { x with crq := x.crq ++ [y.entry] })
            else s.modSq q (fun x => { x with crqHeld := some (v, y.entry) })
          | none => s
        let s := if y.tok then s.dropCopyTok q y else s
        .next (s.modSq q (fun x => { x with copyQ := t, copyFreed := s.now }))
  else
    let b : Fin 16 := Fin.ofNat 16 (e.val - 160)
    match s.bulk[b] with
    | y :: t =>
      if y.dest = 0 then .next s
      else .next { s with bulk := vset s.bulk b t, bulkFreed := vset s.bulkFreed (Fin.ofNat 4 (b.val / 4)) s.now }
    | [] => .next s

/-- When an entry of a queue that a copy instruction waits for was last freed: the square engine's, or for CP.MIG that of the die that holds
the page (10 R239). -/
def State.entryFreed (s : State) (q : Sq) (c : Cx) (i : Instr) : Nat :=
  match i with
  | .cpMig _ a =>
    let t := { s with fsq := q, fcx := c }
    match t.walk (bits (t.descAt (t.rs a).toNat).1.src 0 48) with
    | .ok (_, w, _) => s.bulkFreed[homeDie (pteAddr w)]
    | .error _ => 0
  | _ => (s.sq q).copyFreed

/-- COPY_STALL: a copy instruction blocked for 1 ms with no entry freed faults (10 R239). -/
def execCopyStall (q : Sq) (c : Cx) (s : State) : Out :=
  let x := s.ctx q c
  match x.blocked with
  | some b =>
    let isCopy := match b.instr with
      | .cpPut _ _ => true
      | .cpGet _ _ => true
      | .cpPuts _ _ => true
      | .cpMcast _ _ => true
      | .cpGather _ _ => true
      | .cpMig _ _ => true
      | _ => false
    if x.waits && isCopy && decide (Nat.max b.since (s.entryFreed q c b.instr) + 1000000 ≤ s.now) then .next (s.stallTrap q c COPY_STALL)
    else .next s
  | none => .next s

end Sys2Proof.Machine
end

