-- ==== Sys2Proof/Machine/Tables.lean ====
section
/-! DEFINITION. What firmware does with page tables and frames: building tables from mapping records, mapping, unmapping, clearing and
rewriting pages (13 R286, 14 R303 to R309, 16 R345, 19 R378). -/

namespace Sys2Proof.Machine

/-- The word of a pointer to a table (14 Table 14-2). -/
def ptrWord (a : Nat) : Word := word (2 ^ 63 + a)

/-- The leaf of a mapping (14 Table 14-2). -/
def Mapping.leaf (m : Mapping) : Word :=
  let b := fun (x : Bool) (k : Nat) => if x then 2 ^ k else 0
  word (2 ^ 63 + b m.lost 62 + b m.p 61 + (if m.big then 1 else 2) * 2 ^ 56 + m.own % 256 * 2 ^ 48 + m.frame % 2 ^ 48 / 4096 * 4096 +
    b m.x 10 + b m.w 9 + b m.r 8)

/-- The first free frame for a table from `a` on, among `fuel` of them, clear of the pages `keep` that a command is still to map; which
frame a table takes is not architectural (log 7). -/
def State.tableFrame (s : State) (keep : List Mapping) : Nat → Nat → Nat
  | 0, a => a
  | fuel + 1, a => if s.frameFree a 4096 && keep.all (fun m => m.clears a 4096) then a else s.tableFrame keep fuel (a + 4096)

/-- The table under the entry at `ea`, made where the entry holds no pointer. -/
def State.ensureTable (s : State) (keep : List Mapping) (ea : Nat) : Nat × State :=
  match ptrBy s.pte ea with
  | .ok t => (t, s)
  | .error _ =>
    let pages := s.maps.length + keep.length + (s.installs.flatMap Install.maps).length
    let f := s.tableFrame keep (517 * (pages + 2)) 0
    (f, (s.zeroBytes f 4096).writeHome ea (natLE 8 (ptrWord f).toNat))

/-- The leaf of a mapping written, with the tables above it, which take no frame of the pages `keep`. -/
def State.writeLeaf (s : State) (keep : List Mapping) (m : Mapping) : State :=
  let (t2, s) := s.ensureTable keep (bits s.ptbr 12 36 * 2 ^ 12 + fld m.va 39 9 * 8)
  let (t1, s) := s.ensureTable keep (t2 + fld m.va 30 9 * 8)
  if m.big then s.writeHome (t1 + fld m.va 21 9 * 8) (natLE 8 m.leaf.toNat)
  else
    let (t0, s) := s.ensureTable keep (t1 + fld m.va 21 9 * 8)
    s.writeHome (t0 + fld m.va 16 5 * 8) (natLE 8 m.leaf.toNat)

/-- Whether a mapping covers `va`. -/
def Mapping.covers (m : Mapping) (va : Nat) : Bool := decide (m.va ≤ va) && decide (va < m.va + pageSize m.big)

/-- A page mapped: recorded, and its leaf written; a DRAM frame is cleared first (14 R303). -/
def State.mapPage (s : State) (keep : List Mapping) (m : Mapping) : State :=
  let s := { s with maps := s.maps.filter (fun (k : Mapping) => k.va ≠ m.va) ++ [m] }
  let s := if tierOf m.frame = .mram then s else s.zeroBytes m.frame (pageSize m.big)
  s.writeLeaf keep m

/-- The leaf of a page replaced under 14 R307: it is made invalid, invalidated everywhere once the accesses through it are performed, and
written. -/
def State.remapPage (s : State) (keep : List Mapping) (m : Mapping) : State :=
  let s := s.tlbInvalidate { all := false, va := m.va, big := m.big } true
  { s with maps := s.maps.map (fun (k : Mapping) => if k.va = m.va then m else k) }.writeLeaf keep m

/-- The pointers of the walk for `va` to tables that no mapping needs any more made invalid, so that a frame counts as free only where no
valid entry leads to it (14 R303, R307). -/
def State.pruneTables (s : State) (va : Nat) : State :=
  let used := fun (k : Nat) => s.maps.any (fun m => m.va / 2 ^ k == va / 2 ^ k)
  let drop := fun (s : State) (k a : Nat) => if used k then s else match ptrBy s.pte a with
    | .ok _ => s.writeHome a (natLE 8 0)
    | .error _ => s
  let a2 := s.rootTable + fld va 39 9 * 8
  match ptrBy s.pte a2 with
  | .error _ => s
  | .ok t2 =>
    let a1 := t2 + fld va 30 9 * 8
    match ptrBy s.pte a1 with
    | .error _ => drop s 39 a2
    | .ok t1 => drop (drop (drop s 21 (t1 + fld va 21 9 * 8)) 30 a1) 39 a2

/-- A page unmapped: the accesses through it are performed, its leaf and the pointers that only it needs become invalid, its translations
leave, and its frame is free. -/
def State.unmapPage (s : State) (m : Mapping) : State :=
  let s := s.settle { all := false, va := m.va, big := m.big }
  let s := match s.walk m.va with
    | .ok (ea, _, _) => s.writeHome ea (natLE 8 0)
    | .error _ => s
  let s := ({ s with maps := s.maps.filter (fun (k : Mapping) => k.va ≠ m.va) } : State).pruneTables m.va
  s.shootdown { all := false, va := m.va, big := m.big } true

/-- Bytes written at their DRAM frames from `va` on, piece by piece of 64 KiB; `fuel` bounds their number. What lies in MRAM stays. -/
def State.putVa (s : State) : Nat → Nat → List Byte → State
  | 0, _, _ => s
  | fuel + 1, va, bs =>
    if bs.isEmpty then s
    else
      let k := 0x10000 - va % 0x10000
      let s := match s.maps.find? (·.covers va) with
        | some m => if tierOf m.frame = Tier.mram then s else s.writeHome (m.frame + (va - m.va)) (bs.take k)
        | none => s
      s.putVa fuel (va + k) (bs.drop k)

/-- The PRESENT residences. -/
def State.present (s : State) : List Residence := s.residences.filterMap (·.2)

/-- The bytes of a section's shadow in MRAM (16 R339). -/
def State.shadowBytes (s : State) (c : Sec) : List Byte := (c.shadow.flatMap (fun f => s.rdB f 0x10000)).take c.size

/-- Whether a page of `m` holds bytes of a section that has a shadow (16 R339): every section but .bss, outside the weight store. -/
def Sec.inPage (c : Sec) (m : Mapping) : Bool :=
  c.kind ≠ 4 && decide (c.va < m.va + pageSize m.big) && decide (m.va < c.va + c.size)

/-- The page tables rebuilt from the mapping records after the DRAM is lost: sections are rewritten from their shadows, and every other
DRAM leaf carries L (14 R309, 16 R345 step 3, 19 R378). -/
def State.rebuild (s : State) : State :=
  let secs := s.present.flatMap (·.secs)
  let s := { s with maps := s.maps.map (fun (m : Mapping) =>
    { m with lost := tierOf m.frame != Tier.mram && !secs.any (fun c => c.inPage m) }) }
  let s := s.maps.foldl (fun s m => s.writeLeaf [] m) s
  secs.foldl (fun s c => s.putVa (c.size / 0x10000 + 2) c.va (s.shadowBytes c)) s

end Sys2Proof.Machine
end

