-- ==== Sys2Proof/Machine/Frontier.lean ====
section
/-! DEFINITION. The root and the commit of plain stores as events, the acceptance token, and the watchdogs of waits (11 R261 to R267; 12
R276, R281, R282; 13 R293; 07 R155). -/

namespace Sys2Proof.Machine

/-! ## The acceptance token (13 R293) -/

/-- The scope and the time base of an invocation (13 Table 13-3). -/
def LWords.scope (w : LWords) : Fin 8 := Fin.ofNat 8 (bits w.w0 57 3)

/-- ACCEPT_TOKEN_RELEASE: once every square's accept message is applied, firmware destroys its token at the root (13 R293). -/
def execAcceptTokenRelease (k : Nat) (s : State) : Out :=
  match s.invs.find? (fun i => i.id == k) with
  | none => .next s
  | some i =>
    if !i.token || !i.waiting.isEmpty then .next s
    else
      .next (({ s with invs := s.invs.map (fun j => if j.id = k then { j with token := false } else j) } : State).applyPairs
        i.words.scope [(i.words.tbase, -1)])

/-! ## The commit log (12 R281, R282) -/

/-- COMMIT_ENTRY_ARRIVAL: log entry `i` of a square reaches its home, where it is held, or committed if its frontier has passed. -/
def execCommitEntryArrival (q : Sq) (i : Nat) (s : State) : Out :=
  .next (s.modSq q (fun x => { x with log := updAt (fun (e : LogEnt) => { e with arrived := true }) i x.log })).commitPassed

/-- PLAIN_COMMIT: the homes apply every held entry whose stamp its frontier has passed (12 R282). -/
def execPlainCommit (_q : Sq) (s : State) : Out := .next s.commitPassed

/-! ## Watchdogs -/

/-- Whether the blocked instruction waits for a frontier or for a table entry (11 R267). -/
def State.frontierWait (s : State) (q : Sq) (c : Cx) (i : Instr) : Bool :=
  let x := s.sq q
  let k := s.ctx q c
  match i with
  | .tmWaitf _ _ => true
  | .tmBar _ _ => true
  | .tmHold a _ n => !x.tokRoom (.ctx c) n k.tm[a]
  | .tmMove d a b n => !x.moveRoom (.ctx c) n k.tm[a] k.tm[d] (if b = 0 then 1 else (k.rs_ b).toNat)
  | _ => false

/-- FRONTIER_STALL: a wait for a frontier or a table entry has lasted FWDT.LIM (11 R267, 18 R376). -/
def execFrontierStall (q : Sq) (c : Cx) (s : State) : Out :=
  if s.overdue q c (s.frontierWait q c) then .next (s.stallTrap q c FRONTIER_STALL) else .next s

/-- LOCK_STALL: a wait of ACQ for H = 0 has lasted FWDT.LIM (12 R276, 18 R376); one for a page that is being migrated has no limit. -/
def execLockStall (q : Sq) (c : Cx) (s : State) : Out :=
  if s.overdue q c (fun i => match i with
    | .acq _ a sp => ({ s with fsq := q, fcx := c } : State).lockHeld a sp
    | _ => false) then .next (s.stallTrap q c LOCK_STALL) else .next s

/-- The cores whose queues a blocked EMIT of the template at s[a], patched by `f`, waits on among those that it names: all of them while a
counter of the context has no room for the bundle (08 R186; log 87), else the full ones; none while the template cannot be read. -/
def State.emitWaits (s : State) (q : Sq) (c : Cx) (a : Reg) (f : BitVec 192 → BitVec 192) (vs : List Vc) : List Vc :=
  let s := ({ s with fsq := q, fcx := c } : State)
  match s.readTemplate (s.rs a).toNat with
  | .error _ => []
  | .ok (w, t) =>
    if t.countsFit { w := f w, ctx := c, seq := 0, gwa := 0 } vs.length then vs.filter (fun v => decide (64 ≤ (s.core q v).eq.length)) else vs

/-- The cores whose queues a blocked instruction of the EMIT family waits on, or the one whose condition EQ.WAIT does not find. -/
def State.emitCores (s : State) (q : Sq) (c : Cx) (i : Instr) : List Vc :=
  match i with
  | .emit v a => s.emitWaits q c a id [v]
  | .emitP v a b k f => s.emitWaits q c a (fun w => (patch w k.val f.val ((s.ctx q c).rs_ b)).getD w) [v]
  | .emitBc a m => s.emitWaits q c a id ((List.finRange 4).filter (fun v => m.getLsbD v.val))
  | .eqWait v n => if (s.core q v).roomFor n.val then [] else [v]
  | _ => []

/-- The trap of a stalled EMIT, which writes BADW (02 R39); a waiting record goes first. -/
def State.emitStallTrap (s : State) (q : Sq) (c : Cx) (i : Instr) : State :=
  let s := if s.recordDue q c || c = 8 then s else s.modCtx q c (fun x => { x with badw := badwOf i 0 0 })
  s.stallTrap q c EMIT_STALL

/-- EMIT_STALL: 1 ms has passed in which a core that the instruction waits on neither issued nor retired a bundle (07 R155). -/
def execEmitStall (q : Sq) (c : Cx) (s : State) : Out :=
  match (s.ctx q c).blocked with
  | none => .next s
  | some b =>
    if (s.ctx q c).waits && (s.emitCores q c b.instr).any (fun v => decide (Nat.max b.since (s.core q v).progress + 1000000 ≤ s.now)) then
      .next (s.emitStallTrap q c b.instr)
    else .next s

end Sys2Proof.Machine
end

