-- ==== Sys2Proof/Machine/Launch.lean ====
section
/-! DEFINITION. Launch records, the walk over tiles, posting, SPAWN and binding (05 R98, R104; 11 R258; 13 R291 to R297). -/

namespace Sys2Proof.Machine

def LAUNCH_RECORD : Nat := 0x126
def SPAWN_BUDGET : Nat := 0x130

/-! ## Fields (13 Tables 13-3 and 13-4) -/

def LWords.mode (w : LWords) : Nat := bits w.w0 62 2
def LWords.pri (w : LWords) : Nat := bits w.w0 60 2
def LWords.levels (w : LWords) : Nat := bits w.w0 55 2
def LWords.res (w : LWords) : Nat := bits w.w0 40 8
def LWords.rect (w : LWords) : Nat := bits w.w0 0 32
def LWords.lim (w : LWords) : Nat := bits w.w3 32 32
def LWords.stab (w : LWords) : Nat := bits w.w3 0 32
/-- Whether level `l` is used. -/
def LWords.used (w : LWords) (l : Fin 4) : Bool := decide (l.val ≤ w.levels)
def LWords.bound (w : LWords) (l : Fin 4) : Nat := if w.used l then bits w.lv[l] 48 16 + 1 else 1
def LWords.stride (w : LWords) (l : Fin 4) : Nat := bits w.lv[l] 32 16
def LWords.ord (w : LWords) (l : Fin 4) : Nat := bits w.lv[l] 20 2
def LWords.tc (w : LWords) (l : Fin 4) : Nat := bits w.lv[l] 18 2
def LWords.tmOn (w : LWords) (l : Fin 4) : Bool := w.used l && bit w.lv[l] 17
def LWords.isVar (w : LWords) (l : Fin 4) : Bool := bit w.lv[l] 16

/-- The width and the height of a rectangle word, and its corner (10 Table 10-6). -/
def rectW (r : Nat) : Nat := fld r 0 8
def rectH (r : Nat) : Nat := fld r 8 8
def rectX (r : Nat) : Nat := fld r 24 8
def rectY (r : Nat) : Nat := fld r 16 8
/-- The rectangle of one square. -/
def rectOf (q : Sq) : Nat := q.val % 16 * 2 ^ 24 + q.val / 16 * 2 ^ 16 + 2 ^ 8 + 1
/-- The rank of a square in a rectangle (13 R294). -/
def rankOf (r : Nat) (q : Sq) : Nat := (q.val / 16 - rectY r) * rectW r + (q.val % 16 - rectX r)

/-! ## Tiles and times (13 R292, R294) -/

/-- An iteration vector. -/
abbrev Tile := Vector Nat 4

/-- The number of tiles. -/
def LWords.total (w : LWords) : Nat := w.bound 0 * w.bound 1 * w.bound 2 * w.bound 3

/-- Digit of level `l` of walk number `n`: the levels of lower ORD are less significant. -/
def LWords.digit (w : LWords) (l : Fin 4) (n : Nat) : Nat :=
  let below := ((List.finRange 4).filter (fun k => w.used k && decide (w.ord k < w.ord l))).map w.bound
  if w.used l then n / below.foldl (· * ·) 1 % w.bound l else 0

/-- The tile of walk number `n`. -/
def LWords.walkTile (w : LWords) (n : Nat) : Tile := Vector.ofFn (fun l => w.digit l n)

/-- The walk number of a tile, for the test of a static table. -/
def LWords.inBounds (w : LWords) (j : Tile) : Bool := (List.finRange 4).all (fun l => decide (j[l] < w.bound l))

/-- Counter `i` of the time of a tile, unlimited. -/
def LWords.ctrOf (w : LWords) (j : Tile) (i : Nat) : Nat :=
  ctr w.tbase i + (((List.finRange 4).filter (fun l => w.tmOn l && w.tc l == i)).map (fun l => j[l])).sum

/-- The time of a tile. -/
def LWords.timeOf (w : LWords) (j : Tile) : Word :=
  Sys2Proof.Machine.timeOf (w.ctrOf j 0) (w.ctrOf j 1) (w.ctrOf j 2) (w.ctrOf j 3)

/-- Index `l` of a tile. -/
def LWords.index (w : LWords) (j : Tile) (l : Fin 4) : Nat := j[l] * w.stride l

/-- The tile with the greatest iteration in every level: the greatest tile time is its. -/
def LWords.lastTile (w : LWords) : Tile := Vector.ofFn (fun l => w.bound l - 1)

/-- The iteration vector of a word of a static list, laid out as TIDX (05 Table 5-7). -/
def tileOfWord (x : Word) : Tile := Vector.ofFn (fun (l : Fin 4) => bits x (16 * l.val) 16)

/-- The word of four indices (05 Table 5-7). -/
def tidxOf (f : Fin 4 → Nat) : Word := Sys2Proof.Machine.timeOf (f 0) (f 1) (f 2) (f 3)

/-- The number of tiles of the square of rank `k` of `p`, and its `n`th tile. -/
def LWords.count (w : LWords) (r : Option Residence) (k p : Nat) : Nat :=
  if w.mode = 0 then (w.total + p - 1 - k) / p
  else match r with
    | some r => bits (r.sw (w.stab + 8 * k)) 0 32
    | none => 0
def LWords.tile (w : LWords) (r : Option Residence) (k p n : Nat) : Tile :=
  if w.mode = 0 then w.walkTile (k + n * p)
  else match r with
    | some r => tileOfWord (r.sw (bits (r.sw (w.stab + 8 * k)) 32 32 + 8 * n))
    | none => Vector.replicate 4 0

/-- Whether a static table names every tile of the record exactly once, within the bounds (13 R294). -/
def LWords.tableOk (w : LWords) (r : Option Residence) (p : Nat) : Bool :=
  let all := (List.range p).flatMap (fun k => (List.range (w.count r k p)).map (fun n => w.tile r k p n))
  all.all w.inBounds && all.length == w.total && decide all.Nodup

/-- Whether a record keeps the rules of 13 R291, its VAR bits and its table apart; a tile time of ⊤, at which no count can be held, breaks
them too (11 R249; log 84). -/
def LWords.wellFormed (w : LWords) : Bool :=
  let ls := List.finRange 4
  decide (w.mode ≤ 1) && bits w.w0 48 7 == 0 && bits w.w0 32 8 == 0 &&
    ls.all (fun l => if w.used l then bits w.lv[l] 22 10 == 0 && bits w.lv[l] 0 16 == 0 else w.lv[l] == 0) &&
    (List.range (w.levels + 1)).all (fun o => (ls.filter (fun l => w.used l && w.ord l == o)).length == 1) &&
    ls.all (fun l => decide ((w.bound l - 1) * w.stride l ≤ 0xFFFF)) &&
    (List.range 4).all (fun i => decide (w.ctrOf w.lastTile i ≤ 0xFFFF)) && w.timeOf w.lastTile ≠ top &&
    (if w.mode = 0 then w.stab == 0 else w.stab % 8 == 0)

/-! ## The launch queue of a square (13 R293) -/

/-- The rank of a square for a record, and the number of squares that share it: SPAWN covers its square alone. -/
def LRec.share (r : LRec) (q : Sq) : Nat × Nat :=
  if r.fromSpawn then (0, 1) else (rankOf r.words.rect q, rectW r.words.rect * rectH r.words.rect)

/-- The tiles of a square that a record has not handed out yet. -/
def State.pending (s : State) (q : Sq) (r : LRec) : List Tile :=
  let res := s.residence r.words.res
  let (k, p) := r.share q
  ((List.range (r.words.count res k p)).drop r.next).map (fun n => r.words.tile res k p n)

/-- The least time of tiles. -/
def leastTime (w : LWords) (l : List Tile) : Option Word :=
  (l.map w.timeOf).foldl (fun m t => match m with
    | none => some t
    | some u => some (if t < u then t else u)) none

/-- A record posted in place `place` of a square's queue: the dispatcher creates its token at the least time, and a record
without a tile here leaves at once; a record of firmware sends an accept message. A sleeping square begins to wake (13 R295). -/
def State.post (s : State) (q : Sq) (place : Nat) (w : LWords) (inv tmpl : Nat) (spawn : Bool) : State :=
  let x := s.sq q
  let r : LRec := { id := x.nextRec, place := place, words := w, inv := inv, tmpl := tmpl, next := 0, fromSpawn := spawn }
  let s := s.modSq q (fun x => { x with nextRec := x.nextRec + 1, waking := x.waking || x.power ≠ .run })
  let s := match leastTime w (s.pending q r) with
    | none => s
    | some m => s.modSq q (fun x =>
      (({ x with launchQ := x.launchQ ++ [r] } : Square).addTok (.disp r.id) w.scope m 1).send w.scope [(m, 1)])
  if spawn then s else s.modSq q (fun x => { x with stream := x.stream ++ [.accept inv] })

/-- Whether a place of a square's launch queue is free: no record stands there, and firmware has not reserved it for an accepted command
(13 R290, R293). -/
def State.placeFree (s : State) (q : Sq) (k : Nat) : Bool :=
  !(s.sq q).launchQ.any (fun r => r.place == k) && !s.invs.any (fun i => i.unposted.any (fun p => p.1 == q && p.2 == k))

/-- Whether firmware may post its record of an accepted command in a square now: the opening of the scope has been announced, so that no
square sees a time pass that this one has yet to open (11 R265, 13 R293), and the dispatcher has a table entry (11 R257). -/
def State.postOk (s : State) (i : Inv) (q : Sq) : Bool :=
  decide (s.localF[i.words.scope] ≤ i.words.tbase) && decide ((s.sq q).tokens.length < 64) && (s.sq q).streamRoom 2

/-- The records of an accepted command posted in ascending square index, up to the first square that cannot take its own (13 R295). -/
def State.postInv (s : State) (i : Inv) : List (Sq × Nat) → State
  | [] => s
  | (q, k) :: t =>
    if s.postOk i q then
      let s := s.post q k i.words i.id i.tmpl false
      ({ s with invs := s.invs.map (fun (j : Inv) => if j.id = i.id then { j with unposted := t } else j) } : State).postInv i t
    else s

/-- Firmware posts what it can of the records of accepted commands. -/
def State.postReady (s : State) : State := s.invs.foldl (fun s (i : Inv) => s.postInv i i.unposted) s

/-! ## SPAWN (13 R297) -/

/-- A launch record of 64 bytes in space 2 of the issuing context. -/
def State.readRecord (s : State) (a : Nat) : LWords :=
  { w0 := s.privWord a, tbase := s.privWord (a + 8), tend := s.privWord (a + 16), w3 := s.privWord (a + 24),
    lv := Vector.ofFn (fun l => s.privWord (a + 32 + 8 * l.val)) }

/-- SPAWN (13 R297). SPB limits records of PRI 3, and counts every tile that tasks of priority 3 spawn (13 Table 13-1; log 100). -/
def execSpawn (a : Reg) (s : State) : Out :=
  s.orTrap (s.privRead (s.rs a) 64 64) (fun p =>
    let w := s.readRecord p
    let x := s.sq s.fsq
    let c := s.me
    let res := s.residence w.res
    let i := c.inv.bind s.invOf
    let late := match i with
      | some i => decide (i.words.tend < w.timeOf w.lastTile)
      | none => false
    if !w.wellFormed || w.res ≠ c.res || w.scope ≠ c.scope || w.pri > c.pri || w.rect ≠ 0 || w.tend ≠ 0 ||
        (List.finRange 4).any w.isVar || (w.mode = 1 && !w.tableOk res 1) || late then s.trap LAUNCH_RECORD
    else if !x.holdsBy s.owner w.scope w.tbase then s.trap TM_NO_BASE
    else if w.pri = 3 && (match i, res with
        | some i, some r => decide (r.spb < i.spawned + w.total)
        | _, _ => false) then s.trap SPAWN_BUDGET
    else match (List.range 12).find? (s.placeFree s.fsq) with
      | none => s.block (.spawn a)
      | some k =>
        if x.tokens.length ≥ 64 || !x.streamRoom 1 then s.block (.spawn a)
        else
          let s := s.post s.fsq k w (c.inv.getD 0) c.tmpl true
          let more := fun (j : Inv) => if some j.id = c.inv then { j with spawned := j.spawned + w.total } else j
          (if c.pri = 3 then { s with invs := s.invs.map more, closedInvs := s.closedInvs.map more } else s).done)

/-! ## Binding (05 R98, R104; 01 R27) -/

/-- The record whose tile is bound next: the highest priority, then the first to arrive. -/
def Square.nextRecord (x : Square) : Option LRec :=
  let top := listMax (x.launchQ.map (fun r => r.words.pri))
  x.launchQ.find? (fun r => r.words.pri == top)

/-- The lowest-numbered FREE context. -/
def Square.freeCtx (x : Square) : Option (Fin 8) := (List.finRange 8).find? (fun c => x.ctxs[tileCx c].st == .free)

/-- A context after a tile is bound to it, held until CTX.START (15 R327), with the relocation values and the watchdog limit that
firmware writes at each binding (13 R290); the count of program order goes on, so that keys of commit-log entries differ (05 R104, Tables 5-6 and 5-7; 16 R346). -/
def Ctx.bound (k : Ctx) (r : LRec) (q : Sq) (j : Tile) (res : Residence) (bufs : Vector Word 16) (task : Nat) : Ctx :=
  let w := r.words
  let i := w.index j
  let regs := Vector.ofFn (fun (n : Fin 32) =>
    if h : 1 ≤ n.val ∧ n.val ≤ 4 then word (i ⟨n.val - 1, by omega⟩) else if n.val = 30 then 0x4000 else 0)
  ({ Ctx.reset with
    s := regs, tm := (Vector.replicate 4 0).set 0 (w.timeOf j), rl := bufs, fwdt := word w.lim, pstatSafe := res.psafe
    fvrSeq := k.fvrSeq, tidx := tidxOf i, res := w.res, pri := w.pri, scope := w.scope, st := .ready
    inv := some r.inv, tmpl := r.tmpl, tileTime := w.timeOf j, po := k.po, hold := true, task := task
    rect := if r.fromSpawn then rectOf q else w.rect }).start res.entry

/-- CONTEXT_BIND: the dispatcher hands the next tile to the lowest FREE context: its token is created with the move of the
dispatcher's own (11 R258, 13 R293). -/
def execContextBind (q : Sq) (s : State) : Out :=
  let x := s.sq q
  match x.nextRecord, x.freeCtx with
  | some r, some c => match s.pending q r, s.residence r.words.res with
    | j :: t, some res =>
      let n := r.words.scope
      let time := r.words.timeOf j
      let old := (leastTime r.words (j :: t)).getD time
      let new := leastTime r.words t
      let o : Owner := .disp r.id
      let y := match new with
        | none => x.subTok o n old 1
        | some m => if m = old then x else (x.subTok o n old 1).addTok o n m 1
      let y := y.addTok (.ctx (tileCx c)) n time 1
      if y.tokens.length > 64 || !x.streamRoom 1 then .next s
      else
        let pairs := match new with
          | none => [(time, (1 : Int)), (old, -1)]
          | some m => if m = old then [(time, 1)] else [(time, 1), (m, 1), (old, -1)]
        let bufs := ((s.invOf r.inv).map (·.bufs)).getD (Vector.replicate 16 0)
        let y := y.send n pairs
        let y := { y with launchQ := if t.isEmpty then y.launchQ.filter (fun e => e.id ≠ r.id) else y.launchQ.map (fun e => if e.id = r.id then { e with next := e.next + 1 } else e) }
        let s := (s.setSq q y).modCtx q (tileCx c) (fun k => k.bound r q j res bufs s.nextTask)
        let begin_ := fun (i : Inv) => if i.id = r.inv then { i with begun := true } else i
        .next (({ s with nextTask := s.nextTask + 1, invs := s.invs.map begin_ } : State).zeroBytes (privAddr q.val c.val 0) 0x4000)
    | _, _ => .next s
  | _, _ => .next s

/-! ## Count messages and broadcasts (11 R261 to R263) -/

/-- The root applies the oldest message of a square's stream: its pairs in one step, or an accept message, which ends firmware's wait for
that square (13 R293). -/
def State.applyMessage (s : State) (q : Sq) : State :=
  match (s.sq q).stream with
  | [] => s
  | m :: t =>
    let s := s.modSq q (fun x => ({ x with stream := t } : Square).flush)
    match m with
    | .count n ps => s.applyPairs n ps
    | .accept k => { s with invs := s.invs.map (fun (i : Inv) => if i.id = k then { i with waiting := i.waiting.filter (· ≠ q) } else i) }

/-- COUNT_MESSAGE_APPLY; firmware then posts the records that waited. -/
def execCountMessageApply (q : Sq) (s : State) : Out := .next (s.applyMessage q).postReady

/-- Whether a context of the square stands in a wait for the frontier of a scope. -/
def Square.waitsOn (x : Square) (n : Fin 8) : Bool :=
  x.ctxs.toList.any (fun k => match k.blocked with
    | some b => (match b.instr with
      | .tmWaitf _ m => m == n
      | .tmBar _ m => m == n
      | _ => false)
    | none => false)

/-- FRONTIER_BROADCAST: the oldest broadcast of a scope reaches every square, and the homes commit what it passes (11 R263,
12 R282), squares in NAP whose contexts wait on it begin to wake (16 R335), and firmware posts the records that waited. -/
def execFrontierBroadcast (n : Fin 8) (s : State) : Out :=
  match s.bcast.find? (fun b => b.scope == n) with
  | none => .next s
  | some b =>
    .next ({ s with
      bcast := updFirst (fun c => c.scope == n) (fun _ => []) s.bcast
      localF := vset s.localF n b.frontier
      squares := s.squares.map (fun (x : Square) => if x.power = .nap && x.waitsOn n then { x with waking := true } else x) } : State).commitPassed.postReady

end Sys2Proof.Machine
end

