-- ==== Sys2Proof/Machine/Save.lean ====
section
/-! DEFINITION. Save images (15 R330, Tables 15-9 and 15-10): CRC-32C, segments, and the contents of each kind as words. The manual
gives the kinds' contents and not their layout inside a payload: the layout here is the model's own (log 9). -/

namespace Sys2Proof.Machine

/-! ## CRC-32C (15 R330) -/

/-- One bit of a reflected CRC with polynomial 0x1EDC6F41. -/
def crcBit (r : BitVec 32) : BitVec 32 := if r.getLsbD 0 then (r >>> 1) ^^^ 0x82F63B78 else r >>> 1
/-- One byte. -/
def crcByte (r : BitVec 32) (b : Byte) : BitVec 32 :=
  let r := r ^^^ b.setWidth 32
  crcBit (crcBit (crcBit (crcBit (crcBit (crcBit (crcBit (crcBit r)))))))
/-- CRC-32C: initial value and final XOR all ones. -/
def crc32c (bs : List Byte) : BitVec 32 := ~~~(bs.foldl crcByte (BitVec.allOnes 32))

/-! ## Reading words back -/

/-- A reader of words. -/
abbrev Par (α : Type) := StateT (List Word) Option α

/-- The next word. -/
def getW : Par Word := fun l => match l with
  | [] => none
  | w :: t => some (w, t)
/-- The next word as a number, a truth value, an index. -/
def getN : Par Nat := do return (← getW).toNat
def getB : Par Bool := do return (← getW) == 1
/-- `n` things. -/
def getL {α : Type} (p : Par α) : Nat → Par (List α)
  | 0 => pure []
  | n + 1 => do
    let a ← p
    let l ← getL p n
    return a :: l
/-- A counted list. -/
def getC {α : Type} (p : Par α) : Par (List α) := do
  let n ← getN
  getL p n
/-- A vector of `n` things. -/
def getV {α : Type} (p : Par α) (d : α) (n : Nat) : Par (Vector α n) := do
  let l ← getL p n
  return Vector.ofFn (fun i => l.getD i.val d)
/-- A word that may be absent. -/
def getO : Par (Option Nat) := do
  let b ← getB
  let n ← getN
  return if b then some n else none

/-- The words of a counted list. -/
def putC {α : Type} (f : α → List Word) (l : List α) : List Word := word l.length :: l.flatMap f
/-- The words of an optional number. -/
def putO (o : Option Nat) : List Word := [bword o.isSome, word (o.getD 0)]

/-! ## Kind 1: the registers and the dispatch state of a context -/

/-- A fetch-queue entry. -/
def putQ (e : QEnt) : List Word := [e.pc, bword e.nul]
def getQ : Par QEnt := do return { pc := ← getW, nul := ← getB }

/-- A waiting record. -/
def putRec (r : BRec) : List Word :=
  [word r.cause, word r.lvl, word r.core.val, r.seq.setWidth 64, r.gwa.setWidth 64, word r.slot.val, word r.late, word r.disc]
def getRec : Par BRec := do
  return { cause := ← getN, lvl := ← getN, core := Fin.ofNat 4 (← getN), seq := (← getW).setWidth 16, gwa := (← getW).setWidth 46,
           slot := Fin.ofNat 8 (← getN), late := ← getN, disc := ← getN, cyc := 0 }

/-- A context, with its outstanding counters: loads, stores, copies, array. -/
def putCtx (x : Ctx) (out : List Nat) : List Word :=
  x.s.toList ++ x.p.toList.map bword ++ x.tm.toList ++ x.rl.toList ++ putQ x.q0 ++ putQ x.q1 ++ putQ x.q2 ++
    [x.epc0, x.epc1, x.epc2, x.enul, x.cause, x.badw, x.bprov, x.bflt, x.thnd, x.fill, x.fwdt, word x.pstatRes, bword x.pstatSafe,
     x.fvrSeq.setWidth 64, x.tidx, word x.res, word x.pri, word x.scope.val, x.ticket.setWidth 64] ++ putC putRec x.records ++
    [word x.po, word x.instrs, word x.bounds, word x.acmds] ++ putO x.inv ++ [word x.tmpl, x.tileTime, word x.rect, word x.task] ++ out.map word

/-- A context read back. The counters return with the queued bundles from which the model computes them, and a reserved bit of a special
register returns as 0 (00 R8). -/
def getCtx : Par Ctx := do
  let s ← getV getW 0 32
  let p ← getV getB false 8
  let tm ← getV getW 0 4
  let rl ← getV getW 0 16
  let q0 ← getQ
  let q1 ← getQ
  let q2 ← getQ
  let w ← getV getW 0 19
  let records ← getC getRec
  let n ← getV getN 0 4
  let inv ← getO
  let tmpl ← getN
  let tileTime ← getW
  let rect ← getN
  let task ← getN
  let _ ← getL getN 4
  return { Ctx.reset with
    s := s, p := p, tm := tm, rl := rl, q0 := q0, q1 := q1, q2 := q2, epc0 := epcOf w[0], epc1 := epcOf w[1], epc2 := epcOf w[2]
    enul := w[3] &&& 0x7, cause := w[4] &&& 0x0000FFFC000001FF, badw := badwKept w[5], bprov := w[6]
    bflt := w[7] &&& 0xFFFF0701, thnd := w[8] &&& 0x0000FFFFFFFFFFFF, fill := w[9] &&& 0xFFFFFFFF, fwdt := w[10] &&& 0xFFFFFFFF
    pstatRes := (w[11]).toNat, pstatSafe := w[12] == 1, fvrSeq := (w[13]).setWidth 16, tidx := w[14], res := (w[15]).toNat
    pri := (w[16]).toNat, scope := Fin.ofNat 8 (w[17]).toNat, ticket := (w[18]).setWidth 16, records := records
    po := n[0], instrs := n[1], bounds := n[2], acmds := n[3], inv := inv, tmpl := tmpl, tileTime := tileTime, rect := rect
    task := task }

/-! ## Kind 2: the private area -/

/-- Bytes as words, and back. -/
def packBytes : List Byte → List Word
  | b0 :: b1 :: b2 :: b3 :: b4 :: b5 :: b6 :: b7 :: t => word (leNat [b0, b1, b2, b3, b4, b5, b6, b7]) :: packBytes t
  | _ => []
def unpackBytes (l : List Word) : List Byte := l.flatMap (fun w => natLE 8 w.toNat)

/-! ## Kind 3: un-issued entries and sequence counters -/

def putEntry (e : Entry) : List Word :=
  [word e.w.toNat, word (e.w.toNat / 2 ^ 64), word (e.w.toNat / 2 ^ 128), word e.ctx.val, e.seq.setWidth 64, e.gwa.setWidth 64]
def getEntry : Par Entry := do
  let a ← getN
  let b ← getN
  let c ← getN
  let x ← getN
  return { w := BitVec.ofNat 192 (a + b * 2 ^ 64 + c * 2 ^ 128), ctx := Fin.ofNat 9 x, seq := (← getW).setWidth 16, gwa := (← getW).setWidth 46 }

/-- The SEQ, RSEQ and RV counters of a context. -/
def putSeqs (x : Ctx) : List Word :=
  x.seq.toList.map (·.setWidth 64) ++ x.rseq.toList.map (·.setWidth 64) ++ x.rv.toList.map bword
def getSeqs (x : Ctx) : Par Ctx := do
  let a ← getV getW 0 4
  let b ← getV getW 0 4
  let c ← getV getB false 4
  return { x with seq := a.map (·.setWidth 16), rseq := b.map (·.setWidth 16), rv := c }

/-! ## Kind 4: a vector core -/

/-- A vector register, two lanes a word. -/
def putVReg (v : VReg) : List Word :=
  (List.range 32).map (fun i => word ((v.toList.getD (2 * i) 0).toNat + (v.toList.getD (2 * i + 1) 0).toNat * 2 ^ 32))
def getVReg : Par VReg := do
  let l ← getL getN 32
  return Vector.ofFn (fun i => BitVec.ofNat 32 (l.getD (i.val / 2) 0 / 2 ^ (32 * (i.val % 2))))

def putGen (g : Gen) : List Word :=
  [bword g.configured, bword g.fetching, g.base] ++ g.cnt.toList.map word ++ g.stride.toList ++ [word g.pos, g.cfg]
def getGen : Par Gen := do
  let c ← getB
  let f ← getB
  let b ← getW
  let n ← getV getN 1 4
  let d ← getV getW 0 4
  return { configured := c, fetching := f, base := b, cnt := n, stride := d, pos := ← getN, cfg := ← getW }

def putElem : MElem → List Word
  | .val v => 0 :: putVReg v
  | .bad c => [1, word c]
def getElem_ : Par MElem := do
  if (← getW) = 0 then return .val (← getVReg) else return .bad (← getN)

/-- The state of 08 Table 8-1. No loop runs once the context's bundles have retired. -/
def putCore (x : VCore) : List Word :=
  x.vf.toList.flatMap (fun f => f.toList.flatMap putVReg) ++ x.kf.toList.flatMap (·.toList) ++ x.m.toList ++ x.oa.toList.flatMap putVReg ++
    x.ob.toList.flatMap putVReg ++ x.oc.toList.flatMap putVReg ++ x.sa.toList ++ x.sb.toList ++ x.sc.toList ++ x.rv.toList.flatMap putVReg ++
    x.rs.toList ++ x.f.toList ++ x.gens.toList.flatMap putGen ++ x.lc.toList ++ putC putEntry x.lbuf ++
    [x.vrm.setWidth 64, x.vcond.setWidth 64, x.qst.setWidth 64] ++ putC (fun w => [w]) x.arq ++ putC (fun w => [w]) x.crq ++
    putC putElem x.mrq ++ [bword x.fresh]
/-- The state read back over a core that keeps its queue and what F's bundles have in flight. -/
def getCore (y : VCore) : Par VCore := do
  let vf ← getV (getV getVReg VReg.zero 16) (Vector.replicate 16 VReg.zero) 4
  let kf ← getV (getV getW 0 16) (Vector.replicate 16 0) 2
  let m ← getV getW 0 8
  let oa ← getV getVReg VReg.zero 4
  let ob ← getV getVReg VReg.zero 4
  let oc ← getV getVReg VReg.zero 4
  let sa ← getV getW 0 4
  let sb ← getV getW 0 4
  let sc ← getV getW 0 4
  let rv ← getV getVReg VReg.zero 4
  let rs ← getV getW 0 4
  let f ← getV getW 0 4
  let gens ← getV getGen Gen.reset 8
  let lc ← getV getW 0 4
  let lbuf ← getC getEntry
  let w ← getV getW 0 3
  let arq ← getC getW
  let crq ← getC getW
  let mrq ← getC getElem_
  let fresh ← getB
  return { y with
    vf := vf, kf := kf, m := m, oa := oa, ob := ob, oc := oc, sa := sa, sb := sb, sc := sc, rv := rv, rs := rs, f := f
    gens := gens, lc := lc, lbuf := lbuf, vrm := (w[0]).setWidth 2, vcond := (w[1]).setWidth 3, qst := (w[2]).setWidth 3
    arq := arq, crq := crq, mrq := mrq, fresh := fresh }

/-! ## Kinds 5 and 6: the array -/

def putCmd (m : ACmd) : List Word :=
  [m.word, word m.seq] ++ putC (fun w => [w]) m.specs ++
    [word m.steps, word m.pointSteps, bword m.accepted, bword m.void, bword m.inTerm, bword m.early, bword m.excess] ++ putC (fun (h : Fin 64) => [word h.val]) m.handles
/-- A command read back for context `c`: it waits and counts cycles afresh, and no earlier access of its core is outstanding. -/
def getCmd (c : Cx) (now cyc : Nat) : Par ACmd := do
  let w ← getW
  let q ← getN
  let sp ← getC getW
  let st ← getN
  let ps ← getN
  let a ← getB
  let v ← getB
  let t ← getB
  let y ← getB
  let x ← getB
  let h ← getC getN
  return { word := w, seq := q, specs := sp, steps := st, pointSteps := ps, pointCyc := cyc, accepted := a, since := now, void := v,
           inTerm := t, early := y, excess := x, ctx := c, id := 0, handles := h.map (Fin.ofNat 64) }

/-- The slots, specifiers, pending request, status and holding register of a core. -/
def putACore (a : ACore) : List Word :=
  putC (fun w => [w]) a.spq ++ putC putCmd a.cur.toList ++ putC putCmd a.nxt.toList ++ putC (fun w => [w]) a.hreg ++ putO a.err ++
    [a.cond.setWidth 64] ++ putC (fun (r : AReq) => [word r.lim, r.keep.setWidth 64, r.buf.setWidth 64]) a.req.toList ++
    putO (a.rel.map (·.toNat)) ++ [word a.lim, word a.acseq, word a.steps]
def getACore (c : Cx) (now cyc : Nat) : Par ACore := do
  let spq ← getC getW
  let cur ← getC (getCmd c now cyc)
  let nxt ← getC (getCmd c now cyc)
  let hreg ← getC getW
  let err ← getO
  let cond ← getW
  let req ← getC (do
    let l ← getN
    let k ← getW
    let b ← getW
    return ({ lim := l, keep := k.setWidth 2, buf := b.setWidth 2 } : AReq))
  let rel ← getO
  return { spq := spq, cur := cur.head?, nxt := nxt.head?, hreg := hreg, err := err, cond := cond.setWidth 3, req := req.head?
           rel := rel.map (BitVec.ofNat 2), lim := ← getN, acseq := ← getN, steps := ← getN }

/-- The words of a sparse table whose keys lie in `[a, a + n)`, by their offset. -/
def putSparse (l : List (Nat × Lane)) (a n : Nat) : List Word :=
  putC (fun (e : Nat × Lane) => [word ((e.1 - a) * 2 ^ 32 + e.2.toNat)]) (l.filter (fun e => decide (a ≤ e.1) && decide (e.1 < a + n)))
def getSparse : Par (List (Nat × Lane)) := do
  let l ← getC getN
  return l.map (fun x => (x / 2 ^ 32, BitVec.ofNat 32 x))

/-! ## Kinds 7 to 10: handles, formats, kept scratchpad buffers, tokens, the watch -/

def putHnd (h : Hnd) : List Word :=
  [word (h.sp + h.len * 2 ^ 2 + h.st.num * 2 ^ 16 + (if h.keep then 2 ^ 19 else 0) + h.cause * 2 ^ 20 + h.pos * 2 ^ 32), word h.base]
/-- A handle state by its number. -/
def hstOf (n : Nat) : HSt :=
  match n with
  | 0 => .free
  | 1 => .filling
  | 2 => .full
  | 3 => .draining
  | _ => .error
def getHnd : Par Hnd := do
  let w ← getW
  let b ← getN
  return { sp := bits w 0 2, len := bits w 2 14, base := b, st := hstOf (bits w 16 3), pos := bits w 32 32, keep := bit w 19, cause := bits w 20 9 }

def putTok (t : Tok) : List Word := [word t.scope.val, t.time, word t.count]

/-! ## Segments (15 Table 15-9) -/

/-- Payload words of the largest segment that the model writes: 4,072 of the 4,076 bytes. -/
def segWords : Nat := 509

/-- A segment. -/
structure Seg where
  ctx : Nat
  kind : Nat
  seq : Nat
  sq : Nat
  module : Nat
  payload : List Byte
deriving DecidableEq, Repr

/-- The header of a segment. -/
def Seg.header (g : Seg) : List Byte :=
  natLE 1 g.ctx ++ natLE 1 g.kind ++ natLE 2 g.payload.length ++ natLE 4 g.seq ++ natLE 2 g.sq ++ natLE 6 g.module

/-- Bytes from the start of a segment to the next one's, for a payload of `n` bytes. -/
def segStep (n : Nat) : Nat := roundUp (n + 20) 8

/-- The bytes of a segment up to the next multiple of 8. -/
def Seg.bytes (g : Seg) : List Byte :=
  let b := g.header ++ g.payload
  b ++ natLE 4 (crc32c b).toNat ++ List.replicate (segStep g.payload.length - b.length - 4) 0

/-- The words of a kind cut into payloads; `fuel` bounds their number. -/
def cutWords : Nat → List Word → List (List Word)
  | 0, _ => []
  | fuel + 1, l => if l.isEmpty then [] else l.take segWords :: cutWords fuel (l.drop segWords)

/-- The bytes of an image from the contents of its kinds, in ascending kind; a kind without content is omitted. -/
def imageBytes (ctx sq module : Nat) (kinds : List (Nat × List Word)) : List Byte :=
  let parts := kinds.flatMap (fun k => (cutWords (k.2.length + 1) k.2).map (fun p => (k.1, p)))
  let segs := parts.zipIdx.map (fun p =>
    ({ ctx := ctx, kind := p.1.1, seq := p.2, sq := sq, module := module, payload := unpackBytes p.1.2 } : Seg))
  let body := segs.flatMap Seg.bytes
  let last : Seg :=
    { ctx := ctx, kind := 15, seq := segs.length, sq := sq, module := module,
      payload := natLE 4 (segs.length + 1) ++ natLE 4 (body.length + 32) }
  body ++ last.bytes

/-- A segment read at an offset by `rd`, none where a byte cannot be read or its header or CRC is wrong. -/
def readSeg (rd : Nat → Nat → Option (List Byte)) (o : Nat) : Option Seg := do
  let h ← rd o 16
  let n := leNat ((h.drop 2).take 2)
  if n > 4076 then none
  let p ← rd (o + 16) n
  let c ← rd (o + 16 + n) 4
  if leNat c ≠ (crc32c (h ++ p)).toNat then none
  return { ctx := leNat (h.take 1), kind := leNat ((h.drop 1).take 1), seq := leNat ((h.drop 4).take 4), sq := leNat ((h.drop 8).take 2),
           module := leNat ((h.drop 10).take 6), payload := p }

/-- The segments of an image up to END, verified in order (15 R329); `fuel` bounds their number. -/
def readSegs (rd : Nat → Nat → Option (List Byte)) : Nat → Nat → Nat → Nat → Nat → Option (List Seg)
  | 0, _, _, _, _ => none
  | fuel + 1, o, n, kind, ctx => do
    let g ← readSeg rd o
    if g.seq ≠ n || (n = 0 && g.kind ≠ 1) || g.kind < kind || g.kind = 0 || (11 ≤ g.kind && g.kind ≤ 14) || g.kind > 15 ||
        (n ≠ 0 && g.ctx ≠ ctx) || g.ctx > 7 || g.sq ≥ 160 then none
    let next := o + segStep g.payload.length
    if g.kind = 15 then
      if g.payload.length = 8 && leNat (g.payload.take 4) = n + 1 && leNat (g.payload.drop 4) = next then some [g] else none
    else
      let t ← readSegs rd fuel next (n + 1) g.kind g.ctx
      return g :: t

/-- How far a verification reads an image: to the end of END, or of the first segment that is wrong; `fuel` bounds the segments. -/
def segsEnd (rd : Nat → Nat → Option (List Byte)) : Nat → Nat → Nat
  | 0, o => o
  | fuel + 1, o => match rd o 16 with
    | none => o
    | some h =>
      let e := o + segStep (Nat.min 4076 (leNat ((h.drop 2).take 2)))
      match readSeg rd o with
      | none => e
      | some g => if g.kind = 15 then e else segsEnd rd fuel e

/-- The words of a kind in an image. -/
def kindWords (l : List Seg) (k : Nat) : List Word := packBytes ((l.filter (fun g => g.kind == k)).flatMap (·.payload))

end Sys2Proof.Machine
end

