-- ==== Sys2Proof/Machine/Contexts.lean ====
section
/-! DEFINITION. The CTX group: starting, saving, restoring and ending contexts (15 R327 to R331). -/

namespace Sys2Proof.Machine

def CTX_STATE : Nat := 0x162
def SAVE_IMAGE_BAD : Nat := 0x163
def SAVE_AREA : Nat := 0x164
def MODULE_MISMATCH : Nat := 0x165

/-- A CTX instruction retires with CTXR written: 0, or the cause that stopped it (15 R327). -/
def State.ctxDone (s : State) (code : Nat) : Out := (s.modSq s.fsq (fun x => { x with ctxr := word code })).done

/-- The context that a form names, none where a field that it does not use is set (15 R327). -/
def ctxArg (w : Word) : Option (Fin 8) := if h : w.toNat < 8 then some ⟨w.toNat, h⟩ else none

/-- Whether a code is assigned (15 Table 15-1, 16 Table 16-12). -/
def assigned (c : Nat) : Bool :=
  [(0x000, 7), (0x020, 5), (0x040, 4), (0x060, 9), (0x080, 5), (0x0A0, 8), (0x0C0, 15), (0x0E0, 13), (0x100, 8), (0x110, 10),
   (0x120, 19), (0x140, 8), (0x160, 6)].any (fun (r : Nat × Nat) => decide (r.1 ≤ c) && decide (c < r.1 + r.2))

/-- Whether tile context `c` is READY with its dispatch hold set. -/
def State.heldReady (s : State) (q : Sq) (c : Fin 8) : Bool := (s.ctx q (tileCx c)).st == .ready && (s.ctx q (tileCx c)).hold

/-- CTX.START (15 Table 15-8). -/
def execCtxStart (a : Reg) (s : State) : Out :=
  if !s.isF then s.denied (.ctxStart a)
  else match ctxArg (s.rs a) with
    | none => s.ctxDone CTX_STATE
    | some c =>
      if !s.heldReady s.fsq c then s.ctxDone CTX_STATE
      else (s.modCtx s.fsq (tileCx c) (fun x => { x with hold := false })).ctxDone 0

/-- MTRL (15 Table 15-8): it acts on context TSEL.CTX while TSEL.EN is 1 (15 R323). -/
def execMtrl (a : Reg) (k : Fin 16) (s : State) : Out :=
  if !s.isF then s.denied (.mtrl a k)
  else
    let t := (s.sq s.fsq).tsel
    match ctxArg (word (bits t 0 4)) with
    | none => s.ctxDone CTX_STATE
    | some c =>
      if !bit t 4 || !s.heldReady s.fsq c then s.ctxDone CTX_STATE
      else (s.modCtx s.fsq (tileCx c) (fun x => { x with rl := vset x.rl k (s.rs a) })).ctxDone 0

/-! ## CTX.SAVE (15 R328) -/

/-- Bytes of a save area. -/
def areaBytes : Nat := 0x300000

/-- The translation of the 64 KiB piece of an area at `va` as firmware uses it: writable where `w` is set. -/
def State.areaXl (s : State) (q : Sq) (va : Nat) (w : Bool) : Except XStop (Nat × State) :=
  match s.findXl q va with
  | .error c => .error (.cause c)
  | .ok e => if w && !e.w then .error (.cause PAGE_DENIED) else s.translate q none { r := !w, w := w } va

/-- Whether an area is aligned, and every piece of it translates and is writable; a piece on a migrating page stalls. The state in which its
translations have been used (14 R310). -/
def State.areaOk (s : State) (q : Sq) (area : Nat) : Except XStop State :=
  if area % 0x10000 ≠ 0 || area + areaBytes > 2 ^ 48 then .error (.cause SAVE_AREA)
  else (List.range 48).foldlM (fun s k => (s.areaXl q (area + 0x10000 * k) true).map (·.2)) s

/-- Bytes written to an area from `va` on, piece by piece; `fuel` bounds their number. -/
def State.writeArea (s : State) (q : Sq) : Nat → Nat → List Byte → Except XStop State
  | 0, _, _ => .ok s
  | fuel + 1, va, bs =>
    if bs.isEmpty then .ok s
    else match s.areaXl q va true with
      | .error e => .error e
      | .ok (pa, s) =>
        let k := 0x10000 - va % 0x10000
        (s.writeHome pa (bs.take k)).writeArea q fuel (va + k) (bs.drop k)

/-- The cores that a context claims. -/
def State.claimed (s : State) (q : Sq) (c : Cx) : List Vc := (List.finRange 4).filter (fun v => s.claimedBy q v == some c)

/-- Whether core `v` runs a command: it is on its way to a retirement point, where the save suspends it, or to its retirement (09 R208,
R217). -/
def State.midway (s : State) (q : Sq) (v : Vc) : Bool := (s.running q).any (fun p => p.1 == v)

/-- Whether a copy still has sectors to write into the scratchpad of a core of the list (10 R247). -/
def Copy.into (y : Copy) (vs : List Vc) : Bool :=
  !y.written && ((y.d.dests y.op.val).drop y.dest).any (fun p => match (y.under p 0).1 with
    | .pad v _ => vs.contains v
    | _ => false)

/-- Whether the points of 15 Table 15-7 stand: issued bundles retired, accesses performed, commands at a point, copies done. -/
def State.savePoint (s : State) (q : Sq) (c : Cx) : Bool :=
  let x := s.sq q
  let vs := s.claimed q c
  x.cores.toList.all (fun v => v.issued.all (fun i => i.ent.ctx ≠ c) && v.vpath.all (fun a => a.ent.ctx ≠ c)) &&
    (s.ctx q c).loads.isEmpty && (s.ctx q c).posted.isEmpty && vs.all (fun v => !s.midway q v) &&
    s.outCopies q c == 0 && x.copyQ.all (fun y => !y.into vs)

/-- The buffers that a save keeps: marked, or the target of a suspended command (09 R218). -/
def State.keptBufs (s : State) (q : Sq) (c : Cx) : List (Fin 2) :=
  (List.finRange 2).filter (fun b => (s.arr q).bufs[b] == some c &&
    ((s.arr q).keeps[b] || (s.claimed q c).any (fun v => match (s.acore q v).cur with
      | some m => m.accepted && m.steps ≠ 0 && (cword m.word).target.contains b
      | none => false)))

/-- A mask of cores or buffers as a word. -/
def maskWord {n : Nat} (l : List (Fin n)) : Word := word ((l.map (fun i => 2 ^ i.val)).sum)

/-- A core as a save takes it: the completion that its full crq keeps waiting stands behind the others (10 R242). -/
def State.savedCore (s : State) (q : Sq) (v : Vc) : VCore :=
  let x := s.core q v
  match (s.sq q).crqHeld with
  | some (w, y) => if w = v then { x with crq := x.crq ++ [y] } else x
  | none => x

/-- The handles that a save keeps the bytes of: bound to a scratchpad and marked (10 R247). -/
def State.keptPads (s : State) (q : Sq) (c : Cx) : List (Vc × Hnd) :=
  (s.claimed q c).flatMap (fun v =>
    ((List.finRange 64).filter (fun h => (s.hnd q v h).sp == 2 && (s.hnd q v h).keep)).map (fun h => (v, s.hnd q v h)))

/-- Whether memory that a save of context `c` reads has an uncorrectable error: its private area or a kept buffer (05 R121, R386; log 60). -/
def State.saveBad (s : State) (q : Sq) (c : Fin 8) : Bool :=
  s.isBad (privAddr q.val c.val 0) 0x4000 ||
    (s.keptPads q (tileCx c)).any (fun p => s.isBad (spadAddr q.val p.1.val p.2.base) p.2.bytes)

/-- The contents of the kinds of 15 Table 15-10 for context `c`. -/
def State.saveKinds (s : State) (q : Sq) (c : Fin 8) : List (Nat × List Word) :=
  let cx := tileCx c
  let x := s.ctx q cx
  let vs := s.claimed q cx
  let arr := s.arr q
  let bs := (List.finRange 2).filter (fun b => arr.bufs[b] == some cx)
  let kb := s.keptBufs q cx
  let some_ := fun (b : Bool) (l : List Word) => if b then [] else l
  let pads := s.keptPads q cx
  let toks := (s.sq q).tokens.filter (fun t => t.owner == .ctx cx)
  [ (1, putCtx x [(s.sq q).outLoads cx, (s.sq q).outStores cx, s.outCopies q cx, (s.sq q).outArray cx])
  , (2, packBytes (s.rdB (privAddr q.val c.val 0) 0x4000))
  , (3, (List.finRange 4).flatMap (fun v => putC putEntry ((s.core q v).eq.filter (fun e => e.ctx == cx))) ++ putSeqs x)
  , (4, some_ vs.isEmpty (maskWord vs :: vs.flatMap (fun v => putCore (s.savedCore q v))))
  , (5, some_ (vs.isEmpty && bs.isEmpty)
      (maskWord vs :: maskWord bs :: maskWord (bs.filter (fun b => arr.keeps[b])) :: vs.flatMap (fun v => putACore (s.acore q v))))
  , (6, some_ kb.isEmpty
      (maskWord kb :: kb.flatMap (fun b => putSparse arr.acc (b.val * 32768) 32768 ++ putSparse arr.counts (b.val * 128) 128)))
  , (7, some_ vs.isEmpty
      (maskWord vs :: vs.flatMap (fun v => (s.core q v).handles.toList.flatMap putHnd ++ (s.core q v).fmt.toList.map word)))
  , (8, some_ pads.isEmpty (putC (fun (p : Vc × Hnd) =>
      [word p.1.val, word p.2.base, word p.2.bytes] ++ packBytes (s.rdB (spadAddr q.val p.1.val p.2.base) p.2.bytes)) pads))
  , (9, some_ toks.isEmpty (putC putTok toks))
  , (10, match s.watchOf q cx with
      | some w => [word w.va]
      | none => []) ]

/-- The claims of a context released: its cores are unclaimed, their generators stop fetching, what their array slots and holding registers
held is gone, and so is a completion that no crq of the context can take any more; a term of theirs ends. The status and the conditions
stay (08 R168, R185; 09 R215; 10 R242). -/
def State.releaseCores (s : State) (q : Sq) (c : Cx) : State :=
  let vs := s.claimed q c
  let s := match (s.arr q).holder with
    | some v => if vs.contains v then s.endTerm q else s
    | none => s
  let s := s.modSq q (fun x => { x with crqHeld := x.crqHeld.filter (fun e => !vs.contains e.1) })
  vs.foldl (fun s v =>
    (s.modCore q v (fun x =>
      { x with claim := none, fresh := false, gens := x.gens.map (fun g => { g with fetching := false }) })).modACore q v (fun a =>
      { a with spq := [], cur := none, nxt := none, hreg := [], req := none, rel := none })) s

/-- Buffers, watch and cache-block ownership of a context released (09 R199, 08 R188, 14 R315), and no fetch of it waits. -/
def State.releaseHolds (s : State) (q : Sq) (c : Cx) : State :=
  let s := (s.freeBufs q c 3).dropWatch q c
  let s := s.modSq q (fun x => { x with ifails := x.ifails.filter (fun e => e.2 ≠ c) })
  { s with blks := s.blks.map (fun b => if b.owner == some (q, c) then { b with owner := none } else b) }

/-- The entries of one owner in a table re-owned. -/
def Square.reown (x : Square) (o o' : Owner) : Square :=
  { x with tokens := x.tokens.map (fun t => if t.owner == o then { t with owner := o' } else t) }

/-- CTX.SAVE (15 R328): its checks set the dispatch hold; it waits for the points, and then it moves the context out. A context in MJ.COMMIT
is waited for (16 R355). -/
def execCtxSave (d a : Reg) (s : State) : Out :=
  let q := s.fsq
  let area := (s.rs d).toNat
  if !s.isF then s.denied (.ctxSave d a)
  else match ctxArg (s.rs a) with
    | none => s.ctxDone CTX_STATE
    | some c =>
      let cx := tileCx c
      let x := s.ctx q cx
      let j := (s.sq q).journal
      if s.committing q cx then s.block (.ctxSave d a)
      else if x.st ≠ .ready || (j.st == .opened && j.owner == cx) then s.ctxDone CTX_STATE
      else match s.areaOk q area with
        | .error .stall => s.block (.ctxSave d a)
        | .error (.cause _) => s.ctxDone SAVE_AREA
        | .ok s =>
          let s := s.modCtx q cx (fun x => { x with hold := true })
          if !s.savePoint q cx then s.block (.ctxSave d a)
          else if s.saveBad q c then s.ctxDone DATA_UNCORRECTABLE
          else match s.writeArea q 49 area (imageBytes c.val q.val Config.moduleId.toNat (s.saveKinds q c)) with
            | .error .stall => s.block (.ctxSave d a)
            | .error (.cause _) => s.ctxDone SAVE_AREA
            | .ok s =>
              let s := s.modSq q (fun y => { y with cores := y.cores.map (fun v => { v with eq := v.eq.filter (fun e => e.ctx ≠ cx) }) })
              let s := (s.releaseCores q cx).releaseHolds q cx
              let s := s.modSq q (fun y => y.reown (.ctx cx) (.saved x.task))
              let s := s.modCtx q cx (fun y => { y with st := .free, hold := false, records := [], inv := none, task := 0 })
              ({ s with
                saved := s.saved ++
                  [{ sq := q, area := area, task := x.task, ctx := cx, res := x.res, inv := x.inv, time := x.tileTime, bumps := 0 }]
                trail := if s.trail.contains (x.task, q) then s.trail else s.trail ++ [(x.task, q)] } : State).ctxDone 0

/-! ## CTX.RESTORE (15 R329) -/

/-- `n` bytes of an image at offset `o`, none beyond the area, where a piece does not translate, or where a byte is bad. -/
def State.imageRead (s : State) (q : Sq) (area o n : Nat) : Option (List Byte) :=
  let one := fun (va n : Nat) => match s.areaXl q va false with
    | .ok (pa, _) => if s.isBad pa n then none else some (s.rdB pa n)
    | .error _ => none
  if o + n > areaBytes then none
  else
    let va := area + o
    let k := 0x10000 - va % 0x10000
    if n ≤ k then one va n
    else do
      let l ← one va k
      let r ← one (va + k) (n - k)
      return l ++ r

/-- The state in which the translations of an image's area have been used, those of the pieces that translate; none where a piece lies on a
page that is being migrated (14 R308, R310). -/
def State.areaSeen (s : State) (q : Sq) (area : Nat) : Option State :=
  (List.range 48).foldlM (fun s k => match s.areaXl q (area + 0x10000 * k) false with
    | .error .stall => none
    | .error (.cause _) => some s
    | .ok (_, s) => some s) s

/-- The first `n` bytes of an area read at their homes: the blocks that hold them are used (14 R315; log 108). -/
def State.areaTouch (s : State) (q : Sq) (area n : Nat) : State :=
  (List.range 48).foldl (fun s k =>
    if n ≤ 0x10000 * k then s
    else match s.areaXl q (area + 0x10000 * k) false with
      | .ok (pa, _) => s.blkTouch pa (Nat.min 0x10000 (n - 0x10000 * k))
      | .error _ => s) s

/-- What an image holds, read back. -/
structure Image where
  sq : Sq
  module : Nat
  x : Ctx
  priv : List Byte
  eqs : Vector (List Entry) 4
  cores : List (Vc × VCore)
  bufs : List (Fin 2)
  keeps : Word
  acores : List (Vc × ACore)
  accs : List (Fin 2 × List (Nat × Lane) × List (Nat × Lane))
  hnds : List (Vc × List Hnd × List Nat)
  pads : List (Vc × Nat × List Byte)
  toks : List Tok
  watch : Option Nat

/-- The indices of a mask word. -/
def maskList (n : Nat) (w : Word) : List (Fin n) := (List.finRange n).filter (fun i => bit w i.val)

/-- A reader over a list of things, one each. -/
def getEach {α β : Type} (l : List α) (p : α → Par β) : Par (List (α × β)) := match l with
  | [] => pure []
  | a :: t => do
    let b ← p a
    let r ← getEach t p
    return (a, b) :: r

/-- The buffer of a core: core, offset, bytes. -/
def getPad : Par (Vc × Nat × List Byte) := do
  let v ← getN
  let o ← getN
  let n ← getN
  let l ← getL getW (n / 8)
  return (Fin.ofNat 4 v, o, unpackBytes l)

/-- A token without its owner. -/
def getTok (o : Owner) : Par Tok := do
  let n ← getN
  let t ← getW
  return { scope := Fin.ofNat 8 n, time := t, owner := o, count := ← getN }

/-- The contents of a verified image for context `c` of square `q`, none where a kind cannot be read back. -/
def State.decodeImage (s : State) (q : Sq) (c : Cx) (l : List Seg) : Option Image := do
  let g ← l.head?
  let k := kindWords l
  let (x, _) ← getCtx (k 1)
  let (r3, _) ← (do
    let e ← getV (getC getEntry) [] 4
    let y ← getSeqs x
    return (e, y) : Par (Vector (List Entry) 4 × Ctx)) (k 3)
  let (r4, _) ← if (k 4).isEmpty then some ([], []) else (do
    let vs ← getW
    getEach (maskList 4 vs) (fun v => getCore (s.core q v)) : Par (List (Vc × VCore))) (k 4)
  let cyc := (s.sq q).cyc
  let (r5, _) ← if (k 5).isEmpty then some (([], 0, []), []) else (do
    let vs ← getW
    let bs ← getW
    let ks ← getW
    let cs ← getEach (maskList 4 vs) (fun _ => getACore c s.now cyc)
    return (maskList 2 bs, ks, cs) : Par (List (Fin 2) × Word × List (Vc × ACore))) (k 5)
  let (r6, _) ← if (k 6).isEmpty then some ([], []) else (do
    let bs ← getW
    getEach (maskList 2 bs) (fun _ => do
      let a ← getSparse
      let n ← getSparse
      return (a, n)) : Par (List (Fin 2 × List (Nat × Lane) × List (Nat × Lane)))) (k 6)
  let (r7, _) ← if (k 7).isEmpty then some ([], []) else (do
    let vs ← getW
    getEach (maskList 4 vs) (fun _ => do
      let h ← getL getHnd 64
      let f ← getL getN 16
      return (h, f)) : Par (List (Vc × List Hnd × List Nat))) (k 7)
  let (r8, _) ← if (k 8).isEmpty then some ([], []) else getC getPad (k 8)
  let (r9, _) ← if (k 9).isEmpty then some ([], []) else getC (getTok (.ctx c)) (k 9)
  return { sq := Fin.ofNat 160 g.sq, module := g.module, x := r3.2, priv := unpackBytes (k 2), eqs := r3.1
           cores := r4, bufs := r5.1, keeps := r5.2.1, acores := r5.2.2, accs := r6, hnds := r7, pads := r8, toks := r9
           watch := (k 10).head?.map (·.toNat) }

/-- The claimed cores of an image, written back over cores that keep their queues. -/
def State.restoreCores (s : State) (q : Sq) (c : Fin 8) (l : List (Vc × VCore)) : State :=
  l.foldl (fun s p => s.setCore q p.1 { p.2 with claim := some c }) s

/-- The scratchpad of a core with every 32-bit word at the low half of FILL (10 R247). -/
def State.fillPad (s : State) (q : Sq) (v : Vc) (fill : Word) : State :=
  let s := s.zeroBytes (spadAddr q.val v.val 0) 0x80000
  if bits fill 0 32 = 0 then s
  else { s with mem := memPut s.mem (spadAddr q.val v.val 0) ((List.range 0x20000).flatMap (fun _ => natLE 4 (bits fill 0 32))) }

/-- Buffer `b` of the array with every word and count at the low half of FILL (09 R218), or with saved words. -/
def Arr.restoreBuf (a : Arr) (b : Fin 2) (fill : Word) (kept : Option (List (Nat × Lane) × List (Nat × Lane))) : Arr :=
  let clear := { a with acc := mclear a.acc (b.val * 32768) 32768, counts := mclear a.counts (b.val * 128) 128 }
  let (ws, cs) := kept.getD (((List.range 32768).map (fun i => (i, fill.setWidth 32))), ((List.range 128).map (fun i => (i, fill.setWidth 32))))
  { clear with
    acc := ws.foldl (fun l w => mput 0 l (b.val * 32768 + w.1) w.2) clear.acc
    counts := cs.foldl (fun l w => mput 0 l (b.val * 128 + w.1) w.2) clear.counts }

/-- Whether the engines have room for an image: cores unclaimed, buffers free, queues and table entries (15 R329). -/
def State.restoreRoom (s : State) (q : Sq) (m : Image) : Bool :=
  m.cores.all (fun p => (s.claimedBy q p.1).isNone) && m.bufs.all (fun b => ((s.arr q).bufs[b]).isNone) &&
    (List.finRange 4).all (fun v => decide ((s.core q v).eq.length + (m.eqs[v]).length ≤ 64)) &&
    (m.sq == q || decide ((s.sq q).tokens.length + m.toks.length ≤ 64))

/-- The parked tokens of a task return to context `c` of square `q`, from the square that parked them (11 Table 11-4). -/
def State.returnTokens (s : State) (q : Sq) (c : Cx) (m : Image) : State :=
  if m.sq = q then s.modSq q (fun x => x.reown (.saved m.x.task) (.ctx c))
  else
    let ts := (s.sq m.sq).tokens.filter (fun t => t.owner == .saved m.x.task)
    let s := s.modSq m.sq (fun x => { x with tokens := x.tokens.filter (fun t => !(t.owner == .saved m.x.task)) })
    s.modSq q (fun x => { x with tokens := x.tokens ++ ts.map (fun t => { t with owner := .ctx c }) })

/-- The number of the sector that a restored watch entry watches: that of its address, or, while this does not translate, one that no write
reaches (log 99). -/
def State.watchSector (s : State) (q : Sq) (va : Nat) : Nat := match s.findXl q va with
  | .ok e => e.pa va / 32
  | .error _ => 2 ^ 48

/-- The state after an image is written into context `c` of square `q`. A task of another module has no invocation here. What a suspended
command may now be granted ends the term of an idle holder (09 R201). -/
def State.restoreImage (s : State) (q : Sq) (c : Fin 8) (m : Image) : State :=
  let cx := tileCx c
  let own := m.module == Config.moduleId.toNat
  let bumps := ((s.saved.find? (fun y => own && y.task == m.x.task)).map (·.bumps)).getD 0
  let old := s.ctx q cx
  let fvr : BitVec 16 := m.x.fvrSeq + BitVec.ofNat 16 bumps + (if own then 0 else 1)
  let x := { m.x with
    po := Nat.max m.x.po old.po, fvrSeq := fvr, st := CtxSt.ready, hold := true, inv := if own then m.x.inv else none
    task := if own then m.x.task else s.nextTask }
  let s := s.setCtx q cx x
  let s := { s with mem := memPut (mclear s.mem (privAddr q.val c.val 0) 0x4000) (privAddr q.val c.val 0) m.priv
                    bad := s.bad.filter (fun u => !(decide (privAddr q.val c.val 0 ≤ u) && decide (u < privAddr q.val c.val 0x4000))) }
  let s := s.restoreCores q c m.cores
  let s := m.cores.foldl (fun s p => s.fillPad q p.1 x.fill) s
  let s := m.hnds.foldl (fun s p => s.modCore q p.1 (fun y =>
    { y with
      handles := Vector.ofFn (fun (i : Fin 64) => p.2.1.getD i.val Hnd.reset)
      fmt := Vector.ofFn (fun (i : Fin 16) => p.2.2.getD i.val 7) })) s
  let s := m.pads.foldl (fun s p => { s with mem := memPut s.mem (spadAddr q.val p.1.val p.2.1) p.2.2 }) s
  let s := m.acores.foldl (fun s p => s.modACore q p.1 (fun _ => p.2)) s
  let s := m.bufs.foldl (fun s b => s.modArr q (fun a =>
    let a := { a with bufs := vset a.bufs b (some cx), keeps := vset a.keeps b (bit m.keeps b.val) }
    a.restoreBuf b x.fill ((m.accs.find? (fun e => e.1 == b)).map (·.2)))) s
  let s := (List.finRange 4).foldl (fun s v => s.modCore q v (fun y =>
    { y with
      headSince := if y.eq.isEmpty && y.loop.isNone then s.now else y.headSince
      eq := y.eq ++ (m.eqs[v]).map (fun e => { e with ctx := cx }) })) s
  let s := if own then s.returnTokens q cx m else s
  let s := match m.watch with
    | none => s
    | some va => s.arm q cx va (s.watchSector q va) true
  let s := s.yieldIdle q
  { s with saved := s.saved.filter (fun y => !(own && y.task == m.x.task)), nextTask := if own then s.nextTask else s.nextTask + 1 }

/-- CTX.RESTORE (15 R329): the whole image is verified before anything changes, and the waits follow. -/
def execCtxRestore (d a : Reg) (s : State) : Out :=
  let q := s.fsq
  let area := (s.rs d).toNat
  if !s.isF then s.denied (.ctxRestore d a)
  else match ctxArg (s.rs a) with
    | none => s.ctxDone CTX_STATE
    | some c =>
      if (s.ctx q (tileCx c)).st ≠ .free then s.ctxDone CTX_STATE
      else match s.areaSeen q area with
        | none => s.block (.ctxRestore d a)
        | some s =>
          let rd := s.imageRead q area
          let t := s.areaTouch q area (segsEnd rd 0x20000 0)
          match readSegs rd 0x20000 0 0 0 (((rd 0 1).getD []).headD 0).toNat with
          | none => t.ctxDone SAVE_IMAGE_BAD
          | some l => match t.decodeImage q (tileCx c) l with
            | none => t.ctxDone SAVE_IMAGE_BAD
            | some m =>
              if m.module ≠ Config.moduleId.toNat && !m.toks.isEmpty then t.ctxDone MODULE_MISMATCH
              else if !t.restoreRoom q m then t.block (.ctxRestore d a)
              else (t.restoreImage q c m).ctxDone 0

/-! ## CTX.END (15 R325, R327) -/

/-- The saved task at an area of this square that has parked tokens here. -/
def State.parkedAt (s : State) (q : Sq) (area : Nat) : Option Saved :=
  s.saved.reverse.find? (fun y => y.area == area && (s.sq q).tokens.any (fun t => t.owner == .saved y.task))

/-- What stands before the drops of a saved task are sent (12 R278): its log entries are delivered to their homes, and the dirty bytes of
the regions of the scopes of its tokens are written back, in every square in which it has run. -/
def State.settleSaved (s : State) (q : Sq) (y : Saved) : State :=
  let rs := (s.trail.filter (fun p => p.1 == y.task)).map (·.2)
  let ns := (List.finRange 8).filter (fun n => (s.sq q).tokens.any (fun t => t.owner == .saved y.task && t.scope == n))
  let s := rs.foldl (fun s r => s.deliverLog r (fun e => e.task == y.task)) s
  rs.foldl (fun s r => s.writeBack r (s.lineIn (fun g => ns.any g.ofScope))) s

/-- A saved task ends: the square sends the drops of its parked tokens, and its invocation learns of its end. -/
def State.endSaved (s : State) (q : Sq) (y : Saved) (code : Nat) : State :=
  let s := (s.settleSaved q y).modSq q (fun x => x.dropAll (.saved y.task))
  ({ s with saved := s.saved.filter (fun z => z.task ≠ y.task), trail := s.trail.filter (fun p => p.1 ≠ y.task) } : State).noteEnd y.inv
    { time := y.time, sq := y.sq.val, ctx := y.ctx.val, cause := code }

/-- CTX.END (15 Table 15-8): S = 0 ends a live context, S = 1 the saved task at s[d], as soon as the stream has taken all its drops. A
context in MJ.COMMIT is waited for (16 R355). -/
def execCtxEnd (d a : Reg) (s : State) : Out :=
  let q := s.fsq
  let w := s.rs a
  let code := bits w 16 9
  if !s.isF then s.denied (.ctxEnd d a)
  else if bits w 25 39 ≠ 0 || bits w 9 7 ≠ 0 || bits w 4 4 ≠ 0 || code = 0 || !assigned code then s.ctxDone CTX_STATE
  else if bit w 8 then
    if bits w 0 4 ≠ 0 then s.ctxDone CTX_STATE
    else match s.parkedAt q (s.rs d).toNat with
      | none => s.ctxDone CTX_STATE
      | some y =>
        let s := (s.settleSaved q y).modSq q (fun x => x.dropSome (.saved y.task))
        if (s.sq q).tokens.any (fun t => t.owner == .saved y.task) then s.block (.ctxEnd d a) else (s.endSaved q y code).ctxDone 0
  else match ctxArg (word (bits w 0 4)) with
    | none => s.ctxDone CTX_STATE
    | some c =>
      if (s.ctx q (tileCx c)).st == .free then s.ctxDone CTX_STATE
      else if (s.ctx q (tileCx c)).st == .ending && (s.ctx q (tileCx c)).endCause.isSome then s.ctxDone 0
      else if s.committing q (tileCx c) then s.block (.ctxEnd d a)
      else (s.endTask q (tileCx c) code).ctxDone 0

end Sys2Proof.Machine
end

