-- ==== Sys2Proof/Machine/Journal.lean ====
section
/-! DEFINITION. The MRAM journal (16 R352 to R356, 19 R380). -/

namespace Sys2Proof.Machine

def MJ_STATE : Nat := 0x142
def MJ_RANGE : Nat := 0x143
def MJ_WORN : Nat := 0x144
def MJ_FULL : Nat := 0x145
def MJ_WRITE_FAIL : Nat := 0x146

/-! ## Wear and write-check (16 R343, R353) -/

/-- The wear at which a page is worn. -/
def wornAt : Nat := 1000000000
/-- The wear of the 4 KiB page of a physical address. -/
def State.wearAt (s : State) (pa : Nat) : Nat := mget 0 s.wear (pa / 4096)
/-- `n` attempts counted in the wear of a page, which saturates. -/
def State.addWear (s : State) (pa n : Nat) : State :=
  { s with wear := mput 0 s.wear (pa / 4096) (Nat.min (s.wearAt pa + n) (2 ^ 32 - 1)) }
/-- A page marked worn: its counter is raised to the limit. -/
def State.markWorn (s : State) (pa : Nat) : State :=
  { s with wear := mput 0 s.wear (pa / 4096) (Nat.max (s.wearAt pa) wornAt) }

/-- One write with write-check, of at most five attempts, each of which wears the page: whether an attempt succeeded, and the
state. How many fail is free (log 6). -/
def State.checkedWrite (s : State) (pa : Nat) (bs : List Byte) : Bool × State :=
  let f := Config.failedAttempts s.free
  let s := (s.addWear pa (Nat.min (f + 1) 5)).bump
  if f < 5 then (true, s.writeHome pa bs) else (false, s)

/-! ## The journal area (16 Table 16-4); its layout inside a half is the model's own (log 17) -/

/-- First byte of a half of the journal area of a square. -/
def halfBase (q half : Nat) : Nat := mramBase q + 0x7300000 + half * 0x80000
/-- The half in which the open journal stands. -/
def Journal.here (j : Journal) : Nat := 1 - j.half
/-- The place of entry `i`, and of the copies of the commit record. -/
def entryAddr (q half i : Nat) : Nat := halfBase q half + 16 * i
def recordAddr (q half copy : Nat) : Nat := halfBase q half + 0x7F000 + 8 * copy
/-- The bytes of an entry: the offset of its home in the weight store of square `q`, and the value. -/
def entryBytes (q : Nat) (e : Nat × Word) : List Byte := natLE 8 (e.1 - mramBase q) ++ natLE 8 e.2.toNat
/-- The bytes of a commit record: the number of the journal and the number of its entries. -/
def recordBytes (serial n : Nat) : List Byte := natLE 8 (serial % 2 ^ 48 * 2 ^ 16 + n)
/-- Whether a half has a worn page. -/
def State.halfWorn (s : State) (q half : Nat) : Bool := (List.range 128).any (fun i => decide (wornAt ≤ s.wearAt (halfBase q half + 4096 * i)))

/-- The journal of a square. -/
def State.journal (s : State) (q : Sq) : Journal := (s.sq q).journal
/-- The state with `f` applied to the journal of a square. -/
def State.modJournal (s : State) (q : Sq) (f : Journal → Journal) : State := s.modSq q (fun x => { x with journal := f x.journal })
/-- The journal closed: its commit record no longer stands for the next one. The entries are counted until MJ.OPEN (16 R353). -/
def Journal.close (j : Journal) : Journal :=
  { j with st := .closed, copies := 0, good := false, applied := 0, failed := 0, olds := [], tries := 0, serial := j.serial + 1 }
/-- The journal opened by a context in the half after the last. -/
def Journal.open (j : Journal) (c : Cx) : Journal := { Journal.reset with st := .opened, owner := c, half := 1 - j.half, serial := j.serial }
/-- Whether the issuing context owns the journal in a state. -/
def State.ownsJournal (s : State) (st : JSt) : Bool := (s.journal s.fsq).st == st && (s.journal s.fsq).owner == s.fcx

/-- The journal of a context that is OPEN is discarded, where no commit of it has begun (16 R355). -/
def State.dropJournal (s : State) (q : Sq) (c : Cx) : State :=
  if (s.journal q).st = .opened && (s.journal q).owner = c && !(s.journal q).inCommit then s.modJournal q Journal.close else s

/-! ## The instructions (16 R353) -/

/-- MJ.OPEN (16 R353). -/
def execMjOpen (d : Reg) (s : State) : Out :=
  let j := s.journal s.fsq
  if j.st ≠ .closed && j.owner = s.fcx then s.trap MJ_STATE
  else if j.st ≠ .closed then (s.wS d 1).done
  else if s.halfWorn s.fsq.val j.half then ((s.modJournal s.fsq (fun j => { j with half := 1 - j.half })).wS d 2).done
  else ((s.modJournal s.fsq (fun j => j.open s.fcx)).wS d 0).done

/-- The checks of the address of MJ.WR and MJ.STAT: alignment, translation as a load, and the weight store of the square
(16 R353, 19 R380). -/
def State.journalled (s : State) (i : Instr) (va : Nat) (k : Nat → State → Out) : Out :=
  if va % 8 ≠ 0 then s.trap MISALIGNED
  else match s.translate s.fsq (s.me.who s.fcx) { r := true } va with
    | .error .stall => s.block i
    | .error (.cause c) => s.trap c
    | .ok (pa, t) =>
      if decide (pa < mramBase s.fsq.val) || decide (mramBase s.fsq.val + 0x8000000 ≤ pa) then s.trap MJ_RANGE
      else k pa t

/-- MJ.WR (16 R353): each execution makes one attempt, which wears the page of the journal; it stays blocked between them (19 R380). Attempts
count from the moment the instruction began. -/
def execMjWr (a b : Reg) (s : State) : Out :=
  if !s.ownsJournal .opened then s.trap MJ_STATE
  else s.journalled (.mjWr a b) (s.rs a).toNat (fun pa s =>
    let q := s.fsq
    let j := s.journal q
    if wornAt ≤ s.wearAt pa then s.trap MJ_WORN
    else if j.entries.length ≥ 32512 then s.trap MJ_FULL
    else
      let at_ := entryAddr q.val j.here j.entries.length
      let tries := (if s.me.waits then j.tries else 0) + 1
      let ok := Config.failedAttempts s.free = 0
      let s := (s.addWear at_ 1).bump
      if ok then
        ((s.writeHome at_ (entryBytes q.val (pa, s.rs b))).modJournal q (fun j => { j with entries := j.entries ++ [(pa, s.rs b)], tries := 0 })).done
      else if tries < 5 then (s.modJournal q (fun j => { j with tries := tries })).block (.mjWr a b)
      else (s.modJournal q (fun j => { j with tries := 0 })).trap MJ_WRITE_FAIL)

/-- One entry applied at its home: whether it was written. A home word that cannot be written keeps its value, and its page is marked worn. -/
def State.applyJEntry (s : State) (e : Nat × Word) : Bool × State :=
  match s.checkedWrite e.1 (natLE 8 e.2.toNat) with
  | (true, s) => (true, s)
  | (false, s) => (false, s.markWorn e.1)

/-- The entries applied at their homes in order, with the number that failed. -/
def State.applyJournal (s : State) : List (Nat × Word) → Nat → Nat × State
  | [], n => (n, s)
  | e :: t, n =>
    let r := s.applyJEntry e
    r.2.applyJournal t (if r.1 then n else n + 1)

/-- The next copy of the commit record of a square's journal attempted. -/
def State.recordCopy (s : State) (q : Sq) : State :=
  let j := s.journal q
  let r := s.checkedWrite (recordAddr q.val j.here j.copies) (recordBytes j.serial j.entries.length)
  r.2.modJournal q (fun j => { j with copies := j.copies + 1, good := j.good || r.1 })

/-- MJ.COMMIT at its next step: a copy of the record, the decision, one entry at its home, the close (16 R353; log 36). -/
def State.commitStep (s : State) (d : Reg) : Out :=
  let q := s.fsq
  let j := s.journal q
  if j.copies < 2 then (s.recordCopy q).block (.mjCommit d)
  else if j.st = .opened then
    if j.good then (s.modJournal q (fun j => { j with st := .committing })).block (.mjCommit d)
    else (s.modJournal q Journal.close).trap MJ_WRITE_FAIL
  else match j.entries[j.applied]? with
    | some e =>
      let old := word (s.rdN e.1 8)
      let r := s.applyJEntry e
      (r.2.modJournal q (fun j => { j with
        applied := j.applied + 1, failed := if r.1 then j.failed else j.failed + 1
        olds := if j.olds.any (fun o => o.1 == e.1) then j.olds else j.olds ++ [(e.1, old)] })).block (.mjCommit d)
    | none => ((s.modJournal q Journal.close).wS d (word j.failed)).done

/-- MJ.COMMIT (16 R353): once begun it goes on from step to step. -/
def execMjCommit (d : Reg) (s : State) : Out :=
  if !(s.ownsJournal .opened || (s.ownsJournal .committing && s.me.waits)) then s.trap MJ_STATE else s.commitStep d

/-- MJ.ABORT (16 R353). -/
def execMjAbort (s : State) : Out :=
  if !s.ownsJournal .opened then s.trap MJ_STATE else (s.modJournal s.fsq Journal.close).done

/-- MJ.STAT (16 R353). -/
def execMjStat (d a : Reg) (s : State) : Out :=
  s.journalled (.mjStat d a) (s.rs a).toNat (fun pa s =>
    let j := s.journal s.fsq
    let st := match j.st with
      | .closed => 0
      | .opened => if j.owner = s.fcx then 1 else 2
      | .committing => 3
    (s.wS d (word (st * 2 ^ 62 + j.entries.length * 2 ^ 32 + s.wearAt pa))).done)

/-! ## Settling at resumption (16 R356) -/

/-- The number of entries that a copy of the commit record of square `q` commits: none where the copy does not check. -/
def State.recordOf (s : State) (q : Sq) (copy : Nat) : Option Nat :=
  let j := s.journal q
  let a := recordAddr q.val j.here copy
  let w := s.rdN a 8
  if s.isBad a 8 || w / 2 ^ 16 ≠ j.serial % 2 ^ 48 then none else some (w % 2 ^ 16)

/-- The entries in the journal area: the first `n` of the half in use. -/
def State.areaEntries (s : State) (q : Sq) (n : Nat) : List (Nat × Word) :=
  (List.range n).map (fun i =>
    let a := entryAddr q.val (s.journal q).here i
    (mramBase q.val + s.rdN a 8, word (s.rdN (a + 8) 8)))

/-- An owner stopped in MJ.COMMIT resumes with that instruction retired and its count written. -/
def State.commitRetired (s : State) (q : Sq) (c : Cx) (failed : Nat) : State :=
  s.modCtx q c (fun x => match x.blocked with
    | some b => (match b.instr with
      | .mjCommit d => (x.setS d (word failed)).advance
      | _ => x)
    | none => x)

/-- A journal settled from the commit records in the journal area alone: applied again from its first entry where the first copy, or else the
second, records the commit, and otherwise discarded (16 R356). -/
def State.settleJournal (s : State) (q : Sq) : State :=
  match (s.recordOf q 0).orElse (fun _ => s.recordOf q 1) with
  | some n =>
    let r := s.applyJournal (s.areaEntries q n) 0
    (r.2.modJournal q Journal.close).commitRetired q (s.journal q).owner r.1
  | none =>
    (s.modJournal q Journal.close).modCtx q (s.journal q).owner (fun x => match x.blocked with
      | some b => (match b.instr with
        | .mjCommit _ => { x with blocked := none }
        | _ => x)
      | none => x)

end Sys2Proof.Machine
end

