-- ==== Sys2Proof/Machine/Tasks.lean ====
section
/-! DEFINITION. Events of contexts: the end of a task, delivery of bundle faults, the ends of MWAIT, firmware's credit and interrupt, and
the limit of a run (05 R97, R101; 07 R162; 08 R190; 13 R296; 15 R323 to R326). -/

namespace Sys2Proof.Machine

def INTERRUPT : Nat := 0x006
def RUN_OVERRUN : Nat := 0x12F

/-- The state with another issuing context (log 1). -/
def State.focus (s : State) (q : Sq) (c : Cx) : State := { s with fsq := q, fcx := c }

/-! ## CONTEXT_FREE (05 R97, 15 R325) -/

/-- The cause of an engine that stands in ERROR when a task retires: the array statuses of its cores, then its handles (15 R326). -/
def State.engineCause (s : State) (q : Sq) (c : Cx) : Option Nat :=
  let vs := s.claimed q c
  match firstSome (fun v => (s.acore q v).err) vs with
  | some e => some e
  | none => firstSome (fun v => firstSome (fun h =>
      let y := s.hnd q v h
      if y.st = .error then some y.cause else none) (List.finRange 64)) vs

/-- Whether a context's claimed cores have no half-way handle. -/
def State.noPartials (s : State) (q : Sq) (c : Cx) : Bool :=
  (s.claimed q c).all (fun v => (List.finRange 64).all (fun h => !(s.hnd q v h).partly))

/-- Whether the work of an ENDING context is done: its bundles, commands, copies and accesses; after EXIT no handle is half-way. -/
def State.drained (s : State) (q : Sq) (c : Cx) : Bool :=
  s.quiet q c && !(s.sq q).bundlesOf c && ((s.ctx q c).endCause.isSome || s.noPartials q c)

/-- Every token of a context is destroyed: what 12 R278 asks for is done first, and the drops enter the stream (11 Table 11-4). -/
def State.dropContext (s : State) (q : Sq) (c : Cx) : State :=
  let ns := (List.finRange 8).filter (fun n => (s.sq q).tokens.any (fun t => t.owner == .ctx c && t.scope == n))
  let k := (s.ctx q c).task
  let s := (s.trailOf q k).foldl (fun s r => s.deliverLog r (fun e => e.task == k)) (s.deliverLog q (fun e => e.ctx == c))
  (ns.foldl (fun s n => s.dropWrites q c n) s).modSq q (fun x => x.dropAll (.ctx c))

/-- Steps 5 and 6 of 15 R325: half-way handles of a task ended by a cause become ERROR, and its tokens are destroyed. -/
def State.endTokens (s : State) (q : Sq) (c : Cx) : State :=
  (if (s.ctx q c).endCause.isSome then s.partials q c true else s).dropContext q c

/-- A task that retires through EXIT with an engine in ERROR ends by that cause. Its invocation learns of it before the task's tokens go, so
that no completion comes without it (15 R326). -/
def State.endEngines (s : State) (q : Sq) (c : Cx) : State :=
  let x := s.ctx q c
  match x.endCause, s.engineCause q c with
  | none, some e =>
    (s.noteEnd x.inv { time := x.tileTime, sq := q.val, ctx := c.val, cause := e }).modCtx q c (fun y => { y with endCause := some e })
  | _, _ => s

/-- Steps 7 and 8, and the end of a task that exits: what it holds is released, and the context FREE. -/
def State.freeContext (s : State) (q : Sq) (c : Cx) : State :=
  let x := s.ctx q c
  let s := { s with trail := s.trail.filter (fun p => p.1 ≠ x.task) }
  let s := ((s.dropJournal q c).releaseCores q c).releaseHolds q c
  s.modCtx q c (fun y => { y with st := .free, hold := false, endCause := none, records := [], blocked := none, inv := none, task := 0 })

/-- CONTEXT_FREE (05 R97, 15 R325): the context is FREE once the drops of its tokens have entered the stream, which holds 32 (11 R261). -/
def execContextFree (q : Sq) (c : Cx) (s : State) : Out :=
  if (s.ctx q c).st ≠ .ending || !s.drained q c then .next s
  else
    let s := (s.endEngines q c).endTokens q c
    .next (if (s.sq q).owed.isEmpty then s.freeContext q c else s)

/-! ## Delivery of a waiting record (07 R162, R163; 15 R324) -/

/-- BUNDLE_FAULT_DELIVERY: to the ACTIVE context outside its handler, or to F. -/
def execBundleFaultDelivery (q : Sq) (c : Cx) (s : State) : Out :=
  let x := s.sq q
  if s.recordDue q c && (c == 8 || (x.active.map tileCx == some c && x.service.isNone)) then .next (s.deliver q c) else .next s

/-! ## MWAIT (08 R190) -/

/-- The MWAIT in which a context waits, its destination, and the reason that would end it now. -/
def State.mwaitNow (s : State) (q : Sq) (c : Cx) : Option (Reg × Nat) :=
  let x := s.ctx q c
  match x.blocked with
  | some b => match b.instr with
    | .mwait d a => if x.waits then (s.mwaitReason q c b.now (mwaitLimit (x.rs_ a))).map (fun r => (d, r)) else none
    | _ => none
  | none => none

/-- MWAIT_WAKE: the entry fires or is evicted, or a context of higher priority becomes READY; a record that waits goes first (15 R320). -/
def execMwaitWake (q : Sq) (c : Cx) (s : State) : Out :=
  match s.mwaitNow q c with
  | some (d, r) => if r = 2 then .next s else if s.recordDue q c then .next (s.deliver q c) else (s.focus q c).mwaitEnd d r
  | none => .next s

/-- MWAIT_TIMEOUT. -/
def execMwaitTimeout (q : Sq) (c : Cx) (s : State) : Out :=
  match s.mwaitNow q c with
  | some (d, r) => if r ≠ 2 then .next s else if s.recordDue q c then .next (s.deliver q c) else (s.focus q c).mwaitEnd d 2
  | none => .next s

/-! ## Firmware's share and interrupt (05 R101, R102; 15 R323) -/

/-- FCRED_CREDIT: one credit for every 16 arithmetic cycles in which a tile context was ACTIVE, up to 64. -/
def execFcredCredit (q : Sq) (s : State) : Out :=
  if (s.sq q).fcycles < 16 then .next s
  else .next (s.modSq q (fun x => { x with fcycles := x.fcycles - 16, fcred := Nat.min 64 (x.fcred + 1) }))

/-- FIRMWARE_INTERRUPT: the ACTIVE context has stood blocked for 2 µs outside its handler, F has 16 credits, and F has work pending, as
the event says where F itself is not blocked (15 R323; log 59). An MJ.COMMIT that has begun takes none (16 R353). -/
def execFirmwareInterrupt (q : Sq) (c : Cx) (s : State) : Out :=
  let x := s.sq q
  let k := s.ctx q c
  match cxTile c, k.blocked with
  | some t, some b =>
    if x.active = some t && k.waits && decide (b.now + 2000 ≤ s.now) && !k.inh && decide (16 ≤ x.fcred) && x.service.isNone &&
        !(s.ctx q 8).waits && !s.committing q c then
      let s := s.modCtx q c (fun k => { k.saveResume (causeWord 0 2 INTERRUPT) with blocked := some { b with afresh := true } })
      .next (s.modSq q (fun x => { x with service := some (t, 0), tsel := field x.tsel (word (0x10 + t.val)) 0x1F }))
    else .next s
  | _, _ => .next s

/-- FIRMWARE_SERVICE_LIMIT: after the 16th instruction of a service the core performs the RFE itself. -/
def execFirmwareServiceLimit (q : Sq) (s : State) : Out :=
  match (s.sq q).service with
  | some (c, n) => if n < 16 then .next s else .next (s.serviceEnd q c)
  | none => .next s

/-! ## The limit of a run (13 R296) -/

/-- RUN_OVERRUN: a priority-3 tile waits for a context, and the run of a task of lower priority has lasted RUNMAX. -/
def execRunOverrun (q : Sq) (s : State) : Out :=
  let x := s.sq q
  match x.active with
  | none => .next s
  | some t =>
    let k := s.ctx q (tileCx t)
    match s.residence k.res with
    | none => .next s
    | some r =>
      if x.launchQ.any (fun e => e.words.pri == 3) && x.freeCtx.isNone && decide (k.pri < 3) && x.service.isNone &&
          decide (k.runStart + r.runmax ≤ s.now) && !s.committing q (tileCx t) then .next (s.endTask q (tileCx t) RUN_OVERRUN)
      else .next s

end Sys2Proof.Machine
end

