-- ==== Sys2Proof/Machine/VectorOps.lean ====
section
/-! DEFINITION. The operations of the vector units vfu0 to vfu3 and of the scalar units kfa and kfb (08 R174 to R177). -/

namespace Sys2Proof.Machine

/-! ## Results (08 R174, R175) -/

/-- What a vector operation computes: R, F, and the conditions for VCOND. -/
structure VRes where
  r : VReg
  f : Word
  cond : Cond
deriving DecidableEq, Repr

/-- A vector operation: from VRM, the guard mask, A, B and C. -/
abbrev VFn := Nat → Word → VReg → VReg → VReg → VRes

/-- An operation lane by lane: each active lane gives its result, its F bit and its conditions; other lanes give 0. -/
def laneWise (f : Nat → Lane → Lane → Lane → Lane × Bool × Cond) : VFn := fun rm gm a b z =>
  let l : Vector (Lane × Bool × Cond) 64 :=
    Vector.ofFn (fun i => if gm.getLsbD i.val then f rm a[i] b[i] z[i] else (0, false, {}))
  { r := l.map (·.1), f := flagWord (fun i => l[i].2.1), cond := l.toList.foldl (fun d x => d.or x.2.2) {} }

/-- A lane operation whose F bit tells that a condition was raised. -/
def laneCond (f : Nat → Lane → Lane → Lane → Lane × Cond) : VFn :=
  laneWise (fun rm a b c => let r := f rm a b c; (r.1, r.2.any, r.2))

/-- A lane operation that raises no condition. -/
def lanePlain (f : Lane → Lane → Lane → Lane) : VFn := laneCond (fun _ a b c => (f a b c, {}))

/-- A comparison: all ones and F bit 1 where it holds (08 Table 8-8). -/
def laneCmp (f : Lane → Lane → Bool) : VFn :=
  laneWise (fun _ a b _ => if f a b then (BitVec.allOnes 32, true, {}) else (0, false, {}))

/-- A lane from an integer, modulo 2^32. -/
def laneOf (i : Int) : Lane := BitVec.ofInt 32 i

/-- An integer clamped to a lane, with SAT where it clamps. -/
def satLane (i : Int) : Lane × Cond := (laneOf (clampS i 32), { sat := decide (clampS i 32 ≠ i) })

/-- `n` packed elements of `w` bits, each with its conditions. -/
def packLane (w n : Nat) (f : Nat → Nat × Cond) : Lane × Cond :=
  let l := (List.range n).map (fun j => (j, f j))
  (BitVec.ofNat 32 (l.foldl (fun x e => x + e.2.1 % 2 ^ w * 2 ^ (w * e.1)) 0), l.foldl (fun d e => d.or e.2.2) {})

/-- Packed element `j` of `w` bits of a lane. -/
def pk (w : Nat) (x : Lane) (j : Nat) : Nat := packed x.toNat w j

/-! ## Integer operations (08 Table 8-5) -/

def vIadd : VFn := lanePlain (fun a b _ => a + b)
def vIsub : VFn := lanePlain (fun a b _ => a - b)
def vImul : VFn := lanePlain (fun a b _ => a * b)
def vImad : VFn := lanePlain (fun a b c => a * b + c)
def vIadds : VFn := laneCond (fun _ a b _ => satLane (a.toInt + b.toInt))
def vIsubs : VFn := laneCond (fun _ a b _ => satLane (a.toInt - b.toInt))
def vImin : VFn := lanePlain (fun a b _ => if sLt b a then b else a)
def vImax : VFn := lanePlain (fun a b _ => if sLt a b then b else a)
def vIminu : VFn := lanePlain (fun a b _ => if uLt b a then b else a)
def vImaxu : VFn := lanePlain (fun a b _ => if uLt a b then b else a)
def vAnd : VFn := lanePlain (fun a b _ => a &&& b)
def vOr : VFn := lanePlain (fun a b _ => a ||| b)
def vXor : VFn := lanePlain (fun a b _ => a ^^^ b)
def vShl : VFn := lanePlain (fun a b _ => a <<< (b.toNat % 32))
def vShr : VFn := lanePlain (fun a b _ => a >>> (b.toNat % 32))
def vSra : VFn := lanePlain (fun a b _ => a.sshiftRight (b.toNat % 32))
def vIabs : VFn := lanePlain (fun a _ _ => laneOf (a.toInt.natAbs : Nat))
def vIaddH : VFn := laneCond (fun _ a b _ => packLane 16 2 (fun j => (pk 16 a j + pk 16 b j, {})))
def vIaddB : VFn := laneCond (fun _ a b _ => packLane 8 4 (fun j => (pk 8 a j + pk 8 b j, {})))
def vIaddsB : VFn := laneCond (fun _ a b _ => packLane 8 4 (fun j =>
  let t := sextN (pk 8 a j) 8 + sextN (pk 8 b j) 8
  ((clampS t 8 % 256).toNat, { sat := decide (clampS t 8 ≠ t) })))
def vIdot4 : VFn := laneCond (fun _ a b c =>
  satLane (c.toInt + ((List.range 4).map (fun j => sextN (pk 8 a j) 8 * sextN (pk 8 b j) 8)).sum))

/-! ## Floating-point operations (08 Table 8-6) -/

/-- A lane from a code and its conditions. -/
def codeLane (r : Nat × Cond) : Lane × Cond := (BitVec.ofNat 32 r.1, r.2)

/-- The FP32 value of a lane. -/
def fv (x : Lane) : FV := fp32.value x.toNat

/-- The lesser or the greater of two FP32 lanes: a NaN yields the other, two NaNs the canonical NaN, and ±0 the first. -/
def fpick (less : FV → FV → Bool) (a b : Lane) : Lane :=
  if (fv a).isNan then (if (fv b).isNan then BitVec.ofNat 32 fp32.nanCode else b)
  else if (fv b).isNan then a
  else if less (fv b) (fv a) then b else a

/-- A sign operation: exact, a NaN gives the canonical NaN. -/
def fsign (f : Lane → Lane) (a : Lane) : Lane := if (fv a).isNan then BitVec.ofNat 32 fp32.nanCode else f a

def vFadd : VFn := laneCond (fun rm a b _ => codeLane (fp32.add rm a.toNat b.toNat))
def vFsub : VFn := laneCond (fun rm a b _ => codeLane (fp32.sub rm a.toNat b.toNat))
def vFmul : VFn := laneCond (fun rm a b _ => codeLane (fp32.mul rm a.toNat b.toNat))
def vFma : VFn := laneCond (fun rm a b c => codeLane (fp32.fma rm a.toNat b.toNat c.toNat))
def vFmin : VFn := lanePlain (fun a b _ => fpick FV.lt a b)
def vFmax : VFn := lanePlain (fun a b _ => fpick (fun x y => y.lt x) a b)
def vFabs : VFn := lanePlain (fun a _ _ => fsign (fun x => x &&& 0x7FFFFFFF) a)
def vFneg : VFn := lanePlain (fun a _ _ => fsign (fun x => x ^^^ 0x80000000) a)
def vFrcp : VFn := laneCond (fun rm a _ _ => codeLane (fp32.arith rm (fv a).recip))
def vFsqrt : VFn := laneCond (fun rm a _ _ =>
  let r := (fv a).sqrt
  let z := fp32.arith rm r.1
  codeLane (z.1, r.2.or z.2))
def vFaddBf : VFn := laneCond (fun rm a b _ => packLane 16 2 (fun j => bf16.add rm (pk 16 a j) (pk 16 b j)))
def vFmulBf : VFn := laneCond (fun rm a b _ => packLane 16 2 (fun j => bf16.mul rm (pk 16 a j) (pk 16 b j)))
def vFmaBf : VFn := laneCond (fun rm a b c => packLane 16 2 (fun j => bf16.fma rm (pk 16 a j) (pk 16 b j) (pk 16 c j)))
def vFmaHf : VFn := laneCond (fun rm a b c => packLane 16 2 (fun j => fp16.fma rm (pk 16 a j) (pk 16 b j) (pk 16 c j)))
def vFmaE4 : VFn := laneCond (fun rm a b c => packLane 8 4 (fun j => e4m3.fma rm (pk 8 a j) (pk 8 b j) (pk 8 c j)))
def vFmaE5 : VFn := laneCond (fun rm a b c => packLane 8 4 (fun j => e5m2.fma rm (pk 8 a j) (pk 8 b j) (pk 8 c j)))

/-! ## Conversions and packing (08 Table 8-7) -/

/-- The low element of a lane is A's, the next B's, and the upper half C's lower one where `c` is given. -/
def packCvt (f : Fmt) (rm : Nat) (a b : Lane) : Lane × Cond :=
  packLane f.width 2 (fun j => f.convert rm (fv (if j = 0 then a else b)))

/-- Element `j` of a packed format to FP32, exactly. -/
def widen (f : Fmt) (a : Lane) (j : Nat) : Lane := BitVec.ofNat 32 (fp32.convert 0 (f.value (pk f.width a j))).1

def vCvtFI : VFn := laneCond (fun rm a _ _ => codeLane (fp32.convert rm (.ofInt a.toInt)))
def vCvtIF : VFn := laneCond (fun rm a _ _ => let r := toInteger (-(2 ^ 31)) (2 ^ 31 - 1) rm (fv a); (laneOf r.1, r.2))
def vCvtBfF : VFn := laneCond (fun rm a b _ => packCvt bf16 rm a b)
def vCvtHfF : VFn := laneCond (fun rm a b _ => packCvt fp16 rm a b)
def vCvtE4F : VFn := laneCond (fun rm a b c => let r := packCvt e4m3 rm a b; (r.1 ||| (c <<< 16), r.2))
def vCvtE5F : VFn := laneCond (fun rm a b c => let r := packCvt e5m2 rm a b; (r.1 ||| (c <<< 16), r.2))
def vCvtFBf : VFn := lanePlain (fun a b _ => widen bf16 a (b.toNat % 2))
def vCvtFHf : VFn := lanePlain (fun a b _ => widen fp16 a (b.toNat % 2))
def vCvtFE4 : VFn := lanePlain (fun a b _ => widen e4m3 a (b.toNat % 4))
def vCvtFE5 : VFn := lanePlain (fun a b _ => widen e5m2 a (b.toNat % 4))
def vCvtII8 : VFn := lanePlain (fun a b _ => laneOf (sextN (pk 8 a (b.toNat % 4)) 8))
def vCvtI8I : VFn := laneCond (fun _ a _ c =>
  let v := clampS a.toInt 8
  ((c <<< 8) ||| BitVec.ofNat 32 (v % 256).toNat, { sat := decide (v ≠ a.toInt) }))

/-- Lanes of a register in a guard mask, 0 elsewhere. -/
def masked (gm : Word) (f : Fin 64 → Lane) : VReg := Vector.ofFn (fun i => if gm.getLsbD i.val then f i else 0)

/-- qnt.e2: both blocks of A, whatever the guard, which governs the written lanes alone; F and VCOND take every lane's
conditions. -/
def vQntE2 : VFn := fun _ gm a _ _ =>
  let blk := fun (b : Nat) => quantise ((List.range 32).map (fun i => fv (a.toList.getD (32 * b + i) 0)))
  let b0 := blk 0
  let b1 := blk 1
  let x0 := b0.bytes
  let x1 := b1.bytes
  let conds := b0.conds ++ b1.conds
  let lane := fun (i : Nat) =>
    if i < 4 then BitVec.ofNat 32 (leNat ((x0.drop (4 * i)).take 4))
    else if i < 8 then BitVec.ofNat 32 (leNat ((x1.drop (4 * (i - 4))).take 4))
    else if i = 8 then BitVec.ofNat 32 (leNat ((x0.drop 16).take 2 ++ (x1.drop 16).take 2))
    else 0
  { r := masked gm (fun i => lane i.val), f := flagWord (fun i => (conds.getD i.val {}).any),
    cond := conds.foldl Cond.or {} }

/-- dqnt.e2: 64 FP32 lanes from the layout of qnt.e2. -/
def vDqntE2 : VFn := fun _ gm a _ _ =>
  let l := a.toList
  let blk := fun (b : Nat) =>
    ((List.range 4).flatMap (fun i => natLE 4 (l.getD (4 * b + i) 0).toNat)) ++ ((natLE 4 (l.getD 8 0).toNat).drop (2 * b)).take 2
  let b0 := blk 0
  let b1 := blk 1
  { r := masked gm (fun i => BitVec.ofNat 32 (e2m1xToFp32 (if i.val < 32 then blockElem b0 i.val else blockElem b1 (i.val - 32)))),
    f := 0, cond := {} }

/-! ## Comparisons (08 Table 8-8) -/

def vIcmpEq : VFn := laneCmp (fun a b => a == b)
def vIcmpLt : VFn := laneCmp sLt
def vIcmpLtu : VFn := laneCmp uLt
def vFcmpEq : VFn := laneCmp (fun a b => (fv a).eq (fv b))
def vFcmpLt : VFn := laneCmp (fun a b => (fv a).lt (fv b))
def vFcmpLe : VFn := laneCmp (fun a b => (fv a).le (fv b))
def vFcmpUn : VFn := laneCmp (fun a b => (fv a).isNan || (fv b).isNan)
def vVsel : VFn := laneWise (fun _ a b c => if c ≠ 0 then (a, true, {}) else (b, false, {}))

/-! ## Permutations and reductions (08 Table 8-9) -/

/-- Lane `i` of a register, modulo 64. -/
def laneAt (a : VReg) (i : Nat) : Lane := a[(Fin.ofNat 64 i)]

def vPerm : VFn := fun _ gm a b _ => { r := masked gm (fun i => laneAt a b[i].toNat), f := 0, cond := {} }
def vRotl : VFn := fun _ gm a b _ => { r := masked gm (fun i => laneAt a (i.val + (laneAt b 0).toNat % 64)), f := 0, cond := {} }
def vBcast : VFn := fun _ gm a b _ => { r := masked gm (fun _ => laneAt a (laneAt b 0).toNat), f := 0, cond := {} }

/-- The active lanes of a register with their numbers, in ascending order. -/
def active (gm : Word) (a : VReg) : List (Nat × Lane) :=
  (List.finRange 64).filterMap (fun i => if gm.getLsbD i.val then some (i.val, a[i]) else none)

/-- A reduction: its one result in every active lane, and its conditions in F of every active lane. -/
def reduction (f : Nat → Word → VReg → Lane × Cond) : VFn := fun rm gm a _ _ =>
  let r := f rm gm a
  { r := masked gm (fun _ => r.1), f := if r.2.any then gm else 0, cond := if gm = 0 then {} else r.2 }

/-- One level of the sum tree. -/
def sumLevel (rm : Nat) : List Lane → List Lane × Cond
  | a :: b :: t =>
    let z := fp32.add rm a.toNat b.toNat
    let r := sumLevel rm t
    (BitVec.ofNat 32 z.1 :: r.1, z.2.or r.2)
  | l => (l, {})

/-- The six levels of the tree over 64 lanes. -/
def treeSum (rm : Nat) : Nat → List Lane × Cond → Lane × Cond
  | 0, (l, c) => (l.headD 0, c)
  | n + 1, (l, c) =>
    let r := sumLevel rm l
    treeSum rm n (r.1, c.or r.2)

/-- The first of the best FP32 lanes that are no NaN. -/
def bestLane (better : FV → FV → Bool) (l : List (Nat × Lane)) : Option (Nat × Lane) :=
  (l.filter (fun e => !(fv e.2).isNan)).foldl (fun m e => match m with
    | none => some e
    | some w => if better (fv e.2) (fv w.2) then some e else some w) none

/-- The lane of an optional best lane: the canonical NaN where all are NaN. -/
def bestOrNan (o : Option (Nat × Lane)) : Lane := match o with
  | some e => e.2
  | none => BitVec.ofNat 32 fp32.nanCode

def vRsumI : VFn := reduction (fun _ gm a => ((active gm a).foldl (fun x e => x + e.2) 0, {}))
def vRsumF : VFn := reduction (fun rm gm a =>
  treeSum rm 6 ((List.finRange 64).map (fun i => if gm.getLsbD i.val then a[i] else 0), {}))
def vRmaxF : VFn := reduction (fun _ gm a => (bestOrNan (bestLane (fun x y => y.lt x) (active gm a)), {}))
def vRminF : VFn := reduction (fun _ gm a => (bestOrNan (bestLane FV.lt (active gm a)), {}))
def vRmaxI : VFn := reduction (fun _ gm a => match active gm a with
  | [] => (0, {})
  | e :: t => (t.foldl (fun x y => if sLt x y.2 then y.2 else x) e.2, {}))
def vArgmaxF : VFn := reduction (fun _ gm a => match bestLane (fun x y => y.lt x) (active gm a) with
  | some e => (BitVec.ofNat 32 e.1, {})
  | none => (0, {}))

/-- The operation of a trigger number (08 Tables 8-5 to 8-9). -/
def vfuOp : Nat → VFn
  | 0x00 => vIadd | 0x01 => vIsub | 0x02 => vImul | 0x03 => vImad | 0x04 => vIadds | 0x05 => vIsubs | 0x06 => vImin
  | 0x07 => vImax | 0x08 => vIminu | 0x09 => vImaxu | 0x0A => vAnd | 0x0B => vOr | 0x0C => vXor | 0x0D => vShl
  | 0x0E => vShr | 0x0F => vSra | 0x10 => vIabs | 0x11 => vIaddH | 0x12 => vIaddB | 0x13 => vIaddsB | 0x14 => vIdot4
  | 0x20 => vFadd | 0x21 => vFsub | 0x22 => vFmul | 0x23 => vFma | 0x24 => vFmin | 0x25 => vFmax | 0x26 => vFabs
  | 0x27 => vFneg | 0x28 => vFrcp | 0x29 => vFsqrt | 0x2A => vFaddBf | 0x2B => vFmulBf | 0x2C => vFmaBf | 0x2D => vFmaHf
  | 0x2E => vFmaE4 | 0x2F => vFmaE5
  | 0x40 => vCvtFI | 0x41 => vCvtIF | 0x42 => vCvtBfF | 0x43 => vCvtHfF | 0x44 => vCvtE4F | 0x45 => vCvtE5F
  | 0x46 => vCvtFBf | 0x47 => vCvtFHf | 0x48 => vCvtFE4 | 0x49 => vCvtFE5 | 0x4A => vCvtII8 | 0x4B => vCvtI8I
  | 0x4C => vQntE2 | 0x4D => vDqntE2
  | 0x50 => vIcmpEq | 0x51 => vIcmpLt | 0x52 => vIcmpLtu | 0x53 => vFcmpEq | 0x54 => vFcmpLt | 0x55 => vFcmpLe
  | 0x56 => vFcmpUn | 0x57 => vVsel
  | 0x60 => vPerm | 0x61 => vRotl | 0x62 => vBcast | 0x63 => vRsumI | 0x64 => vRsumF | 0x65 => vRmaxF | 0x66 => vRminF
  | 0x67 => vRmaxI | _ => vArgmaxF

/-! ## Scalar units (08 Table 8-10) -/

/-- A scalar operation, from A, B and C. -/
abbrev KFn := Word → Word → Word → Word

def kAdd : KFn := fun a b _ => a + b
def kSub : KFn := fun a b _ => a - b
def kMul : KFn := fun a b _ => a * b
def kMad : KFn := fun a b c => a * b + c
def kAnd : KFn := fun a b _ => a &&& b
def kOr : KFn := fun a b _ => a ||| b
def kXor : KFn := fun a b _ => a ^^^ b
def kAndn : KFn := fun a b _ => a &&& ~~~b
def kShl : KFn := fun a b _ => a <<< bits b 0 6
def kShr : KFn := fun a b _ => a >>> bits b 0 6
def kSra : KFn := fun a b _ => a.sshiftRight (bits b 0 6)
def kMin : KFn := fun a b _ => if sLt b a then b else a
def kMax : KFn := fun a b _ => if sLt a b then b else a
def kMinu : KFn := fun a b _ => if uLt b a then b else a
def kMaxu : KFn := fun a b _ => if uLt a b then b else a
def kPopc : KFn := fun a _ _ => word (popc 64 a.toNat)
def kClz : KFn := fun a _ _ => word (clz 64 a.toNat)
def kSel : KFn := fun a b c => if c ≠ 0 then a else b
def kCmpEq : KFn := fun a b _ => bword (a == b)
def kCmpLt : KFn := fun a b _ => bword (sLt a b)
def kCmpLtu : KFn := fun a b _ => bword (uLt a b)
def kLea : KFn := fun a b c => a + (b <<< bits c 0 6)

/-- The operation of a trigger number (08 Table 8-10). -/
def kfOp : Nat → KFn
  | 0x00 => kAdd | 0x01 => kSub | 0x02 => kMul | 0x03 => kMad | 0x04 => kAnd | 0x05 => kOr | 0x06 => kXor | 0x07 => kAndn
  | 0x08 => kShl | 0x09 => kShr | 0x0A => kSra | 0x0B => kMin | 0x0C => kMax | 0x0D => kMinu | 0x0E => kMaxu | 0x0F => kPopc
  | 0x10 => kClz | 0x11 => kSel | 0x12 => kCmpEq | 0x13 => kCmpLt | 0x14 => kCmpLtu | _ => kLea

end Sys2Proof.Machine
end

