-- ==== Sys2Proof/Machine/Vector.lean ====
section
/-! DEFINITION. Vector cores: waits, checks and the phases of issue, streams, loops, deliveries and bundle-level faults (08 R167
to R186; 07 R148, R160, R161; 10 R223, R236). -/

namespace Sys2Proof.Machine

def STREAM_UNCONFIGURED : Nat := 0x0A0
def STREAM_MISALIGNED : Nat := 0x0A1
def STREAM_RANGE : Nat := 0x0A2
def STREAM_EXHAUSTED : Nat := 0x0A3
def GEN_CONFIG : Nat := 0x0A4
def LOOP_COUNT : Nat := 0x0A5
def LOOP_BODY : Nat := 0x0A6
def VCORE_STALL : Nat := 0x0A7
def BANK_MODE : Nat := 0x0E8

/-! ## Values of moves (02 R43, R44) -/

/-- A value that a move carries. -/
inductive VVal where
  | vec (v : VReg)
  | sca (w : Word)
deriving DecidableEq, Repr

/-- A scalar value broadcast. -/
def bcast (w : Word) : VReg := Vector.replicate 64 (w.setWidth 32)
/-- The value in a vector destination. -/
def VVal.toVec : VVal → VReg
  | .vec v => v
  | .sca w => bcast w
/-- The value in a scalar destination; a vector source never reaches one. -/
def VVal.toSca : VVal → Word
  | .vec _ => 0
  | .sca w => w

/-- A register with the lanes of a mask replaced. -/
def mergeV (old new : VReg) (gm : Word) : VReg := Vector.ofFn (fun i => if gm.getLsbD i.val then new[i] else old[i])

/-- The unit of slot 4 to 7 among the scalar units. -/
def scaUnit (k : Nat) : Fin 4 := Fin.ofNat 4 k

/-- Whether a move pops a result queue, and which: 0 arq, 1 crq, 2 mrq. -/
def Move.queue (m : Move) : Option Nat :=
  if m.kind = 0 || m.kind = 2 then (if isQueue m.src then some (m.src - 0x30) else none) else none
/-- Whether a pop stalls on an empty queue (08 R185). -/
def Move.stallPop (m : Move) : Bool := m.kind == 2 || m.g % 2 == 0
/-- Whether the source is the zero port. -/
def Move.zeroSrc (m : Move) : Bool := m.kind ≠ 1 && m.src == 0x1FF
/-- Whether a move starts an operation. -/
def Move.trig (m : Move) : Bool := !m.nop && decide (0x100 ≤ m.dst) && decide (m.dst < 0x180)
/-- The moves of a bundle that are not no-ops, with their slots. -/
def Entry.moves (e : Entry) : List (Nat × Move) := ((List.range 8).map (fun k => (k, e.slot k))).filter (fun p => !p.2.nop)

/-- Entries in a result queue. -/
def VCore.queueLen (x : VCore) (i : Nat) : Nat := if i = 0 then x.arq.length else if i = 1 then x.crq.length else x.mrq.length

/-- A bundle of F on a claimed core pops nothing (08 R168). -/
def VCore.foreignPop (x : VCore) (e : Entry) : Bool := e.ctx == 8 && x.claim.isSome

/-- The value of a result queue's head; 0 where there is none. -/
def VCore.head (x : VCore) (e : Entry) (i : Nat) : VVal :=
  if x.foreignPop e then (if i = 2 then .vec VReg.zero else .sca 0)
  else if i = 0 then .sca (x.arq.headD 0)
  else if i = 1 then .sca (x.crq.headD 0)
  else match x.mrq with
    | .val v :: _ => .vec v
    | _ => .vec VReg.zero

/-- A pop's effect (08 R185). -/
def VCore.pop (x : VCore) (e : Entry) (i : Nat) : VCore :=
  if x.foreignPop e then x
  else if x.queueLen i = 0 then { x with qst := x.qst ||| (1 <<< i) }
  else if i = 0 then { x with arq := x.arq.tail }
  else if i = 1 then { x with crq := x.crq.tail }
  else { x with mrq := x.mrq.tail }

/-- The value of slot `k`'s source in phase 1; a stream's value comes with its access. -/
def State.readSrc (s : State) (q : Sq) (v : Vc) (e : Entry) (k : Nat) (m : Move) : VVal :=
  let x := s.core q v
  if m.kind = 1 then
    let i := sextN m.imm 12
    if m.dom then .vec (Vector.replicate 64 (laneOf i)) else .sca (intWord i)
  else match m.queue with
  | some i => x.head e i
  | none =>
    if m.src < 0x10 then
      if k < 4 then .vec (x.vf[Fin.ofNat 4 k][Fin.ofNat 16 m.src])
      else if k < 6 then .sca (x.kf[Fin.ofNat 2 k][Fin.ofNat 16 m.src])
      else .sca (x.lc[Fin.ofNat 4 m.src])
    else if m.src < 0x18 then .sca (x.m[Fin.ofNat 8 m.src])
    else if m.src = 0x28 then (if k < 4 then .vec (x.rv[Fin.ofNat 4 k]) else .sca (x.rs[scaUnit k]))
    else if m.src = 0x29 then .sca (x.f[Fin.ofNat 4 k])
    else if m.src = 0x3B then .sca (s.arrStat q v)
    else if m.dom then .vec VReg.zero else .sca 0

/-- The guard mask of a move (08 R170). -/
def VCore.guard (x : VCore) (m : Move) : Word := if m.kind = 2 then x.m[Fin.ofNat 8 m.g] else BitVec.allOnes 64

/-! ## Bundle-level faults (07 R160 to R163) -/

/-- The bundle that a core would issue next, and whether it stands at the head of the queue. -/
def VCore.nextBundle (x : VCore) : Option (Entry × Bool) :=
  match x.loop with
  | some l => if l.body.length < l.n then x.eq.head?.map (fun e => (e, true)) else (l.body[l.next]?).map (fun e => (e, false))
  | none => x.eq.head?.map (fun e => (e, true))

/-- Whether a fault of bundle `id` of context `c` ends the running loop of a core: it arises in a replay, or the loop still awaits bundles
of its body, which leave the queue with the fault. A loop whose bundles had all issued before the record runs to its end
(07 R161, 08 R179; log 88). -/
def VCore.endsLoop (x : VCore) (c : Cx) (id : Nat) : Bool := match x.loop with
  | some l => l.owner.ctx == c && (decide (l.body.length < l.n) || (decide (l.ownerId < id) && x.issued.all (fun i => i.id ≠ id)))
  | none => false

/-- The core after a fault of bundle `id` of context `c`: its un-issued entries are gone, and a loop that the fault ends. The wait of the
bundle that is next starts afresh where it is another one (07 R160, 08 R172). -/
def VCore.afterFault (x : VCore) (c : Cx) (id now : Nat) : VCore :=
  let y := { x with eq := x.eq.filter (fun e => e.ctx ≠ c), loop := if x.endsLoop c id then none else x.loop }
  if id = x.nextId || y.nextBundle ≠ x.nextBundle || y.loop.isNone ≠ x.loop.isNone then { y with headSince := now } else y

/-- The bundles of context `c` that a core issued after bundle `id`, retired since or not (07 R161); a replay is no further bundle (log 88). -/
def VCore.lateOf (x : VCore) (c : Cx) (id : Nat) : Nat :=
  (x.issued.filter (fun i => i.ent.ctx == c && decide (id < i.id))).length + (x.gone.filter (fun g => g.2 == c && decide (id < g.1))).length

/-- The record of a fault of bundle `id` of a core, and the removal of the context's un-issued entries. A context whose task
has ended, or that already has a waiting record of this core, gets none. A bundle whose fault is found at issue has left the queue before, and
DISC does not count it (log 103). -/
def State.bundleFault (s : State) (q : Sq) (v : Vc) (e : Entry) (id : Nat) (slot : Nat) (cause : Nat) : State :=
  let x := s.core q v
  let c := e.ctx
  let disc := (x.eq.filter (fun y => y.ctx == c)).length
  let late := x.lateOf c id
  let s := s.modCore q v (fun x => x.afterFault c id s.now)
  let k := s.ctx q c
  if c ≠ 8 && (k.st == .free || (k.st == .ending && k.endCause.isSome)) then s
  else if k.records.any (fun r => r.core == v && r.lvl == 1) then s
  else
    let r : BRec :=
      { cause := cause, lvl := 1, core := v, seq := e.seq, gwa := e.gwa, slot := Fin.ofNat 8 slot, late := late, disc := disc
        cyc := (s.sq q).cyc }
    s.modCtx q c (fun k => { k with records := insertRecord r k.records })

/-! ## Elements of streams and handles (08 R180 to R184, 10 R223, R236) -/

/-- The elements of a generator. -/
def Gen.total (g : Gen) : Nat := g.cnt[0] * g.cnt[1] * g.cnt[2] * g.cnt[3]
/-- SPACE, IDX and Q of the configuration word (08 Table 8-13). -/
def Gen.space (g : Gen) : Nat := bits g.cfg 0 2
def Gen.idx (g : Gen) : Bool := bit g.cfg 2
def Gen.queued (g : Gen) : Bool := bit g.cfg 3
/-- The address of element `p` (08 R180). -/
def Gen.addr (g : Gen) (p : Nat) : Word :=
  let i1 := p / g.cnt[0]
  let i2 := i1 / g.cnt[1]
  g.base + word (p % g.cnt[0]) * g.stride[0] + word (i1 % g.cnt[1]) * g.stride[1] + word (i2 % g.cnt[2]) * g.stride[2] +
    word (i2 / g.cnt[2]) * g.stride[3]
/-- A vector register by file and number. -/
def VCore.vreg (x : VCore) (f r : Nat) : VReg := x.vf[Fin.ofNat 4 f][Fin.ofNat 16 r]
/-- The index register and the data register of a generator. -/
def VCore.xreg (x : VCore) (g : Gen) : VReg := x.vreg (bits g.cfg 8 2) (bits g.cfg 10 4)
def VCore.dreg (x : VCore) (g : Gen) : VReg := x.vreg (bits g.cfg 14 2) (bits g.cfg 16 4)

/-- The end of a space's range (08 Table 8-13). -/
def vspaceEnd (sp : Nat) : Nat := if sp = 1 then storeEnd else if sp = 2 then 0x80000 else 2 ^ 64

/-- The format of the bank that holds scratchpad offset `o`. -/
def VCore.bankFmt (x : VCore) (o : Nat) : Nat := x.fmt[Fin.ofNat 16 (o / 0x8000)]

/-- The bank rules of 10 R223 for scratchpad offsets whose first is `a`; `plain` where an element of 36 bytes is not allowed. -/
def VCore.banksOk (x : VCore) (as : List Nat) (plain : Bool) : Bool :=
  let f := x.bankFmt (as.headD 0)
  as.all (fun a => x.bankFmt a == f) && !(plain && f == 8)

/-- The side of element `p` of generator `g`, checks 1 to 4 of 08 R184 and then the bank rules, whose place among the checks 10 R223 does not
give (log 101). -/
def VCore.genSide (x : VCore) (n : Fin 8) (p : Nat) : Except Nat VSide := do
  let g := x.gens[n]
  need g.configured STREAM_UNCONFIGURED
  need (decide (p < g.total)) STREAM_EXHAUSTED
  let a := g.addr p
  let as := (List.finRange 64).map (fun i => (if g.idx then a + ((x.xreg g)[i]).signExtend 64 else a + word (4 * i.val)).toNat)
  let e2 := g.space == 2 && !g.idx && decide (a.toNat < 0x80000) && x.bankFmt a.toNat == 8
  let as := if e2 then [a.toNat] else as
  need (as.all (fun y => y % 4 == 0)) STREAM_MISALIGNED
  need (as.all (fun y => decide (y + (if e2 then 36 else 4) ≤ vspaceEnd g.space))) STREAM_RANGE
  need (g.space ≠ 2 || x.banksOk (if e2 then [a.toNat, a.toNat + 35] else as) (!e2)) BANK_MODE
  return { space := g.space, addrs := as, e2 := e2, gen := some (n, p), hnd := none, stale := false }

/-- The space that a handle's place is in: square store 1, scratchpad 2, global 0. -/
def Hnd.space (h : Hnd) : Nat := if h.sp = 3 then 0 else h.sp

/-- The side of the next element of a handle (10 R234, R236). -/
def VCore.hndSide (x : VCore) (n : Fin 64) : Except Nat VSide := do
  let h := x.handles[n]
  need h.bound HANDLE_UNBOUND
  need (h.st ≠ .error) HANDLE_ERROR
  let as := (List.range 64).map (fun i => h.base + 256 * h.pos + 4 * i)
  need (h.sp ≠ 2 || x.banksOk as true) BANK_MODE
  return { space := h.space, addrs := as, e2 := false, gen := none, hnd := some (n, h.pos), stale := false }

/-- The side that port `p` of slot 6 reaches; `skip` is 1 where the bundle's other side takes an element of the same
generator first. -/
def VCore.side (x : VCore) (p skip : Nat) : Except Nat VSide :=
  if p < 8 then
    let n : Fin 8 := Fin.ofNat 8 p
    if x.gens[n].queued then .error GEN_CONFIG else x.genSide n (x.gens[n].pos + skip)
  else x.hndSide (Fin.ofNat 64 p)

/-- Whether an access stores into a plain-shared region (12 R283). -/
def State.plainSide (s : State) (z : VSide) : Bool :=
  z.space ≠ 2 && z.addrs.any (fun a => ((s.regionAt z.space a).map (·.plain)).getD false)

/-- The sides of slot 6's access: from a stream and to a stream. -/
def State.sides (s : State) (q : Sq) (v : Vc) (m : Move) : Except Nat (Option VSide × Option VSide) := do
  let x := s.core q v
  let ld := !m.nop && m.kind ≠ 1 && isStream m.src
  let st := !m.nop && isStream m.dst
  let a ← if ld then (x.side m.src 0).map some else pure none
  let b ← if st then (x.side m.dst (if ld && m.src == m.dst && decide (m.src < 8) then 1 else 0)).map some else pure none
  need (!(match b with
    | some z => s.plainSide z
    | none => false)) PLAIN_PATH
  return (a, b)

/-- Whether a handle port of slot 6 waits: its state, another transfer that uses the handle, or an accepted command of the array that is to
take it in the same state first (10 R233, R236). -/
def State.hndWait (s : State) (q : Sq) (v : Vc) (p : Nat) (load : Bool) : Bool :=
  if p < 0x40 then false
  else
    let n : Fin 64 := Fin.ofNat 64 p
    let h := s.hnd q v n
    let fit := if load then h.st == .draining || (h.st == .full && !s.cmdAwaits q v n false)
      else h.st == .filling || (h.st == .free && !s.cmdAwaits q v n true)
    h.bound && h.st ≠ .error &&
      (!fit || (h.partly && (s.copyUses q v n || s.arrayUses q v n)) || decide (h.last < h.pos))

/-! ## Waits (08 R171) -/

/-- Whether a load into a register of file `f` is outstanding. -/
def VCore.loading (x : VCore) (f r : Nat) : Bool := x.vpath.any (fun a => a.dst == some (Fin.ofNat 4 f, Fin.ofNat 16 r))

/-- The vector register that a destination names, if any. -/
def Move.vdst (k : Nat) (m : Move) : Option (Fin 4 × Fin 16) :=
  if m.dst < 0x10 && k < 4 then some (Fin.ofNat 4 k, Fin.ofNat 16 m.dst)
  else if 0x80 ≤ m.dst && m.dst < 0xC0 then some (Fin.ofNat 4 ((m.dst - 0x80) / 16), Fin.ofNat 16 (m.dst - 0x80))
  else none

/-- Items 1 to 7 of 08 R171 and the waits of the array's ports for one move. -/
def State.moveWaits (s : State) (q : Sq) (v : Vc) (e : Entry) (k : Nat) (m : Move) : Bool :=
  let x := s.core q v
  let gens := (if m.kind ≠ 1 && m.src < 8 && k == 6 then [x.gens[Fin.ofNat 8 m.src]] else []) ++
    (if m.dst < 8 && k == 6 then [x.gens[Fin.ofNat 8 m.dst]] else [])
  let flight := fun (p : Nat) => decide (8 ≤ ((x.vpath.flatMap (fun a => [a.from_, a.to_])).filter (fun z =>
    (z.bind (fun y => y.gen.map (·.1.val))) == some p)).length)
  (m.kind ≠ 1 && m.src < 0x10 && k < 4 && x.loading k m.src) ||
  gens.any (fun g => (g.idx && x.loading (bits g.cfg 8 2) (bits g.cfg 10 4)) ||
    (m.zeroSrc && x.loading (bits g.cfg 14 2) (bits g.cfg 16 4))) ||
  (match m.vdst k with
    | some d => x.vpath.any (fun a => a.dst == some d)
    | none => false) ||
  (m.kind ≠ 1 && (m.src == 0x28 || m.src == 0x29) && x.pend.any (fun p => p.unit.val == k)) ||
  (match m.queue with
    | some i => m.stallPop && !x.foreignPop e && x.queueLen i == 0
    | none => false) ||
  (k == 6 && ((m.kind ≠ 1 && m.src < 8 && flight m.src) || (m.dst < 8 && flight m.dst))) ||
  (m.dst == 0x38 && (s.acore q v).nxt.isSome) ||
  (m.dst == 0x39 && decide (4 ≤ (s.acore q v).spq.length))

/-- Whether the next bundle of a core waits (08 R171), its handle ports and a new claim apart. -/
def State.bundleWaits (s : State) (q : Sq) (v : Vc) (e : Entry) : Bool :=
  let x := s.core q v
  (match x.fence with
    | some id => x.vpath.any (fun a => decide (a.id < id))
    | none => false) ||
  e.moves.any (fun p => s.moveWaits q v e p.1 p.2)

/-- Whether the first bundle of a new claim waits for the firmware bundles before it, which act on the core as it is before the reset
(08 R168); a LOOP of F that still awaits its body does not hold it (log 89). -/
def VCore.claimWaits (x : VCore) (e : Entry) : Bool :=
  x.fresh && x.claim.map tileCx == some e.ctx &&
    (x.issued.any (fun i => match x.loop with
      | some l => l.ownerId ≠ i.id
      | none => true) || !x.pend.isEmpty || !x.vpath.isEmpty)

/-- Whether a handle port of the bundle waits (08 R171 item 8). -/
def State.portWaits (s : State) (q : Sq) (v : Vc) (e : Entry) : Bool :=
  let m := e.slot 6
  !m.nop && ((m.kind ≠ 1 && isStream m.src && s.hndWait q v m.src true) || (isStream m.dst && s.hndWait q v m.dst false))

/-! ## Checks at issue (08 R179, R184; 10 R223, R234) -/

/-- What ctl.loop is given: the trigger value, unless it is the zero port or a guard keeps it from starting. -/
def State.loopArgs (s : State) (q : Sq) (v : Vc) (e : Entry) : Option (Nat × Word) :=
  let x := s.core q v
  let m := e.slot 7
  if e.isLoop && bit (x.guard m) 0 then
    some ((if m.zeroSrc then x.sa[scaUnit 7] else (s.readSrc q v e 7 m).toSca).toNat, x.sb[scaUnit 7])
  else none

/-- The checks of a bundle at issue: the first failing slot and its cause. Of several faults the record names that of a pop of mrq, by
ascending slot, before that of slot 6's source, then its destination, then ctl.loop's (log 90). -/
def State.issueCheck (s : State) (q : Sq) (v : Vc) (e : Entry) : Except (Nat × Nat) (Option VSide × Option VSide) :=
  let x := s.core q v
  let bad := e.moves.findSome? (fun p => if p.2.queue = some 2 && !x.foreignPop e then (match x.mrq with
    | .bad c :: _ => some (p.1, c)
    | _ => none) else none)
  match bad with
  | some f => .error f
  | none => match s.sides q v (e.slot 6) with
    | .error c => .error (6, c)
    | .ok z => match s.loopArgs q v e with
      | some (n, b) => if n = 0 || n > 65536 || bits b 6 58 ≠ 0 then .error (7, LOOP_COUNT) else .ok z
      | none => .ok z

/-! ## Phase 2 (08 R170) -/

/-- A value written to the destination of slot `k`; what slot 6 loads is written as it lands (08 R173). -/
def State.writeDst (s : State) (q : Sq) (v : Vc) (c : Cx) (id k : Nat) (m : Move) (y : VVal) (gm : Word) : State :=
  let p := m.dst
  if m.trig || (k = 6 && (isStream p || (m.kind ≠ 1 && isStream m.src))) || p = 0x1FF then s
  else match m.vdst k with
  | some (f, r) => s.modCore q v (fun x => { x with vf := vset x.vf f (vset x.vf[f] r (mergeV x.vf[f][r] y.toVec gm)) })
  | none =>
    if 0x20 ≤ p && p ≤ 0x22 && k < 4 then
      let u : Fin 4 := Fin.ofNat 4 k
      let put := fun (l : Vector VReg 4) => vset l u (mergeV l[u] y.toVec gm)
      s.modCore q v (fun x => if p = 0x20 then { x with oa := put x.oa } else if p = 0x21 then { x with ob := put x.ob } else { x with oc := put x.oc })
    else if !bit gm 0 then s
    else
      let w := y.toSca
      if 0x20 ≤ p && p ≤ 0x22 then
        let u := scaUnit k
        s.modCore q v (fun x =>
          if p = 0x20 then { x with sa := vset x.sa u w } else if p = 0x21 then { x with sb := vset x.sb u w } else { x with sc := vset x.sc u w })
      else if p < 0x10 then
        if k < 6 then s.modCore q v (fun x => { x with kf := vset x.kf (Fin.ofNat 2 k) (vset x.kf[Fin.ofNat 2 k] (Fin.ofNat 16 p) w) })
        else s.modCore q v (fun x => { x with lc := vset x.lc (Fin.ofNat 4 p) w })
      else if p < 0x18 then s.modCore q v (fun x => { x with m := vset x.m (Fin.ofNat 8 p) w })
      else if p = 0x38 then s.offerCmd q v c id w
      else if p = 0x39 then s.putSpec q v w
      else if p = 0x3A then s.leaseWord q v w
      else
        let j : Fin 2 := Fin.ofNat 2 ((p - 0x80) / 16)
        s.modCore q v (fun x => { x with kf := vset x.kf j (vset x.kf[j] (Fin.ofNat 16 (p - 0x80)) w) })

/-! ## Phase 3: stream and handle accesses (08 R180, R182, R186; 10 R233) -/

/-- A side taken: the generator or the handle advances; a first access takes the handle. -/
def State.takeSide (s : State) (q : Sq) (v : Vc) (z : Option VSide) (load : Bool) : State :=
  match z with
  | none => s
  | some z =>
    let s := match z.gen with
      | some (g, p) => s.modCore q v (fun x => { x with gens := vset x.gens g { x.gens[g] with pos := p + 1 } })
      | none => s
    match z.hnd with
    | some (h, p) => s.modHnd q v h (fun y => { y.goto (if load then .draining else .filling) with pos := p + 1 })
    | none => s

/-- The access of slot 6 put on the V path. -/
def State.startAccess (s : State) (q : Sq) (v : Vc) (e : Entry) (id : Nat) (z : Option VSide × Option VSide) (y : VVal) (gm : Word)
    (counted : Bool) : State :=
  if z.1.isNone && z.2.isNone then s
  else
    let m := e.slot 6
    let x := s.core q v
    let data := if m.zeroSrc && m.dst < 8 then x.dreg x.gens[Fin.ofNat 8 m.dst] else y.toVec
    let a : VAcc :=
      { id := id, ent := e, gm := gm, from_ := z.1, to_ := z.2, dst := if z.2.isSome then none else m.vdst 6, data := data, counted := counted }
    ((s.takeSide q v z.1 true).takeSide q v z.2 false).modCore q v (fun x => { x with vpath := x.vpath ++ [a] })

/-! ## Phase 4: operations (08 R174, R177 to R181) -/

/-- The number of the bundle that a core has issued last. -/
def State.lastId (s : State) (q : Sq) (v : Vc) : Nat := (s.core q v).nextId - 1

/-- An operation of vector unit `k` starts on the lanes of a mask: it delivers R, F and its conditions later. -/
def State.startV (s : State) (q : Sq) (v : Vc) (k : Fin 4) (gm : Word) (f : VFn) : State :=
  s.modCore q v (fun x =>
    let r := f x.vrm.toNat gm x.oa[k] x.ob[k] x.oc[k]
    { x with pend := x.pend ++ [{ id := x.nextId - 1, unit := Fin.ofNat 8 k.val, rv := r.r, rs := 0, f := some r.f, cond := r.cond.bits }] })

/-- An operation of scalar unit kfa or kfb starts. -/
def State.startK (s : State) (q : Sq) (v : Vc) (k : Bool) (f : KFn) : State :=
  s.modCore q v (fun x =>
    let u : Fin 4 := if k then 1 else 0
    { x with pend := x.pend ++ [{ id := x.nextId - 1, unit := Fin.ofNat 8 (4 + u.val), rv := VReg.zero, rs := f x.sa[u] x.sb[u] x.sc[u], f := none, cond := 0 }] })

/-- R of a scalar unit written. -/
def VCore.setR (x : VCore) (k : Nat) (w : Word) : VCore := { x with rs := vset x.rs (scaUnit k) w }

/-- ctl.loop: the loop begins; its body follows (08 R179). -/
def VCore.startLoop (x : VCore) (e : Entry) : VCore :=
  let b := x.sb[scaUnit 7]
  let c : Fin 4 := Fin.ofNat 4 (bits b 0 2)
  { x with
    lc := vset x.lc c 0
    loop := some { x := c, count := (x.sa[scaUnit 7]).toNat, n := bits b 2 4 + 1, body := [], it := 0, next := 0, owner := e, ownerId := x.nextId - 1 } }

/-- A generator started over, fetching or not: its outstanding accesses no longer move it (08 R184). -/
def VCore.restart (x : VCore) (n : Fin 8) (g : Gen) (fetch : Bool) : VCore :=
  { x.stale (fun z => (z.gen.map (·.1)) == some n) with gens := vset x.gens n { g with pos := 0, fetching := fetch } }

/-- The configuration of a generator changed: its position starts over and it stops fetching. -/
def VCore.modGen (x : VCore) (n : Fin 8) (f : Gen → Gen) : VCore := x.restart n (f x.gens[n]) false

/-- Whether a configuration word is allowed for generator `n` (08 Table 8-13). -/
def VCore.cfgOk (x : VCore) (n : Fin 8) (w : Word) : Bool :=
  bits w 20 44 == 0 && bits w 4 4 == 0 && bits w 0 2 ≠ 3 &&
    !(bit w 3 && (List.finRange 8).any (fun g => g ≠ n && x.gens[g].queued))

/-- What a memory-unit operation does to a core, or GEN_CONFIG (08 Table 8-12). -/
def VCore.memOp (x : VCore) (n : Nat) : Except Nat VCore :=
  let a := x.sa[scaUnit 6]
  let b := x.sb[scaUnit 6]
  let c := x.sc[scaUnit 6]
  let g : Fin 8 := Fin.ofNat 8 (bits b 0 3)
  let ga : Fin 8 := Fin.ofNat 8 (bits a 0 3)
  match n with
  | 0x00 => if bits b 3 61 ≠ 0 then .error GEN_CONFIG else .ok (x.modGen g (fun y => { y with base := a, configured := true }))
  | 0x01 =>
    if bits b 5 59 ≠ 0 || c = 0 || c.toNat > 65536 then .error GEN_CONFIG
    else
      let l : Fin 4 := Fin.ofNat 4 (bits b 3 2)
      .ok (x.modGen g (fun y => { y with cnt := vset y.cnt l c.toNat, stride := vset y.stride l a }))
  | 0x02 => if bits b 3 61 ≠ 0 || !x.cfgOk g a then .error GEN_CONFIG else .ok (x.modGen g (fun y => { y with cfg := a }))
  | 0x03 =>
    if bits a 3 61 ≠ 0 then .error GEN_CONFIG
    else .ok (x.restart ga x.gens[ga] x.gens[ga].queued)
  | _ => if bits a 3 61 ≠ 0 then .error GEN_CONFIG else .ok (x.setR 6 (word (x.gens[ga]).pos))

/-- An operation of the memory unit in bundle `id`: a wrong argument is found after issue, a fault of that bundle (08 R179, R181). -/
def State.memIn (s : State) (q : Sq) (v : Vc) (e : Entry) (id n : Nat) : State :=
  match (s.core q v).memOp n with
  | .ok x => s.setCore q v x
  | .error c => s.bundleFault q v e id 6 c

/-- An operation of the memory unit as its own step: that of the bundle issued last. -/
def State.startMem (s : State) (q : Sq) (v : Vc) (n : Nat) : State :=
  match (s.core q v).issued.getLast? with
  | some i => s.memIn q v i.ent i.id n
  | none => match (s.core q v).memOp n with
    | .ok x => s.setCore q v x
    | .error _ => s

/-- What a control-unit operation other than LOOP does (08 Table 8-11). -/
def VCore.ctlOp (x : VCore) (n : Nat) : VCore :=
  let a := x.sa[scaUnit 7]
  match n with
  | 0x01 => { x with fence := some (x.nextId - 1) }
  | 0x02 => { x with vrm := a.setWidth 2 }
  | 0x03 => { x.setR 7 (x.vcond.setWidth 64) with vcond := x.vcond &&& ~~~(a.setWidth 3) }
  | 0x04 => { x.setR 7 (x.qst.setWidth 64) with qst := x.qst &&& ~~~(a.setWidth 3) }
  | _ => x.setR 7 (a &&& -a)

/-- Phase 4 for slot `k`: A takes the value, unless the source is the zero port, and the operation starts (08 R174). -/
def State.trigger (s : State) (q : Sq) (v : Vc) (e : Entry) (k : Nat) (m : Move) (y : VVal) (gm : Word) : State :=
  let n := m.dst - 0x100
  if k < 4 then
    let u : Fin 4 := Fin.ofNat 4 k
    let s := if m.zeroSrc then s else s.modCore q v (fun x => { x with oa := vset x.oa u (mergeV x.oa[u] y.toVec gm) })
    s.startV q v u gm (vfuOp n)
  else
    let s := if m.zeroSrc then s else s.modCore q v (fun x => { x with sa := vset x.sa (scaUnit k) y.toSca })
    if !bit gm 0 then s
    else if k < 6 then s.startK q v (k == 5) (kfOp n)
    else if k = 6 then s.memIn q v e (s.lastId q v) n
    else if n = 0 then s.modCore q v (fun x => x.startLoop e)
    else s.modCore q v (fun x => x.ctlOp n)

/-! ## Issue (08 R168, R170) -/

/-- The core as the claim reset leaves it (08 R168). A LOOP of F that still awaits its body ends: the claiming context's bundles are none of
it, and no more of F's enter the queue (log 89). -/
def VCore.claimReset (x : VCore) : VCore :=
  { VCore.reset with
    handles := x.handles, fmt := x.fmt, arq := x.arq, crq := x.crq, mrq := x.mrq, qst := x.qst, claim := x.claim, eq := x.eq
    issued := x.issued, gone := x.gone, nextId := x.nextId, headSince := x.headSince, progress := x.progress }

/-- The core as a bundle that is next to issue finds it. -/
def State.seenCore (s : State) (q : Sq) (v : Vc) (e : Entry) : State :=
  let x := s.core q v
  if x.fresh && x.claim.map tileCx == some e.ctx then s.setCore q v x.claimReset else s

/-- The completion that a full crq holds back enters it as it has room, and the copy engine goes on (10 R242). -/
def State.refillCrq (s : State) (q : Sq) (v : Vc) : State :=
  match (s.sq q).crqHeld with
  | some (w, x) =>
    if w = v && (s.core q v).crq.length < 32 then
      (s.modCore q v (fun y => { y with crq := y.crq ++ [x] })).modSq q (fun y => { y with crqHeld := none })
    else s
  | none => s

/-- The four phases of a bundle that issues (slot 6's access reads its data register before phase 2 writes), `replay` where it issues again
in a loop (08 R170); a replay too is a bundle that the core issues, for 07 R155 (log 87). -/
def State.phases (s : State) (q : Sq) (v : Vc) (e : Entry) (z : Option VSide × Option VSide) (replay : Bool) : State :=
  let id := (s.core q v).nextId
  let s := if e.loads || e.stores || e.cmds || e.fetches then s.performAll q e.ctx else s
  let x := s.core q v
  let ms := e.moves.map (fun p => (p.1, p.2, s.readSrc q v e p.1 p.2, x.guard p.2))
  let loops := (s.loopArgs q v e).isSome
  let s := s.modCore q v (fun x =>
    let x := ms.foldl (fun x p => match p.2.1.queue with
      | some i => x.pop e i
      | none => x) x
    { x with nextId := id + 1, issued := if replay then x.issued else x.issued ++ [{ id := id, ent := e, loop := loops }], headSince := s.now, progress := s.now })
  let s := (s.refillArq q v).refillCrq q v
  let val := fun (k : Nat) => (ms.find? (fun p => p.1 == k)).map (fun p => (p.2.2.1, p.2.2.2))
  let a := (val 6).getD (.sca 0, BitVec.allOnes 64)
  let s := s.startAccess q v e id z a.1 a.2 (!replay)
  let s := ms.foldl (fun s p => s.writeDst q v e.ctx id p.1 p.2.1 p.2.2.1 p.2.2.2) s
  ms.foldl (fun s p => if p.2.1.trig then s.trigger q v e p.1 p.2.1 p.2.2.1 p.2.2.2 else s) s

/-- The next bundle of a core tries to issue: it waits (08 R171), its handle ports among the items, then it faults at issue, or it issues;
`drop` removes it from where it stands. -/
def State.tryIssue (s : State) (q : Sq) (v : Vc) (e : Entry) (replay : Bool) (drop : VCore → VCore) (after : State → State) : State :=
  let t := s.seenCore q v e
  if (s.core q v).claimWaits e || t.bundleWaits q v e || t.portWaits q v e then s
  else match t.issueCheck q v e with
    | .error (k, c) => (s.modCore q v drop).bundleFault q v e (s.core q v).nextId k c
    | .ok z => after ((t.modCore q v drop).phases q v e z replay)

/-- The head entry removed. -/
def VCore.dropHead (x : VCore) : VCore := { x with eq := x.eq.tail }

/-- The loop after a body entry has issued for the first time: the entry stands in the loop buffer (08 R179). -/
def VCore.bodyIssued (x : VCore) (e : Entry) : VCore :=
  match x.loop with
  | none => x
  | some l =>
    let l := { l with body := l.body ++ [e] }
    let x := { x with lbuf := l.body ++ x.lbuf.drop l.body.length }
    if l.body.length < l.n then { x with loop := some l }
    else if l.count ≤ 1 then { x with loop := none }
    else { x with loop := some { l with it := 1, next := 0 }, lc := vset x.lc l.x 1 }

/-- The loop after entry `next` of the loop buffer has issued again. -/
def VCore.replayed (x : VCore) : VCore :=
  match x.loop with
  | none => x
  | some l =>
    if l.next + 1 < l.n then { x with loop := some { l with next := l.next + 1 } }
    else if l.it + 1 < l.count then
      { x with loop := some { l with it := l.it + 1, next := 0 }, lc := vset x.lc l.x (word (l.it + 1)) }
    else { x with loop := none }

/-- A fault that LOOP_BODY raises: at the body entry, or at the LOOP bundle where the entry is another context's; it names slot 7
(log 48). -/
def State.loopBodyFault (s : State) (q : Sq) (v : Vc) (l : LoopRun) (e : Entry) : State :=
  if e.ctx = l.owner.ctx then (s.modCore q v VCore.dropHead).bundleFault q v e (s.core q v).nextId 7 LOOP_BODY
  else s.bundleFault q v l.owner l.ownerId 7 LOOP_BODY

/-- BUNDLE_ISSUE (07 R148, 08 R170, R179): the head of the queue issues, alone or as the next body entry of a loop. -/
def execBundleIssue (q : Sq) (v : Vc) (s : State) : Out :=
  let x := s.core q v
  match x.eq with
  | [] => .next s
  | e :: _ => match x.loop with
    | none => .next (s.tryIssue q v e false VCore.dropHead id)
    | some l =>
      if l.body.length ≥ l.n then .next s
      else if some e.ctx ≠ x.claim.map tileCx || e.isLoop then .next (s.loopBodyFault q v l e)
      else .next (s.tryIssue q v e false VCore.dropHead (fun t => t.modCore q v (fun y => y.bodyIssued e)))

/-- LOOP_REPLAY (08 R179): the next entry of the loop buffer issues again. -/
def execLoopReplay (q : Sq) (v : Vc) (s : State) : Out :=
  match (s.core q v).loop with
  | none => .next s
  | some l =>
    if l.body.length < l.n then .next s
    else match l.body[l.next]? with
      | none => .next s
      | some e => .next (s.tryIssue q v e true id (fun t => t.modCore q v VCore.replayed))

/-- VCORE_STALL (08 R172): a bundle that has been next for 1 ms is refused; its fault names slot 0 (log 48). -/
def execVcoreStall (q : Sq) (v : Vc) (s : State) : Out :=
  let x := s.core q v
  match x.nextBundle with
  | none => .next s
  | some (e, head) =>
    if s.now < x.headSince + 1000000 then .next s
    else .next ((if head then s.modCore q v VCore.dropHead else s).bundleFault q v e x.nextId 0 VCORE_STALL)

/-! ## Delivery and retirement (07 R148, 08 R174) -/

/-- UNIT_RESULT_DELIVERY (08 R174, R175): the oldest operation of a unit writes R, F and VCOND. -/
def execUnitResultDelivery (q : Sq) (v : Vc) (k : Slot) (s : State) : Out :=
  match (s.core q v).pend.find? (fun p => p.unit == k) with
  | none => .next s
  | some p => .next (s.modCore q v (fun x =>
    let x := { x with pend := updFirst (fun y => y.unit == k) (fun _ => []) x.pend, vcond := x.vcond ||| p.cond }
    if k.val < 4 then
      { x with rv := vset x.rv (Fin.ofNat 4 k.val) p.rv, f := match p.f with
        | some w => vset x.f (Fin.ofNat 4 k.val) w
        | none => x.f }
    else x.setR k.val p.rs))

/-- Whether an issued bundle has nothing outstanding; a LOOP bundle, once its last replay has. -/
def VCore.retirable (x : VCore) (i : Issued) : Bool :=
  if i.loop then (match x.loop with
      | some l => l.ownerId ≠ i.id
      | none => true) && x.pend.isEmpty && x.vpath.all (·.counted)
  else x.pend.all (fun p => p.id ≠ i.id) && x.vpath.all (fun a => a.id ≠ i.id)

/-- BUNDLE_RETIRE (07 R148, R156): the first issued bundle with nothing outstanding retires, and is remembered while an earlier one may
still fault; one that has faulted after issue retires as any other does (log 79). -/
def execBundleRetire (q : Sq) (v : Vc) (s : State) : Out :=
  let x := s.core q v
  match x.issued.find? x.retirable with
  | none => .next s
  | some i =>
      let s := s.modCore q v (fun x =>
        let left := x.issued.filter (fun j => j.id ≠ i.id)
        let gone := (x.gone ++ [(i.id, i.ent.ctx)]).filter (fun g =>
          left.any (fun j => decide (j.id < g.1)) || x.vpath.any (fun a => decide (a.id < g.1)))
        { x with issued := left, gone := gone, progress := s.now })
      .next (s.modCtx q i.ent.ctx (fun k => { k with rseq := vset k.rseq v i.ent.seq, rv := vset k.rv v true }))

/-! ## Performing accesses (08 R182 to R184, 10 R223) -/

/-- The rights that a bundle's accesses carry. -/
def State.entryWho (s : State) (q : Sq) (c : Cx) : Option Nat := (s.ctx q c).who c

/-- The four byte offsets of lane `i` of an E2M1X element (10 R223, 08 Table 8-7). -/
def e2Bytes (i : Nat) : List Nat :=
  if i < 4 then [4 * i, 4 * i + 1, 4 * i + 2, 4 * i + 3]
  else if i < 8 then [2 + 4 * i, 3 + 4 * i, 4 + 4 * i, 5 + 4 * i]
  else [16, 17, 34, 35]

/-- The lanes of a side with the addresses of their bytes. -/
def VSide.lanes (z : VSide) : List (Nat × List Nat) :=
  if z.e2 then (List.range 9).map (fun i => (i, (e2Bytes i).map (fun k => z.addrs.headD 0 + k)))
  else z.addrs.zipIdx.map (fun p => (p.2, [p.1, p.1 + 1, p.1 + 2, p.1 + 3]))

/-- The places of a side's bytes, lane by lane: check 5 of 08 R184. -/
def State.lanePlaces (s : State) (q : Sq) (v : Vc) (who : Option Nat) (n : Need) (sp : Nat) :
    List (Nat × List Nat) → Except XStop (List (Nat × List Nat) × State)
  | [] => .ok ([], s)
  | (i, as) :: t =>
    match (if sp = 0 then
        match s.translate q who n (as.headD 0) with
        | .ok (pa, s) => Except.ok ((List.range 4).map (fun k => pa + k), s.blkTouch pa 4)
        | .error e => .error e
      else .ok (as.map (fun a => if sp = 1 then storeAddr q.val a else spadAddr q.val v.val a), s)) with
    | .error e => .error e
    | .ok (ps, s) => match s.lanePlaces q v who n sp t with
      | .error e => .error e
      | .ok (l, s) => .ok ((i, ps) :: l, s)

/-- The value of a side: checks 5 and 6, then its lanes, with the context's own stores (07 R158). -/
def State.readSide (s : State) (q : Sq) (v : Vc) (c : Cx) (z : VSide) : Except XStop (VReg × State) := do
  let (ps, s) ← s.lanePlaces q v (s.entryWho q c) { r := true } z.space z.lanes
  if z.space = 1 && z.addrs.any (fun a => s.blockBad q (a / 512)) then throw (.cause STREAM_DECODE)
  if z.space ≠ 1 && ps.any (fun p => p.2.any (fun a => s.isBad a 1)) then throw (.cause DATA_UNCORRECTABLE)
  let vals := ps.map (fun p => (p.1, BitVec.ofNat 32 (leNat (p.2.map (fun a => (s.ownByte q c a).getD (s.rd a))))))
  return (Vector.ofFn (fun i => ((vals.find? (fun e => e.1 == i.val)).map (·.2)).getD 0), s)

/-- Bytes grouped by `n`-byte units, in ascending order. -/
def byUnit (n : Nat) (l : List (Nat × Byte)) : List (Nat × List (Nat × Byte)) :=
  let us := l.foldl (fun (r : List Nat) e => if r.contains (e.1 / n) then r else r ++ [e.1 / n]) []
  us.map (fun u => (u * n, l.filter (fun e => e.1 / n == u)))

/-- The bytes of an element performed at their homes, those that stand together in one transfer; in the square store block by block. -/
def State.putBytes (s : State) (q : Sq) (sp : Nat) (l : List (Nat × Byte)) : Except Nat State :=
  if sp = 1 then (byUnit 512 l).foldlM (fun (s : State) u => s.writeCells q ((u.1 - storeAddr q.val 0) / 512) u.2) s
  else .ok (s.writeRuns l)

/-- The lanes of an element in the order in which they are stored: lanes of an indexed stream may name the same bytes (log 23). -/
def laneOrder (n : Nat) (l : List (Nat × List Nat)) : List (Nat × List Nat) :=
  (l.foldl (fun r p => mins (Config.laneRank n p.1 * 64 + p.1) p r) []).map (·.2)

/-- A value stored to a side's active lanes: every lane is checked before a byte is written (08 R184). -/
def State.writeSide (s : State) (q : Sq) (v : Vc) (c : Cx) (z : VSide) (y : VReg) (gm : Word) : Except XStop State := do
  let (ps, s) ← s.lanePlaces q v (s.entryWho q c) { w := true } z.space z.lanes
  let on := (laneOrder s.free ps).filter (fun p => gm.getLsbD p.1)
  let l := on.foldl (fun r p => (p.2.zip (natLE 4 (laneAt y p.1).toNat)).foldl (fun r e => mins e.1 e.2 (r.filter (fun w => w.1 ≠ e.1))) r) []
  match s.bump.putBytes q z.space l with
  | .ok s => return s
  | .error k => throw (.cause k)

/-- A side whose element is done: the last element of a handle ends its half-way state (10 Table 10-2). -/
def State.endSide (s : State) (q : Sq) (v : Vc) (z : Option VSide) : State :=
  match (z.filter (fun y => !y.stale)).bind (·.hnd) with
  | none => s
  | some (h, p) => s.modHnd q v h (fun y =>
    if p < y.last then y else if y.st = .draining then y.goto .free else if y.st = .filling then y.goto .full else y)

/-- A side whose element failed: its position is the element again, also where younger elements have been issued (08 R184; log 102), unless
it has been started over. -/
def State.undoSide (s : State) (q : Sq) (v : Vc) (z : Option VSide) : State :=
  match z.filter (fun y => !y.stale) with
  | none => s
  | some z =>
    let s := match z.gen with
      | some (g, p) => s.modCore q v (fun x => { x with gens := vset x.gens g { x.gens[g] with pos := Nat.min p x.gens[g].pos } })
      | none => s
    match z.hnd with
    | some (h, p) => s.modHnd q v h (fun y => { y with pos := Nat.min p y.pos })
    | none => s

/-- The oldest access of a core's V path performed. -/
def State.performV (s : State) (q : Sq) (v : Vc) (a : VAcc) : Except XStop State := do
  let c := a.ent.ctx
  let (y, s) ← match a.from_ with
    | some z => s.readSide q v c z
    | none => pure (a.data, s)
  let s ← match a.to_ with
    | some z => s.writeSide q v c z y a.gm
    | none => pure s
  let s := match a.dst with
    | some (f, r) => s.modCore q v (fun x => { x with vf := vset x.vf f (vset x.vf[f] r (mergeV x.vf[f][r] y a.gm)) })
    | none => s
  return (s.endSide q v a.from_).endSide q v a.to_

/-- The oldest access of a core leaves its V path: performed, or with its fault; it stays while a page is being migrated. -/
def State.vpathHead (s : State) (q : Sq) (v : Vc) (a : VAcc) : State :=
  let pop := fun (s : State) => s.modCore q v (fun x => { x with vpath := x.vpath.tail })
  match s.performV q v a with
  | .ok t => pop t
  | .error .stall => s
  | .error (.cause c) => (((pop s).undoSide q v a.from_).undoSide q v a.to_).bundleFault q v a.ent a.id 6 c

/-- STREAM_LOAD_LAND (08 R173, R182): the oldest access of the core, a load, lands whole. -/
def execStreamLoadLand (q : Sq) (v : Vc) (s : State) : Out :=
  match (s.core q v).vpath with
  | [] => .next s
  | a :: _ => if a.to_.isSome then .next s else .next (s.vpathHead q v a)

/-- STORE_PERFORMED (05 R124, 08 R182): the oldest posted store of a context, or the oldest access of a core, a store or a
stream copy, is performed. -/
def execStorePerformed (q : Sq) (who : Storer) (s : State) : Out :=
  match who with
  | .ctx c => if (s.ctx q c).storeReady then .next (s.performPosted q c) else .next s
  | .vec v => match (s.core q v).vpath with
    | [] => .next s
    | a :: _ => if a.to_.isSome then .next (s.vpathHead q v a) else .next s

/-- QUEUED_GENERATOR_FETCH (08 R183, R184): the next element enters mrq, after the core's earlier stores and the loads of its index register
(08 R171); a failing one enters as its fault and ends the fetching, and so does the end of the sequence. A generator that another owner
left fetching does not fill the queue of a new claim (08 R185). -/
def execQueuedGeneratorFetch (q : Sq) (v : Vc) (g : Slot) (s : State) : Out :=
  let x := s.core q v
  let y := x.gens[g]
  if x.fresh || (y.idx && x.loading (bits y.cfg 8 2) (bits y.cfg 10 4)) || !y.fetching || !y.queued || x.mrq.length ≥ 8 || x.vpath.any (fun a => a.to_.isSome) || (y.configured && decide (y.total ≤ y.pos)) then
    .next s
  else
    let bad := fun (c : Nat) => Host.Outcome.next (s.modCore q v (fun x =>
      { x with mrq := x.mrq ++ [.bad c], gens := vset x.gens g { y with fetching := false } }))
    match x.genSide g y.pos with
    | .error c => bad c
    | .ok z => match s.readSide q v (s.coreCtx q v) z with
      | .error .stall => .next s
      | .error (.cause c) => bad c
      | .ok (r, s) => .next (s.modCore q v (fun x =>
        { x with mrq := x.mrq ++ [.val r], gens := vset x.gens g { y with pos := y.pos + 1 } }))

end Sys2Proof.Machine
end

