-- ==== Sys2Proof/Machine/Power.lean ====
section
/-! DEFINITION. Power states of squares and of the package, the persist sequence and resumption, the droop detector (16 R332 to R351, 19
R378). -/

namespace Sys2Proof.Machine

def POWER_LOST : Nat := 0x140
def PERSIST_IMAGE_BAD : Nat := 0x141
def PWR_WORD : Nat := 0x147

/-! ## Squares (16 R332 to R336) -/

/-- Whether a square is idle, what F has to issue apart (16 R333). -/
def State.restful (s : State) (q : Sq) : Bool :=
  let x := s.sq q
  (List.finRange 8).all (fun c => x.ctxs[tileCx c].st ≠ .ready) &&
    (match x.active with
      | some c => (x.ctxs[tileCx c]).waits
      | none => true) &&
    x.cores.toList.all (fun v => v.eq.isEmpty && v.issued.isEmpty) && x.arr.cores.toList.all (fun a => a.cur.isNone) && x.copyQ.isEmpty

/-- Whether a square is idle: F has nothing to issue where it stands blocked (16 R333; log 59). -/
def State.idle (s : State) (q : Sq) : Bool := s.restful q && (s.ctx q 8).waits && (s.sq q).service.isNone

/-- Whether timed work keeps a square awake: a context of priority 3 bound, or a record of priority 3 queued. -/
def Square.timed (x : Square) : Bool :=
  (List.finRange 8).any (fun c => x.ctxs[tileCx c].st ≠ .free && x.ctxs[tileCx c].pri == 3) || x.launchQ.any (fun r => r.words.pri == 3)

/-- Whether a square may enter DOZE (16 R334). -/
def State.dozeOk (s : State) (q : Sq) : Bool :=
  let x := s.sq q
  (List.finRange 8).all (fun c => x.ctxs[tileCx c].st == .free) && x.launchQ.isEmpty && x.log.isEmpty && x.tokens.isEmpty &&
    s.watches.all (fun w => w.sq ≠ q) && x.copyQ.isEmpty && x.journal.st == .closed

/-- What a square in DOZE keeps: context F, its registers, DRTH, DRCNT, the counters, messages on the mesh and the journal's half; a tile
context keeps its count of program order, so that keys of log entries differ, and its count of patches (16 R332, R334; 05 R100). -/
def Square.dozed (x : Square) : Square :=
  { Square.reset with
    ctxs := Vector.ofFn (fun (c : Fin 9) => if c = 8 then x.ctxs[c] else { Ctx.reset with po := x.ctxs[c].po, fvrSeq := x.ctxs[c].fvrSeq })
    power := .doze, mchk := x.mchk, cyc := x.cyc, fcred := x.fcred, fcycles := x.fcycles, tsel := x.tsel, ctxr := x.ctxr
    drth := x.drth, drcnt := x.drcnt, nextRec := x.nextRec, stream := x.stream, owed := x.owed
    journal := { Journal.reset with half := x.journal.half, serial := x.journal.serial } }

/-- The square store and the scratchpads of a square lose their contents: every block reads zero (16 R334). -/
def State.clearSquare (s : State) (q : Sq) : State :=
  (List.finRange 4).foldl (fun s v => s.zeroBytes (spadAddr q.val v.val 0) 0x80000) (s.zeroBytes (storeAddr q.val 0) 0x800000)

/-- A square enters DOZE: its dirty lines are written back, and its power is removed (16 R334). -/
def State.enterDoze (s : State) (q : Sq) : State :=
  ((s.writeBack q (fun _ => true)).clearSquare q).modSq q Square.dozed

/-- PS.SAFE (16 Table 16-2): in context F it has no effect. -/
def execPsSafe (a : Reg) (s : State) : Out :=
  if s.isF then s.done
  else if bits (s.rs a) 1 63 ≠ 0 then s.trap PWR_WORD
  else (s.modMe (fun x => { x with pstatSafe := bit (s.rs a) 0 })).done

/-- Every sleeping square of a list begins to wake. -/
def State.wakeAll (s : State) (qs : List Sq) : State :=
  qs.foldl (fun s q => s.modSq q (fun x => if x.power = .run then x else { x with waking := true })) s

/-- PS.WAKE (16 Table 16-2); a rectangle that leaves the mesh is a precise fault. -/
def execPsWake (d a : Reg) (s : State) : Out :=
  if !s.isF then s.denied (.psWake d a)
  else
    let r := bits (s.rs a) 0 32
    if !rectOnMesh r then s.trap ILLEGAL_FIELD
    else
      let qs := (rectSquares r).filter (fun q => (s.sq q).power ≠ .run)
      ((s.wakeAll qs).wS d (word qs.length)).done

/-- PS.NAP (16 Table 16-2): the square is idle but for this instruction. -/
def execPsNap (d : Reg) (s : State) : Out :=
  if !s.isF then s.denied (.psNap d)
  else if !s.restful s.fsq || (s.sq s.fsq).timed then (s.wS d 1).done
  else .next ((s.wS d 0).retire.modSq s.fsq (fun x => { x with power := .nap }))

/-- PS.DOZE (16 Table 16-2). -/
def execPsDoze (d : Reg) (s : State) : Out :=
  if !s.isF then s.denied (.psDoze d)
  else if !s.dozeOk s.fsq then (s.wS d 1).done
  else .next ((s.wS d 0).retire.enterDoze s.fsq)

/-- NAP_ENTRY: a square idle for 64 arithmetic cycles (16 R333). -/
def execNapEntry (q : Sq) (s : State) : Out :=
  let x := s.sq q
  if x.power = .run && s.idle q && !x.timed && decide (x.idleSince + 64 ≤ x.cyc) then .next (s.modSq q (fun x => { x with power := .nap }))
  else .next s

/-! ## The droop detector (16 R351) -/

/-- An alarm: the window begins and DRCNT advances. -/
def Square.alarm (x : Square) : Square := { x with droop := some x.cyc, drcnt := x.drcnt + 1 }

/-- DROOP_ALARM: with DRTH.EN, outside the masked window. -/
def execDroopAlarm (q : Sq) (s : State) : Out :=
  let x := s.sq q
  if bit x.drth 16 && x.droop.isNone then .next (s.modSq q Square.alarm) else .next s

/-- DROOP_WINDOW_END: after 70 cycles; a droop that persists raises a new alarm. -/
def execDroopWindowEnd (q : Sq) (persists : Bool) (s : State) : Out :=
  let x := s.sq q
  match x.droop with
  | none => .next s
  | some c =>
    if x.cyc < c + 70 then .next s
    else .next (s.modSq q (fun x => if persists && bit x.drth 16 then x.alarm else { x with droop := none }))

/-! ## The stop phase (16 R341) -/

/-- The state that an occurrence leads to. -/
def Out.state (o : Out) (s : State) : State := match o with
  | .next t => t
  | _ => s

/-- One round of what a vector core has in flight: the oldest access, every unit, the oldest bundle. -/
def State.coreRound (s : State) (q : Sq) (v : Vc) : State :=
  let s := Out.state (execStreamLoadLand q v s) s
  let s := Out.state (execStorePerformed q (.vec v) s) s
  let s := (List.finRange 8).foldl (fun s k => Out.state (execUnitResultDelivery q v k s) s) s
  Out.state (execBundleRetire q v s) s

/-- The issued bundles of a core retire, in at most `n` rounds; a running loop stops between its replays. -/
def State.coreStop (s : State) (q : Sq) (v : Vc) : Nat → State
  | 0 => s
  | n + 1 => (s.coreRound q v).coreStop q v n

/-- An MJ.COMMIT that has begun writing its record finishes both copies (16 R341). -/
def State.finishRecord (s : State) (q : Sq) : State :=
  if (s.journal q).inCommit && decide ((s.journal q).copies < 2) then s.recordCopy q else s

/-- A blocked instruction is left not begun: it executes afresh, and counts once. A wait that a service has interrupted goes on counting from
the moment its first execution began to wait (18 R376). -/
def Ctx.stop (x : Ctx) : Ctx := match x.blocked with
  | some b =>
    if b.afresh then x
    else { x with blocked := if b.since = b.now then none else some { b with afresh := true }, instrs := x.instrs - 1 }
  | none => x

/-- A square stops: loads deliver, posted stores complete, a service ends, the record of a commit that has begun is finished, issued bundles
retire, commit entries reach their homes, and its stream drains to the root. -/
def State.stopSquare (s : State) (q : Sq) : State :=
  let s := match (s.sq q).service with
    | some (c, _) => s.serviceEnd q c
    | none => s
  let s := (List.finRange 9).foldl (fun s c =>
    let s := (s.ctx q c).loads.foldl (fun s _ => Out.state (execLoadValueDelivery q c s) s) s
    let s := s.drainPosted q c
    if s.committing q c then s else s.modCtx q c Ctx.stop) (s.finishRecord q)
  let s := (List.finRange 4).foldl (fun s v =>
    let x := s.core q v
    s.coreStop q v (x.vpath.length + x.pend.length + x.issued.length + 1)) s
  let s := s.modSq q (fun x => { x with log := x.log.map (fun (e : LogEnt) => { e with arrived := true }), fburst := 0 })
  ((s.sq q).stream ++ (s.sq q).owed).foldl (fun s _ => s.applyMessage q) s

/-- Every square stops. -/
def State.stopAll (s : State) : State := (List.finRange 160).foldl State.stopSquare s

/-- Each live tile context is resumed once more: PSTAT.RES advances (16 R346). -/
def State.countResumed (s : State) : State :=
  { s with squares := s.squares.map (fun (x : Square) =>
    { x with ctxs := Vector.ofFn (fun (c : Fin 9) =>
      if c ≠ 8 && x.ctxs[c].st ≠ .free then { x.ctxs[c] with pstatRes := (x.ctxs[c].pstatRes + 1) % 2 ^ 16 } else x.ctxs[c]) }) }

/-- Whether the command at the head of a queue is an INVOKE. -/
def State.holdsInvoke (s : State) (q : Fin 16) : Bool := (s.heads[q]).any (fun c => bits c.w[0] 56 8 == 3)

/-- BROWN_ENTRY: the stop phase without write-backs; an INVOKE under examination goes back to its queue, which it alone holds (16 R337, 17
R362). -/
def execBrownEntry (s : State) : Out :=
  if s.power ≠ .run then .next s
  else
    let s := s.stopAll
    .next { s with power := .brown, brownStart := some s.now, cur := s.cur.filter (fun q => !s.holdsInvoke q) }

/-- A BROWN interval that has ended is recorded (16 R350). -/
def State.endBrown (s : State) : State := match s.brownStart with
  | some t => { s with brownStart := none, intervals := s.intervals ++ [(t, s.now - t)] }
  | none => s

/-- BROWN_EXIT: every context continues (16 R337, R346). -/
def execBrownExit (s : State) : Out :=
  if s.power ≠ .brown then .next s
  else .next ({ s.endBrown with power := .run } : State).countResumed.postHeld

/-! ## The persist sequence (16 R340 to R344) -/

/-- A seal written twice for a persist generation. -/
def Seal.write (gen : Word) (chunks : Bool) : Seal := { copies := Vector.replicate 2 (some gen), chunks := chunks }

/-- Whether an image is valid: a copy of its seal checks with the generation of the NVFFs, and every chunk matches (16 R341). -/
def Seal.valid (x : Seal) (gen : Word) : Bool := x.chunks && x.copies.toList.contains (some gen)

/-- POWER_FAIL_WARNING: the four phases. The images of the squares of `badSquares`, and the hub's unless `hubOk`, will not verify, as
where spare rows run out (16 R343); a square in DOZE writes none (19 R380). Up to 27 µs pass before the capture (16 R350). -/
def execPowerFailWarning (badSquares : List Sq) (hubOk : Bool) (s : State) : Out :=
  if s.power ≠ .run && s.power ≠ .brown then .next s
  else
    let start := s.now
    let s := if s.power = .run then s.stopAll else s
    let s := ({ s with now := s.now + Config.stopTime s.free % 27001 } : State).bump.endBrown
    let s := (List.finRange 160).foldl (fun s q => s.writeBack q (fun _ => true)) s
    let gen := s.persistGen + 1
    let s := { s with squares := Vector.ofFn (fun (q : Sq) =>
      { s.sq q with persist := if (s.sq q).power = SqPower.doze then Seal.none else Seal.write gen (!badSquares.contains q) }) }
    .next { s with power := .sealed, offStart := some start, persistGen := gen, hubSeal := Seal.write gen hubOk }

/-- HBM4 and LPDDR-6 lose their contents. -/
def State.loseDram (s : State) : State :=
  { s with
    mem := s.mem.filter (fun (e : Nat × Byte) => tierOf e.1 != Tier.hbm && tierOf e.1 != Tier.lpddr)
    bad := s.bad.filter (fun u => tierOf u != Tier.hbm && tierOf u != Tier.lpddr) }

/-- HOLDUP_EXHAUSTED: the DRAM is released, and the package is OFF (16 R344). -/
def execHoldupExhausted (s : State) : Out :=
  if s.power ≠ .sealed then .next s else .next { s.loseDram with power := .off }

/-- Whether the hub's image is valid. -/
def State.hubValid (s : State) : Bool := s.hubSeal.valid s.persistGen

/-! ## Cold start (16 R345 step 1, 17 R368, 19 R378) -/

/-- Whether a flat address lies in MRAM, the one tier that keeps its contents. -/
def inMram (a : Nat) : Bool := tierOf a == Tier.mram

/-- A cold start: journals are settled, every square is in DOZE and every register at its reset value, FVR.PATCH among them (02 Table 2-13;
log 58); MRAM, the hub's patch and key stores, residences with their regions and edges, and mapping records stay; the sections of residences
are rewritten and other DRAM leaves carry L. The reference clock goes on (log 11). -/
def State.coldStart (s : State) : State :=
  let s := (List.finRange 160).foldl State.settleJournal s
  let s := s.present.foldl (fun s r => s.addEdges r.edges) { s with edges := [] }
  ({ State.reset with
    now := s.now, tick := s.tick, free := s.free, agenda := s.agenda, fsq := s.fsq, fcx := s.fcx, lastRead := s.lastRead
    mem := s.mem.filter (fun (e : Nat × Byte) => inMram e.1), bad := s.bad.filter inMram, wear := s.wear
    persistGen := s.persistGen, edges := s.edges, residences := s.residences, maps := s.maps
    regions := s.regions.filter (fun e => match e.2 with
      | some r => (match r.owner with
        | .res _ => true
        | .inv _ => false)
      | none => false)
    patchFloor := s.patchFloor, patchSlot := s.patchSlot, patchStore := s.patchStore, keySlots := s.keySlots
    hostMem := s.hostMem, held := s.held, nextInv := s.nextInv, nextTask := s.nextTask
    squares := s.squares.map (fun (x : Square) =>
      { Square.reset with journal := { Journal.reset with half := x.journal.half, serial := x.journal.serial } }) }
    : State).rebuild

/-- The total of the BROWN and OFF intervals since a moment (13 R301). -/
def State.extension (s : State) (t : Nat) : Nat := ((s.intervals.filter (fun p => decide (t ≤ p.1))).map (fun p => p.2)).sum

/-- The DONE entry of an invocation with a cause and the number of its tasks that ended by one (17 Table 17-6). -/
def State.invEnd (s : State) (i : Inv) (cause nf : Nat) : Comp :=
  mkComp i.q i.tag 0 cause nf (word (s.extension i.accepted)) (word (Nat.min i.lost (2 ^ 64 - 1))) 0

/-- The DONE entry of an invocation with a cause (17 Table 17-6). -/
def State.invDone (s : State) (i : Inv) (cause : Nat) : Comp := s.invEnd i cause i.ended.length

/-- The tasks of an invocation, live or saved, that have not ended by a cause. -/
def State.liveTasks (s : State) (i : Inv) : Nat :=
  (s.squares.toList.map (fun x => ((List.finRange 8).filter (fun c =>
    x.ctxs[tileCx c].st ≠ .free && x.ctxs[tileCx c].endCause.isNone && x.ctxs[tileCx c].inv == some i.id)).length)).sum +
    (s.saved.filter (fun y => y.inv == some i.id)).length

/-- A cold start for want of a valid hub image: every incomplete command completes with PERSIST_IMAGE_BAD, an invocation as DONE with its
tasks in NF, which is at least 1, and another command as REFUSED (16 R345 step 1, 15 R326, 17 R366; log 97). -/
def State.imageLost (s : State) : State :=
  (s.endAll (fun i => s.invEnd i PERSIST_IMAGE_BAD (Nat.max 1 (i.ended.length + s.liveTasks i)))
    (fun q t => mkComp q t 2 PERSIST_IMAGE_BAD 0 0 0 0)).coldStart

/-- COLD_START: the module is OFF and no valid image exists; incomplete commands complete with PERSIST_IMAGE_BAD (16 R345 step 1). -/
def execColdStart (s : State) : Out :=
  if (s.power = .off || s.power = .sealed) && !s.hubValid then .next s.imageLost else .next s

/-! ## Resumption (16 R345 to R347) -/

/-- The counts of a table's entries taken back at the root: the drops of a square whose image is invalid. -/
def State.dropAtRoot (s : State) (ts : List Tok) : State :=
  ts.foldl (fun s t => s.applyPairs t.scope [(t.time, -(t.count : Int))]) s

/-- Step 2: a square whose image is invalid: its tasks end with PERSIST_IMAGE_BAD, those it has saved too, the drops of its tokens and
of its copies are sent, its log is lost, and it takes the contents of DOZE. Its journal is settled from the journal area whether or not the
image is valid, and F may be the owner that stands in MJ.COMMIT: who owned it is not forgotten before (16 R356). -/
def State.loseSquare (s : State) (q : Sq) : State :=
  let x := s.sq q
  let s := (List.finRange 8).foldl (fun s c =>
    let k := s.ctx q (tileCx c)
    if k.st = .free || k.endCause.isSome then s
    else s.noteEnd k.inv { time := k.tileTime, sq := q.val, ctx := c.val, cause := PERSIST_IMAGE_BAD }) s
  let s := (s.saved.filter (fun y => y.sq == q)).foldl (fun s y =>
    s.noteEnd y.inv { time := y.time, sq := q.val, ctx := y.ctx.val, cause := PERSIST_IMAGE_BAD }) s
  let s := s.dropAtRoot x.tokens
  let s := x.copyQ.foldl (fun s y => if y.tok then s.applyPairs y.d.scope [(y.d.time, -1)] else s) s
  let s := s.loseEntries x.log
  let s := { s with saved := s.saved.filter (fun y => y.sq ≠ q), watches := s.watches.filter (fun w => w.sq ≠ q) }
  (s.clearSquare q).modSq q (fun y =>
    { y.dozed with stream := [], owed := [], journal := { y.dozed.journal with owner := x.journal.owner } })

/-- The flat address of the range that a tag names. -/
def State.rangeOf (s : State) (q : Sq) (t : Tag) : Option Nat :=
  ((s.residence t.res).bind (fun r => r.ranges.find? (fun g => g.num == t.num && g.sq == q))).map (fun g => mramBase q.val + g.off)

/-- Segments with a valid tag are refilled from their MRAM ranges; segments 12 to 15 are empty (09 R219). -/
def State.refill (s : State) (q : Sq) : State :=
  let tags := (s.arr q).tags
  let segs := (List.finRange 12).flatMap (fun g => match tags[Fin.castLE (by omega : 12 ≤ 16) g] with
    | some t => (match s.rangeOf q t with
      | some a => (s.rdB (a + t.off) t.len).zipIdx.map (fun (y : Byte × Nat) => (g.val * 65536 + y.2, y.1))
      | none => [])
    | none => [])
  s.modArr q (fun a =>
    { a with
      seg := segs.foldl (fun l (y : Nat × Byte) => mput 0 l y.1 y.2) []
      tags := Vector.ofFn (fun (i : Fin 16) => if i.val < 12 then a.tags[i] else none) })

/-- Step 4: caches and TLBs are empty, segments refilled, a tile fetched ahead is forgotten, and the chunk of a copy in progress starts over
(06 R143, 09 R219, 10 R248, 19 R379). -/
def State.restoreSquare (s : State) (q : Sq) : State :=
  let restart := fun (y : Copy) => match (y.d.dests y.op.val)[y.dest]? with
    | some p => if y.started then y.restart (y.under p 0).1 else y
    | none => y
  let s := s.modSq q (fun x =>
    { x with
      icache := Vector.replicate 16 [], ifills := [], ifails := [], dcache := [], tlb := [], power := .run, waking := false, droop := none
      arr := { x.arr with ahead := none }, copyQ := x.copyQ.map restart })
  s.refill q

/-- Step 5: a tile context that may not resume ends with POWER_LOST, and is freed where nothing of it is left to drain. -/
def State.losePower (s : State) (q : Sq) (c : Fin 8) : State :=
  let k := s.ctx q (tileCx c)
  if k.st = .free || k.pstatSafe || k.endCause.isSome then s
  else Out.state (execContextFree q (tileCx c) (s.endTask q (tileCx c) POWER_LOST)) s

/-- Whether a byte of `[va, va + n)` lies in a page marked L. -/
def State.lostAt (s : State) (va n : Nat) : Bool :=
  (List.range (n / 0x10000 + 2)).any (fun i => match s.walk (Nat.min (va + i * 0x10000) (va + (n - 1))) with
    | .ok (_, w, _) => bit w 62
    | .error _ => false)

/-- Whether a byte of a source or of a destination of a copy, written or not, lies on a lost page (16 R347). -/
def State.copyLost (s : State) (y : Copy) : Bool :=
  let at_ := fun (p : Place × Nat) => match p.1 with
    | .glob a => p.2 ≠ 0 && s.lostAt a p.2
    | _ => false
  (y.d.sources y.op.val).any (fun p => at_ (y.under p y.d.len)) ||
    (y.d.dests y.op.val).any (fun p => at_ ((y.under p 0).1, s.copySize y p))

/-- The first destination of a copy whose signal is not settled. -/
def Copy.unsettled (y : Copy) : Nat := ((List.range y.count).find? (fun i => !y.signalled.contains i)).getD y.count

/-- The copies of a square that touch a lost page end as 10 R246 says, with PAGE_LOST; every signal not yet applied carries err = 1
(16 R347). -/
def State.settleCopies (s : State) (q : Sq) : State :=
  (s.sq q).copyQ.zipIdx.foldl (fun s (e : Copy × Nat) =>
    if e.1.err.isSome || !s.copyLost e.1 then s
    else
      let r := s.copyErr e.1 PAGE_LOST false
      let y : Copy := { r.2 with halted := none, errFrom := e.1.unsettled }
      r.1.modSq q (fun x => { x with copyQ := x.copyQ.set e.2 y })) s

/-- Whether the page of a log entry is lost (16 R347). -/
def State.entryLost (s : State) (e : LogEnt) : Bool := match e.va with
  | some v => (match s.walk v with
    | .ok (_, w, _) => bit w 62
    | .error _ => true)
  | none => false

/-- The commands whose installation has not reached its commit point: what they wrote is reclaimed, and they end as refused, for nothing of
them is in force (03 R72, 17 R365; log 81). -/
def State.dropInstalls (s : State) : State :=
  let gone := s.installs.filter (fun i => match i with
    | .patch _ _ _ _ => false
    | _ => true)
  let s := gone.foldl (fun s i => match i with
    | .load _ _ r _ _ => s.dropEdges r.edges
    | _ => s) s
  { s with
    installs := s.installs.filter (fun i => !gone.contains i)
    held := s.held ++ gone.map (fun i => mkComp i.who.1 i.who.2 2 POWER_LOST 0 0 0 0) }

/-- The resumption of a package with a valid hub image; `kept` where the DRAM was retained. -/
def State.resume (s : State) (kept : Bool) : State :=
  let all := List.finRange 160
  -- 2: images
  let s := all.foldl (fun s q => if (s.sq q).power = .doze || (s.sq q).persist.valid s.persistGen then s else s.loseSquare q) s
  -- 3: page tables and sections; a migration under way begins anew
  let s := { s with
    dieTlb := Vector.replicate 4 [], walkCache := Vector.replicate 4 [], blks := []
    bulk := s.bulk.map (fun (l : List Copy) => l.map (fun (y : Copy) => { y with started := false })) }
  let s := if kept then s.maps.foldl (fun s m => s.writeLeaf [] m) s else s.rebuild
  -- 4: squares
  let s := all.foldl (fun s q => if (s.sq q).power = .doze then s else s.restoreSquare q) s
  let s := { s with watches := s.watches.map (fun (w : Watch) => { w with fired := false, restored := true, armed := s.now }) }
  -- 5: contexts that may not resume, saved tasks in lost DRAM, journals, installations, copies, log entries
  let s := if kept then s
    else all.foldl (fun s q => (List.finRange 8).foldl (fun s c => s.losePower q c) s) s
  let s := if kept then s else s.saved.foldl (fun s y => s.endSaved y.sq y POWER_LOST) s
  let s := (all.foldl State.settleJournal s).dropInstalls
  let s := if kept then s else all.foldl State.settleCopies s
  let s := if kept then s else s.discardLog s.entryLost
  -- 6: the root and its broadcasts
  let s := ({ s with localF := Vector.ofFn s.frontier, bcast := [] } : State).commitPassed
  -- 7: the seals are erased, and the package runs
  let s := match s.offStart with
    | some t => { s with offStart := none, intervals := s.intervals ++ [(t, s.now - t)] }
    | none => s
  let s := ({ s with
    power := .run, hubSeal := Seal.none, squares := s.squares.map (fun (x : Square) => { x with persist := Seal.none }) } : State).countResumed
  (all.foldl (fun s q => if (s.sq q).power = .run && s.dozeOk q then s.enterDoze q else s) s).postHeld

/-- RESUMPTION: from the ride-through with the DRAM retained, or from OFF; an invalid hub image is a cold start (16 R345). -/
def execResumption (s : State) : Out :=
  if s.power ≠ .sealed && s.power ≠ .off then .next s
  else if !s.hubValid then .next s.imageLost
  else .next (s.resume (s.power == .sealed))

end Sys2Proof.Machine
end

