-- ==== Sys2Proof/Machine/Adapter.lean ====
section
/-! DEFINITION. The host adapter: its registers, the window onto space 0, the link, the peer domain, the key store, and errors of memory
(17 R357 to R360, R368 to R370, R373; 05 R386). -/

namespace Sys2Proof.Machine

/-! ## Space 0 with the rights of context F, at its home (14 R308, 17 R359) -/

/-- The physical address of a byte: checks 1 to 4 of 14 R308; context F passes check 5. -/
def State.hubXl (s : State) (va : Nat) : Except XStop Nat :=
  if va ≥ 2 ^ 48 then .error (.cause ADDR_NONCANONICAL)
  else match s.walk va with
    | .error c => .error (.cause c)
    | .ok (_, w, big) =>
      if bit w 60 then .error .stall
      else if bit w 62 then .error (.cause PAGE_LOST)
      else .ok ((leafEnt w big va).pa va)

/-- The sectors of `n` bytes from `va`: the place and the length of each piece; `fuel` bounds their number. -/
def State.hubPieces (s : State) : Nat → Nat → Nat → Except XStop (List (Nat × Nat))
  | 0, _, _ => .ok []
  | fuel + 1, va, n =>
    if n = 0 then .ok []
    else
      let k := Nat.min n (32 - va % 32)
      match s.hubXl va, s.hubPieces fuel (va + k) (n - k) with
      | .error e, _ => .error e
      | .ok _, .error e => .error e
      | .ok a, .ok t => .ok ((a, k) :: t)

/-- The bytes of pieces; data with an uncorrectable error give a cause. -/
def State.readPieces (s : State) (l : List (Nat × Nat)) : Except Nat (List Byte) :=
  if l.any (fun p => s.isBad p.1 p.2) then .error DATA_UNCORRECTABLE else .ok (l.flatMap (fun p => s.rdB p.1 p.2))

/-- Bytes written to pieces, one transfer for each. -/
def State.writePieces (s : State) : List (Nat × Nat) → List Byte → State
  | [], _ => s
  | (a, k) :: t, bs => (s.writeHome a (bs.take k)).writePieces t (bs.drop k)

/-- A read by firmware or the host: the bytes, or why there are none. -/
def State.hubRead (s : State) (va n : Nat) : Except XStop (List Byte) :=
  match s.hubPieces n va n with
  | .error e => .error e
  | .ok l => match s.readPieces l with
    | .error c => .error (.cause c)
    | .ok bs => .ok bs

/-- The blocks of the memory-side caches that a read by firmware or the host uses (14 R315; log 69). -/
def State.hubTouch (s : State) (va n : Nat) : State := match s.hubPieces n va n with
  | .ok l => l.foldl (fun u p => u.blkTouch p.1 p.2) s
  | .error _ => s

/-- A write by firmware or the host: whole, or not at all. -/
def State.hubWrite (s : State) (va : Nat) (bs : List Byte) : Except XStop State :=
  match s.hubPieces bs.length va bs.length with
  | .error e => .error e
  | .ok l => .ok (s.writePieces l bs)

/-! ## The window (17 R359) -/

/-- The device-virtual address of an offset of the window. -/
def State.windowVa (s : State) (a : BitVec 36) : Nat := s.winBase.toNat * 2 ^ 36 + a.toNat

/-- A window fault recorded in WFLT: the first since V was cleared, OVF for a further one. -/
def State.windowFault (s : State) (wr : Bool) (cause va : Nat) : State :=
  if s.wflt.v then { s with wflt := { s.wflt with ovf := true } }
  else { s with wflt := { s.wflt with v := true, wr := wr, cause := cause, addr := va } }

/-- HOST_WINDOW_READ of `n` bytes; a faulting read returns none. -/
def execHostWindowRead (a : BitVec 36) (n : Nat) (s : State) : Out :=
  let va := s.windowVa a
  if n = 0 || a.toNat + n > 2 ^ 36 then .next s
  else match s.hubRead va n with
    | .error .stall => .next s
    | .error (.cause c) => .next { s.windowFault false c va with lastRead := none }
    | .ok bs => .next { s.hubTouch va n with lastRead := some bs }

/-- HOST_WINDOW_WRITE; a faulting write is discarded whole. -/
def execHostWindowWrite (a : BitVec 36) (bs : List Byte) (s : State) : Out :=
  let va := s.windowVa a
  if bs.isEmpty || a.toNat + bs.length > 2 ^ 36 then .next s
  else match s.hubWrite va bs with
    | .error .stall => .next s
    | .error (.cause c) => .next (s.windowFault true c va)
    | .ok t => .next t

/-! ## Registers (17 R360, Table 17-1) -/

/-- WFLT written: 1 to V clears V, WR, CAUSE and ADDR, 1 to OVF clears OVF. -/
def State.clearWflt (s : State) (v ovf : Bool) : State :=
  let w := if ovf then { s.wflt with ovf := false } else s.wflt
  { s with wflt := if v then { w with v := false, wr := false, cause := 0, addr := 0 } else w }

/-- WFLT_CLEAR: 1 written to V. -/
def execWfltClear (s : State) : Out := .next (s.clearWflt true false)

/-- MRESET_GO: a cold start, which clears MCHK; the link stays as it is, and a package in BROWN stays in it until its hold-up energy is back
(16 R337, R342; 17 R360, R368). -/
def execMresetGo (s : State) : Out :=
  if s.power ≠ .run && s.power ≠ .brown then .next s
  else .next { s.coldStart with lup := s.lup, lanes := s.lanes, power := s.power, brownStart := s.brownStart }

/-- The state with `f` applied to a queue pair. -/
def State.modQp (s : State) (n : Fin 16) (f : Qp → Qp) : State := { s with qps := vset s.qps n (f s.qps[n]) }

/-- SQT_DOORBELL: a new submission tail. -/
def execSqtDoorbell (n : Fin 16) (x : BitVec 32) (s : State) : Out := .next (s.modQp n (fun p => { p with sqt := x.toNat }))

/-- CQH_WRITE: a new completion head; entries that waited are posted (17 R366). -/
def execCqhWrite (n : Fin 16) (x : BitVec 32) (s : State) : Out := .next (s.modQp n (fun p => { p with cqh := x.toNat })).postHeld

/-- QCTL written: SQL and CQL only while EN is 0, and EN only with both of them in range. -/
def Qp.control (p : Qp) (x : BitVec 32) : Qp :=
  let l := fun (lo : Nat) => fld x.toNat lo 4
  let p := if p.en then p else { p with sql := l 12, cql := l 8 }
  { p with ien := x.getLsbD 1, en := x.getLsbD 0 && (p.en || decide (4 ≤ p.sql) && decide (4 ≤ p.cql)) }

/-- QCTL_WRITE. -/
def execQctlWrite (n : Fin 16) (x : BitVec 32) (s : State) : Out := .next (s.modQp n (fun p => p.control x)).postHeld

/-- HOST_REGISTER_WRITE: a doubleword written to the register file; one that only reads ignores it. -/
def execHostRegisterWrite (a : BitVec 32) (x : Word) (s : State) : Out :=
  let o := a.toNat
  if o = 0x0008 then (if bit x 0 then execMresetGo s else .next s)
  else if o = 0x0010 then .next { s with winBase := x.setWidth 12 }
  else if o = 0x0018 then .next (s.clearWflt (bit x 63) (bit x 62))
  else if decide (o < 0x1000) || decide (0x1400 ≤ o) then .next s
  else
    let n := Fin.ofNat 16 ((o - 0x1000) / 0x40)
    match o % 0x40 with
    | 0x00 => .next (s.modQp n (fun p => if p.en then p else { p with sqb := x }))
    | 0x08 => .next (s.modQp n (fun p => if p.en then p else { p with cqb := x }))
    | 0x10 => execQctlWrite n (x.setWidth 32) s
    | 0x18 => execSqtDoorbell n (x.setWidth 32) s
    | 0x20 => execCqhWrite n (x.setWidth 32) s
    | _ => .next s

/-- WFLT as the host reads it. -/
def Wflt.read (w : Wflt) : Word :=
  bword w.v * 2 ^ 63 + bword w.ovf * 2 ^ 62 + bword w.wr * 2 ^ 61 + BitVec.ofNat 64 (w.cause % 512 * 2 ^ 49 + w.addr % 2 ^ 48)

/-- MSTAT as the host reads it. -/
def State.mstat (s : State) : Word :=
  word (s.modn.toNat * 2 ^ 8) + bword s.mchk * 64 + bword s.lup * 32 + BitVec.ofNat 64 (s.lanes % 32)

/-- A doubleword of the register file as the host reads it (17 R360, Table 17-1): WO doublewords and what is reserved read zero. -/
def State.barRead (s : State) (o : Nat) : Word :=
  if o = 0x0000 then s.mstat
  else if o = 0x0010 then s.winBase.setWidth 64
  else if o = 0x0018 then s.wflt.read
  else if decide (o < 0x1000) || decide (0x1400 ≤ o) then 0
  else
    let p := s.qps[Fin.ofNat 16 ((o - 0x1000) / 0x40)]
    match o % 0x40 with
    | 0x00 => p.sqb
    | 0x08 => p.cqb
    | 0x10 => BitVec.ofNat 64 (p.sql % 16 * 2 ^ 12 + p.cql % 16 * 2 ^ 8) + bword p.ien * 2 + bword p.en
    | 0x28 => BitVec.ofNat 64 (p.sqh % 2 ^ 32)
    | _ => 0

/-! ## The link, the peer domain, the key store (17 R358, R369, R370, R373) -/

/-- LANE_FAILURE: the link goes down to retrain, and LANES reads 8. -/
def execLaneFailure (s : State) : Out := if s.lup then .next { s with lup := false, lanes := 8 } else .next s

/-- LINK_RESTORE: the link is up, and held completion entries are posted. -/
def execLinkRestore (s : State) : Out :=
  if s.lup then .next s else .next ({ s with lup := true, lanes := if s.lanes = 0 then 16 else s.lanes } : State).postHeld

/-- PEER_DOMAIN_CONFIG: the number of this module and its peers. -/
def execPeerDomainConfig (self : Fin 8) (peers : List (Fin 8)) (s : State) : Out :=
  .next { s with modn := BitVec.ofNat 8 self.val, peers := (peers.filter (· ≠ self)).dedup }

/-- PEER_LOST: the reductions that wait on the peer complete with PEER_LOST, and the domain goes on without it. Which collectives wait on
it is the peers' knowledge; one that needs every module of the domain does (17 R370). -/
def execPeerLost (m : Fin 8) (waits : List Word) (s : State) : Out :=
  if !s.peers.contains m then .next s
  else
    let hit := fun (r : Reduce) => waits.contains r.num || decide (s.peers.length < bits r.head 48 8)
    let gone := s.reduces.filter hit
    .next ({ s with
      peers := s.peers.filter (· ≠ m)
      reduces := s.reduces.filter (fun r => !hit r)
      held := s.held ++ gone.map (fun r => mkComp r.q r.tag 6 0 0 0 0 0) } : State).postHeld

/-- Whether a certificate is signed with Mbocon's provisioning keys in both algorithms and names a slot and a key (17 R373). -/
def certOk (k : Fin 8) (key : Nat) (cert : List Byte) : Bool :=
  let n := cert.length - 3373
  let body := cert.take n
  decide (3373 ≤ cert.length) && Config.signatureOk false Config.provisioningKey body ((cert.drop n).take 64) &&
    Config.signatureOk true Config.provisioningKey body (cert.drop (n + 64)) && Config.certifies body k key

/-- IMAGE_KEY_SLOT_WRITE: a slot of the image key store written at commissioning, under the certificate that is presented with the key
(17 R373; log 8). -/
def execImageKeySlotWrite (k : Fin 8) (key : Nat) (s : State) : Out :=
  .next (if certOk k key (Config.keyCertificate s.free) then { s with keySlots := vset s.keySlots k (some key) } else s).bump

/-! ## Errors of memory (05 R386) -/

/-- Whether a flat address is a byte of some storage. -/
def isStored (a : Nat) : Bool :=
  (decide (a < 2 ^ 48) && tierOf a != Tier.hole) || (decide (2 ^ 48 ≤ a) && decide (a < storeAddr 160 0)) ||
    (decide (spadAddr 0 0 0 ≤ a) && decide (a < spadAddr 160 0 0))

/-- The loads in flight that read the protection unit at `u` take their values: they were performed before the error (05 R120, R121;
log 83). -/
def State.performReads (s : State) (u : Nat) : State :=
  (List.finRange 160).foldl (fun s q => (List.finRange 9).foldl (fun s c =>
    if (s.ctx q c).loads.any (fun l => l.value.isNone && decide (l.pa < u + unitSize u) && decide (u < l.pa + l.size)) then s.performLoads q c else s) s) s

/-- UNCORRECTABLE_ERROR: the protection unit of a byte comes to fail its check. -/
def execUncorrectableError (a : Nat) (s : State) : Out :=
  if !isStored a || s.bad.contains (unitBase a) then .next s
  else
    let s := s.performReads (unitBase a)
    .next { s with bad := s.bad ++ [unitBase a] }

end Sys2Proof.Machine
end

