-- ==== Sys2Proof/Machine/Blocks.lean ====
section
/-! DEFINITION. Memory-side cache blocks and hints (14 R314, R315; 02 R40, R41; 06 R139, R141). -/

namespace Sys2Proof.Machine

def BLK_RANGE : Nat := 0x067
def BLK_HANDLE : Nat := 0x068

/-! ## Blocks -/

/-- The handle of a block (14 Table 14-7). -/
def Blk.handle (b : Blk) : Word := word (b.gen.toNat * 2 ^ 16 + b.die.val * 2 ^ 14 + b.tag)
/-- Whether a handle has a zero field set. -/
def handleBad (w : Word) : Bool := bits w 32 32 ≠ 0 || bit w 13
/-- The current block of a handle. -/
def State.blkOf (s : State) (w : Word) : Option Blk := s.blks.find? (fun b => b.handle == w)
/-- The lines that blocks of a die hold. -/
def State.blkLines (s : State) (d : Die) : Nat := ((s.blks.filter (fun b => b.die == d)).map (·.n)).sum
/-- A tag of a die that no block has; which one is free (log 69). -/
def State.freeTag (s : State) (d : Die) : Option Nat :=
  let l := (List.range 8192).filter (fun t => !s.blks.any (fun b => b.die == d && b.tag == t))
  l[Config.pick s.free % l.length]?
/-- Whole blocks of a die leave until `n` lines and a tag are free; `fuel` bounds their number. The blocks stand with the most recently
used first, and the least recently used one leaves (14 R315; log 69). -/
def State.blkRoom (s : State) (d : Die) (n : Nat) : Nat → State
  | 0 => s
  | fuel + 1 =>
    let l := s.blks.filter (fun b => b.die == d)
    if s.blkLines d + n ≤ 262144 && l.length < 8192 then s
    else match l.getLast? with
      | some b => ({ s with blks := s.blks.filter (fun x => x ≠ b) } : State).blkRoom d n fuel
      | none => s

/-- BLK.LD (14 R315): the lines stand in one page, the operation translates as a load, and the fill runs on. -/
def execBlkLd (d a b : Reg) (s : State) : Out :=
  let va := (s.rs a).toNat
  let n := (s.rs b).toNat
  if va % 128 ≠ 0 || n = 0 || n > 64 then s.trap BLK_RANGE
  else match s.translate s.fsq (s.me.who s.fcx) { r := true } va with
    | .error .stall => s.block (.blkLd d a b)
    | .error (.cause c) => s.trap c
    | .ok (pa, t) =>
      let big := match s.findXl s.fsq va with
        | .ok e => e.big
        | .error _ => false
      if va / pageSize big ≠ (va + n * 128 - 1) / pageSize big then s.trap BLK_RANGE
      else
        let die := homeDie pa
        let t := t.blkRoom die n 8192
        let tag := (t.freeTag die).getD 0
        let key := die.val * 8192 + tag
        let gen : BitVec 16 := mget 0 t.blkGen key + 1
        let blk : Blk := { die := die, tag := tag, gen := gen, pa := pa, n := n, owner := some (s.fsq, s.fcx), filled := false }
        (({ t with blks := blk :: t.blks, blkGen := mput 0 t.blkGen key gen } : State).bump.wS d blk.handle).done

/-- BLK.EVICT (14 R315): the block of a current handle that the issuing context allocated leaves. -/
def execBlkEvict (a : Reg) (s : State) : Out :=
  if handleBad (s.rs a) then s.trap BLK_HANDLE
  else
    let h := s.rs a
    ({ s with blks := s.blks.filter (fun b => !(b.handle == h && b.owner == some (s.fsq, s.fcx))) } : State).done

/-- BLK.WAIT (14 R315). -/
def execBlkWait (d a : Reg) (s : State) : Out :=
  if handleBad (s.rs a) then s.trap BLK_HANDLE
  else match s.blkOf (s.rs a) with
    | none => (s.wS d 2).done
    | some b => if b.filled then (s.wS d 1).done else s.block (.blkWait d a)

/-- BLK_FILL_COMPLETE: the fill of block tag `b` of a die ends (14 R315). -/
def execBlkFillComplete (die : Die) (b : Nat) (s : State) : Out :=
  .next { s with blks := s.blks.map (fun x => if x.die == die && x.tag == b then { x with filled := true } else x) }

/-! ## The instruction cache (06 Table 6-2) -/

/-- The set and the tag of an address; the tag here carries the whole superblock number. -/
def icSet (a : Nat) : Fin 16 := Fin.ofNat 16 (a / 512)
/-- Superblock number of an address. -/
def superblock (a : Nat) : Nat := a / 512
/-- The line of a superblock that holds an address. -/
def icLine (a : Nat) : Nat := a / 128 % 4

/-- Whether the line of an address is valid. -/
def Square.icHit (x : Square) (a : Nat) : Bool :=
  (x.icache[icSet a]).any (fun w => w.tag == superblock a && w.valid.getLsbD (icLine a))

/-- The way of an address made the most recently used: ways stand with the most recent first. -/
def Square.icTouch (x : Square) (a : Nat) : Square :=
  let l := x.icache[icSet a]
  { x with icache := vset x.icache (icSet a) (l.filter (fun w => w.tag == superblock a) ++ l.filter (fun w => w.tag ≠ superblock a)) }

/-- A way allotted to the superblock of an address, where it is absent: a tile context replaces among seven ways and F in its
own one, an invalid way first, else the least recently used (06 Table 6-2). A way counts as invalid while none of its lines is valid,
also where lines of it are in flight (log 86). -/
def Square.icAllot (x : Square) (a : Nat) (f : Bool) : Square :=
  let l := x.icache[icSet a]
  if l.any (fun w => w.tag == superblock a) then x
  else
    let mine := l.filter (·.f == f)
    let victim := if mine.length < (if f then 1 else 7) then none
      else match mine.reverse.find? (·.valid == 0) with
        | some v => some v
        | none => mine.getLast?
    let w : IWay := { tag := superblock a, valid := 0, f := f, data := Vector.replicate 4 [] }
    { x with icache := vset x.icache (icSet a) (w :: (l.filter (fun v => some v ≠ victim))) }

/-- Whether a fill in flight brings the line of an address. -/
def Square.icFlying (x : Square) (a : Nat) : Bool := x.ifills.any (fun p => p.line == a / 128)

/-- The fill of the line of address `a` started at physical address `pa`, unless the line is valid or in flight; a way is allotted to a
superblock that is absent in either case (06 R139, 18 R377). What the fill brings is what the line holds now: no store reaches a line in
flight (06 R142). -/
def State.icFill (s : State) (q : Sq) (a pa : Nat) (f : Bool) : State :=
  let b := pa - pa % 128
  if (s.sq q).icHit a then s
  else
    let s := s.modSq q (fun x => x.icAllot a f)
    if (s.sq q).icFlying a then s
    else (s.blkTouch b 128).modSq q (fun x =>
      { x with ifills := x.ifills ++ [{ line := a / 128, bytes := s.rdB b 128, bad := s.isBad b 128, waiting := [] }] })

/-- The fetch of a context waits for the fill of the line of address `a`. -/
def Square.icAwait (x : Square) (a : Nat) (c : Cx) : Square :=
  { x with ifills := x.ifills.map (fun f => if f.line == a / 128 && !f.waiting.contains c then { f with waiting := f.waiting ++ [c] } else f) }

/-- The way of a superblock with the line of address `a` filled. -/
def IWay.fill (w : IWay) (a : Nat) (bs : List Byte) : IWay :=
  if w.tag == superblock a then
    { w with valid := w.valid ||| (1 <<< icLine a), data := vset w.data (Fin.ofNat 4 (icLine a)) bs }
  else w

/-- ICACHE_FILL_COMPLETE: the `i`th fill in flight ends; fills end in the order in which they started (18 R377), so that only
the oldest does. A line that carries an error stays invalid, and the fetches that wait for it find the error (06 R140); a fill whose superblock
has been replaced changes nothing (log 86). -/
def execIcacheFillComplete (q : Sq) (i : Nat) (s : State) : Out :=
  match (s.sq q).ifills with
  | [] => .next s
  | l :: t =>
    if i ≠ 0 then .next s
    else
      let a := l.line * 128
      .next (s.modSq q (fun x =>
        let x := { x with ifills := t }
        if l.bad then { x with ifails := x.ifails ++ l.waiting.map (fun c => (l.line, c)) }
        else { x with icache := vset x.icache (icSet a) ((x.icache[icSet a]).map (fun (w : IWay) => w.fill a l.bytes)) }))

/-- The bytes of the word that a valid line of the instruction cache holds at an address. -/
def Square.icBytes (x : Square) (a : Nat) : List Byte :=
  match (x.icache[icSet a]).find? (fun w => w.tag == superblock a) with
  | some w => ((w.data[Fin.ofNat 4 (icLine a)]).drop (a % 128)).take 4
  | none => []

/-! ## Hints (02 R40, R41) -/

/-- The address of a hint. -/
def State.hintAddr (s : State) (b : Reg) (o : BitVec 14) : Nat := (s.ea b o 4).toNat

/-- A translation that a hint finds, with no fault and no record: none where it is dropped, as on a page that is being migrated (log 34). -/
def State.hintXl (s : State) (va : Nat) (n : Need) : Option (Nat × State) :=
  match s.translate s.fsq (s.me.who s.fcx) n va with
  | .ok p => some p
  | .error _ => none

/-- PREF.I (06 R141): every line of the superblock that is not valid or in flight is requested, in ascending order. -/
def execPrefI (b : Reg) (sp : Fin 4) (o : BitVec 14) (s : State) : Out :=
  let a := s.hintAddr b o
  if sp ≠ 0 then s.done
  else match s.hintXl a { x := true } with
    | none => s.done
    | some (pa, t) =>
      ((List.range 4).foldl (fun t k => t.icFill s.fsq (a / 512 * 512 + 128 * k) (pa / 512 * 512 + 128 * k) s.isF) t).done

/-- PREF.D (02 R40): the data-cache line of a space-0 address is filled. -/
def execPrefD (b : Reg) (sp : Fin 4) (o : BitVec 14) (s : State) : Out :=
  let a := s.hintAddr b o
  if sp ≠ 0 then s.done
  else match s.hintXl a { r := true } with
    | none => s.done
    | some (pa, t) => (t.fillLine s.fsq (a / 64) (pa - pa % 64)).done

/-- PREF.M (02 R40): a memory-side cache prefetch changes no value and no state that the model holds. -/
def execPrefM (_b : Reg) (_sp : Fin 4) (_o : BitVec 14) (s : State) : Out := s.done

/-- DEMOTE.D (02 R40, R41): the line of a space-0 address that translates is marked first for eviction. -/
def execDemoteD (b : Reg) (sp : Fin 4) (o : BitVec 14) (s : State) : Out :=
  let a := s.hintAddr b o
  if sp ≠ 0 then s.done
  else match s.hintXl a { r := true } with
    | none => s.done
    | some (_, t) => (t.modSq s.fsq (fun x =>
      { x with dcache := x.dcache.map (fun l => if l.tag == a / 64 then { l with demoted := true } else l) })).done

/-- A reserved hint is dropped (02 R41). -/
def execReservedHint (_k : Fin 32) (_b : Reg) (_sp : Fin 4) (_o : BitVec 14) (s : State) : Out := s.done

end Sys2Proof.Machine
end

