-- ==== Sys2Proof/Machine/Digest.lean ====
section
/-! DEFINITION. SHA-384, by which the digests of an attestation report are made (17 R375, Table 17-7). The spec names it by FIPS 180-4, which
gives what stands here (log 8). -/

namespace Sys2Proof.Machine

/-- The constants of the 80 rounds. -/
def shaK : List Nat :=
  [0x428A2F98D728AE22, 0x7137449123EF65CD, 0xB5C0FBCFEC4D3B2F, 0xE9B5DBA58189DBBC,
   0x3956C25BF348B538, 0x59F111F1B605D019, 0x923F82A4AF194F9B, 0xAB1C5ED5DA6D8118,
   0xD807AA98A3030242, 0x12835B0145706FBE, 0x243185BE4EE4B28C, 0x550C7DC3D5FFB4E2,
   0x72BE5D74F27B896F, 0x80DEB1FE3B1696B1, 0x9BDC06A725C71235, 0xC19BF174CF692694] ++
  [0xE49B69C19EF14AD2, 0xEFBE4786384F25E3, 0x0FC19DC68B8CD5B5, 0x240CA1CC77AC9C65,
   0x2DE92C6F592B0275, 0x4A7484AA6EA6E483, 0x5CB0A9DCBD41FBD4, 0x76F988DA831153B5,
   0x983E5152EE66DFAB, 0xA831C66D2DB43210, 0xB00327C898FB213F, 0xBF597FC7BEEF0EE4,
   0xC6E00BF33DA88FC2, 0xD5A79147930AA725, 0x06CA6351E003826F, 0x142929670A0E6E70] ++
  [0x27B70A8546D22FFC, 0x2E1B21385C26C926, 0x4D2C6DFC5AC42AED, 0x53380D139D95B3DF,
   0x650A73548BAF63DE, 0x766A0ABB3C77B2A8, 0x81C2C92E47EDAEE6, 0x92722C851482353B,
   0xA2BFE8A14CF10364, 0xA81A664BBC423001, 0xC24B8B70D0F89791, 0xC76C51A30654BE30,
   0xD192E819D6EF5218, 0xD69906245565A910, 0xF40E35855771202A, 0x106AA07032BBD1B8] ++
  [0x19A4C116B8D2D0C8, 0x1E376C085141AB53, 0x2748774CDF8EEB99, 0x34B0BCB5E19B48A8,
   0x391C0CB3C5C95A63, 0x4ED8AA4AE3418ACB, 0x5B9CCA4F7763E373, 0x682E6FF3D6B2B8A3,
   0x748F82EE5DEFB2FC, 0x78A5636F43172F60, 0x84C87814A1F0AB72, 0x8CC702081A6439EC,
   0x90BEFFFA23631E28, 0xA4506CEBDE82BDE9, 0xBEF9A3F7B2C67915, 0xC67178F2E372532B] ++
  [0xCA273ECEEA26619C, 0xD186B8C721C0C207, 0xEADA7DD6CDE0EB1E, 0xF57D4F7FEE6ED178,
   0x06F067AA72176FBA, 0x0A637DC5A2C898A6, 0x113F9804BEF90DAE, 0x1B710B35131C471B,
   0x28DB77F523047D84, 0x32CAAB7B40C72493, 0x3C9EBE0A15C9BEBC, 0x431D67C49C100D4C,
   0x4CC5D4BECB3E42B6, 0x597F299CFC657E2A, 0x5FCB6FAB3AD6FAEC, 0x6C44198C4A475817]

/-- The eight working words. -/
structure Sha where
  a : Nat
  b : Nat
  c : Nat
  d : Nat
  e : Nat
  f : Nat
  g : Nat
  h : Nat
deriving DecidableEq, Repr

/-- The initial hash value of SHA-384. -/
def Sha.init : Sha :=
  ⟨0xCBBB9D5DC1059ED8, 0x629A292A367CD507, 0x9159015A3070DD17, 0x152FECD8F70E5939,
   0x67332667FFC00B31, 0x8EB44A8768581511, 0xDB0C2E0D64F98FA7, 0x47B5481DBEFA4FA4⟩

/-- A sum modulo 2^64. -/
def add64 (x y : Nat) : Nat := (x + y) % 2 ^ 64
/-- A word rotated to the right. -/
def rotr64 (x n : Nat) : Nat := (x >>> n) ||| (x <<< (64 - n)) % 2 ^ 64
/-- The functions of a word that the rounds and the schedule use. -/
def shaSum0 (x : Nat) : Nat := rotr64 x 28 ^^^ rotr64 x 34 ^^^ rotr64 x 39
def shaSum1 (x : Nat) : Nat := rotr64 x 14 ^^^ rotr64 x 18 ^^^ rotr64 x 41
def shaSig0 (x : Nat) : Nat := rotr64 x 1 ^^^ rotr64 x 8 ^^^ x >>> 7
def shaSig1 (x : Nat) : Nat := rotr64 x 19 ^^^ rotr64 x 61 ^^^ x >>> 6
/-- The choice and the majority of three words. -/
def shaCh (x y z : Nat) : Nat := z ^^^ (x &&& (y ^^^ z))
def shaMaj (x y z : Nat) : Nat := (x &&& y) ^^^ (x &&& z) ^^^ (y &&& z)

/-- One round with its constant and its word. -/
def Sha.round (s : Sha) (k w : Nat) : Sha :=
  let t := add64 (add64 (add64 s.h (shaSum1 s.e)) (add64 (shaCh s.e s.f s.g) k)) w
  ⟨add64 t (add64 (shaSum0 s.a) (shaMaj s.a s.b s.c)), s.a, s.b, s.c, add64 s.d t, s.e, s.f, s.g⟩

/-- The word that follows sixteen words of the schedule. -/
def shaNext (w : List Nat) : Nat :=
  add64 (add64 (shaSig1 (w.getD 14 0)) (w.getD 9 0)) (add64 (shaSig0 (w.getD 1 0)) (w.getD 0 0))

/-- The rounds of one block, with the sixteen words of the schedule that are next. -/
def Sha.rounds : List Nat → List Nat → Sha → Sha
  | [], _, s => s
  | k :: ks, w, s => Sha.rounds ks (w.tail ++ [shaNext w]) (s.round k (w.headD 0))

/-- Two hash values added word by word. -/
def Sha.plus (s t : Sha) : Sha :=
  ⟨add64 s.a t.a, add64 s.b t.b, add64 s.c t.c, add64 s.d t.d, add64 s.e t.e, add64 s.f t.f, add64 s.g t.g, add64 s.h t.h⟩

/-- A number from bytes, the most significant first. -/
def beNat (bs : List Byte) : Nat := leNat bs.reverse
/-- The bytes of a word, the most significant first. -/
def be64 (x : Nat) : List Byte := (natLE 8 x).reverse

/-- `n` blocks of 128 bytes. -/
def Sha.blocks : Nat → List Byte → Sha → Sha
  | 0, _, s => s
  | n + 1, bs, s =>
    let w := (List.range 16).map (fun i => beNat ((bs.drop (8 * i)).take 8))
    Sha.blocks n (bs.drop 128) (s.plus (Sha.rounds shaK w s))

/-- A message padded to whole blocks: a 1 bit, zeros, and its length in bits. -/
def shaPad (m : List Byte) : List Byte :=
  m ++ 0x80 :: List.replicate ((239 - m.length % 128) % 128) 0 ++ be64 (m.length / 2 ^ 61) ++ be64 (8 * m.length % 2 ^ 64)

/-- The 48 bytes of the SHA-384 digest of a byte string. -/
def sha384 (m : List Byte) : List Byte :=
  let s := Sha.blocks ((m.length + 144) / 128) (shaPad m) Sha.init
  be64 s.a ++ be64 s.b ++ be64 s.c ++ be64 s.d ++ be64 s.e ++ be64 s.f

/-- A digest as the number whose bytes, in memory order, are those of the digest. -/
def digest (m : List Byte) : Nat := leNat (sha384 m)

end Sys2Proof.Machine
end

