-- ==== Sys2Proof/Machine/Commands.lean ====
section
/-! DEFINITION. Commands: taking them in rounds, snapshots, replies; QUERY, SIGNAL and the reductions of peers (17 R361 to R364, R371, R374,
R375). -/

namespace Sys2Proof.Machine

def NO_CAPACITY : Nat := 0x12C

/-! ## Entries (17 Tables 17-2 and 17-3) -/

/-- The fields of an entry that only some commands use. -/
inductive CFld where
  | res | force | scope | time | a0 | a1 | buf
deriving DecidableEq, Repr

/-- The fields that a command uses, none where its OPC or SUB is not assigned. -/
def cmdUses : Nat → Nat → Option (List CFld)
  | 1, 0 => some [.res, .buf]
  | 2, 0 => some [.res, .force]
  | 3, 0 => some [.res, .time, .buf]
  | 4, 0 => some [.res, .buf]
  | 4, 1 => some [.buf]
  | 4, 2 => some [.buf]
  | 5, 0 => some [.a0, .a1]
  | 5, 1 => some [.res]
  | 5, 2 => some [.res, .time, .buf]
  | 5, 3 => some [.a0, .buf]
  | 6, 0 => some [.scope, .time, .a0, .a1]
  | 6, 1 => some [.a0, .a1, .buf]
  | _, _ => none

/-- Whether ILEN is a value that a command with an indirect buffer requires. -/
def cmdLen (opc sub n : Nat) : Bool := match opc, sub with
  | 3, _ => n == 296
  | 4, 1 => n % 32 == 0 && decide (1 ≤ n / 32) && decide (n / 32 ≤ 4096)
  | 5, 2 => n == 296
  | 5, 3 => n == 32
  | 6, _ => n % 4 == 0 && decide (20 ≤ n) && decide (n ≤ 272)
  | _, _ => decide (0 < n)

def Cmd.opc (c : Cmd) : Nat := bits c.w[0] 56 8
def Cmd.sub (c : Cmd) : Nat := bits c.w[0] 48 8
def Cmd.res (c : Cmd) : Nat := bits c.w[0] 40 8
def Cmd.tag (c : Cmd) : BitVec 32 := (c.w[0]).setWidth 32

/-- Whether an entry is malformed (17 R361); the addresses of QUERY IDENT and QUERY ATTEST must be multiples of 64 (log 25). -/
def entryBad (w : Vector Word 8) : Bool :=
  let opc := bits w[0] 56 8
  let sub := bits w[0] 48 8
  match cmdUses opc sub with
  | none => true
  | some u =>
    (!u.contains CFld.res && bits w[0] 40 8 ≠ 0) || (!u.contains CFld.force && bit w[0] 39) || (!u.contains CFld.scope && bits w[0] 36 3 ≠ 0) ||
      bits w[0] 32 4 ≠ 0 || (!u.contains CFld.time && w[3] ≠ 0) || (!u.contains CFld.a0 && w[4] ≠ 0) || (!u.contains CFld.a1 && w[5] ≠ 0) ||
      bits w[6] 32 32 ≠ 0 || w[7] ≠ 0 ||
      (if u.contains CFld.buf then bits w[1] 1 5 ≠ 0 || !cmdLen opc sub (w[2]).toNat else w[1] ≠ 0 || w[2] ≠ 0 || w[6] ≠ 0) ||
      (opc == 5 && (sub == 0 || sub == 3) && bits w[4] 0 6 ≠ 0)

/-! ## Taking (17 R362, R363) -/

/-- Bytes of host memory. -/
def State.hostB (s : State) (a : Nat) : Nat → List Byte
  | 0 => []
  | n + 1 => mget 0 s.hostMem a :: s.hostB (a + 1) n

/-- The commands that are accepted and incomplete (17 R358). -/
def State.accepted (s : State) : Nat := s.invs.length + s.installs.length + s.notifies.length + s.reduces.length

/-- Whether as many commands are accepted and incomplete as firmware keeps: it takes no further one (17 R358). -/
def State.full (s : State) : Bool := decide (4096 ≤ s.accepted)

/-- Whether a queue has a command to examine: one that waits at its head, or, with the link up and fewer than 4,096 accepted, a submission of
an enabled pair (17 R358, R362). -/
def State.hasCommand (s : State) (q : Fin 16) : Bool :=
  let p := s.qps[q]
  (s.heads[q]).isSome || (s.lup && !s.full && p.en && p.sqh % 2 ^ p.sql ≠ p.sqt % 2 ^ p.sql)

/-- Whether the head of a queue waits for the package to leave BROWN: INVOKE commands are held there (16 R337). -/
def State.brownHolds (s : State) (q : Fin 16) : Bool := s.power == .brown && s.holdsInvoke q

/-- The queue whose turn it is: the next of the round, or the first of a new one. -/
def State.turn (s : State) : Option (Fin 16) :=
  let l := List.finRange 16
  (l.filter (fun q => decide (s.round ≤ q.val)) ++ l.filter (fun q => decide (q.val < s.round))).find? (fun q => s.hasCommand q && !s.brownHolds q)

/-- Whether admission has stopped, for a decode patch (02 R52) or because firmware keeps as many commands as it may (17 R358): a command that
would be accepted then waits at the head of its queue, and those that are done when they are examined go on (17 R362; log 96). -/
def State.admissionStopped (s : State) : Bool := s.full || s.installs.any (fun i => match i with
  | .patch _ _ _ _ => true
  | _ => false)

/-- Whether a command snapshots its buffer into staging memory of HBM4: LOAD and UPDATE IMAGE (17 R363). -/
def Cmd.staged (c : Cmd) : Bool := c.opc == 1 || (c.opc == 4 && c.sub == 0)

/-- The examination of the command of a queue has ended: it leaves the head. -/
def State.endExam (s : State) (q : Fin 16) : State :=
  { s.modQp q (fun p => { p with sqh := (p.sqh + 1) % 2 ^ p.sql }) with
    heads := vset s.heads q none, cur := none, unloads := s.unloads.filter (· ≠ q) }

/-- A command ends with a completion entry. -/
def State.reply (s : State) (c : Cmd) (kind cause : Nat) (ext v0 v1 : Word) : State :=
  (s.endExam c.q).complete (mkComp c.q c.tag kind cause 0 ext v0 v1)

/-- A refusal: nothing of the command takes effect (17 R366). -/
def State.refuse (s : State) (c : Cmd) (cause : Nat) : State := s.reply c 2 cause 0 0 0

/-- A refused command, as an outcome. -/
def State.refuseOut (s : State) (c : Cmd) (cause : Nat) : Out := .next (s.refuse c cause)

/-- A command done at once. -/
def State.doneOut (s : State) (c : Cmd) (v0 v1 : Word) : Out := .next (s.reply c 0 0 0 v0 v1)

/-- The examination waits: the command stays at the head of its queue. -/
def State.waitHead (s : State) : Out := .next { s with cur := none }

/-- The snapshot of an entry's indirect buffer. -/
def State.snapshot (s : State) (w : Vector Word 8) : Except XStop (List Byte) :=
  let n := (w[2]).toNat
  let a := bits w[1] 1 63 * 2
  if bit w[1] 0 then s.hubRead a n else .ok (s.hostB a n)

/-- The snapshot of a buffer in device memory uses the blocks that hold it. -/
def State.snapTouch (s : State) (w : Vector Word 8) : State :=
  if bit w[1] 0 then s.hubTouch (bits w[1] 1 63 * 2) (w[2]).toNat else s

/-- COMMAND_TAKE: the next command of the round; a malformed entry, staging memory that is short and a snapshot whose CRC differs end it. A
buffer that cannot be read refuses the command with the cause of the access (log 25). Commands are taken while others install (17 R362), and
an INVOKE taken in BROWN waits at the head of its queue (16 R337). A head that waits is examined again in every round, whether or not the link
is up or more commands may be taken (17 R362). -/
def execCommandTake (s : State) : Out :=
  match s.cur, s.turn with
  | some _, _ => .next s
  | none, none => .next s
  | none, some q =>
    let s := { s with round := q.val + 1 }
    match s.heads[q] with
    | some _ => .next { s with cur := some q }
    | none =>
      let p := s.qps[q]
      let bs := s.hostB (p.sqb.toNat + 64 * (p.sqh % 2 ^ p.sql)) 64
      let w := Vector.ofFn (fun (i : Fin 8) => word (leNat ((bs.drop (8 * i.val)).take 8)))
      let c : Cmd := { q := q, w := w, buf := [] }
      if entryBad w then .next (s.reply c 4 0 0 0 0)
      else if c.staged && !Config.stagingRoom s.free then .next (s.bump.refuse c NO_CAPACITY)
      else match s.snapshot w with
        | .error .stall => .next s
        | .error (.cause k) => .next (s.refuse c k)
        | .ok buf =>
          let s := s.snapTouch w
          if w[2] ≠ 0 && crc32c buf ≠ (w[6]).setWidth 32 then .next (s.reply c 3 0 0 0 0)
          else
            let t := { s with heads := vset s.heads q (some { c with buf := buf }) }
            .next { (if c.staged then t.bump else t) with cur := if t.brownHolds q then none else some q }

/-- Whether firmware is unloading residence `n` with FORCE: an UNLOAD of it waits at the head of a queue (13 R287). -/
def State.unloading (s : State) (n : Nat) : Bool := s.unloads.any (fun q => (s.heads[q]).any (fun c => c.res == n))

/-- Whether a command that names residence `n` waits for an UNLOAD of it in another queue, which was taken before it (13 R287; log 28). -/
def State.behindUnload (s : State) (c : Cmd) : Bool :=
  s.unloads.any (fun q => q ≠ c.q && (s.heads[q]).any (fun u => u.res == c.res))

/-- The command under examination, where it is of a kind. -/
def State.exam (s : State) (opc sub : Nat) : Option Cmd :=
  match s.cur.bind (fun q => s.heads[q]) with
  | some c => if c.opc = opc && c.sub = sub then some c else none
  | none => none

/-! ## QUERY (17 Table 17-3, R374, R375) -/

/-- Bits [63:16] of FVR (02 Table 2-13): GEN 9, STEP 1, PATCH. -/
def State.fvrHigh (s : State) : Nat := 9 * 2 ^ 32 + 1 * 2 ^ 24 + s.patchLevel.toNat

/-- `n` bytes of a function of their places. -/
def bytesBy (n : Nat) (f : Nat → Byte) : List Byte := (List.range n).map f

/-- The identity certificate (17 Table 17-8). -/
def certificate : List Byte :=
  natLE 8 0x5452_4543_4C4E ++ natLE 8 Config.idn.toNat ++ natLE 8 (9 * 2 ^ 8 + 1) ++ bytesBy 1984 Config.identityKey ++
    (Config.provisioner :: natLE 7 0) ++ bytesBy 3373 Config.certificateSignature

/-- QUERY_IDENT. -/
def execQueryIdent (s : State) : Out :=
  match s.exam 5 0 with
  | none => .next s
  | some c =>
    let a := (c.w[4]).toNat
    let s := if a ≠ 0 && decide (5389 ≤ (c.w[5]).toNat) then { s with hostMem := memPut s.hostMem a certificate } else s
    .next (s.reply c 0 0 5389 Config.idn (word s.fvrHigh))

/-- Live and saved contexts of a residence. -/
def State.contextsOf (s : State) (n : Nat) : Nat :=
  (s.squares.toList.map (fun x => ((List.finRange 8).filter (fun c => x.ctxs[tileCx c].st ≠ .free && x.ctxs[tileCx c].res == n)).length)).sum +
    (s.saved.filter (fun y => y.res == n)).length

/-- QUERY_RESIDENCE. -/
def execQueryResidence (s : State) : Out :=
  match s.exam 5 1 with
  | none => .next s
  | some c => s.doneOut c (word ((if (s.residence c.res).isSome then 1 else 0) + s.contextsOf c.res % 65536 * 2 ^ 32)) 0

/-- The digest of the patch in force: that of the slot in use, 0 where no patch is in force (17 Table 17-7, R372; log 8). -/
def State.patchDigest (s : State) : Nat :=
  let b := s.patchStore[if s.patchSlot then (1 : Fin 2) else 0]
  if s.patchLevel = 0 || b.isEmpty then 0 else digest b

/-- The first 208 bytes of an attestation report (17 Table 17-7). -/
def State.reportHead (s : State) (nonce : List Byte) : List Byte :=
  let ids := s.residences.filterMap (fun e => e.2.map (fun r => (e.1, r.digest)))
  natLE 8 0x5453_5441_4C4E ++ natLE 8 Config.idn.toNat ++ natLE 8 s.fvrHigh ++ nonce ++ natLE 48 (digest Config.rom) ++
    natLE 48 s.patchDigest ++ natLE 48 (digest (Config.residenceList ids)) ++ natLE 8 s.now

/-- QUERY_ATTEST: the report, signed with the identity keys. -/
def execQueryAttest (s : State) : Out :=
  match s.exam 5 3 with
  | none => .next s
  | some c =>
    let h := s.reportHead c.buf
    let t := { s with hostMem := memPut s.hostMem (c.w[4]).toNat (h ++ bytesBy 3373 (Config.sign h)) }
    t.doneOut c 0 0

/-! ## SIGNAL NOTIFY (17 Table 17-3) -/

/-- The place of a doubleword that firmware swaps: a natural alignment, a translation, no plain-shared region, no error (05 R125, 12 R283;
log 25). -/
def State.swapPlace (s : State) (a : Nat) : Except XStop Nat :=
  if a % 8 ≠ 0 then .error (.cause MISALIGNED)
  else match s.hubXl a with
    | .error e => .error e
    | .ok p =>
      if s.inPlain 0 a then .error (.cause PLAIN_PATH)
      else if s.isBad p 8 then .error (.cause DATA_UNCORRECTABLE)
      else .ok p

/-- SIGNAL_NOTIFY: the swap is registered. -/
def execSignalNotify (s : State) : Out :=
  match s.exam 6 0 with
  | none => .next s
  | some c =>
    if s.admissionStopped then s.waitHead
    else match s.swapPlace (c.w[4]).toNat with
    | .error .stall => s.waitHead
    | .error (.cause k) => s.refuseOut c k
    | .ok _ =>
      let n : Notify := { q := c.q, tag := c.tag, scope := Fin.ofNat 8 (bits c.w[0] 36 3), time := c.w[3], addr := c.w[4], value := c.w[5] }
      .next { s.endExam c.q with notifies := s.notifies ++ [n] }

/-- NOTIFY_FIRE: local(SCOPE) has passed TIME: the swap, which fires watches, and DONE. A word that no longer translates leaves the
command REFUSED with the cause, for nothing of it has taken effect (17 R366; log 25). -/
def execNotifyFire (i : Nat) (s : State) : Out :=
  match s.notifies[i]? with
  | none => .next s
  | some n =>
    if !decide (n.time < s.localF[n.scope]) then .next s
    else
      let t := { s with notifies := s.notifies.eraseIdx i }
      match s.swapPlace n.addr.toNat with
      | .error .stall => .next s
      | .error (.cause k) => .next (t.complete (mkComp n.q n.tag 2 k 0 0 0 0))
      | .ok p => .next ((t.writeHome p (natLE 8 n.value.toNat)).complete (mkComp n.q n.tag 0 0 0 0 0 0))

/-! ## SIGNAL REDUCE (17 R371) -/

/-- The 32-bit words of bytes, as lanes. -/
def lanesOf (bs : List Byte) : List Lane := (words32 bs).map (BitVec.ofNat 32)

/-- Whether a contribution's header is well formed, for `n` bytes of contribution (17 Table 17-5). -/
def headOk (h h1 : Word) (n : Nat) : Bool :=
  decide (bits h 56 8 ≤ 1) && decide (2 ≤ bits h 48 8) && decide (bits h 48 8 ≤ 8) && bits h 0 48 == 0 && bits h1 0 32 == 0 &&
    n == 16 + 4 * bits h1 32 32

/-- SIGNAL_REDUCE: this module's contribution is posted; a malformed header is BAD_COMMAND (log 25). -/
def execSignalReduce (s : State) : Out :=
  match s.exam 6 1 with
  | none => .next s
  | some c =>
    let h := word (leNat (c.buf.take 8))
    let h1 := word (leNat ((c.buf.drop 8).take 8))
    if s.admissionStopped then s.waitHead
    else if !headOk h h1 c.buf.length then .next (s.reply c 4 0 0 0 0)
    else
      let r : Reduce := { q := c.q, tag := c.tag, num := c.w[5], head := h, head1 := h1, elems := lanesOf (c.buf.drop 16), addr := c.w[4] }
      .next { s.endExam c.q with reduces := s.reduces ++ [r] }

/-- One addition of a reduction: saturating INT32, or FP32 rounded to nearest even. -/
def reduceAdd (fp : Bool) (a b : Lane) : Lane :=
  if fp then BitVec.ofNat 32 (fp32.add 0 a.toNat b.toNat).1 else BitVec.ofInt 32 (clampS (a.toInt + b.toInt) 32)

/-- The result of contributions in ascending module number. -/
def reduceAll (fp : Bool) : List (List Lane) → List Lane
  | [] => []
  | x :: t => t.foldl (fun r y => List.zipWith (reduceAdd fp) r y) x

/-- REDUCE_COMBINE: with the contributions of the other members, by their module numbers, headers and elements, the result is formed and
written at A0; headers that disagree are BAD_COMMAND. -/
def execReduceCombine (i : Nat) (others : List (Fin 8 × Word × Word × List Lane)) (s : State) : Out :=
  match s.reduces[i]? with
  | none => .next s
  | some r =>
    let t := { s with reduces := s.reduces.eraseIdx i }
    let mods : List (Fin 8) := others.map (fun o => o.1)
    if others.isEmpty || !decide mods.Nodup || !mods.all (fun m => s.peers.contains m) then .next s
    else if others.any (fun o => o.2.1 ≠ r.head || o.2.2.1 ≠ r.head1) then .next (t.complete (mkComp r.q r.tag 4 0 0 0 0 0))
    else if others.length + 1 ≠ bits r.head 48 8 || others.any (fun o => o.2.2.2.length ≠ r.elems.length) then .next s
    else
      let all := (List.finRange 8).filterMap (fun m =>
        if m.val = s.modn.toNat then some r.elems else (others.find? (fun o => o.1 == m)).map (fun o => o.2.2.2))
      let bs := (reduceAll (bits r.head 56 8 == 1) all).flatMap (fun x => natLE 4 x.toNat)
      match t.hubWrite r.addr.toNat bs with
      | .error .stall => .next s
      | .error (.cause k) => .next (t.complete (mkComp r.q r.tag 2 k 0 0 0 0))
      | .ok u => .next (u.complete (mkComp r.q r.tag 0 0 0 0 0 0))

end Sys2Proof.Machine
end

