-- ==== Sys2Proof/Machine/Integer.lean ====
section
/-! DEFINITION. Integer, predicate and selection instructions (05 R107 to R112). -/

namespace Sys2Proof.Machine

/-! ## Values (05 Table 5-9) -/

/-- Signed quotient truncated toward zero, with the cases of 05 R108. -/
def divS (a b : Word) : Word := if b = 0 then BitVec.allOnes 64 else a.sdiv b
/-- Unsigned quotient (05 R108). -/
def divU (a b : Word) : Word := if b = 0 then BitVec.allOnes 64 else a / b
/-- Signed remainder, with the sign of the dividend (05 R108). -/
def remS (a b : Word) : Word := if b = 0 then a else a.srem b
/-- Unsigned remainder (05 R108). -/
def remU (a b : Word) : Word := if b = 0 then a else a % b
/-- The high half of the signed product. -/
def mulH (a b : Word) : Word := intWord (a.toInt * b.toInt / 2 ^ 64)
/-- The high half of the unsigned product. -/
def mulHU (a b : Word) : Word := word (a.toNat * b.toNat / 2 ^ 64)
/-- Signed sum saturated to 64 bits. -/
def addSat (a b : Word) : Word := intWord (clampS (a.toInt + b.toInt) 64)
/-- Signed minimum. -/
def minS (a b : Word) : Word := if sLt b a then b else a
/-- Signed maximum. -/
def maxS (a b : Word) : Word := if sLt a b then b else a
/-- Unsigned minimum. -/
def minU (a b : Word) : Word := if uLt b a then b else a
/-- Unsigned maximum. -/
def maxU (a b : Word) : Word := if uLt a b then b else a
/-- The low `n` bits sign-extended. -/
def sextLow (a : Word) (n : Nat) : Word := intWord (sextN a.toNat n)
/-- A word with halfword `k` replaced (05 Table 5-10). -/
def putHalf (a : Word) (k : Fin 4) (i : BitVec 16) : Word :=
  (a &&& ~~~((0xFFFF : Word) <<< (16 * k.val))) ||| (i.setWidth 64 <<< (16 * k.val))

/-! ## Shapes -/

/-- s[d] takes a function of s[a] and s[b], and the instruction retires. -/
def State.rrr (s : State) (d a b : Reg) (f : Word → Word → Word) : Out := (s.wS d (f (s.rs a) (s.rs b))).done
/-- s[d] takes a function of s[a]. -/
def State.rr (s : State) (d a : Reg) (f : Word → Word) : Out := (s.wS d (f (s.rs a))).done
/-- p[p] takes a comparison of s[a] and s[b]. -/
def State.prr (s : State) (p : Pr) (a b : Reg) (f : Word → Word → Bool) : Out := (s.wP p (f (s.rs a) (s.rs b))).done
/-- p[d] takes a function of p[a] and p[b]. -/
def State.ppp (s : State) (d a b : Pr) (f : Bool → Bool → Bool) : Out := (s.wP d (f (s.rp a) (s.rp b))).done

/-- ADD (05 Table 5-9). -/
def execAdd (d a b : Reg) (s : State) : Out := s.rrr d a b (· + ·)

/-- SUB (05 Table 5-9). -/
def execSub (d a b : Reg) (s : State) : Out := s.rrr d a b (· - ·)

/-- AND (05 Table 5-9). -/
def execAnd (d a b : Reg) (s : State) : Out := s.rrr d a b (· &&& ·)

/-- OR (05 Table 5-9). -/
def execOr (d a b : Reg) (s : State) : Out := s.rrr d a b (· ||| ·)

/-- XOR (05 Table 5-9). -/
def execXor (d a b : Reg) (s : State) : Out := s.rrr d a b (· ^^^ ·)

/-- ANDN (05 Table 5-9). -/
def execAndn (d a b : Reg) (s : State) : Out := s.rrr d a b (fun x y => x &&& ~~~y)

/-- SHL (05 Table 5-9). -/
def execShl (d a b : Reg) (s : State) : Out := s.rrr d a b (fun x y => x <<< (bits y 0 6))

/-- SHR (05 Table 5-9). -/
def execShr (d a b : Reg) (s : State) : Out := s.rrr d a b (fun x y => x >>> (bits y 0 6))

/-- SRA (05 Table 5-9). -/
def execSra (d a b : Reg) (s : State) : Out := s.rrr d a b (fun x y => x.sshiftRight (bits y 0 6))

/-- ROR (05 Table 5-9). -/
def execRor (d a b : Reg) (s : State) : Out := s.rrr d a b (fun x y => x.rotateRight (bits y 0 6))

/-- MUL (05 Table 5-9). -/
def execMul (d a b : Reg) (s : State) : Out := s.rrr d a b (· * ·)

/-- MULH (05 Table 5-9). -/
def execMulh (d a b : Reg) (s : State) : Out := s.rrr d a b mulH

/-- MULHU (05 Table 5-9). -/
def execMulhu (d a b : Reg) (s : State) : Out := s.rrr d a b mulHU

/-- DIV (05 Table 5-9). -/
def execDiv (d a b : Reg) (s : State) : Out := s.rrr d a b divS

/-- DIVU (05 Table 5-9). -/
def execDivu (d a b : Reg) (s : State) : Out := s.rrr d a b divU

/-- REM (05 Table 5-9). -/
def execRem (d a b : Reg) (s : State) : Out := s.rrr d a b remS

/-- REMU (05 Table 5-9). -/
def execRemu (d a b : Reg) (s : State) : Out := s.rrr d a b remU

/-- MIN (05 Table 5-9). -/
def execMin (d a b : Reg) (s : State) : Out := s.rrr d a b minS

/-- MAX (05 Table 5-9). -/
def execMax (d a b : Reg) (s : State) : Out := s.rrr d a b maxS

/-- MINU (05 Table 5-9). -/
def execMinu (d a b : Reg) (s : State) : Out := s.rrr d a b minU

/-- MAXU (05 Table 5-9). -/
def execMaxu (d a b : Reg) (s : State) : Out := s.rrr d a b maxU

/-- SLT (05 Table 5-9). -/
def execSlt (d a b : Reg) (s : State) : Out := s.rrr d a b (fun x y => bword (sLt x y))

/-- SLTU (05 Table 5-9). -/
def execSltu (d a b : Reg) (s : State) : Out := s.rrr d a b (fun x y => bword (uLt x y))

/-- ADDS (05 Table 5-9). -/
def execAdds (d a b : Reg) (s : State) : Out := s.rrr d a b addSat

/-- SHLI (05 Table 5-9). -/
def execShli (d a : Reg) (h : Fin 64) (s : State) : Out := s.rr d a (fun x => x <<< h.val)

/-- SHRI (05 Table 5-9). -/
def execShri (d a : Reg) (h : Fin 64) (s : State) : Out := s.rr d a (fun x => x >>> h.val)

/-- SRAI (05 Table 5-9). -/
def execSrai (d a : Reg) (h : Fin 64) (s : State) : Out := s.rr d a (fun x => x.sshiftRight h.val)

/-- RORI (05 Table 5-9). -/
def execRori (d a : Reg) (h : Fin 64) (s : State) : Out := s.rr d a (fun x => x.rotateRight h.val)

/-- SEXT: the field holds n - 1 (05 Table 5-9). -/
def execSext (d a : Reg) (n : Fin 64) (s : State) : Out := s.rr d a (fun x => sextLow x (n.val + 1))

/-- CLZ (05 Table 5-9). -/
def execClz (d a : Reg) (s : State) : Out := s.rr d a (fun x => word (clz 64 x.toNat))

/-- POPC (05 Table 5-9). -/
def execPopc (d a : Reg) (s : State) : Out := s.rr d a (fun x => word (popc 64 x.toNat))

/-- ADDI (05 Table 5-10). -/
def execAddi (d a : Reg) (i : BitVec 16) (s : State) : Out := s.rr d a (fun x => x + simm i)

/-- ANDI (05 Table 5-10). -/
def execAndi (d a : Reg) (i : BitVec 16) (s : State) : Out := s.rr d a (fun x => x &&& zimm i)

/-- ORI (05 Table 5-10). -/
def execOri (d a : Reg) (i : BitVec 16) (s : State) : Out := s.rr d a (fun x => x ||| zimm i)

/-- XORI (05 Table 5-10). -/
def execXori (d a : Reg) (i : BitVec 16) (s : State) : Out := s.rr d a (fun x => x ^^^ zimm i)

/-- SLTI (05 Table 5-10). -/
def execSlti (d a : Reg) (i : BitVec 16) (s : State) : Out := s.rr d a (fun x => bword (sLt x (simm i)))

/-- MOVI (05 Table 5-10). -/
def execMovi (d : Reg) (i : BitVec 16) (s : State) : Out := (s.wS d (simm i)).done

/-- MOVHI reads s[d] and keeps its other bits (05 Table 5-10). -/
def execMovhi (d : Reg) (k : Fin 4) (i : BitVec 16) (s : State) : Out := s.rr d d (fun x => putHalf x k i)

/-- CMP.EQ (05 Table 5-11). -/
def execCmpEq (p : Pr) (a b : Reg) (s : State) : Out := s.prr p a b (fun x y => x == y)

/-- CMP.NE (05 Table 5-11). -/
def execCmpNe (p : Pr) (a b : Reg) (s : State) : Out := s.prr p a b (fun x y => x != y)

/-- CMP.LT (05 Table 5-11). -/
def execCmpLt (p : Pr) (a b : Reg) (s : State) : Out := s.prr p a b sLt

/-- CMP.LE (05 Table 5-11). -/
def execCmpLe (p : Pr) (a b : Reg) (s : State) : Out := s.prr p a b sLe

/-- CMP.LTU (05 Table 5-11). -/
def execCmpLtu (p : Pr) (a b : Reg) (s : State) : Out := s.prr p a b uLt

/-- CMP.LEU (05 Table 5-11). -/
def execCmpLeu (p : Pr) (a b : Reg) (s : State) : Out := s.prr p a b uLe

/-- PAND (05 Table 5-11). -/
def execPand (d a b : Pr) (s : State) : Out := s.ppp d a b (· && ·)

/-- POR (05 Table 5-11). -/
def execPor (d a b : Pr) (s : State) : Out := s.ppp d a b (· || ·)

/-- PXOR (05 Table 5-11). -/
def execPxor (d a b : Pr) (s : State) : Out := s.ppp d a b Bool.xor

/-- PANDN (05 Table 5-11). -/
def execPandn (d a b : Pr) (s : State) : Out := s.ppp d a b (fun x y => x && !y)

/-- PMOV (05 Table 5-11). -/
def execPmov (d a : Pr) (s : State) : Out := (s.wP d (s.rp a)).done

/-- PTOS (05 Table 5-11). -/
def execPtos (d : Reg) (a : Pr) (s : State) : Out := (s.wS d (bword (s.rp a))).done

/-- CMPI.EQ (05 R111). -/
def execCmpiEq (p : Pr) (a : Reg) (i : BitVec 16) (s : State) : Out := (s.wP p (s.rs a == simm i)).done

/-- CMPI.LT (05 R111). -/
def execCmpiLt (p : Pr) (a : Reg) (i : BitVec 16) (s : State) : Out := (s.wP p (sLt (s.rs a) (simm i))).done

/-- CMPI.LTU (05 R111). -/
def execCmpiLtu (p : Pr) (a : Reg) (i : BitVec 16) (s : State) : Out := (s.wP p (uLt (s.rs a) (simm i))).done

/-- SEL (05 R112). -/
def execSel (d a b : Reg) (p : Pr) (s : State) : Out := s.rrr d a b (fun x y => if s.rp p then x else y)

end Sys2Proof.Machine
end

