-- ==== Sys2Proof/Machine/Image.lean ====
section
/-! DEFINITION. NGO images: parsing and checking them, relocation, and the placement that firmware chooses (03 R66 to R71; 11 R255; 12
R273; 13 R288). -/

namespace Sys2Proof.Machine

def BAD_IMAGE_SIG : Nat := 0x128
def BAD_IMAGE : Nat := 0x129
def RELOC_RANGE : Nat := 0x12A

/-! ## The file (03 Table 3-5, R68 to R70) -/

/-- The little-endian value of `n` bytes at an offset; bytes beyond the end read 0. -/
def le (b : List Byte) (o n : Nat) : Nat := leNat ((b.drop o).take n)

/-- A section of an image: kind 0 to 5, log2 alignment, whether it goes to the weight store, size, contents. -/
structure ISec where
  kind : Nat
  align : Nat
  mram : Bool
  size : Nat
  bytes : List Byte
deriving DecidableEq, Repr

/-- A symbol of an image. -/
structure ISym where
  sec : Nat
  value : Nat
  size : Nat
deriving DecidableEq, Repr

/-- A relocation record. -/
structure IRel where
  off : Nat
  sec : Nat
  kind : Nat
  sym : Nat
  add : Int
deriving DecidableEq, Repr

/-- An image. -/
structure Image0 where
  secs : List ISec
  syms : List ISym
  rels : List IRel
deriving DecidableEq, Repr

/-- Bytes of the field of a relocation kind. -/
def relWidth (k : Nat) : Nat := if k = 1 then 8 else if k = 11 then 3 else if k = 12 then 2 else 4

/-- Whether both signatures of an image verify against one slot of the key store (03 R70, 17 R373). -/
def State.imageSigned (s : State) (b : List Byte) : Bool :=
  let o := le b 48 8
  let msg := b.take o ++ b.drop (o + 3373)
  decide (o + 3373 ≤ b.length) && s.keySlots.toList.any (fun k => match k with
    | some k => Config.signatureOk false k msg ((b.drop o).take 64) && Config.signatureOk true k msg ((b.drop (o + 64)).take 3309)
    | none => false)

/-- The tables of a file, none where the header or a table breaks 03 R66 to R69. The model's own choices (log 85): two sections of one kind, a
.bss section for the weight store, a symbol whose value and size pass the end of its section, a relocation record into a .bss section, and a
relocation against a symbol of a reserved section 0xFFF0 to 0xFFF2 are refused, and a relocation against an absolute symbol is accepted. -/
def parseImage (b : List Byte) : Option Image0 :=
  let nsec := le b 10 2
  let nsym := le b 12 4
  let nrel := le b 16 4
  let strsz := le b 20 4
  let secO := fun (i : Nat) => le b 24 8 + 32 * i
  let symO := fun (i : Nat) => le b 32 8 + 24 * i
  let relO := fun (i : Nat) => le b 40 8 + 24 * i
  let inFile := fun (o n : Nat) => decide (o + n ≤ b.length)
  if !(inFile 0 64 && le b 0 4 == 0x4F474E && le b 4 2 == 1 && le b 6 2 == 1 && decide (le b 8 2 ≤ 9) && decide (nsec ≤ 6) &&
      inFile (secO 0) (32 * nsec) && inFile (symO 0) (24 * nsym) && inFile (relO 0) (24 * nrel) && inFile (le b 56 8) strsz) then none
  else
    let secs := (List.range nsec).map (fun i =>
      let o := secO i
      let size := le b (o + 8) 8
      ({ kind := le b (o + 4) 2, align := le b (o + 6) 1, mram := le b (o + 7) 1 == 1, size := size,
         bytes := if le b (o + 4) 2 = 4 then [] else (b.drop (le b (o + 16) 8)).take size } : ISec))
    let secOk := (List.range nsec).all (fun i =>
      let o := secO i
      let kind := le b (o + 4) 2
      decide (le b o 4 < strsz) && decide (kind ≤ 5) && decide (le b (o + 6) 1 ≤ 16) && decide (le b (o + 7) 1 ≤ 1) && le b (o + 24) 8 == 0 &&
        (if kind = 4 then le b (o + 16) 8 == 0 && le b (o + 7) 1 == 0 else inFile (le b (o + 16) 8) (le b (o + 8) 8)))
    let kinds := secs.map (fun x => x.kind)
    let sizeOf := fun (i : Nat) => ((secs[i]?).map (fun x => x.size)).getD 0
    let syms := (List.range nsym).map (fun i =>
      ({ sec := le b (symO i + 4) 2, value := le b (symO i + 8) 8, size := le b (symO i + 16) 8 } : ISym))
    let symOk := (List.range nsym).all (fun i =>
      let o := symO i
      let sec := le b (o + 4) 2
      decide (le b o 4 < strsz) && decide (le b (o + 6) 1 ≤ 1) && le b (o + 7) 1 == 0 &&
        (if sec < nsec then decide (le b (o + 8) 8 + le b (o + 16) 8 ≤ sizeOf sec) else sec == 0xFFFF || (decide (0xFFF0 ≤ sec) && decide (sec ≤ 0xFFF2))))
    let rels := (List.range nrel).map (fun i =>
      ({ off := le b (relO i) 8, sec := le b (relO i + 8) 2, kind := le b (relO i + 10) 2, sym := le b (relO i + 12) 4,
         add := sextN (le b (relO i + 16) 8) 64 } : IRel))
    let relOk := rels.all (fun r =>
      decide (r.sec < nsec) && ((secs[r.sec]?).map (fun x => x.kind)).getD 4 ≠ 4 && decide (1 ≤ r.kind) && decide (r.kind ≤ 12) &&
        decide (r.off + relWidth r.kind ≤ sizeOf r.sec) && (match syms[r.sym]? with
          | some y => decide (y.sec < nsec) || y.sec == 0xFFFF
          | none => false))
    if secOk && decide kinds.Nodup && symOk && relOk then some { secs := secs, syms := syms, rels := rels } else none

/-- The section of a kind, with its place. -/
def Image0.sec (m : Image0) (k : Nat) : Option ISec := m.secs.find? (fun x => x.kind == k)
/-- The records of a reserved section. -/
def Image0.records (m : Image0) (n : Nat) : List ISym := m.syms.filter (fun y => y.sec == n)

/-! ## .sched (13 Table 13-1, 11 R255) -/

/-- The word of .sched at an offset. -/
def schedWord (b : List Byte) (o : Nat) : Word := word (le b o 8)

/-- An edge record: scope, number, edge; none where it breaks 11 R253 or R255. -/
def edgeRecord (b : List Byte) (o : Nat) : Option (Nat × Edge) :=
  let modes := le b (o + 2) 1
  let mode := fun (i : Nat) => fld modes (2 * i) 2
  let k := fun (i : Nat) => le b (o + 4 + 2 * i) 2
  if decide (le b o 1 ≤ 7) && decide (le b (o + 1) 1 ≤ 15) && le b (o + 3) 1 == 0 && le b (o + 12) 4 == 0 &&
      (List.range 4).all (fun i => mode i ≠ 3 && (mode i == 1 || k i == 0)) && mode 3 ≠ 2 then
    some (le b o 1 * 16 + le b (o + 1) 1, { modes := modes, k := Vector.ofFn (fun (i : Fin 4) => k i.val), users := 1 })
  else none

/-- The edge records of a schedule section. -/
def edgeRecords (b : List Byte) : List (Option (Nat × Edge)) :=
  (List.range (bits (schedWord b 0) 32 16)).map (fun i => edgeRecord b (16 + 128 * bits (schedWord b 0) 48 16 + 16 * i))

/-- The path-summary edges of a schedule section, each once. -/
def edgesOf (b : List Byte) : List (Nat × Edge) := ((edgeRecords b).filterMap id).dedup

/-- The words of template `t`. -/
def templateWords (b : List Byte) (t : Nat) : LWords :=
  let w := fun (k : Nat) => schedWord b (16 + 64 * t + 8 * k)
  { w0 := w 0, tbase := w 1, tend := w 2, w3 := w 3, lv := Vector.ofFn (fun (l : Fin 4) => w (4 + l.val)) }

/-- Whether the header keeps the limits of Table 13-1, every edge record is sound, and every template without a VAR level that is STATIC
has a sound table (13 R294). -/
def schedOk (b : List Byte) : Bool :=
  let h := schedWord b 0
  let nl := bits h 48 16
  let ne := bits h 32 16
  let run := (schedWord b 8).toNat
  let r : Residence := { num := 0, entry := 0, psafe := false, formats := [], sched := b, secs := [], ranges := [], edges := [], digest := 0 }
  decide (1 ≤ nl) && decide (nl ≤ 16) && decide (ne ≤ 128) && decide (1 ≤ run) && decide (run ≤ 1000000000) &&
    decide (16 + 128 * nl + 16 * ne ≤ b.length) && (edgeRecords b).all Option.isSome &&
    (List.range nl).all (fun t =>
      let w := templateWords b t
      w.mode ≠ 1 || (List.finRange 4).any w.isVar || w.tableOk (some r) (rectW w.rect * rectH w.rect))

/-! ## Records of reserved sections (03 R69); how operands are packed is log 26 -/

/-- A .format record: core, bank, encoding. -/
def formatOf (y : ISym) : Option (Nat × Nat × Nat) :=
  let vc := fld y.value 0 8
  let bank := fld y.value 8 8
  let enc := fld y.value 16 8
  if decide (vc ≤ 3) && decide (bank ≤ 15) && (decide (enc ≤ 8) || enc == 12 || enc == 13) && y.value / 2 ^ 24 == 0 && y.size == 0 then some (vc, bank, enc)
  else none

/-- The two leading bits of a field that a relocation fills: its addend carries them with a constant part of either sign (03 R69). -/
def addendTop (a : Int) : Nat := ((a + 2 ^ 61) / 2 ^ 62 % 4).toNat

/-- The limits of a region descriptor but for its address fields where a relocation, given by its offset and addend, fills them (03 Table
3-4, R69): the START of an sq region is absolute, and a relocated SYNC names a lock word in space 0. 03 R69 calls every other field absolute,
and does not say what the loader does with a relocation into one, or into START or SYNC by another kind than ABS64: the model accepts it where
the relocated descriptor is well formed. An absolute SYNC, in space 0 or 1, whose lock address is no multiple of 8 is refused here, at step 2
(log 85). -/
def descOk0 (b : List Byte) (rels : List (Nat × Int)) (o : Nat) : Bool :=
  let w0 := le b o 8
  let w1 := le b (o + 8) 8
  let sy := le b (o + 16) 8
  let w3 := le b (o + 24) 8
  let start := rels.find? (fun r => r.1 == o)
  let sync := rels.find? (fun r => r.1 == o + 16)
  let sp := (start.map (fun r => addendTop r.2)).getD (fld w0 62 2)
  let kind := (sync.map (fun r => addendTop r.2)).getD (fld sy 62 2)
  let len := fld w1 0 48
  let cls := fld w3 0 4 * 64
  let pool := fld w3 32 32
  (match start with
    | some _ => sp == 0
    | none => decide (sp ≤ 1) && fld w0 48 14 == 0 && fld w0 0 48 % 512 == 0 && decide (fld w0 0 48 + len ≤ (if sp = 0 then 2 ^ 48 else storeEnd))) &&
    w1 / 2 ^ 48 == 0 && len % 512 == 0 && len ≠ 0 && fld w3 9 23 == 0 && fld w3 4 4 == 0 && decide (128 ≤ cls) && decide (cls ≤ 512) &&
    pool % 512 == 0 && (if sp = 0 then cls == 512 && pool == 0 else decide (len / 512 * cls + pool ≤ len)) && (!w3.testBit 8 || kind == 3) &&
    (match sync with
      | some _ => kind == 1
      | none => (match kind with
        | 0 => sy == 0
        | 1 => fld sy 48 14 == 0 && sy % 8 == 0
        | 2 => fld sy 23 39 == 0 && sy % 8 == 0 && decide (fld sy 0 23 ≤ 0x7DBFF8)
        | _ => fld sy 3 59 == 0))

/-- The checks of step 2 of 03 R71; `load` where the image must name an entry (17 R365). A .residence record holds the entry as a byte offset
within .text, a multiple of 4, in its value, and psafe in its size (log 26, log 85). -/
def Image0.ok (m : Image0) (load : Bool) : Bool :=
  let sched := ((m.sec 5).map (fun x => x.bytes)).getD []
  let si := m.secs.findIdx (fun x => x.kind == 5)
  let rels := (m.rels.filter (fun r => r.sec == si && r.kind == 1)).map (fun r => (r.off, r.add))
  let text := ((m.sec 0).map (fun x => x.size)).getD 0
  (if load then decide ((m.records 0xFFF2).length = 1) else (m.records 0xFFF2).isEmpty) &&
    (m.records 0xFFF2).all (fun y => decide (y.value < text) && y.value % 4 == 0 && decide (y.size ≤ 1)) &&
    (m.records 0xFFF1).all (fun y => (formatOf y).isSome) && decide ((m.records 0xFFF0).length ≤ 64) &&
    (m.records 0xFFF0).all (fun y => y.size == 32 && y.value % 32 == 0 && decide (y.value + 32 ≤ sched.length) && descOk0 sched rels y.value) &&
    (if load || (m.sec 5).isSome then schedOk sched else true)

/-! ## Relocation (03 R67) -/

/-- The access size of a memory word, for MEM14. A word that is no load, store or hint has the size 4 (log 85). -/
def memSize (w : Nat) : Nat := match decode (BitVec.ofNat 32 w) with
  | .ok (.ldB _ _ _ _) => 1
  | .ok (.ldH _ _ _ _) => 2
  | .ok (.ldD _ _ _ _) => 8
  | .ok (.stD _ _ _ _) => 8
  | _ => 4

/-- `x` with `n` bits from `lo` replaced. -/
def putBits (x lo n v : Nat) : Nat := x / 2 ^ (lo + n) * 2 ^ (lo + n) + v % 2 ^ n * 2 ^ lo + x % 2 ^ lo

/-- An integer modulo 2^64. -/
def wrap64 (v : Int) : Nat := (v % 2 ^ 64).toNat

/-- The field `old` after a relocation of value `v` = S + A at place `p`; `range` is the MRAM range number of its symbol. -/
def relocField (kind old : Nat) (v : Int) (p : Nat) (range : Option Nat) : Option Nat :=
  let within := fun (x lo hi : Int) => decide (lo ≤ x) && decide (x ≤ hi)
  match kind with
  | 1 => some (wrap64 v)
  | 2 => if within v 0 (2 ^ 32 - 1) then some (wrap64 v) else none
  | 3 => if within v (-32768) 32767 then some (putBits old 0 16 (wrap64 v)) else none
  | 4 => if within v 0 65535 then some (putBits old 0 16 (wrap64 v)) else none
  | 9 =>
    let d := v - (p : Int)
    if d % 4 = 0 && within (d / 4) (-(2 ^ 20)) (2 ^ 20 - 1) then some (putBits old 0 21 (wrap64 (d / 4))) else none
  | 10 =>
    let n : Int := memSize old
    if v % n = 0 && within (v / n) (-(2 ^ 13)) (2 ^ 13 - 1) then some (putBits old 0 14 (wrap64 (v / n))) else none
  | 11 => if within v (-2048) 2047 then some (putBits old 9 12 (wrap64 v)) else none
  | 12 => match range with
    | some n => if n ≤ 0xFFFF then some (putBits old 0 16 n) else none
    | none => none
  | k => some (putBits old 0 16 (fld (wrap64 v) (16 * (k - 5)) 16))

/-- The symbols of the MRAM ranges of an image: those of its weight-store sections, in table order (log 26). -/
def Image0.rangeSyms (m : Image0) : List Nat :=
  (List.range m.syms.length).filter (fun i => match m.syms[i]? with
    | some y => ((m.secs[y.sec]?).map (fun x => x.mram)).getD false
    | none => false)

/-- The section kind of the symbol of a range. -/
def Image0.rangeKind (m : Image0) (i : Nat) : Nat := (((m.syms[i]?).bind (fun y => m.secs[y.sec]?)).map (fun x => x.kind)).getD 0

/-- The number of one more range of a section of kind `k`, with `taken` given already: the numbers of the ranges that the section replaces come
first, in their order, so that relocated values stay valid (17 R365), and then the least that is free (log 26). -/
def nextRange (old : List MRange) (taken : List Nat) (k : Nat) : Nat :=
  match ((old.filter (fun g => g.kind == k)).map (fun g => g.num)).find? (fun n => !taken.contains n) with
  | some n => n
  | none => ((List.range (old.length + taken.length + 1)).find? (fun n => !taken.contains n && old.all (fun g => g.num ≠ n))).getD 0

/-- The numbers of the ranges of an image, in the order of its range symbols; `old` are the ranges of the residence that it updates. -/
def Image0.rangeNums (m : Image0) (old : List MRange) : List Nat :=
  m.rangeSyms.foldl (fun l i => l ++ [nextRange old l (m.rangeKind i)]) []

/-- The sections after one more relocation, with the sections at the addresses `vas` and the ranges numbered `nums`; none where the value fails
its check. -/
def Image0.relocateOne (m : Image0) (vas nums : List Nat) (secs : List ISec) (r : IRel) : Option (List ISec) :=
  match m.syms[r.sym]?, secs[r.sec]? with
  | some y, some x =>
    let base := if y.sec = 0xFFFF then 0 else vas.getD y.sec 0
    let v : Int := (base + y.value : Nat) + r.add
    let p := vas.getD r.sec 0 + r.off
    let num := (m.rangeSyms.findIdx? (· == r.sym)).bind (fun i => nums[i]?)
    match relocField r.kind (le x.bytes r.off (relWidth r.kind)) v p num with
    | some w => some (secs.set r.sec { x with bytes := x.bytes.take r.off ++ natLE (relWidth r.kind) w ++ x.bytes.drop (r.off + relWidth r.kind) })
    | none => none
  | _, _ => none

/-- The sections after every relocation in record order; none where a value fails its check. -/
def Image0.relocate (m : Image0) (vas nums : List Nat) : Option (List ISec) := m.rels.foldlM (m.relocateOne vas nums) m.secs

/-- The sections as the addresses place them, a relocation that fails its check passed over: what step 4 of 03 R71 sees of its regions. -/
def Image0.staged (m : Image0) (vas nums : List Nat) : List ISec := m.rels.foldl (fun secs r => (m.relocateOne vas nums secs r).getD secs) m.secs

/-! ## Placement: firmware's choice (13 R286, log 7) -/

/-- Pages of 64 KiB that a section takes. -/
def ISec.pages (x : ISec) : Nat := ceilDiv x.size 0x10000

/-- Pages of 64 KiB that the shadow of a section takes: .bss and weight-store sections have none (16 R339). -/
def ISec.shadowPages (x : ISec) : Nat := if x.kind = 4 || x.mram then 0 else x.pages

/-- The leaf rights of a section kind: X, W, R; those of a weight-store section are R alone (06 R142; log 7). -/
def secRights (kind : Nat) (mram : Bool) : Bool × Bool × Bool :=
  if mram then (false, false, true) else (kind == 0, kind == 3 || kind == 4, true)

/-- The mappings of sections at their addresses, page by page, on the frames given. -/
def secMaps (res : Nat) : List (ISec × Nat) → List Nat → List Mapping
  | [], _ => []
  | (x, va) :: t, frames =>
    let (rx, rw, rr) := secRights x.kind x.mram
    ((frames.take x.pages).zipIdx.map (fun (f : Nat × Nat) =>
      ({ va := va + 0x10000 * f.2, big := false, frame := f.1, own := res, x := rx, w := rw, r := rr, p := true, lost := false } : Mapping))) ++
      secMaps res t (frames.drop x.pages)

/-- Whether a frame suits a mapping: aligned, of the tier, the allocatable part of a weight store for MRAM (16 Table 16-4), and free. -/
def State.frameSuits (s : State) (f : Nat) (big : Bool) (t : Tier) : Bool :=
  let n := pageSize big
  f % n == 0 && tierOf f == t && tierOf (f + n - 1) == t && s.frameFree f n &&
    (t != Tier.mram || decide ((f - mramBase 0) % 0x8000000 + n ≤ 0x7300000))

/-- Bytes that pinned mappings take in a tier, those allotted among them. -/
def State.pinnedBytes (s : State) (t : Tier) : Nat :=
  (((s.maps ++ s.installs.flatMap Install.maps).filter (fun m => m.p && tierOf m.frame == t)).map (fun m => pageSize m.big)).sum

/-- Whether pinning `n` bytes more in a tier leaves the migration reserve of 1 GiB (14 R311). -/
def State.pinRoom (s : State) (t : Tier) (n : Nat) : Bool := match t with
  | .hbm => decide (s.pinnedBytes t + n + 2 ^ 30 ≤ 0x006000000000)
  | .lpddr => decide (s.pinnedBytes t + n + 2 ^ 30 ≤ 2 ^ 41)
  | _ => true

/-- Whether the sections fit where a placement puts them: addresses aligned and apart from each other and from every page but those of
`own`, frames distinct and suiting; the frames of shadows follow those of pages (16 R339). -/
def State.placementFits (s : State) (secs : List (ISec × Nat)) (frames : List Nat) (own : Mapping → Bool) : Bool :=
  let spans := secs.map (fun e => (e.2, e.2 + 0x10000 * e.1.pages))
  let others := (s.maps ++ s.installs.flatMap Install.maps).filter (fun m => !own m)
  let need := secs.flatMap (fun e => List.replicate e.1.pages e.1.mram) ++ secs.flatMap (fun e => List.replicate e.1.shadowPages true)
  secs.all (fun e => e.2 % 0x10000 == 0 && e.2 % 2 ^ e.1.align == 0) && spans.all (fun p => decide (p.2 ≤ 2 ^ 48)) &&
    decide (spans.Pairwise (fun a b => a.2 ≤ b.1 ∨ b.2 ≤ a.1)) &&
    others.all (fun m => spans.all (fun p => decide (p.2 ≤ m.va) || decide (m.va + pageSize m.big ≤ p.1))) &&
    frames.length == need.length && decide frames.Nodup &&
    (List.zip frames need).all (fun (p : Nat × Bool) =>
      if p.2 then s.frameSuits p.1 false Tier.mram else s.frameSuits p.1 false Tier.hbm || s.frameSuits p.1 false Tier.lpddr)

/-- The square of a physical address of MRAM. -/
def mramSquare (pa : Nat) : Sq := Fin.ofNat 160 ((pa - mramBase 0) / 0x8000000)

/-- The MRAM ranges on their frames with their numbers, none where one does not lie whole and contiguous in one weight store. -/
def placeRanges (m : Image0) (nums : List Nat) (secs : List (ISec × Nat)) (maps : List Mapping) : Option (List MRange) :=
  (List.zip m.rangeSyms nums).mapM (fun (e : Nat × Nat) =>
    match m.syms[e.1]? with
    | none => none
    | some y =>
      let va := ((secs[y.sec]?).map (fun x => x.2)).getD 0 + y.value
      let pa := fun (a : Nat) => (maps.find? (fun k => k.covers a)).map (fun k => k.frame + (a - k.va))
      match pa va, pa (va + (y.size - 1)) with
      | some a, some b =>
        let pages := (List.range (ceilDiv (y.size + 0xFFFF) 0x10000)).all (fun i =>
          decide (y.size ≤ i * 0x10000) || pa (va + i * 0x10000) == some (a + i * 0x10000))
        if b = a + (y.size - 1) && pages && mramSquare a = mramSquare b then
          some { num := e.2, kind := m.rangeKind e.1, sq := mramSquare a, off := a - mramBase (mramSquare a).val, len := y.size }
        else none
      | _, _ => none)

end Sys2Proof.Machine
end

