-- ==== Sys2Proof/Machine/Residences.lean ====
section
/-! DEFINITION. LOAD, UNLOAD and UPDATE: examination, background installation, the residence table (03 R71, R72; 11 R255; 13 R286, R287; 17
R365, R372, R387). -/

namespace Sys2Proof.Machine

def RESIDENCE_ABSENT : Nat := 0x120
def RESIDENCE_IN_USE : Nat := 0x12B
def COMMIT_LOST : Nat := 0x119
def CODE_GONE : Nat := 0x12D
def RESIDENCE_BUSY : Nat := 0x12E
def MAP_RECORD : Nat := 0x132

/-! ## The bound of an invocation (13 R299, 16 R349) -/

/-- Arithmetic and mesh cycles as reference ns at the worst stretch. -/
def conv (n : Nat) : Nat := ceilDiv (n * 20) 33
def convMesh (n : Nat) : Nat := ceilDiv (n * 5) 11

/-- The time of one tile of template `t`. -/
def Residence.perTile (r : Residence) (t : Nat) : Nat :=
  let c := r.cost t
  conv (c 1 + ceilDiv (c 1) 16 + 16 * c 2 + c 3 + c 4 * (3 * 16384 + 16) + 12 * c 7) + convMesh (c 5) + 320 * (c 6 / 2 ^ 32) + 112 * (c 6 % 2 ^ 32)

/-- The greatest number of tiles of a square. -/
def LWords.mostTiles (w : LWords) (r : Residence) : Nat :=
  let p := rectW w.rect * rectH w.rect
  listMax ((List.range p).map (fun k => w.count (some r) k p))

/-- The bound B of a record of template `t`. -/
def State.boundOf (s : State) (r : Residence) (t : Nat) (w : LWords) (doze : Bool) : Nat :=
  r.cost t 0 + (if doze then 1800 else 40) + listMax ((s.present ++ [r]).map Residence.runmax) + w.mostTiles r * r.perTile t + 112

/-! ## LOAD (03 R71, R72) -/

/-- Whether edges may be installed: each empty, or installed with the same contents (11 R255). -/
def State.edgesFit (s : State) (es : List (Nat × Edge)) : Bool :=
  es.all (fun e => (match mget none s.edges e.1 with
    | some o => o.modes == e.2.modes && o.k == e.2.k
    | none => true) && es.all (fun f => f.1 ≠ e.1 || (f.2.modes == e.2.modes && f.2.k == e.2.k)))

/-- The regions that installations in the background will declare. -/
def State.pendingRegions (s : State) : List Region := s.installs.flatMap (fun i => match i with
  | .load _ _ _ _ r => r
  | _ => [])

/-- Whether the lock word of a region lies in a plain-shared one of a list (12 R273). -/
def Region.lockIn (r : Region) (l : List Region) : Bool :=
  let in_ := fun (sp a : Nat) => l.any (fun g => g.plain && g.space == sp && decide (g.start ≤ a) && decide (a < g.start + g.len))
  match bits r.sync 62 2 with
  | 1 => in_ 0 (bits r.sync 0 48)
  | 2 => in_ 1 (bits r.sync 0 23)
  | _ => false

/-- The regions of the descriptors of an image, none where one is malformed after relocation; its own plain-shared regions and those being
installed may hold no lock word of them either. The command then ends with RELOC_RANGE (12 R273; log 85). -/
def State.imageRegions (s : State) (m : Image0) (sched : List Byte) (res : Nat) : Option (List Region) :=
  match (m.records 0xFFF0).mapM (fun y =>
    s.regionOf (schedWord sched y.value) (schedWord sched (y.value + 8)) (schedWord sched (y.value + 16)) (schedWord sched (y.value + 24)) (.res res)) with
  | none => none
  | some l => if l.any (fun r => r.lockIn (l ++ s.pendingRegions)) then none else some l

/-- The places that the descriptors of an image name, for the check of overlaps at step 4 (12 R272). -/
def regionPlaces (m : Image0) (sched : List Byte) (res : Nat) : List Region :=
  (m.records 0xFFF0).map (fun y =>
    let w := fun (k : Nat) => schedWord sched (y.value + k)
    { space := bits (w 0) 62 2, start := bits (w 0) 0 48, len := bits (w 8) 0 48, sync := w 16, pool := bits (w 24) 32 32, cls := bits (w 24) 0 4 * 64
      plain := bit (w 24) 8, owner := .res res })

/-- Whether regions meet no installed or pending one, nor each other, and table entries are left for them (12 R272). -/
def State.regionsFit (s : State) (rs : List Region) : Bool :=
  rs.all (fun r => !(s.regionList ++ s.pendingRegions).any r.meets) && decide (rs.Pairwise (fun a b => a.meets b = false)) &&
    decide (s.regionList.length + s.pendingRegions.length + rs.length ≤ 1024)

/-- Whether B of every template fits in 63 bits for the template bounds (13 R299). -/
def State.boundsFit (s : State) (r : Residence) : Bool :=
  (List.range r.nl).all (fun t => decide (s.boundOf r t (templateWords r.sched t) true < 2 ^ 63))

/-- Whether the pages that mappings pin leave the migration reserve. -/
def State.pinsFit (s : State) (maps : List Mapping) : Bool :=
  let n := fun (t : Tier) => ((maps.filter (fun m => tierOf m.frame == t)).map (fun m => pageSize m.big)).sum
  s.pinRoom .hbm (n .hbm) && s.pinRoom .lpddr (n .lpddr)

/-- Whether a residence number is taken: PRESENT, or being installed. -/
def State.taken (s : State) (n : Nat) : Bool :=
  (s.residence n).isSome || s.installs.any (fun i => match i with
    | .load _ _ r _ _ => r.num == n
    | _ => false)

/-- The contents of a placed image: its sections as relocated with their addresses, and the frames of their shadows. -/
def secsOf : List ISec → List Nat → List Nat → List Sec
  | x :: t, va :: vas, fs =>
    { kind := x.kind, va := va, size := x.size, bytes := x.bytes, shadow := fs.take x.shadowPages } :: secsOf t vas (fs.drop x.shadowPages)
  | _, _, _ => []

/-- The frames of shadows in a placement: those behind the frames of pages. -/
def shadowsOf (p : Placement) (l : List ISec) : List Nat := p.frames.drop ((l.map ISec.pages).sum)

/-- The schedule section among sections. -/
def schedOf (l : List ISec) : List Byte := ((l.find? (fun x => x.kind == 5)).map (fun x => x.bytes)).getD []

/-- LOAD: steps 1 to 6 of 03 R71; `p` is what firmware allots, none where capacity is short. An allotment that does not fit is none of
firmware's. Step 4 finds the overlaps of regions and installs the edges (11 R255, 12 R272). The command waits at the head of its queue while
admission has stopped (log 96), and behind an UNLOAD with FORCE of the residence (log 28). -/
def execLoad (p : Option Placement) (s : State) : Out :=
  match s.exam 1 0 with
  | none => .next s
  | some c =>
    if s.admissionStopped || s.behindUnload c then s.waitHead
    else if !s.imageSigned c.buf then s.refuseOut c BAD_IMAGE_SIG
    else match parseImage c.buf with
      | none => s.refuseOut c BAD_IMAGE
      | some m =>
        if !m.ok true then s.refuseOut c BAD_IMAGE
        else if s.taken c.res then s.refuseOut c RESIDENCE_IN_USE
        else match p with
          | none => s.refuseOut c NO_CAPACITY
          | some p =>
            let placed := List.zip m.secs p.vas
            let maps := secMaps c.res placed p.frames
            let edges := edgesOf (schedOf m.secs)
            let nums := m.rangeNums []
            if p.vas.length ≠ m.secs.length || !s.placementFits placed p.frames (fun _ => false) then .next s
            else match placeRanges m nums placed maps with
              | none => .next s
              | some ranges =>
                if !s.edgesFit edges || !s.pinsFit maps || !s.regionsFit (regionPlaces m (schedOf (m.staged p.vas nums)) c.res) then s.refuseOut c NO_CAPACITY
                else match m.relocate p.vas nums with
                  | none => s.refuseOut c RELOC_RANGE
                  | some secs =>
                    let sched := schedOf secs
                    match s.imageRegions m sched c.res with
                    | none => s.refuseOut c RELOC_RANGE
                    | some regions =>
                      let secs := secsOf secs p.vas (shadowsOf p m.secs)
                      let base := (secs.find? (fun x => x.kind == 0)).map (fun x => x.va)
                      let rec_ := (m.records 0xFFF2).headD { sec := 0, value := 0, size := 0 }
                      let r : Residence :=
                        { num := c.res, entry := word (base.getD 0 + rec_.value), psafe := rec_.size == 1, formats := (m.records 0xFFF1).filterMap formatOf,
                          sched := sched, secs := secs, ranges := ranges, edges := edges, digest := digest c.buf }
                      if !s.boundsFit r then s.refuseOut c NO_CAPACITY
                      else .next (({ s.endExam c.q with installs := s.installs ++ [.load c.q c.tag r maps regions] } : State).addEdges edges)

/-- The entries of an open journal written with write-check from number `i` on: whether every one was recorded. -/
def State.writeEntries (s : State) (q : Sq) : List (Nat × Word) → Nat → Bool × State
  | [], _ => (true, s)
  | e :: t, i =>
    match s.checkedWrite (entryAddr q.val (s.journal q).here i) (entryBytes q.val e) with
    | (true, s) => s.writeEntries q t (i + 1)
    | (false, s) => (false, s)

/-- One journal of firmware through square `q`, in the half in use: the cause that stops it, and the state, the journal closed. It stops
where an entry is not recorded, where neither copy of the record is written, and where a word keeps its old value (16 R353; log 94). -/
def State.journalOnce (s : State) (q : Sq) (now : List (Nat × Word)) : Option Nat × State :=
  let s := s.modJournal q (fun j => { j.open 8 with entries := now })
  match s.writeEntries q now 0 with
  | (false, s) => (some MJ_WRITE_FAIL, s.modJournal q Journal.close)
  | (true, s) =>
    let s := (s.recordCopy q).recordCopy q
    if !(s.journal q).good then (some MJ_WRITE_FAIL, s.modJournal q Journal.close)
    else
      let r := s.applyJournal now 0
      (if r.1 = 0 then none else some MJ_WRITE_FAIL, r.2.modJournal q Journal.close)

/-- Firmware writes entries through a square's journal, in as many journals as they need, each in the next half without a worn page (16 R352,
R353): the cause that stops it, none where every word is written. Two worn halves, or a worn page among the homes, stop it with MJ_WORN
(log 94). -/
def State.journalWrites (s : State) (q : Sq) : Nat → List (Nat × Word) → Option Nat × State
  | 0, _ => (none, s)
  | fuel + 1, es =>
    if es.isEmpty then (none, s)
    else
      let now := es.take 32512
      let s := if s.halfWorn q.val (s.journal q).half then s.modJournal q (fun j => { j with half := 1 - j.half }) else s
      if s.halfWorn q.val (s.journal q).half || now.any (fun e => decide (wornAt ≤ s.wearAt e.1)) then (some MJ_WORN, s)
      else match s.journalOnce q now with
        | (some c, s) => (some c, s)
        | (none, s) => s.journalWrites q fuel (es.drop 32512)

/-- Firmware writes entries through the journals of a list of squares, up to the first that stops it. -/
def State.journalSquares (s : State) (ws : List (Nat × Word)) : List Sq → Option Nat × State
  | [] => (none, s)
  | q :: t =>
    match s.journalWrites q (ws.length + 1) (ws.filter (fun w => mramSquare w.1 = q)) with
    | (some c, s) => (some c, s)
    | (none, s) => s.journalSquares ws t

/-- The doublewords of bytes written from a frame on. -/
def frameWords (f : Nat) (bs : List Byte) : List (Nat × Word) :=
  (List.range (ceilDiv bs.length 8)).map (fun i => (f + 8 * i, word (le bs (8 * i) 8)))

/-- The doublewords that the weight-store sections of a residence put into MRAM: home and value. -/
def weightWords (secs : List Sec) (maps : List Mapping) : List (Nat × Word) :=
  (maps.filter (fun m => tierOf m.frame == Tier.mram)).flatMap (fun m =>
    match secs.find? (fun x => decide (x.va ≤ m.va) && decide (m.va < x.va + 0x10000 * ceilDiv x.size 0x10000)) with
    | none => []
    | some x =>
      frameWords m.frame ((x.bytes.drop (m.va - x.va)).take (pageSize m.big)))

/-- The doublewords of the shadows of sections (16 R339). -/
def shadowWords (secs : List Sec) : List (Nat × Word) :=
  secs.flatMap (fun x => x.shadow.zipIdx.flatMap (fun (f : Nat × Nat) => frameWords f.1 ((x.bytes.drop (0x10000 * f.2)).take 0x10000)))

/-- Whether a bulk engine of a die has no entry in its queue. -/
def State.bulkIdle (s : State) (d : Die) : Bool := (List.finRange 16).any (fun e => e.val / 4 == d.val && (s.bulk[e]).isEmpty)

/-- Whether frames of MRAM may be programmed: the journals of their squares are closed, and a bulk engine of their die, which takes its queue
in order and does the programming, has served every entry before (10 R238; log 95). -/
def State.journalsFree (s : State) (frames : List Nat) : Bool :=
  frames.all (fun f => tierOf f != Tier.mram || ((s.journal (mramSquare f)).st == .closed && s.bulkIdle (homeDie f)))

/-- The frames that an installation writes. -/
def Install.frames (i : Install) : List Nat := i.maps.map (fun m => m.frame) ++ i.secs.flatMap (·.shadow)

/-- The weight-store sections and the shadows of an installation written through the journals by the bulk engines (03 R72, 10 R238): the
cause that stops it, none where every word is written. -/
def State.program (s : State) (secs : List Sec) (maps : List Mapping) : Option Nat × State :=
  let ws := weightWords secs maps ++ shadowWords secs
  let r := s.journalSquares ws (ws.map (fun w => mramSquare w.1)).dedup
  (r.1, { r.2 with bulkFreed := Vector.ofFn (fun (d : Fin 4) => if ws.any (fun w => homeDie w.1 == d) then s.now else r.2.bulkFreed[d]) })

/-- The pages of an installation mapped, and its DRAM sections written at their frames. -/
def State.installPages (s : State) (secs : List Sec) (maps : List Mapping) : State :=
  let s := maps.foldl (fun s m => s.mapPage maps m) s
  secs.foldl (fun s x => s.putVa (x.size / 0x10000 + 2) x.va x.bytes) s

/-- The instruction caches of every square invalidated (06 R142). -/
def State.clearICaches (s : State) : State :=
  { s with squares := s.squares.map (fun (x : Square) => { x with icache := Vector.replicate 16 [], ifills := [], ifails := [] }) }

/-- Regions declared, each in a free entry. -/
def State.declare (s : State) (rs : List Region) : State :=
  rs.foldl (fun s r => match s.freeRegion with
    | some n => ({ s with regions := mput none s.regions n (some r) } : State).bump
    | none => s) s

/-- The residence table with an entry. -/
def State.setResidence (s : State) (n : Nat) (r : Option Residence) : State := { s with residences := mput none s.residences n r }

/-- LOAD_INSTALL_COMPLETE: step 7, and DONE. It waits for a journal that another owner holds, and for a region or a table entry that a task
holds meanwhile (log 27). Where the MRAM cannot be written nothing of the image is installed (03 R71; log 94). -/
def execLoadInstallComplete (i : Nat) (s : State) : Out :=
  match s.installs[i]? with
  | some (.load q tag r maps regions) =>
    if !s.journalsFree (Install.frames (.load q tag r maps regions)) || regions.any (fun g => s.regionList.any g.meets) || decide (1024 < s.regionList.length + regions.length) then .next s
    else
      match ({ s with installs := s.installs.eraseIdx i } : State).program r.secs maps with
      | (some c, s) => .next ((s.dropEdges r.edges).complete (mkComp q tag 2 c 0 0 0 0))
      | (none, s) =>
        let s := (s.installPages r.secs maps).declare regions
        .next (((s.setResidence r.num (some r)).clearICaches).complete (mkComp q tag 0 0 0 0 0 0))
  | _ => .next s

/-! ## UNLOAD (13 R287) -/

/-- Whether a residence is referenced. -/
def State.referenced (s : State) (n : Nat) : Bool :=
  s.contextsOf n ≠ 0 || s.squares.toList.any (fun x => x.launchQ.any (fun r => r.words.res == n)) || s.invs.any (fun i => i.res == n) ||
    s.installs.any (fun i => match i with
      | .image _ _ k _ _ _ => k == n
      | _ => false)

/-- Whether a mapping is one of a section's pages. -/
def Sec.owns (x : Sec) (m : Mapping) : Bool := decide (x.va ≤ m.va) && decide (m.va < x.va + 0x10000 * ceilDiv x.size 0x10000)

/-- The mappings of sections. -/
def State.mapsOf (s : State) (l : List Sec) : List Mapping := s.maps.filter (fun m => l.any (fun x => x.owns m))

/-- Step 2: the records of a residence leave a square's queue, and the dispatcher's tokens are destroyed (13 R293). -/
def Square.dropRecords (x : Square) (n : Nat) : Square :=
  let gone := x.launchQ.filter (fun r => r.words.res == n)
  gone.foldl (fun x (r : LRec) => x.dropAll (.disp r.id)) { x with launchQ := x.launchQ.filter (fun r => r.words.res ≠ n) }

/-- Step 3: the live contexts of a residence in a square end with CODE_GONE; a service of one ends first (15 R331), and one in
MJ.COMMIT is waited for (16 R355). -/
def State.endContexts (s : State) (n : Nat) (q : Sq) : State :=
  (List.finRange 8).foldl (fun s c =>
    let k := s.ctx q (tileCx c)
    if k.st = .free || k.endCause.isSome || k.res ≠ n || s.committing q (tileCx c) then s
    else
      let s := match (s.sq q).service with
        | some (t, _) => if t = c then s.serviceEnd q c else s
        | none => s
      s.endTask q (tileCx c) CODE_GONE) s

/-- The regions of an owner removed (12 R272). -/
def State.dropRegions (s : State) (o : RgnOwner) : State :=
  { s with regions := s.regions.filter (fun (e : Nat × Option Region) => (e.2.map (fun (g : Region) => g.owner)) ≠ some o) }



/-- Whether the drops of the tasks of an invocation that ended by a cause have entered the streams, so that it may be reported (11 R266). -/
def State.endsReported (s : State) (i : Inv) : Bool :=
  i.ended.all (fun e => (s.sq (Fin.ofNat 160 e.sq)).owed.isEmpty) &&
    s.squares.toList.all (fun x => (List.finRange 8).all (fun c =>
      let k := x.ctxs[tileCx c]
      !(k.st == .ending && k.endCause.isSome && k.inv == some i.id && x.tokens.any (fun t => t.owner == .ctx (tileCx c)))))

/-- Whether a task end comes before another: the lesser tile time, the lower square, the lower context. -/
def TaskEnd.before (a b : TaskEnd) : Bool :=
  decide (a.time < b.time) || (a.time == b.time && (decide (a.sq < b.sq) || (a.sq == b.sq && decide (a.ctx < b.ctx))))

/-- The first of task ends. -/
def firstEnd : List TaskEnd → Option TaskEnd
  | [] => none
  | a :: t => match firstEnd t with
    | some b => if b.before a then some b else some a
    | none => some a

/-- CAUSE of a completion. -/
def Inv.cause (i : Inv) : Nat := match firstEnd i.ended with
  | some e => e.cause
  | none => if i.lost ≠ 0 then COMMIT_LOST else 0

/-- The entry with which UNLOAD with FORCE completes an invocation, its tasks ended: DONE with the cause of 15 R326, which is a task's only
where NF is at least 1; REFUSED with CODE_GONE where no tile of it was ever bound, for it has taken no effect (17 R366, Table 17-6; log 28). -/
def State.goneEntry (s : State) (i : Inv) : Comp :=
  if i.ended.isEmpty && !i.begun then mkComp i.q i.tag 2 CODE_GONE 0 0 0 0 else s.invDone i i.cause

/-- Step 4: an incomplete invocation completes (log 28): firmware's token goes, and its run-time regions. -/
def State.dropInv (s : State) (i : Inv) : State :=
  let s := if i.token then s.applyPairs i.words.scope [(i.words.tbase, -1)] else s
  let s := (s.closeInv i.id).dropRegions (.inv i.id)
  s.complete (s.goneEntry i)

/-- An invocation whose records firmware posts no more: the squares that it has not reached send no accept message (13 R287, R293). -/
def Inv.halt (i : Inv) : Inv :=
  { i with unposted := [], waiting := i.waiting.filter (fun q => !i.unposted.any (fun p => p.1 == q)) }

/-- Step 5: the pages unmapped, the regions and edges given up, the residence ABSENT, the instruction caches invalidated. -/
def State.removeResidence (s : State) (r : Residence) : State :=
  let s := (s.mapsOf r.secs).foldl State.unmapPage s
  let s := s.dropRegions (.res r.num)
  ((s.dropEdges r.edges).setResidence r.num none).clearICaches

/-- The updates of a residence's image that wait for their commit. -/
def State.updatesOf (s : State) (n : Nat) : List Install := s.installs.filter (fun i => match i with
  | .image _ _ k _ _ _ => k == n
  | _ => false)

/-- UNLOAD. With FORCE, it waits at the head of its queue, its steps going on at every examination, until the contexts of the residence are
FREE, the drops of their tokens have entered the streams, and the root has applied the accept messages that were sent, until when firmware's
token stands (13 R293; 17 R362; log 28). -/
def execUnload (s : State) : Out :=
  match s.exam 2 0 with
  | none => .next s
  | some c =>
    let n := c.res
    if s.behindUnload c then s.waitHead
    else match s.residence n with
    | none => s.refuseOut c RESIDENCE_ABSENT
    | some r =>
      if !bit c.w[0] 39 then
        if s.referenced n then s.refuseOut c RESIDENCE_BUSY else (s.removeResidence r).doneOut c 0 0
      else
        let s : State := { s with
          squares := s.squares.map (fun (x : Square) => x.dropRecords n)
          unloads := if s.unloads.contains c.q then s.unloads else s.unloads ++ [c.q]
          invs := s.invs.map (fun (i : Inv) => if i.res = n then i.halt else i) }
        let s := (List.finRange 160).foldl (fun s q => s.endContexts n q) s
        let s := (s.saved.filter (fun y => y.res == n)).foldl (fun s y => s.endSaved y.sq y CODE_GONE) s
        let mine := s.invs.filter (fun i => i.res == n)
        if s.contextsOf n ≠ 0 || !mine.all (fun i => s.endsReported i && i.waiting.isEmpty) then s.waitHead
        else
          let s := mine.foldl State.dropInv s
          let gone := s.updatesOf n
          let s := { s with installs := s.installs.filter (fun i => !gone.contains i) }
          let s := gone.foldl (fun s i => s.complete (mkComp i.who.1 i.who.2 2 CODE_GONE 0 0 0 0)) s
          (s.removeResidence r).doneOut c 0 0



/-! ## UPDATE IMAGE (17 R365) -/

/-- The addresses of an update's sections: those of the sections that they replace, or the next that firmware hands out. -/
def updateVas (old : List Sec) : List ISec → List Nat → List Nat
  | [], _ => []
  | x :: t, vas => match old.find? (fun y => y.kind == x.kind) with
    | some y => y.va :: updateVas old t vas
    | none => vas.headD 0 :: updateVas old t vas.tail

/-- Whether an image replaces .text, .tmpl or .sched. -/
def Image0.code (m : Image0) : Bool := m.secs.any (fun x => x.kind == 0 || x.kind == 1 || x.kind == 5)

/-- A residence with sections of an update in place of its own of the same kinds, and with the ranges of those sections in place of theirs;
those of a section that the update does not carry stay (17 R365). -/
def Residence.merge (r : Residence) (new : List Sec) (ranges : List MRange) : Residence :=
  { r with
    secs := r.secs.filter (fun y => !new.any (fun x => x.kind == y.kind)) ++ new
    sched := ((new.find? (fun x => x.kind == 5)).map (fun x => x.bytes)).getD r.sched
    ranges := r.ranges.filter (fun g => !new.any (fun x => x.kind == g.kind)) ++ ranges }

/-- A residence as it will stand once the updates that wait have committed. -/
def State.merged (s : State) (r : Residence) : Residence :=
  (s.updatesOf r.num).foldl (fun r i => match i with
    | .image _ _ _ l g _ => r.merge l g
    | _ => r) r

/-- UPDATE_IMAGE: the checks, and the new copies allotted; its examination ends at once, behind other updates of the residence (17 R362,
R365). It waits at the head of its queue while admission has stopped (log 96), and behind an UNLOAD with FORCE (log 28). -/
def execUpdateImage (p : Option Placement) (s : State) : Out :=
  match s.exam 4 0 with
  | none => .next s
  | some c =>
    if s.admissionStopped || s.behindUnload c then s.waitHead
    else if !s.imageSigned c.buf then s.refuseOut c BAD_IMAGE_SIG
    else match parseImage c.buf with
      | none => s.refuseOut c BAD_IMAGE
      | some m =>
        if !m.ok false then s.refuseOut c BAD_IMAGE
        else match s.residence c.res with
          | none => s.refuseOut c RESIDENCE_ABSENT
          | some r =>
            if m.code && s.referenced c.res then s.refuseOut c RESIDENCE_BUSY
            else match p with
              | none => s.refuseOut c NO_CAPACITY
              | some p =>
                let olds := r.secs ++ (s.updatesOf c.res).flatMap Install.secs
                let vas := updateVas (s.merged r).secs m.secs p.vas
                let nums := m.rangeNums (s.merged r).ranges
                let placed := List.zip m.secs vas
                let maps := secMaps c.res placed p.frames
                let own := fun (k : Mapping) => (s.mapsOf r.secs ++ (s.updatesOf c.res).flatMap Install.maps).contains k &&
                  placed.any (fun e => olds.any (fun y => y.kind == e.1.kind && y.va == e.2 && y.owns k))
                if !s.placementFits placed p.frames own then .next s
                else match placeRanges m nums placed maps with
                  | none => .next s
                  | some ranges =>
                    if !s.pinsFit maps then s.refuseOut c NO_CAPACITY
                    else match m.relocate vas nums with
                      | none => s.refuseOut c RELOC_RANGE
                      | some secs =>
                        let new := secsOf secs vas (shadowsOf p m.secs)
                        if !s.boundsFit ((s.merged r).merge new ranges) then s.refuseOut c NO_CAPACITY
                        else .next { s.endExam c.q with installs := s.installs ++ [.image c.q c.tag c.res new ranges maps] }

/-- The sections of `r` that those of an update replace. -/
def replaced (r : Residence) (new : List Sec) : List Sec := r.secs.filter (fun x => new.any (fun y => y.kind == x.kind))

/-- The commit of UPDATE IMAGE, its MRAM programmed: the residence's ranges and pages switch to the new copies, weight-buffer tags that name
it and the instruction caches are invalidated, the old copies are free. -/
def State.commitImage (s : State) (r : Residence) (new : List Sec) (ranges : List MRange) (maps : List Mapping) : State :=
  let s := (s.mapsOf (replaced r new)).foldl State.unmapPage s
  let s := (s.installPages new maps).setResidence r.num (some (r.merge new ranges))
  ({ s with squares := s.squares.map (fun (x : Square) =>
      { x with arr := { x.arr with tags := x.arr.tags.map (fun (g : Option Tag) => if (g.map (fun t => t.res)) = some r.num then none else g) } }) } : State).clearICaches

/-! ## UPDATE PATCH (17 R372, 02 R52) -/

/-- UPDATE_PATCH; the layout of a patch's header is log 29. Admission that has stopped for one patch holds the next (02 R52; log 96). -/
def execUpdatePatch (s : State) : Out :=
  match s.exam 4 2 with
  | none => .next s
  | some c =>
    let b := c.buf
    let n := 16 + le b 8 8
    let msg := b.take n
    let level := le b 4 2
    if s.admissionStopped then s.waitHead
    else if !(decide (n + 3373 ≤ b.length) && Config.signatureOk false Config.patchKey msg ((b.drop n).take 64) &&
        Config.signatureOk true Config.patchKey msg ((b.drop (n + 64)).take 3309)) then s.refuseOut c BAD_IMAGE_SIG
    else if le b 0 2 ≠ 9 || le b 2 1 ≠ 1 || level ≤ s.patchLevel.toNat || level ≤ s.patchFloor.toNat then s.refuseOut c BAD_IMAGE
    else .next { s.endExam c.q with installs := s.installs ++ [.patch c.q c.tag (BitVec.ofNat 16 level) b] }

/-- The patch in force, written into the idle slot of the store, and FVR advanced for every context, live or saved (02 R52, R54). -/
def State.commitPatch (s : State) (level : BitVec 16) (body : List Byte) : State :=
  { s with
    patchLevel := level, patchFloor := level, patchSlot := !s.patchSlot
    patchStore := vset s.patchStore (if s.patchSlot then (0 : Fin 2) else 1) body
    squares := s.squares.map (fun (x : Square) => { x with ctxs := x.ctxs.map (fun (k : Ctx) => { k with fvrSeq := k.fvrSeq + 1 }) })
    saved := s.saved.map (fun (y : Saved) => { y with bumps := y.bumps + 1 }) }

/-- UPDATE_INSTALL_COMPLETE: the commit point of UPDATE IMAGE, once every accepted command naming the residence has completed, or that of
UPDATE PATCH, once every accepted command has: admission has stopped meanwhile (02 R52). Where the MRAM cannot be written the old residence
stays in force (log 94). -/
def execUpdateInstallComplete (i : Nat) (s : State) : Out :=
  match s.installs[i]? with
  | some (.image q tag n new ranges maps) =>
    match s.residence n with
    | none => .next s
    | some r =>
      let first := (s.updatesOf n).head? == s.installs[i]?
      if !first || s.unloading n || s.invs.any (fun j => j.res == n) || !s.journalsFree (Install.frames (.image q tag n new ranges maps)) then .next s
      else match ({ s with installs := s.installs.eraseIdx i } : State).program new maps with
        | (some c, s) => .next (s.complete (mkComp q tag 2 c 0 0 0 0))
        | (none, s) => .next ((s.commitImage r new ranges maps).complete (mkComp q tag 0 0 0 0 0 0))
  | some (.patch q tag level body) =>
    if s.installs.length ≠ 1 || !s.invs.isEmpty || !s.notifies.isEmpty || !s.reduces.isEmpty then .next s
    else .next ((({ s with installs := [] } : State).commitPatch level body).complete (mkComp q tag 0 0 0 0 0 0))
  | _ => .next s

/-! ## UPDATE MAP (17 R387) -/

/-- A record of UPDATE MAP (17 Table 17-9). -/
structure MapRec where
  base : Nat
  size : Nat
  w2 : Nat
  zero : Bool
deriving DecidableEq, Repr

def MapRec.tier (r : MapRec) : Nat := fld r.w2 0 2
def MapRec.big (r : MapRec) : Bool := r.w2.testBit 2
/-- The pages of a record. -/
def MapRec.pages (r : MapRec) : List Nat := (List.range (r.size / pageSize r.big)).map (fun i => r.base + i * pageSize r.big)
/-- The mapping of one page by a record. -/
def MapRec.map (r : MapRec) (va frame : Nat) : Mapping :=
  { va := va, big := r.big, frame := frame, own := fld r.w2 8 8, x := r.w2.testBit 6, w := r.w2.testBit 5, r := r.w2.testBit 4, p := r.w2.testBit 3, lost := false }

/-- The records of a buffer. -/
def mapRecs (b : List Byte) : List MapRec :=
  (List.range (b.length / 32)).map (fun i =>
    { base := fld (le b (32 * i) 8) 0 48, size := le b (32 * i + 8) 8, w2 := le b (32 * i + 16) 8
      zero := le b (32 * i + 6) 2 == 0 && fld (le b (32 * i + 16) 8) 16 48 == 0 && !(le b (32 * i + 16) 8).testBit 7 && le b (32 * i + 24) 8 == 0 })

/-- Whether two ranges share a byte. -/
def MapRec.meets (r : MapRec) (a n : Nat) : Bool := decide (r.base < a + n) && decide (a < r.base + r.size)

/-- Whether one record is malformed, its ranges with the other records apart. -/
def State.mapBad (s : State) (r : MapRec) : Bool :=
  let n := pageSize r.big
  let hit := s.maps.filter (fun m => r.meets m.va (pageSize m.big))
  !r.zero || r.tier == 2 || r.base % n ≠ 0 || r.size == 0 || r.size % n ≠ 0 || decide (2 ^ 48 < r.base + r.size) ||
    s.present.any (fun x => x.secs.any (fun y => r.meets y.va (0x10000 * ceilDiv y.size 0x10000))) ||
    (s.installs.flatMap Install.maps).any (fun m => r.meets m.va (pageSize m.big)) || hit.any (fun m => m.big ≠ r.big) ||
    (r.tier == 3 && (hit.length ≠ r.size / n || fld r.w2 3 5 ≠ 0 || fld r.w2 8 8 ≠ 0))

/-- The mapping of a page, if there is one. -/
def State.mapAt (s : State) (va : Nat) : Option Mapping := s.maps.find? (fun m => m.va == va)

/-- The tier of a record. -/
def MapRec.toTier (r : MapRec) : Tier := if r.tier = 0 then .hbm else .lpddr

/-- Whether a page needs a fresh frame: it is not mapped, or marked L, or changes tier. -/
def State.needsFrame (s : State) (r : MapRec) (va : Nat) : Bool :=
  r.tier ≠ 3 && (match s.mapAt va with
    | none => true
    | some m => m.lost || tierOf m.frame != r.toTier)

/-- One page of a record applied, with the frames still left; no table takes a frame of `keep`. -/
def State.applyPage (s : State) (keep : List Mapping) (r : MapRec) (va : Nat) (frames : List Nat) : State × List Nat :=
  let f := frames.headD 0
  match s.mapAt va with
  | none => if r.tier = 3 then (s, frames) else (s.mapPage keep (r.map va f), frames.tail)
  | some m =>
    if r.tier = 3 then (s.unmapPage m, frames)
    else if m.lost then ((s.zeroBytes f (pageSize r.big)).remapPage keep (r.map va f), frames.tail)
    else if tierOf m.frame == r.toTier then (s.remapPage keep (r.map va m.frame), frames)
    else
      let s := s.tlbInvalidate { all := false, va := va, big := r.big } true
      let s := match s.walk va with
        | .ok (ea, w, big) => s.movePage ea w big va f
        | .error _ => s
      (s.remapPage keep (r.map va f), frames.tail)

/-- UPDATE_MAP: every record is checked before a leaf changes; the frames are firmware's choice, and no table takes one of them. It waits at
the head of its queue for a migration of one of the pages (17 R362). -/
def execUpdateMap (p : Option Placement) (s : State) : Out :=
  match s.exam 4 1 with
  | none => .next s
  | some c =>
    let rs := mapRecs c.buf
    if rs.any s.mapBad || !decide (rs.Pairwise (fun a b => a.meets b.base b.size = false)) then s.refuseOut c MAP_RECORD
    else
      let pages := rs.flatMap (fun r => r.pages.map (fun va => (r, va)))
      let need := pages.filter (fun e => s.needsFrame e.1 e.2)
      let pins := fun (t : Tier) => ((pages.filter (fun e => e.1.tier ≠ 3 && e.1.w2.testBit 3 && e.1.toTier == t &&
        !((s.mapAt e.2).map (fun m => m.p && tierOf m.frame == t)).getD false)).map (fun e => pageSize e.1.big)).sum
      if !s.pinRoom .hbm (pins .hbm) || !s.pinRoom .lpddr (pins .lpddr) then s.refuseOut c NO_CAPACITY
      else match p with
        | none => s.refuseOut c NO_CAPACITY
        | some p =>
          let touched := s.maps.filter (fun m => pages.any (fun e => e.2 == m.va))
          let moving := touched.any (fun m => match s.walk m.va with
            | .ok (_, w, _) => bit w 60
            | .error _ => false)
          let clear := decide ((List.zip p.frames need).Pairwise (fun a b => a.1 + pageSize a.2.1.big ≤ b.1 ∨ b.1 + pageSize b.2.1.big ≤ a.1))
          if p.frames.length ≠ need.length || !clear || !(List.zip p.frames need).all (fun e => s.frameSuits e.1 e.2.1.big e.2.1.toTier) then .next s
          else if moving then s.waitHead
          else
            let keep := (List.zip p.frames need).map (fun e => e.2.1.map e.2.2 e.1)
            let t := (pages.foldl (fun (a : State × List Nat) e => a.1.applyPage keep e.1 e.2 a.2) (s, p.frames)).1
            t.doneOut c 0 0

end Sys2Proof.Machine
end

