-- ==== Sys2Proof/Machine/Invocations.lean ====
section
/-! DEFINITION. INVOKE: its checks, admission, acceptance and completion; QUERY BOUND (13 R289, R290, R299 to R301; 15 R326; 17 R367). -/

namespace Sys2Proof.Machine

def NOT_PINNED : Nat := 0x122
def RECT_RANGE : Nat := 0x123
def QUEUE_FULL : Nat := 0x124
def TIME_BASE : Nat := 0x125
def ADMISSION : Nat := 0x127

/-! ## The record that an INVOKE forms (13 R289, R291; 17 Table 17-4) -/

/-- Word `k` of an INVOKE buffer. -/
def invWord (b : List Byte) (k : Nat) : Word := word (le b (8 * k) 8)
/-- The template number. -/
def invTmpl (b : List Byte) : Nat := bits (invWord b 0) 56 8
/-- Argument Al. -/
def invArg (b : List Byte) (l : Fin 4) : Nat := bits (invWord b (1 + l.val / 2)) (if l.val % 2 = 0 then 32 else 0) 32
/-- The address and the length of buffer `k`. -/
def invBuf (b : List Byte) (k : Nat) : Nat × Nat := ((invWord b (5 + 2 * k)).toNat, (invWord b (6 + 2 * k)).toNat)

/-- Word 0 of the record: the template's, with the residence, the scope and the corner of the rectangle filled in (log 30). -/
def invW0 (res : Nat) (b : List Byte) (w0 : Word) : Word :=
  word (bits w0 60 4 * 2 ^ 60 + bits (invWord b 0) 32 3 * 2 ^ 57 + bits w0 48 9 * 2 ^ 48 + res * 2 ^ 40 + bits w0 32 8 * 2 ^ 32 +
    bits (invWord b 0) 48 8 * 2 ^ 24 + bits (invWord b 0) 40 8 * 2 ^ 16 + bits w0 0 16)

/-- A level word: the bound of a VAR level is its argument. -/
def invLevel (b : List Byte) (w : LWords) (l : Fin 4) : Word :=
  let x := w.lv[l]
  if w.isVar l then word ((invArg b l - 1) % 65536 * 2 ^ 48 + bits x 17 31 * 2 ^ 17 + bits x 0 16) else x

/-- The record of an INVOKE; TEND 0 is the greatest tile time. -/
def invRecord (res : Nat) (b : List Byte) (w : LWords) : LWords :=
  let r : LWords := { w0 := invW0 res b w.w0, tbase := invWord b 3, tend := 0, w3 := w.w3, lv := Vector.ofFn (invLevel b w) }
  { r with tend := if invWord b 4 = 0 then r.timeOf r.lastTile else invWord b 4 }

/-- Check 2 of 13 R290: the items lie within Table 13-2 and the record obeys 13 R291. -/
def invItemsOk (r : Residence) (b : List Byte) (deadline : Nat) (w rec_ : LWords) : Bool :=
  bits (invWord b 0) 35 5 == 0 && bits (invWord b 0) 0 32 == 0 &&
    bits w.w0 57 3 == 0 && bits w.w0 16 16 == 0 && w.tbase == 0 && w.tend == 0 &&
    (List.finRange 4).all (fun l => if w.isVar l then decide (1 ≤ invArg b l) && decide (invArg b l ≤ bits w.lv[l] 48 16 + 1) else invArg b l == 0) &&
    (rec_.pri == 3 || deadline == 0) && rec_.wellFormed && (rec_.mode ≠ 1 || rec_.tableOk (some r) (rectW rec_.rect * rectH rec_.rect))

/-! ## The checks (13 R290) -/

/-- Whether the bytes `[a, e)` lie in pinned pages; `fuel` bounds their number. -/
def State.pinnedTo (s : State) : Nat → Nat → Nat → Bool
  | 0, _, _ => false
  | fuel + 1, a, e =>
    if e ≤ a then true
    else match s.maps.find? (fun m => m.covers a) with
      | none => false
      | some m => (m.p || tierOf m.frame == Tier.mram) && s.pinnedTo fuel (m.va + pageSize m.big) e

/-- Whether a range lies in pinned pages. -/
def State.pinned (s : State) (a n : Nat) : Bool := s.pinnedTo (s.maps.length + 1) a (a + n)

/-- What the checks of an INVOKE give: its residence, template, record and bound. -/
structure Checked where
  res : Residence
  tmpl : Nat
  rec_ : LWords
  bound : Nat
deriving DecidableEq, Repr

/-- Checks 1 to 5, and the bound. -/
def State.invChecks (s : State) (c : Cmd) : Except Nat Checked :=
  match s.residence c.res with
  | none => .error RESIDENCE_ABSENT
  | some r =>
    let b := c.buf
    let t := invTmpl b
    let w := templateWords r.sched t
    let x := invRecord c.res b w
    if decide (r.nl ≤ t) || !invItemsOk r b (c.w[3]).toNat w x then .error LAUNCH_RECORD
    else if !rectOnMesh x.rect then .error RECT_RANGE
    else if decide (x.tend < x.timeOf x.lastTile) || s.invs.any (fun i => i.words.scope == x.scope && decide (x.tbase ≤ i.words.tend)) then .error TIME_BASE
    else if x.pri == 3 && !((List.range 16).all (fun k => (invBuf b k).2 == 0 || s.pinned (invBuf b k).1 (invBuf b k).2) &&
        r.secs.all (fun y => s.pinned y.va y.size)) then .error NOT_PINNED
    else .ok { res := r, tmpl := t, rec_ := x, bound := s.boundOf r t x ((rectSquares x.rect).any (fun q => (s.sq q).power == .doze)) }

/-- The order in which firmware takes queue entries: its own four first (13 R293). -/
def firmwarePlaces : List Nat := [12, 13, 14, 15, 0, 1, 2, 3, 4, 5, 6, 7, 8, 9, 10, 11]

/-- Check 6: a free entry in every square of the rectangle, none where one has none. -/
def State.reserve (s : State) (rect : Nat) : Option (List (Sq × Nat)) :=
  (rectSquares rect).mapM (fun q => (firmwarePlaces.find? (s.placeFree q)).map (fun k => (q, k)))

/-- Whether two rectangles share a square. -/
def rectsMeet (a b : Nat) : Bool := (rectSquares a).any (fun q => (rectSquares b).contains q)

/-- The backlog (13 R300). -/
def State.backlog (s : State) (rect : Nat) : Nat :=
  ((s.invs.filter (fun i => i.words.pri == 3 && rectsMeet i.words.rect rect)).map (fun i => i.bound - (s.now - i.accepted))).sum

/-- An accepted command: its entries are reserved, firmware's token stands at the root (13 R293), a priority-3 command posts ACCEPTED with
B, and the records are posted. -/
def State.acceptInv (s : State) (c : Cmd) (x : Checked) (places : List (Sq × Nat)) : State :=
  let i : Inv :=
    { id := s.nextInv, q := c.q, tag := c.tag, res := c.res, tmpl := x.tmpl, words := x.rec_,
      bufs := Vector.ofFn (fun (k : Fin 16) => if (invBuf c.buf k.val).2 = 0 then 0 else word (invBuf c.buf k.val).1),
      deadline := (c.w[3]).toNat, bound := x.bound, accepted := s.now, waiting := places.map (fun p => p.1), token := true, unposted := places,
      begun := false, spawned := 0, ended := [], lost := 0 }
  let s := { s.endExam c.q with invs := s.invs ++ [i], nextInv := s.nextInv + 1 }
  let s := s.applyPairs x.rec_.scope [(x.rec_.tbase, 1)]
  let s := if x.rec_.pri = 3 then s.complete (mkComp c.q c.tag 1 0 0 (word x.bound) 0 0) else s
  s.postReady

/-- Whether new invocations of a residence are held: an update of it, or a patch, waits for the accepted ones (17 R365, 02 R52). -/
def State.invokeHeld (s : State) (n : Nat) : Bool := s.installs.any (fun i => match i with
  | .image _ _ k _ _ _ => k == n
  | .patch _ _ _ _ => true
  | .load _ _ _ _ _ => false)

/-- INVOKE (13 R290). It waits at the head of its queue while an update holds it, or as many commands run as firmware keeps (17 R358; log 96),
and behind an UNLOAD with FORCE of the residence, after which it meets an ABSENT one (13 R287; log 28). -/
def execInvoke (s : State) : Out :=
  match s.exam 3 0 with
  | none => .next s
  | some c =>
    if s.full || s.invokeHeld c.res || s.behindUnload c then s.waitHead
    else match s.invChecks c with
      | .error k => s.refuseOut c k
      | .ok x =>
        match s.reserve x.rec_.rect with
        | none => if x.rec_.pri = 3 then s.refuseOut c QUEUE_FULL else s.waitHead
        | some places =>
          if x.rec_.pri = 3 && decide ((c.w[3]).toNat < s.now + s.backlog x.rec_.rect + x.bound) then s.refuseOut c ADMISSION
          else .next (s.acceptInv c x places)

/-- QUERY_BOUND. -/
def execQueryBound (s : State) : Out :=
  match s.exam 5 2 with
  | none => .next s
  | some c =>
    match s.invChecks c with
    | .error k => s.refuseOut c k
    | .ok x => s.doneOut c (word x.bound) 0

/-! ## Completion (13 R301, 15 R326, 17 R367) -/

/-- INVOKE_COMPLETION: the frontier of the scope has passed TEND, with every record posted, firmware's token destroyed, and the drops of the
tasks to be reported in the streams (11 R266); the acquire of 12 R279 and the write-backs precede DONE. -/
def execInvokeCompletion (k : Nat) (s : State) : Out :=
  match s.invs.find? (fun i => i.id == k) with
  | none => .next s
  | some i =>
    if s.unloading i.res || !s.endsReported i || i.token || !i.unposted.isEmpty || !i.waiting.isEmpty || !decide (i.words.tend < s.localF[i.words.scope]) then .next s
    else
      let n := i.words.scope
      let qs := rectSquares i.words.rect
      let s := qs.foldl (fun s q => (s.dropClean q (s.lineIn (fun r => r.ofScope n))).writeBack q (fun _ => true)) s
      let s := (s.closeInv k).dropRegions (.inv k)
      .next (s.complete (s.invDone i i.cause))

end Sys2Proof.Machine
end

