-- ==== Sys2Proof/Machine/Resume.lean ====
section
/-! DEFINITION. Blocked instructions resume (05 R97), and what wakes a square (16 R335). -/

namespace Sys2Proof.Machine

/-- The meaning of an instruction that can block, executed again. -/
def runBlocked : Instr → State → Out
  | .ldB d b sp o, s => execLdB d b sp o s
  | .ldH d b sp o, s => execLdH d b sp o s
  | .ldW d b sp o, s => execLdW d b sp o s
  | .ldD d b sp o, s => execLdD d b sp o s
  | .stW d b sp o, s => execStW d b sp o s
  | .stD d b sp o, s => execStD d b sp o s
  | .stx d a b sp z, s => execStx d a b sp z s
  | .swap d a b sp z, s => execSwap d a b sp z s
  | .cas d a b sp z, s => execCas d a b sp z s
  | .aadd d a b sp z, s => execAadd d a b sp z s
  | .aand d a b sp z, s => execAand d a b sp z s
  | .aor d a b sp z, s => execAor d a b sp z s
  | .axor d a b sp z, s => execAxor d a b sp z s
  | .amin d a b sp z, s => execAmin d a b sp z s
  | .amax d a b sp z, s => execAmax d a b sp z s
  | .aminu d a b sp z, s => execAminu d a b sp z s
  | .amaxu d a b sp z, s => execAmaxu d a b sp z s
  | .acq d a sp, s => execAcq d a sp s
  | .rel a sp, s => execRel a sp s
  | .mon a, s => execMon a s
  | .mwait d a, s => execMwait d a s
  | .xfence f t, s => execXfence f t s
  | .waitC r c st l, s => execWaitC r c st l s
  | .spawn a, s => execSpawn a s
  | .tmHold a b n, s => execTmHold a b n s
  | .tmDrop a b n, s => execTmDrop a b n s
  | .tmMove d a b n, s => execTmMove d a b n s
  | .tmBar a n, s => execTmBar a n s
  | .tmWaitf a n, s => execTmWaitf a n s
  | .emit v a, s => execEmit v a s
  | .emitP v a b k f, s => execEmitP v a b k f s
  | .emitBc a m, s => execEmitBc a m s
  | .eqWait v n, s => execEqWait v n s
  | .cpPut d a, s => execCpPut d a s
  | .cpGet d a, s => execCpGet d a s
  | .cpPuts d a, s => execCpPuts d a s
  | .cpMcast d a, s => execCpMcast d a s
  | .cpGather d a, s => execCpGather d a s
  | .cpMig d a, s => execCpMig d a s
  | .hWait a st, s => execHWait a st s
  | .hFree a, s => execHFree a s
  | .hBind a b, s => execHBind a b s
  | .fmtSet a b, s => execFmtSet a b s
  | .blkLd d a b, s => execBlkLd d a b s
  | .blkWait d a, s => execBlkWait d a s
  | .rgnBind a b, s => execRgnBind a b s
  | .mjWr a b, s => execMjWr a b s
  | .mjCommit d, s => execMjCommit d s
  | .mjStat d a, s => execMjStat d a s
  | .exit, s => execExit s
  | .ctxSave d a, s => execCtxSave d a s
  | .ctxRestore d a, s => execCtxRestore d a s
  | .ctxEnd d a, s => execCtxEnd d a s
  | _, s => .next s

/-- Whether a flit comes back to a square: the answer to a load, a store or an instruction fetch of it. -/
def Square.answers (x : Square) : Bool :=
  x.ctxs.toList.any (fun c => !c.loads.isEmpty || !c.posted.isEmpty) || !x.ifills.isEmpty

/-- Whether the flit comes that a blocked instruction of a context waits for: executed now it would no longer wait, or the MRAM answers one
of its attempts (16 R335, R353). -/
def State.replied (s : State) (q : Sq) (c : Cx) : Bool := match (s.ctx q c).blocked with
  | some b => (match b.instr with
    | .mjWr _ _ => true
    | .mjCommit _ => true
    | i => !((Out.state (runBlocked i (s.focus q c)) s).ctx q c).waits)
  | none => false

/-- What wakes a square in NAP besides a posting, PS.WAKE, a copy or a frontier: the answer to an access in flight or to a blocked
instruction, a watch that fired, the timeout of an MWAIT, or a watchdog that falls due (16 R335). -/
def State.napEvent (s : State) (q : Sq) : Bool :=
  (s.sq q).answers || (List.finRange 9).any (s.replied q) || (s.watchesOf q).any (·.fired) ||
    (List.finRange 9).any (fun c => (match s.mwaitNow q c with
      | some (_, r) => r == 2
      | none => false) || s.overdue q c (s.frontierWait q c))

/-- SQUARE_WAKE (16 R335). -/
def execSquareWake (q : Sq) (s : State) : Out :=
  let x := s.sq q
  if x.power ≠ .run && (x.waking || (x.power == .nap && s.napEvent q)) then
    .next (s.modSq q (fun x => { x with power := .run, waking := false, idleSince := x.cyc }))
  else .next s

/-- Whether a context is where a square issues: the ACTIVE one outside a service, or F. -/
def State.issues (s : State) (q : Sq) (c : Cx) : Bool :=
  let x := s.sq q
  c == 8 || (x.active.map tileCx == some c && x.service.isNone)

/-- BLOCKED_INSTRUCTION_RESUME: the instruction in which a context waits is tried again; one that still waits goes on waiting. A record
that waits goes before it (07 R155, 15 R320). -/
def execBlockedInstructionResume (q : Sq) (c : Cx) (s : State) : Out :=
  match (s.ctx q c).blocked with
  | none => .next s
  | some b =>
    if b.afresh || !s.issues q c then .next s
    else if s.recordDue q c then .next (s.deliver q c)
    else runBlocked b.instr (s.focus q c)

end Sys2Proof.Machine
end

