-- ==== Sys2Proof/Machine/VectorUnits.lean ====
section
/-! DEFINITION. The operations of the units as steps of their own: vfu0 to vfu3 (08 Tables 8-5 to 8-9), kfa and kfb (08 Table 8-10), ctl
(08 Table 8-11) and mem (08 Table 8-12). A bundle starts the same operations in phase 4 of its issue. -/

namespace Sys2Proof.Machine

/-- The lanes of a guard: every lane where there is none. -/
def State.lanesOf (s : State) (q : Sq) (v : Vc) (g : Option (Fin 8)) : Word :=
  match g with
  | some i => (s.core q v).m[i]
  | none => BitVec.allOnes 64

/-! ## vfu0 to vfu3 -/

/-- VFU operation Iadd (08 R176). -/
def execVfuIadd (q : Sq) (v : Vc) (k : Fin 4) (g : Option (Fin 8)) (s : State) : Out :=
  .next (s.startV q v k (s.lanesOf q v g) vIadd)
/-- VFU operation Isub (08 R176). -/
def execVfuIsub (q : Sq) (v : Vc) (k : Fin 4) (g : Option (Fin 8)) (s : State) : Out :=
  .next (s.startV q v k (s.lanesOf q v g) vIsub)
/-- VFU operation Imul (08 R176). -/
def execVfuImul (q : Sq) (v : Vc) (k : Fin 4) (g : Option (Fin 8)) (s : State) : Out :=
  .next (s.startV q v k (s.lanesOf q v g) vImul)
/-- VFU operation Imad (08 R176). -/
def execVfuImad (q : Sq) (v : Vc) (k : Fin 4) (g : Option (Fin 8)) (s : State) : Out :=
  .next (s.startV q v k (s.lanesOf q v g) vImad)
/-- VFU operation Iadds (08 R176). -/
def execVfuIadds (q : Sq) (v : Vc) (k : Fin 4) (g : Option (Fin 8)) (s : State) : Out :=
  .next (s.startV q v k (s.lanesOf q v g) vIadds)
/-- VFU operation Isubs (08 R176). -/
def execVfuIsubs (q : Sq) (v : Vc) (k : Fin 4) (g : Option (Fin 8)) (s : State) : Out :=
  .next (s.startV q v k (s.lanesOf q v g) vIsubs)
/-- VFU operation Imin (08 R176). -/
def execVfuImin (q : Sq) (v : Vc) (k : Fin 4) (g : Option (Fin 8)) (s : State) : Out :=
  .next (s.startV q v k (s.lanesOf q v g) vImin)
/-- VFU operation Imax (08 R176). -/
def execVfuImax (q : Sq) (v : Vc) (k : Fin 4) (g : Option (Fin 8)) (s : State) : Out :=
  .next (s.startV q v k (s.lanesOf q v g) vImax)
/-- VFU operation Iminu (08 R176). -/
def execVfuIminu (q : Sq) (v : Vc) (k : Fin 4) (g : Option (Fin 8)) (s : State) : Out :=
  .next (s.startV q v k (s.lanesOf q v g) vIminu)
/-- VFU operation Imaxu (08 R176). -/
def execVfuImaxu (q : Sq) (v : Vc) (k : Fin 4) (g : Option (Fin 8)) (s : State) : Out :=
  .next (s.startV q v k (s.lanesOf q v g) vImaxu)
/-- VFU operation And (08 R176). -/
def execVfuAnd (q : Sq) (v : Vc) (k : Fin 4) (g : Option (Fin 8)) (s : State) : Out :=
  .next (s.startV q v k (s.lanesOf q v g) vAnd)
/-- VFU operation Or (08 R176). -/
def execVfuOr (q : Sq) (v : Vc) (k : Fin 4) (g : Option (Fin 8)) (s : State) : Out :=
  .next (s.startV q v k (s.lanesOf q v g) vOr)
/-- VFU operation Xor (08 R176). -/
def execVfuXor (q : Sq) (v : Vc) (k : Fin 4) (g : Option (Fin 8)) (s : State) : Out :=
  .next (s.startV q v k (s.lanesOf q v g) vXor)
/-- VFU operation Shl (08 R176). -/
def execVfuShl (q : Sq) (v : Vc) (k : Fin 4) (g : Option (Fin 8)) (s : State) : Out :=
  .next (s.startV q v k (s.lanesOf q v g) vShl)
/-- VFU operation Shr (08 R176). -/
def execVfuShr (q : Sq) (v : Vc) (k : Fin 4) (g : Option (Fin 8)) (s : State) : Out :=
  .next (s.startV q v k (s.lanesOf q v g) vShr)
/-- VFU operation Sra (08 R176). -/
def execVfuSra (q : Sq) (v : Vc) (k : Fin 4) (g : Option (Fin 8)) (s : State) : Out :=
  .next (s.startV q v k (s.lanesOf q v g) vSra)
/-- VFU operation Iabs (08 R176). -/
def execVfuIabs (q : Sq) (v : Vc) (k : Fin 4) (g : Option (Fin 8)) (s : State) : Out :=
  .next (s.startV q v k (s.lanesOf q v g) vIabs)
/-- VFU operation IaddH (08 R176). -/
def execVfuIaddH (q : Sq) (v : Vc) (k : Fin 4) (g : Option (Fin 8)) (s : State) : Out :=
  .next (s.startV q v k (s.lanesOf q v g) vIaddH)
/-- VFU operation IaddB (08 R176). -/
def execVfuIaddB (q : Sq) (v : Vc) (k : Fin 4) (g : Option (Fin 8)) (s : State) : Out :=
  .next (s.startV q v k (s.lanesOf q v g) vIaddB)
/-- VFU operation IaddsB (08 R176). -/
def execVfuIaddsB (q : Sq) (v : Vc) (k : Fin 4) (g : Option (Fin 8)) (s : State) : Out :=
  .next (s.startV q v k (s.lanesOf q v g) vIaddsB)
/-- VFU operation Idot4 (08 R176). -/
def execVfuIdot4 (q : Sq) (v : Vc) (k : Fin 4) (g : Option (Fin 8)) (s : State) : Out :=
  .next (s.startV q v k (s.lanesOf q v g) vIdot4)
/-- VFU operation Fadd (08 R176). -/
def execVfuFadd (q : Sq) (v : Vc) (k : Fin 4) (g : Option (Fin 8)) (s : State) : Out :=
  .next (s.startV q v k (s.lanesOf q v g) vFadd)
/-- VFU operation Fsub (08 R176). -/
def execVfuFsub (q : Sq) (v : Vc) (k : Fin 4) (g : Option (Fin 8)) (s : State) : Out :=
  .next (s.startV q v k (s.lanesOf q v g) vFsub)
/-- VFU operation Fmul (08 R176). -/
def execVfuFmul (q : Sq) (v : Vc) (k : Fin 4) (g : Option (Fin 8)) (s : State) : Out :=
  .next (s.startV q v k (s.lanesOf q v g) vFmul)
/-- VFU operation Fma (08 R176). -/
def execVfuFma (q : Sq) (v : Vc) (k : Fin 4) (g : Option (Fin 8)) (s : State) : Out :=
  .next (s.startV q v k (s.lanesOf q v g) vFma)
/-- VFU operation Fmin (08 R176). -/
def execVfuFmin (q : Sq) (v : Vc) (k : Fin 4) (g : Option (Fin 8)) (s : State) : Out :=
  .next (s.startV q v k (s.lanesOf q v g) vFmin)
/-- VFU operation Fmax (08 R176). -/
def execVfuFmax (q : Sq) (v : Vc) (k : Fin 4) (g : Option (Fin 8)) (s : State) : Out :=
  .next (s.startV q v k (s.lanesOf q v g) vFmax)
/-- VFU operation Fabs (08 R176). -/
def execVfuFabs (q : Sq) (v : Vc) (k : Fin 4) (g : Option (Fin 8)) (s : State) : Out :=
  .next (s.startV q v k (s.lanesOf q v g) vFabs)
/-- VFU operation Fneg (08 R176). -/
def execVfuFneg (q : Sq) (v : Vc) (k : Fin 4) (g : Option (Fin 8)) (s : State) : Out :=
  .next (s.startV q v k (s.lanesOf q v g) vFneg)
/-- VFU operation Frcp (08 R176). -/
def execVfuFrcp (q : Sq) (v : Vc) (k : Fin 4) (g : Option (Fin 8)) (s : State) : Out :=
  .next (s.startV q v k (s.lanesOf q v g) vFrcp)
/-- VFU operation Fsqrt (08 R176). -/
def execVfuFsqrt (q : Sq) (v : Vc) (k : Fin 4) (g : Option (Fin 8)) (s : State) : Out :=
  .next (s.startV q v k (s.lanesOf q v g) vFsqrt)
/-- VFU operation FaddBf (08 R176). -/
def execVfuFaddBf (q : Sq) (v : Vc) (k : Fin 4) (g : Option (Fin 8)) (s : State) : Out :=
  .next (s.startV q v k (s.lanesOf q v g) vFaddBf)
/-- VFU operation FmulBf (08 R176). -/
def execVfuFmulBf (q : Sq) (v : Vc) (k : Fin 4) (g : Option (Fin 8)) (s : State) : Out :=
  .next (s.startV q v k (s.lanesOf q v g) vFmulBf)
/-- VFU operation FmaBf (08 R176). -/
def execVfuFmaBf (q : Sq) (v : Vc) (k : Fin 4) (g : Option (Fin 8)) (s : State) : Out :=
  .next (s.startV q v k (s.lanesOf q v g) vFmaBf)
/-- VFU operation FmaHf (08 R176). -/
def execVfuFmaHf (q : Sq) (v : Vc) (k : Fin 4) (g : Option (Fin 8)) (s : State) : Out :=
  .next (s.startV q v k (s.lanesOf q v g) vFmaHf)
/-- VFU operation FmaE4 (08 R176). -/
def execVfuFmaE4 (q : Sq) (v : Vc) (k : Fin 4) (g : Option (Fin 8)) (s : State) : Out :=
  .next (s.startV q v k (s.lanesOf q v g) vFmaE4)
/-- VFU operation FmaE5 (08 R176). -/
def execVfuFmaE5 (q : Sq) (v : Vc) (k : Fin 4) (g : Option (Fin 8)) (s : State) : Out :=
  .next (s.startV q v k (s.lanesOf q v g) vFmaE5)
/-- VFU operation CvtFI (08 R176). -/
def execVfuCvtFI (q : Sq) (v : Vc) (k : Fin 4) (g : Option (Fin 8)) (s : State) : Out :=
  .next (s.startV q v k (s.lanesOf q v g) vCvtFI)
/-- VFU operation CvtIF (08 R176). -/
def execVfuCvtIF (q : Sq) (v : Vc) (k : Fin 4) (g : Option (Fin 8)) (s : State) : Out :=
  .next (s.startV q v k (s.lanesOf q v g) vCvtIF)
/-- VFU operation CvtBfF (08 R176). -/
def execVfuCvtBfF (q : Sq) (v : Vc) (k : Fin 4) (g : Option (Fin 8)) (s : State) : Out :=
  .next (s.startV q v k (s.lanesOf q v g) vCvtBfF)
/-- VFU operation CvtHfF (08 R176). -/
def execVfuCvtHfF (q : Sq) (v : Vc) (k : Fin 4) (g : Option (Fin 8)) (s : State) : Out :=
  .next (s.startV q v k (s.lanesOf q v g) vCvtHfF)
/-- VFU operation CvtE4F (08 R176). -/
def execVfuCvtE4F (q : Sq) (v : Vc) (k : Fin 4) (g : Option (Fin 8)) (s : State) : Out :=
  .next (s.startV q v k (s.lanesOf q v g) vCvtE4F)
/-- VFU operation CvtE5F (08 R176). -/
def execVfuCvtE5F (q : Sq) (v : Vc) (k : Fin 4) (g : Option (Fin 8)) (s : State) : Out :=
  .next (s.startV q v k (s.lanesOf q v g) vCvtE5F)
/-- VFU operation CvtFBf (08 R176). -/
def execVfuCvtFBf (q : Sq) (v : Vc) (k : Fin 4) (g : Option (Fin 8)) (s : State) : Out :=
  .next (s.startV q v k (s.lanesOf q v g) vCvtFBf)
/-- VFU operation CvtFHf (08 R176). -/
def execVfuCvtFHf (q : Sq) (v : Vc) (k : Fin 4) (g : Option (Fin 8)) (s : State) : Out :=
  .next (s.startV q v k (s.lanesOf q v g) vCvtFHf)
/-- VFU operation CvtFE4 (08 R176). -/
def execVfuCvtFE4 (q : Sq) (v : Vc) (k : Fin 4) (g : Option (Fin 8)) (s : State) : Out :=
  .next (s.startV q v k (s.lanesOf q v g) vCvtFE4)
/-- VFU operation CvtFE5 (08 R176). -/
def execVfuCvtFE5 (q : Sq) (v : Vc) (k : Fin 4) (g : Option (Fin 8)) (s : State) : Out :=
  .next (s.startV q v k (s.lanesOf q v g) vCvtFE5)
/-- VFU operation CvtII8 (08 R176). -/
def execVfuCvtII8 (q : Sq) (v : Vc) (k : Fin 4) (g : Option (Fin 8)) (s : State) : Out :=
  .next (s.startV q v k (s.lanesOf q v g) vCvtII8)
/-- VFU operation CvtI8I (08 R176). -/
def execVfuCvtI8I (q : Sq) (v : Vc) (k : Fin 4) (g : Option (Fin 8)) (s : State) : Out :=
  .next (s.startV q v k (s.lanesOf q v g) vCvtI8I)
/-- VFU operation QntE2 (08 R176). -/
def execVfuQntE2 (q : Sq) (v : Vc) (k : Fin 4) (g : Option (Fin 8)) (s : State) : Out :=
  .next (s.startV q v k (s.lanesOf q v g) vQntE2)
/-- VFU operation DqntE2 (08 R176). -/
def execVfuDqntE2 (q : Sq) (v : Vc) (k : Fin 4) (g : Option (Fin 8)) (s : State) : Out :=
  .next (s.startV q v k (s.lanesOf q v g) vDqntE2)
/-- VFU operation IcmpEq (08 R176). -/
def execVfuIcmpEq (q : Sq) (v : Vc) (k : Fin 4) (g : Option (Fin 8)) (s : State) : Out :=
  .next (s.startV q v k (s.lanesOf q v g) vIcmpEq)
/-- VFU operation IcmpLt (08 R176). -/
def execVfuIcmpLt (q : Sq) (v : Vc) (k : Fin 4) (g : Option (Fin 8)) (s : State) : Out :=
  .next (s.startV q v k (s.lanesOf q v g) vIcmpLt)
/-- VFU operation IcmpLtu (08 R176). -/
def execVfuIcmpLtu (q : Sq) (v : Vc) (k : Fin 4) (g : Option (Fin 8)) (s : State) : Out :=
  .next (s.startV q v k (s.lanesOf q v g) vIcmpLtu)
/-- VFU operation FcmpEq (08 R176). -/
def execVfuFcmpEq (q : Sq) (v : Vc) (k : Fin 4) (g : Option (Fin 8)) (s : State) : Out :=
  .next (s.startV q v k (s.lanesOf q v g) vFcmpEq)
/-- VFU operation FcmpLt (08 R176). -/
def execVfuFcmpLt (q : Sq) (v : Vc) (k : Fin 4) (g : Option (Fin 8)) (s : State) : Out :=
  .next (s.startV q v k (s.lanesOf q v g) vFcmpLt)
/-- VFU operation FcmpLe (08 R176). -/
def execVfuFcmpLe (q : Sq) (v : Vc) (k : Fin 4) (g : Option (Fin 8)) (s : State) : Out :=
  .next (s.startV q v k (s.lanesOf q v g) vFcmpLe)
/-- VFU operation FcmpUn (08 R176). -/
def execVfuFcmpUn (q : Sq) (v : Vc) (k : Fin 4) (g : Option (Fin 8)) (s : State) : Out :=
  .next (s.startV q v k (s.lanesOf q v g) vFcmpUn)
/-- VFU operation Vsel (08 R176). -/
def execVfuVsel (q : Sq) (v : Vc) (k : Fin 4) (g : Option (Fin 8)) (s : State) : Out :=
  .next (s.startV q v k (s.lanesOf q v g) vVsel)
/-- VFU operation Perm (08 R176). -/
def execVfuPerm (q : Sq) (v : Vc) (k : Fin 4) (g : Option (Fin 8)) (s : State) : Out :=
  .next (s.startV q v k (s.lanesOf q v g) vPerm)
/-- VFU operation Rotl (08 R176). -/
def execVfuRotl (q : Sq) (v : Vc) (k : Fin 4) (g : Option (Fin 8)) (s : State) : Out :=
  .next (s.startV q v k (s.lanesOf q v g) vRotl)
/-- VFU operation Bcast (08 R176). -/
def execVfuBcast (q : Sq) (v : Vc) (k : Fin 4) (g : Option (Fin 8)) (s : State) : Out :=
  .next (s.startV q v k (s.lanesOf q v g) vBcast)
/-- VFU operation RsumI (08 R176). -/
def execVfuRsumI (q : Sq) (v : Vc) (k : Fin 4) (g : Option (Fin 8)) (s : State) : Out :=
  .next (s.startV q v k (s.lanesOf q v g) vRsumI)
/-- VFU operation RsumF (08 R176). -/
def execVfuRsumF (q : Sq) (v : Vc) (k : Fin 4) (g : Option (Fin 8)) (s : State) : Out :=
  .next (s.startV q v k (s.lanesOf q v g) vRsumF)
/-- VFU operation RmaxF (08 R176). -/
def execVfuRmaxF (q : Sq) (v : Vc) (k : Fin 4) (g : Option (Fin 8)) (s : State) : Out :=
  .next (s.startV q v k (s.lanesOf q v g) vRmaxF)
/-- VFU operation RminF (08 R176). -/
def execVfuRminF (q : Sq) (v : Vc) (k : Fin 4) (g : Option (Fin 8)) (s : State) : Out :=
  .next (s.startV q v k (s.lanesOf q v g) vRminF)
/-- VFU operation RmaxI (08 R176). -/
def execVfuRmaxI (q : Sq) (v : Vc) (k : Fin 4) (g : Option (Fin 8)) (s : State) : Out :=
  .next (s.startV q v k (s.lanesOf q v g) vRmaxI)
/-- VFU operation ArgmaxF (08 R176). -/
def execVfuArgmaxF (q : Sq) (v : Vc) (k : Fin 4) (g : Option (Fin 8)) (s : State) : Out :=
  .next (s.startV q v k (s.lanesOf q v g) vArgmaxF)

/-! ## kfa and kfb -/

/-- KF operation Add (08 R177). -/
def execKfAdd (q : Sq) (v : Vc) (k : Bool) (s : State) : Out := .next (s.startK q v k kAdd)
/-- KF operation Sub (08 R177). -/
def execKfSub (q : Sq) (v : Vc) (k : Bool) (s : State) : Out := .next (s.startK q v k kSub)
/-- KF operation Mul (08 R177). -/
def execKfMul (q : Sq) (v : Vc) (k : Bool) (s : State) : Out := .next (s.startK q v k kMul)
/-- KF operation Mad (08 R177). -/
def execKfMad (q : Sq) (v : Vc) (k : Bool) (s : State) : Out := .next (s.startK q v k kMad)
/-- KF operation And (08 R177). -/
def execKfAnd (q : Sq) (v : Vc) (k : Bool) (s : State) : Out := .next (s.startK q v k kAnd)
/-- KF operation Or (08 R177). -/
def execKfOr (q : Sq) (v : Vc) (k : Bool) (s : State) : Out := .next (s.startK q v k kOr)
/-- KF operation Xor (08 R177). -/
def execKfXor (q : Sq) (v : Vc) (k : Bool) (s : State) : Out := .next (s.startK q v k kXor)
/-- KF operation Andn (08 R177). -/
def execKfAndn (q : Sq) (v : Vc) (k : Bool) (s : State) : Out := .next (s.startK q v k kAndn)
/-- KF operation Shl (08 R177). -/
def execKfShl (q : Sq) (v : Vc) (k : Bool) (s : State) : Out := .next (s.startK q v k kShl)
/-- KF operation Shr (08 R177). -/
def execKfShr (q : Sq) (v : Vc) (k : Bool) (s : State) : Out := .next (s.startK q v k kShr)
/-- KF operation Sra (08 R177). -/
def execKfSra (q : Sq) (v : Vc) (k : Bool) (s : State) : Out := .next (s.startK q v k kSra)
/-- KF operation Min (08 R177). -/
def execKfMin (q : Sq) (v : Vc) (k : Bool) (s : State) : Out := .next (s.startK q v k kMin)
/-- KF operation Max (08 R177). -/
def execKfMax (q : Sq) (v : Vc) (k : Bool) (s : State) : Out := .next (s.startK q v k kMax)
/-- KF operation Minu (08 R177). -/
def execKfMinu (q : Sq) (v : Vc) (k : Bool) (s : State) : Out := .next (s.startK q v k kMinu)
/-- KF operation Maxu (08 R177). -/
def execKfMaxu (q : Sq) (v : Vc) (k : Bool) (s : State) : Out := .next (s.startK q v k kMaxu)
/-- KF operation Popc (08 R177). -/
def execKfPopc (q : Sq) (v : Vc) (k : Bool) (s : State) : Out := .next (s.startK q v k kPopc)
/-- KF operation Clz (08 R177). -/
def execKfClz (q : Sq) (v : Vc) (k : Bool) (s : State) : Out := .next (s.startK q v k kClz)
/-- KF operation Sel (08 R177). -/
def execKfSel (q : Sq) (v : Vc) (k : Bool) (s : State) : Out := .next (s.startK q v k kSel)
/-- KF operation CmpEq (08 R177). -/
def execKfCmpEq (q : Sq) (v : Vc) (k : Bool) (s : State) : Out := .next (s.startK q v k kCmpEq)
/-- KF operation CmpLt (08 R177). -/
def execKfCmpLt (q : Sq) (v : Vc) (k : Bool) (s : State) : Out := .next (s.startK q v k kCmpLt)
/-- KF operation CmpLtu (08 R177). -/
def execKfCmpLtu (q : Sq) (v : Vc) (k : Bool) (s : State) : Out := .next (s.startK q v k kCmpLtu)
/-- KF operation Lea (08 R177). -/
def execKfLea (q : Sq) (v : Vc) (k : Bool) (s : State) : Out := .next (s.startK q v k kLea)

/-! ## ctl and mem -/

/-- CTL_LOOP (08 R179): the bundle that the core issued last starts a loop; wrong arguments are LOOP_COUNT. -/
def execCtlLoop (q : Sq) (v : Vc) (s : State) : Out :=
  let x := s.core q v
  match x.issued.getLast? with
  | none => .next s
  | some i =>
    let n := (x.sa[scaUnit 7]).toNat
    if n = 0 || n > 65536 || bits x.sb[scaUnit 7] 6 58 ≠ 0 then .next (s.bundleFault q v i.ent i.id 7 LOOP_COUNT)
    else .next (s.modCore q v (fun x => x.startLoop i.ent))

/-- CTL_VFENCE (08 R178). -/
def execCtlVfence (q : Sq) (v : Vc) (s : State) : Out := .next (s.modCore q v (fun x => x.ctlOp 0x01))
/-- CTL_RMODE (08 R178). -/
def execCtlRmode (q : Sq) (v : Vc) (s : State) : Out := .next (s.modCore q v (fun x => x.ctlOp 0x02))
/-- CTL_COND (08 R178). -/
def execCtlCond (q : Sq) (v : Vc) (s : State) : Out := .next (s.modCore q v (fun x => x.ctlOp 0x03))
/-- CTL_QSTAT (08 R178). -/
def execCtlQstat (q : Sq) (v : Vc) (s : State) : Out := .next (s.modCore q v (fun x => x.ctlOp 0x04))
/-- CTL_MFIRST (08 R178). -/
def execCtlMfirst (q : Sq) (v : Vc) (s : State) : Out := .next (s.modCore q v (fun x => x.ctlOp 0x05))
/-- MEM_GBASE (08 R181). -/
def execMemGbase (q : Sq) (v : Vc) (s : State) : Out := .next (s.startMem q v 0x00)
/-- MEM_GLEV (08 R181). -/
def execMemGlev (q : Sq) (v : Vc) (s : State) : Out := .next (s.startMem q v 0x01)
/-- MEM_GCFG (08 R181). -/
def execMemGcfg (q : Sq) (v : Vc) (s : State) : Out := .next (s.startMem q v 0x02)
/-- MEM_GRST (08 R181). -/
def execMemGrst (q : Sq) (v : Vc) (s : State) : Out := .next (s.startMem q v 0x03)
/-- MEM_GPOS (08 R181). -/
def execMemGpos (q : Sq) (v : Vc) (s : State) : Out := .next (s.startMem q v 0x04)

end Sys2Proof.Machine
end

