-- ==== Sys2Proof/Machine/Dispatch.lean ====
section
/-! DEFINITION. One arm per instruction: a direct call of its meaning. -/

namespace Sys2Proof.Machine

/-- The meaning of an instruction. -/
def exec (i : Instr) (s : State) : Host.Outcome State Fault Refusal :=
  match i with
  | .add d a b => Sys2Proof.Machine.execAdd d a b s
  | .sub d a b => Sys2Proof.Machine.execSub d a b s
  | .and d a b => Sys2Proof.Machine.execAnd d a b s
  | .or d a b => Sys2Proof.Machine.execOr d a b s
  | .xor d a b => Sys2Proof.Machine.execXor d a b s
  | .andn d a b => Sys2Proof.Machine.execAndn d a b s
  | .shl d a b => Sys2Proof.Machine.execShl d a b s
  | .shr d a b => Sys2Proof.Machine.execShr d a b s
  | .sra d a b => Sys2Proof.Machine.execSra d a b s
  | .ror d a b => Sys2Proof.Machine.execRor d a b s
  | .shli d a h => Sys2Proof.Machine.execShli d a h s
  | .shri d a h => Sys2Proof.Machine.execShri d a h s
  | .srai d a h => Sys2Proof.Machine.execSrai d a h s
  | .rori d a h => Sys2Proof.Machine.execRori d a h s
  | .mul d a b => Sys2Proof.Machine.execMul d a b s
  | .mulh d a b => Sys2Proof.Machine.execMulh d a b s
  | .mulhu d a b => Sys2Proof.Machine.execMulhu d a b s
  | .div d a b => Sys2Proof.Machine.execDiv d a b s
  | .divu d a b => Sys2Proof.Machine.execDivu d a b s
  | .rem d a b => Sys2Proof.Machine.execRem d a b s
  | .remu d a b => Sys2Proof.Machine.execRemu d a b s
  | .min d a b => Sys2Proof.Machine.execMin d a b s
  | .max d a b => Sys2Proof.Machine.execMax d a b s
  | .minu d a b => Sys2Proof.Machine.execMinu d a b s
  | .maxu d a b => Sys2Proof.Machine.execMaxu d a b s
  | .slt d a b => Sys2Proof.Machine.execSlt d a b s
  | .sltu d a b => Sys2Proof.Machine.execSltu d a b s
  | .sext d a n => Sys2Proof.Machine.execSext d a n s
  | .clz d a => Sys2Proof.Machine.execClz d a s
  | .popc d a => Sys2Proof.Machine.execPopc d a s
  | .adds d a b => Sys2Proof.Machine.execAdds d a b s
  | .addi d a imm => Sys2Proof.Machine.execAddi d a imm s
  | .andi d a imm => Sys2Proof.Machine.execAndi d a imm s
  | .ori d a imm => Sys2Proof.Machine.execOri d a imm s
  | .xori d a imm => Sys2Proof.Machine.execXori d a imm s
  | .movi d imm => Sys2Proof.Machine.execMovi d imm s
  | .movhi d k imm => Sys2Proof.Machine.execMovhi d k imm s
  | .slti d a imm => Sys2Proof.Machine.execSlti d a imm s
  | .cmpEq p a b => Sys2Proof.Machine.execCmpEq p a b s
  | .cmpNe p a b => Sys2Proof.Machine.execCmpNe p a b s
  | .cmpLt p a b => Sys2Proof.Machine.execCmpLt p a b s
  | .cmpLe p a b => Sys2Proof.Machine.execCmpLe p a b s
  | .cmpLtu p a b => Sys2Proof.Machine.execCmpLtu p a b s
  | .cmpLeu p a b => Sys2Proof.Machine.execCmpLeu p a b s
  | .pand d a b => Sys2Proof.Machine.execPand d a b s
  | .por d a b => Sys2Proof.Machine.execPor d a b s
  | .pxor d a b => Sys2Proof.Machine.execPxor d a b s
  | .pandn d a b => Sys2Proof.Machine.execPandn d a b s
  | .pmov d a => Sys2Proof.Machine.execPmov d a s
  | .ptos d a => Sys2Proof.Machine.execPtos d a s
  | .cmpiEq p a imm => Sys2Proof.Machine.execCmpiEq p a imm s
  | .cmpiLt p a imm => Sys2Proof.Machine.execCmpiLt p a imm s
  | .cmpiLtu p a imm => Sys2Proof.Machine.execCmpiLtu p a imm s
  | .sel d a b p => Sys2Proof.Machine.execSel d a b p s
  | .ldB d b sp o => Sys2Proof.Machine.execLdB d b sp o s
  | .ldH d b sp o => Sys2Proof.Machine.execLdH d b sp o s
  | .ldW d b sp o => Sys2Proof.Machine.execLdW d b sp o s
  | .ldD d b sp o => Sys2Proof.Machine.execLdD d b sp o s
  | .stW d b sp o => Sys2Proof.Machine.execStW d b sp o s
  | .stD d b sp o => Sys2Proof.Machine.execStD d b sp o s
  | .stx d a b sp z => Sys2Proof.Machine.execStx d a b sp z s
  | .swap d a b sp z => Sys2Proof.Machine.execSwap d a b sp z s
  | .cas d a b sp z => Sys2Proof.Machine.execCas d a b sp z s
  | .aadd d a b sp z => Sys2Proof.Machine.execAadd d a b sp z s
  | .aand d a b sp z => Sys2Proof.Machine.execAand d a b sp z s
  | .aor d a b sp z => Sys2Proof.Machine.execAor d a b sp z s
  | .axor d a b sp z => Sys2Proof.Machine.execAxor d a b sp z s
  | .amin d a b sp z => Sys2Proof.Machine.execAmin d a b sp z s
  | .amax d a b sp z => Sys2Proof.Machine.execAmax d a b sp z s
  | .aminu d a b sp z => Sys2Proof.Machine.execAminu d a b sp z s
  | .amaxu d a b sp z => Sys2Proof.Machine.execAmaxu d a b sp z s
  | .acq d a sp => Sys2Proof.Machine.execAcq d a sp s
  | .rel a sp => Sys2Proof.Machine.execRel a sp s
  | .mon a => Sys2Proof.Machine.execMon a s
  | .mwait d a => Sys2Proof.Machine.execMwait d a s
  | .xfence f t => Sys2Proof.Machine.execXfence f t s
  | .br p sp o => Sys2Proof.Machine.execBr p sp o s
  | .brN p sp o => Sys2Proof.Machine.execBrN p sp o s
  | .call o => Sys2Proof.Machine.execCall o s
  | .jr a => Sys2Proof.Machine.execJr a s
  | .jrN a => Sys2Proof.Machine.execJrN a s
  | .jrl d a => Sys2Proof.Machine.execJrl d a s
  | .jrlN d a => Sys2Proof.Machine.execJrlN d a s
  | .yield => Sys2Proof.Machine.execYield s
  | .exit => Sys2Proof.Machine.execExit s
  | .spawn a => Sys2Proof.Machine.execSpawn a s
  | .tmHold a b n => Sys2Proof.Machine.execTmHold a b n s
  | .tmDrop a b n => Sys2Proof.Machine.execTmDrop a b n s
  | .tmMove d a b n => Sys2Proof.Machine.execTmMove d a b n s
  | .tmBar a n => Sys2Proof.Machine.execTmBar a n s
  | .tmWaitf a n => Sys2Proof.Machine.execTmWaitf a n s
  | .tmFront d n => Sys2Proof.Machine.execTmFront d n s
  | .tmMtt d a => Sys2Proof.Machine.execTmMtt d a s
  | .tmMft d a => Sys2Proof.Machine.execTmMft d a s
  | .tmEdge d a e n => Sys2Proof.Machine.execTmEdge d a e n s
  | .tmAddc d imm k => Sys2Proof.Machine.execTmAddc d imm k s
  | .emit v a => Sys2Proof.Machine.execEmit v a s
  | .emitP v a b k f => Sys2Proof.Machine.execEmitP v a b k f s
  | .emitBc a m => Sys2Proof.Machine.execEmitBc a m s
  | .eqWait v n => Sys2Proof.Machine.execEqWait v n s
  | .eqStat v d => Sys2Proof.Machine.execEqStat v d s
  | .cpPut d a => Sys2Proof.Machine.execCpPut d a s
  | .cpGet d a => Sys2Proof.Machine.execCpGet d a s
  | .cpPuts d a => Sys2Proof.Machine.execCpPuts d a s
  | .cpMcast d a => Sys2Proof.Machine.execCpMcast d a s
  | .cpGather d a => Sys2Proof.Machine.execCpGather d a s
  | .cpMig d a => Sys2Proof.Machine.execCpMig d a s
  | .hWait a sp => Sys2Proof.Machine.execHWait a sp s
  | .hStat d a => Sys2Proof.Machine.execHStat d a s
  | .hFree a => Sys2Proof.Machine.execHFree a s
  | .hBind a b => Sys2Proof.Machine.execHBind a b s
  | .hKeep a => Sys2Proof.Machine.execHKeep a s
  | .hDisc a => Sys2Proof.Machine.execHDisc a s
  | .blkLd d a b => Sys2Proof.Machine.execBlkLd d a b s
  | .blkEvict a => Sys2Proof.Machine.execBlkEvict a s
  | .blkWait d a => Sys2Proof.Machine.execBlkWait d a s
  | .waitC r c sp l => Sys2Proof.Machine.execWaitC r c sp l s
  | .rgnDecl d a => Sys2Proof.Machine.execRgnDecl d a s
  | .rgnBind a b => Sys2Proof.Machine.execRgnBind a b s
  | .fmtSet a b => Sys2Proof.Machine.execFmtSet a b s
  | .fmtGet d a => Sys2Proof.Machine.execFmtGet d a s
  | .prefI b sp o => Sys2Proof.Machine.execPrefI b sp o s
  | .prefD b sp o => Sys2Proof.Machine.execPrefD b sp o s
  | .prefM b sp o => Sys2Proof.Machine.execPrefM b sp o s
  | .demoteD b sp o => Sys2Proof.Machine.execDemoteD b sp o s
  | .reservedHint k b sp o => Sys2Proof.Machine.execReservedHint k b sp o s
  | .mjOpen d => Sys2Proof.Machine.execMjOpen d s
  | .mjWr a b => Sys2Proof.Machine.execMjWr a b s
  | .mjCommit d => Sys2Proof.Machine.execMjCommit d s
  | .mjAbort => Sys2Proof.Machine.execMjAbort s
  | .mjStat d a => Sys2Proof.Machine.execMjStat d a s
  | .psSafe a => Sys2Proof.Machine.execPsSafe a s
  | .psWake d a => Sys2Proof.Machine.execPsWake d a s
  | .psNap d => Sys2Proof.Machine.execPsNap d s
  | .psDoze d => Sys2Proof.Machine.execPsDoze d s
  | .rdtime d => Sys2Proof.Machine.execRdtime d s
  | .rdcyc d => Sys2Proof.Machine.execRdcyc d s
  | .mfs d r => Sys2Proof.Machine.execMfs d r s
  | .mts a r => Sys2Proof.Machine.execMts a r s
  | .trap imm => Sys2Proof.Machine.execTrap imm s
  | .rfe => Sys2Proof.Machine.execRfe s
  | .ctxStart a => Sys2Proof.Machine.execCtxStart a s
  | .ctxSave d a => Sys2Proof.Machine.execCtxSave d a s
  | .ctxRestore d a => Sys2Proof.Machine.execCtxRestore d a s
  | .ctxEnd d a => Sys2Proof.Machine.execCtxEnd d a s
  | .mtrl a k => Sys2Proof.Machine.execMtrl a k s
  | .tlbi a => Sys2Proof.Machine.execTlbi a s
  | .bundleIssue q v => Sys2Proof.Machine.execBundleIssue q v s
  | .bundleRetire q v => Sys2Proof.Machine.execBundleRetire q v s
  | .unitResultDelivery q v k => Sys2Proof.Machine.execUnitResultDelivery q v k s
  | .streamLoadLand q v => Sys2Proof.Machine.execStreamLoadLand q v s
  | .queuedGeneratorFetch q v g => Sys2Proof.Machine.execQueuedGeneratorFetch q v g s
  | .loopReplay q v => Sys2Proof.Machine.execLoopReplay q v s
  | .vcoreStall q v => Sys2Proof.Machine.execVcoreStall q v s
  | .bundleFaultDelivery q c => Sys2Proof.Machine.execBundleFaultDelivery q c s
  | .emitStall q c => Sys2Proof.Machine.execEmitStall q c s
  | .blockedInstructionResume q c => Sys2Proof.Machine.execBlockedInstructionResume q c s
  | .mwaitWake q c => Sys2Proof.Machine.execMwaitWake q c s
  | .mwaitTimeout q c => Sys2Proof.Machine.execMwaitTimeout q c s
  | .loadValueDelivery q c => Sys2Proof.Machine.execLoadValueDelivery q c s
  | .icacheFillComplete q imm => Sys2Proof.Machine.execIcacheFillComplete q imm s
  | .blkFillComplete die b => Sys2Proof.Machine.execBlkFillComplete die b s
  | .contextBind q => Sys2Proof.Machine.execContextBind q s
  | .contextFree q c => Sys2Proof.Machine.execContextFree q c s
  | .fcredCredit q => Sys2Proof.Machine.execFcredCredit q s
  | .firmwareInterrupt q c => Sys2Proof.Machine.execFirmwareInterrupt q c s
  | .firmwareServiceLimit q => Sys2Proof.Machine.execFirmwareServiceLimit q s
  | .runOverrun q => Sys2Proof.Machine.execRunOverrun q s
  | .specifierWrite q v x => Sys2Proof.Machine.execSpecifierWrite q v x s
  | .leaseRequest q v x => Sys2Proof.Machine.execLeaseRequest q v x s
  | .leaseRelease q v x => Sys2Proof.Machine.execLeaseRelease q v x s
  | .leaseClear q v x => Sys2Proof.Machine.execLeaseClear q v x s
  | .leaseGrant q => Sys2Proof.Machine.execLeaseGrant q s
  | .dpaMm q v x => Sys2Proof.Machine.execDpaMm q v x s
  | .dpaWld q v x => Sys2Proof.Machine.execDpaWld q v x s
  | .dpaZero q v x => Sys2Proof.Machine.execDpaZero q v x s
  | .dpaDrain q v x => Sys2Proof.Machine.execDpaDrain q v x s
  | .dpaAccld q v x => Sys2Proof.Machine.execDpaAccld q v x s
  | .dpaAccadd q v x => Sys2Proof.Machine.execDpaAccadd q v x s
  | .dpaCbld q v x => Sys2Proof.Machine.execDpaCbld q v x s
  | .dpaSync q v x => Sys2Proof.Machine.execDpaSync q v x s
  | .dpaDist q v x => Sys2Proof.Machine.execDpaDist q v x s
  | .dpaNear q v x => Sys2Proof.Machine.execDpaNear q v x s
  | .dpaCupd q v x => Sys2Proof.Machine.execDpaCupd q v x s
  | .dpaCdiv q v x => Sys2Proof.Machine.execDpaCdiv q v x s
  | .dpaCntr q v x => Sys2Proof.Machine.execDpaCntr q v x s
  | .dpaCmp24 q v x => Sys2Proof.Machine.execDpaCmp24 q v x s
  | .dpaCbenc q v x => Sys2Proof.Machine.execDpaCbenc q v x s
  | .arrayDeferredAccept q v => Sys2Proof.Machine.execArrayDeferredAccept q v s
  | .arrayStall q v => Sys2Proof.Machine.execArrayStall q v s
  | .arrayStepRetire q => Sys2Proof.Machine.execArrayStepRetire q s
  | .arrayCommandRetire q => Sys2Proof.Machine.execArrayCommandRetire q s
  | .copyStart e => Sys2Proof.Machine.execCopyStart e s
  | .copyChunkRestart e => Sys2Proof.Machine.execCopyChunkRestart e s
  | .copySignalApply e imm => Sys2Proof.Machine.execCopySignalApply e imm s
  | .copyComplete e => Sys2Proof.Machine.execCopyComplete e s
  | .pageMigration e => Sys2Proof.Machine.execPageMigration e s
  | .countMessageApply q => Sys2Proof.Machine.execCountMessageApply q s
  | .frontierBroadcast n => Sys2Proof.Machine.execFrontierBroadcast n s
  | .frontierStall q c => Sys2Proof.Machine.execFrontierStall q c s
  | .lockStall q c => Sys2Proof.Machine.execLockStall q c s
  | .copyStall q c => Sys2Proof.Machine.execCopyStall q c s
  | .commitEntryArrival q imm => Sys2Proof.Machine.execCommitEntryArrival q imm s
  | .plainCommit q => Sys2Proof.Machine.execPlainCommit q s
  | .napEntry q => Sys2Proof.Machine.execNapEntry q s
  | .squareWake q => Sys2Proof.Machine.execSquareWake q s
  | .droopAlarm q => Sys2Proof.Machine.execDroopAlarm q s
  | .droopWindowEnd q persists => Sys2Proof.Machine.execDroopWindowEnd q persists s
  | .brownEntry => Sys2Proof.Machine.execBrownEntry s
  | .brownExit => Sys2Proof.Machine.execBrownExit s
  | .powerFailWarning badSquares hubOk => Sys2Proof.Machine.execPowerFailWarning badSquares hubOk s
  | .holdupExhausted => Sys2Proof.Machine.execHoldupExhausted s
  | .resumption => Sys2Proof.Machine.execResumption s
  | .coldStart => Sys2Proof.Machine.execColdStart s
  | .mresetGo => Sys2Proof.Machine.execMresetGo s
  | .sqtDoorbell n x => Sys2Proof.Machine.execSqtDoorbell n x s
  | .cqhWrite n x => Sys2Proof.Machine.execCqhWrite n x s
  | .hostRegisterWrite a x => Sys2Proof.Machine.execHostRegisterWrite a x s
  | .hostWindowRead a n => Sys2Proof.Machine.execHostWindowRead a n s
  | .hostWindowWrite a bs => Sys2Proof.Machine.execHostWindowWrite a bs s
  | .commandTake => Sys2Proof.Machine.execCommandTake s
  | .load p => Sys2Proof.Machine.execLoad p s
  | .loadInstallComplete imm => Sys2Proof.Machine.execLoadInstallComplete imm s
  | .unload => Sys2Proof.Machine.execUnload s
  | .invoke => Sys2Proof.Machine.execInvoke s
  | .acceptTokenRelease imm => Sys2Proof.Machine.execAcceptTokenRelease imm s
  | .invokeCompletion imm => Sys2Proof.Machine.execInvokeCompletion imm s
  | .updateImage p => Sys2Proof.Machine.execUpdateImage p s
  | .updateMap p => Sys2Proof.Machine.execUpdateMap p s
  | .updatePatch => Sys2Proof.Machine.execUpdatePatch s
  | .queryIdent => Sys2Proof.Machine.execQueryIdent s
  | .queryResidence => Sys2Proof.Machine.execQueryResidence s
  | .queryBound => Sys2Proof.Machine.execQueryBound s
  | .queryAttest => Sys2Proof.Machine.execQueryAttest s
  | .signalNotify => Sys2Proof.Machine.execSignalNotify s
  | .notifyFire imm => Sys2Proof.Machine.execNotifyFire imm s
  | .signalReduce => Sys2Proof.Machine.execSignalReduce s
  | .reduceCombine imm others => Sys2Proof.Machine.execReduceCombine imm others s
  | .peerLost m waits => Sys2Proof.Machine.execPeerLost m waits s
  | .laneFailure => Sys2Proof.Machine.execLaneFailure s
  | .linkRestore => Sys2Proof.Machine.execLinkRestore s
  | .vfuIadd q v k g => Sys2Proof.Machine.execVfuIadd q v k g s
  | .vfuIsub q v k g => Sys2Proof.Machine.execVfuIsub q v k g s
  | .vfuImul q v k g => Sys2Proof.Machine.execVfuImul q v k g s
  | .vfuImad q v k g => Sys2Proof.Machine.execVfuImad q v k g s
  | .vfuIadds q v k g => Sys2Proof.Machine.execVfuIadds q v k g s
  | .vfuIsubs q v k g => Sys2Proof.Machine.execVfuIsubs q v k g s
  | .vfuImin q v k g => Sys2Proof.Machine.execVfuImin q v k g s
  | .vfuImax q v k g => Sys2Proof.Machine.execVfuImax q v k g s
  | .vfuIminu q v k g => Sys2Proof.Machine.execVfuIminu q v k g s
  | .vfuImaxu q v k g => Sys2Proof.Machine.execVfuImaxu q v k g s
  | .vfuAnd q v k g => Sys2Proof.Machine.execVfuAnd q v k g s
  | .vfuOr q v k g => Sys2Proof.Machine.execVfuOr q v k g s
  | .vfuXor q v k g => Sys2Proof.Machine.execVfuXor q v k g s
  | .vfuShl q v k g => Sys2Proof.Machine.execVfuShl q v k g s
  | .vfuShr q v k g => Sys2Proof.Machine.execVfuShr q v k g s
  | .vfuSra q v k g => Sys2Proof.Machine.execVfuSra q v k g s
  | .vfuIabs q v k g => Sys2Proof.Machine.execVfuIabs q v k g s
  | .vfuIaddH q v k g => Sys2Proof.Machine.execVfuIaddH q v k g s
  | .vfuIaddB q v k g => Sys2Proof.Machine.execVfuIaddB q v k g s
  | .vfuIaddsB q v k g => Sys2Proof.Machine.execVfuIaddsB q v k g s
  | .vfuIdot4 q v k g => Sys2Proof.Machine.execVfuIdot4 q v k g s
  | .vfuFadd q v k g => Sys2Proof.Machine.execVfuFadd q v k g s
  | .vfuFsub q v k g => Sys2Proof.Machine.execVfuFsub q v k g s
  | .vfuFmul q v k g => Sys2Proof.Machine.execVfuFmul q v k g s
  | .vfuFma q v k g => Sys2Proof.Machine.execVfuFma q v k g s
  | .vfuFmin q v k g => Sys2Proof.Machine.execVfuFmin q v k g s
  | .vfuFmax q v k g => Sys2Proof.Machine.execVfuFmax q v k g s
  | .vfuFabs q v k g => Sys2Proof.Machine.execVfuFabs q v k g s
  | .vfuFneg q v k g => Sys2Proof.Machine.execVfuFneg q v k g s
  | .vfuFrcp q v k g => Sys2Proof.Machine.execVfuFrcp q v k g s
  | .vfuFsqrt q v k g => Sys2Proof.Machine.execVfuFsqrt q v k g s
  | .vfuFaddBf q v k g => Sys2Proof.Machine.execVfuFaddBf q v k g s
  | .vfuFmulBf q v k g => Sys2Proof.Machine.execVfuFmulBf q v k g s
  | .vfuFmaBf q v k g => Sys2Proof.Machine.execVfuFmaBf q v k g s
  | .vfuFmaHf q v k g => Sys2Proof.Machine.execVfuFmaHf q v k g s
  | .vfuFmaE4 q v k g => Sys2Proof.Machine.execVfuFmaE4 q v k g s
  | .vfuFmaE5 q v k g => Sys2Proof.Machine.execVfuFmaE5 q v k g s
  | .vfuCvtFI q v k g => Sys2Proof.Machine.execVfuCvtFI q v k g s
  | .vfuCvtIF q v k g => Sys2Proof.Machine.execVfuCvtIF q v k g s
  | .vfuCvtBfF q v k g => Sys2Proof.Machine.execVfuCvtBfF q v k g s
  | .vfuCvtHfF q v k g => Sys2Proof.Machine.execVfuCvtHfF q v k g s
  | .vfuCvtE4F q v k g => Sys2Proof.Machine.execVfuCvtE4F q v k g s
  | .vfuCvtE5F q v k g => Sys2Proof.Machine.execVfuCvtE5F q v k g s
  | .vfuCvtFBf q v k g => Sys2Proof.Machine.execVfuCvtFBf q v k g s
  | .vfuCvtFHf q v k g => Sys2Proof.Machine.execVfuCvtFHf q v k g s
  | .vfuCvtFE4 q v k g => Sys2Proof.Machine.execVfuCvtFE4 q v k g s
  | .vfuCvtFE5 q v k g => Sys2Proof.Machine.execVfuCvtFE5 q v k g s
  | .vfuCvtII8 q v k g => Sys2Proof.Machine.execVfuCvtII8 q v k g s
  | .vfuCvtI8I q v k g => Sys2Proof.Machine.execVfuCvtI8I q v k g s
  | .vfuQntE2 q v k g => Sys2Proof.Machine.execVfuQntE2 q v k g s
  | .vfuDqntE2 q v k g => Sys2Proof.Machine.execVfuDqntE2 q v k g s
  | .vfuIcmpEq q v k g => Sys2Proof.Machine.execVfuIcmpEq q v k g s
  | .vfuIcmpLt q v k g => Sys2Proof.Machine.execVfuIcmpLt q v k g s
  | .vfuIcmpLtu q v k g => Sys2Proof.Machine.execVfuIcmpLtu q v k g s
  | .vfuFcmpEq q v k g => Sys2Proof.Machine.execVfuFcmpEq q v k g s
  | .vfuFcmpLt q v k g => Sys2Proof.Machine.execVfuFcmpLt q v k g s
  | .vfuFcmpLe q v k g => Sys2Proof.Machine.execVfuFcmpLe q v k g s
  | .vfuFcmpUn q v k g => Sys2Proof.Machine.execVfuFcmpUn q v k g s
  | .vfuVsel q v k g => Sys2Proof.Machine.execVfuVsel q v k g s
  | .vfuPerm q v k g => Sys2Proof.Machine.execVfuPerm q v k g s
  | .vfuRotl q v k g => Sys2Proof.Machine.execVfuRotl q v k g s
  | .vfuBcast q v k g => Sys2Proof.Machine.execVfuBcast q v k g s
  | .vfuRsumI q v k g => Sys2Proof.Machine.execVfuRsumI q v k g s
  | .vfuRsumF q v k g => Sys2Proof.Machine.execVfuRsumF q v k g s
  | .vfuRmaxF q v k g => Sys2Proof.Machine.execVfuRmaxF q v k g s
  | .vfuRminF q v k g => Sys2Proof.Machine.execVfuRminF q v k g s
  | .vfuRmaxI q v k g => Sys2Proof.Machine.execVfuRmaxI q v k g s
  | .vfuArgmaxF q v k g => Sys2Proof.Machine.execVfuArgmaxF q v k g s
  | .kfAdd q v k => Sys2Proof.Machine.execKfAdd q v k s
  | .kfSub q v k => Sys2Proof.Machine.execKfSub q v k s
  | .kfMul q v k => Sys2Proof.Machine.execKfMul q v k s
  | .kfMad q v k => Sys2Proof.Machine.execKfMad q v k s
  | .kfAnd q v k => Sys2Proof.Machine.execKfAnd q v k s
  | .kfOr q v k => Sys2Proof.Machine.execKfOr q v k s
  | .kfXor q v k => Sys2Proof.Machine.execKfXor q v k s
  | .kfAndn q v k => Sys2Proof.Machine.execKfAndn q v k s
  | .kfShl q v k => Sys2Proof.Machine.execKfShl q v k s
  | .kfShr q v k => Sys2Proof.Machine.execKfShr q v k s
  | .kfSra q v k => Sys2Proof.Machine.execKfSra q v k s
  | .kfMin q v k => Sys2Proof.Machine.execKfMin q v k s
  | .kfMax q v k => Sys2Proof.Machine.execKfMax q v k s
  | .kfMinu q v k => Sys2Proof.Machine.execKfMinu q v k s
  | .kfMaxu q v k => Sys2Proof.Machine.execKfMaxu q v k s
  | .kfPopc q v k => Sys2Proof.Machine.execKfPopc q v k s
  | .kfClz q v k => Sys2Proof.Machine.execKfClz q v k s
  | .kfSel q v k => Sys2Proof.Machine.execKfSel q v k s
  | .kfCmpEq q v k => Sys2Proof.Machine.execKfCmpEq q v k s
  | .kfCmpLt q v k => Sys2Proof.Machine.execKfCmpLt q v k s
  | .kfCmpLtu q v k => Sys2Proof.Machine.execKfCmpLtu q v k s
  | .kfLea q v k => Sys2Proof.Machine.execKfLea q v k s
  | .ctlLoop q v => Sys2Proof.Machine.execCtlLoop q v s
  | .ctlVfence q v => Sys2Proof.Machine.execCtlVfence q v s
  | .ctlRmode q v => Sys2Proof.Machine.execCtlRmode q v s
  | .ctlCond q v => Sys2Proof.Machine.execCtlCond q v s
  | .ctlQstat q v => Sys2Proof.Machine.execCtlQstat q v s
  | .ctlMfirst q v => Sys2Proof.Machine.execCtlMfirst q v s
  | .memGbase q v => Sys2Proof.Machine.execMemGbase q v s
  | .memGlev q v => Sys2Proof.Machine.execMemGlev q v s
  | .memGcfg q v => Sys2Proof.Machine.execMemGcfg q v s
  | .memGrst q v => Sys2Proof.Machine.execMemGrst q v s
  | .memGpos q v => Sys2Proof.Machine.execMemGpos q v s
  | .storePerformed q who => Sys2Proof.Machine.execStorePerformed q who s
  | .uncorrectableError a => Sys2Proof.Machine.execUncorrectableError a s
  | .updateInstallComplete imm => Sys2Proof.Machine.execUpdateInstallComplete imm s
  | .wfltClear => Sys2Proof.Machine.execWfltClear s
  | .qctlWrite n x => Sys2Proof.Machine.execQctlWrite n x s
  | .peerDomainConfig self peers => Sys2Proof.Machine.execPeerDomainConfig self peers s
  | .imageKeySlotWrite k key => Sys2Proof.Machine.execImageKeySlotWrite k key s

end Sys2Proof.Machine
end

