-- ==== Sys2Proof/Machine/Issue.lean ====
section
/-! DEFINITION. Issue: the choice of a context, the fetch of a word, the checks before an instruction executes, firmware's share, and which
events are possible when (02 R37; 05 R97 to R101, R106; 06 R130, R139, R140; 13 R298; 16 R332, R337). -/

namespace Sys2Proof.Machine

/-! ## Fetch (06 R139, R140) -/

def FETCH_UNMAPPED : Nat := 0x021
def FETCH_DENIED : Nat := 0x022
def FETCH_UNCORRECTABLE : Nat := 0x023
def FETCH_RANGE : Nat := 0x024

/-- What a fetch of q0 gives: the bytes of the word, a wait for a fill or a migration, or a cause. -/
inductive Fetched where
  | word (bs : List Byte) (s : State)
  | wait (s : State)
  | cause (c : Nat) (s : State)

/-- The fetch of the word at `pc` by context `c` of square `q`, checks 1 to 4 of 06 R140: check 4 fails where the fill for which the fetch
waited has come back with an error, in the order in which fills complete (18 R377). -/
def State.fetch (s : State) (q : Sq) (c : Cx) (pc : Nat) : Fetched :=
  if pc ≥ 2 ^ 48 then .cause FETCH_RANGE s
  else match s.translate q ((s.ctx q c).who c) { x := true } pc with
    | .error .stall => .wait s
    | .error (.cause e) => .cause (if e = PAGE_DENIED then FETCH_DENIED else FETCH_UNMAPPED) s
    | .ok (pa, t) =>
      let x := t.sq q
      let t := t.modSq q (fun x => { x with ifails := x.ifails.filter (fun e => e.2 ≠ c) })
      if x.icHit pc then .word (x.icBytes pc) (t.modSq q (fun x => x.icTouch pc))
      else if x.ifails.contains (pc / 128, c) then .cause FETCH_UNCORRECTABLE t
      else .wait ((t.icFill q pc pa (c == 8)).modSq q (fun x => x.icAwait pc c))

/-! ## The checks before an instruction executes -/

/-- The scalar registers that a word names. -/
def regsOf : Instr → List Reg
  | .add d a b => [d, a, b]
  | .sub d a b => [d, a, b]
  | .and d a b => [d, a, b]
  | .or d a b => [d, a, b]
  | .xor d a b => [d, a, b]
  | .andn d a b => [d, a, b]
  | .shl d a b => [d, a, b]
  | .shr d a b => [d, a, b]
  | .sra d a b => [d, a, b]
  | .ror d a b => [d, a, b]
  | .shli d a _ => [d, a]
  | .shri d a _ => [d, a]
  | .srai d a _ => [d, a]
  | .rori d a _ => [d, a]
  | .mul d a b => [d, a, b]
  | .mulh d a b => [d, a, b]
  | .mulhu d a b => [d, a, b]
  | .div d a b => [d, a, b]
  | .divu d a b => [d, a, b]
  | .rem d a b => [d, a, b]
  | .remu d a b => [d, a, b]
  | .min d a b => [d, a, b]
  | .max d a b => [d, a, b]
  | .minu d a b => [d, a, b]
  | .maxu d a b => [d, a, b]
  | .slt d a b => [d, a, b]
  | .sltu d a b => [d, a, b]
  | .sext d a _ => [d, a]
  | .clz d a => [d, a]
  | .popc d a => [d, a]
  | .adds d a b => [d, a, b]
  | .addi d a _ => [d, a]
  | .andi d a _ => [d, a]
  | .ori d a _ => [d, a]
  | .xori d a _ => [d, a]
  | .movi d _ => [d]
  | .movhi d _ _ => [d]
  | .slti d a _ => [d, a]
  | .cmpEq _ a b => [a, b]
  | .cmpNe _ a b => [a, b]
  | .cmpLt _ a b => [a, b]
  | .cmpLe _ a b => [a, b]
  | .cmpLtu _ a b => [a, b]
  | .cmpLeu _ a b => [a, b]
  | .ptos d _ => [d]
  | .cmpiEq _ a _ => [a]
  | .cmpiLt _ a _ => [a]
  | .cmpiLtu _ a _ => [a]
  | .sel d a b _ => [d, a, b]
  | .ldB d b _ _ => [d, b]
  | .ldH d b _ _ => [d, b]
  | .ldW d b _ _ => [d, b]
  | .ldD d b _ _ => [d, b]
  | .stW d b _ _ => [d, b]
  | .stD d b _ _ => [d, b]
  | .stx d a b _ _ => [d, a, b]
  | .swap d a b _ _ => [d, a, b]
  | .cas d a b _ _ => [d, a, b]
  | .aadd d a b _ _ => [d, a, b]
  | .aand d a b _ _ => [d, a, b]
  | .aor d a b _ _ => [d, a, b]
  | .axor d a b _ _ => [d, a, b]
  | .amin d a b _ _ => [d, a, b]
  | .amax d a b _ _ => [d, a, b]
  | .aminu d a b _ _ => [d, a, b]
  | .amaxu d a b _ _ => [d, a, b]
  | .acq d a _ => [d, a]
  | .rel a _ => [a]
  | .mon a => [a]
  | .mwait d a => [d, a]
  | .call _ => [31]
  | .jr a => [a]
  | .jrN a => [a]
  | .jrl d a => [d, a]
  | .jrlN d a => [d, a]
  | .spawn a => [a]
  | .tmHold _ b _ => [b]
  | .tmDrop _ b _ => [b]
  | .tmMove _ _ b _ => [b]
  | .tmFront d _ => [d]
  | .tmMtt _ a => [a]
  | .tmMft d _ => [d]
  | .emit _ a => [a]
  | .emitP _ a b _ _ => [a, b]
  | .emitBc a _ => [a]
  | .eqStat _ d => [d]
  | .cpPut d a => [d, a]
  | .cpGet d a => [d, a]
  | .cpPuts d a => [d, a]
  | .cpMcast d a => [d, a]
  | .cpGather d a => [d, a]
  | .cpMig d a => [d, a]
  | .hWait a _ => [a]
  | .hStat d a => [d, a]
  | .hFree a => [a]
  | .hBind a b => [a, b]
  | .hKeep a => [a]
  | .hDisc a => [a]
  | .blkLd d a b => [d, a, b]
  | .blkEvict a => [a]
  | .blkWait d a => [d, a]
  | .rgnDecl d a => [d, a]
  | .rgnBind a b => [a, b]
  | .fmtSet a b => [a, b]
  | .fmtGet d a => [d, a]
  | .prefI b _ _ => [b]
  | .prefD b _ _ => [b]
  | .prefM b _ _ => [b]
  | .demoteD b _ _ => [b]
  | .reservedHint _ b _ _ => [b]
  | .mjOpen d => [d]
  | .mjWr a b => [a, b]
  | .mjCommit d => [d]
  | .mjStat d a => [d, a]
  | .psSafe a => [a]
  | .psWake d a => [d, a]
  | .psNap d => [d]
  | .psDoze d => [d]
  | .rdtime d => [d]
  | .rdcyc d => [d]
  | .mfs d _ => [d]
  | .mts a _ => [a]
  | .ctxStart a => [a]
  | .ctxSave d a => [d, a]
  | .ctxRestore d a => [d, a]
  | .ctxEnd d a => [d, a]
  | .mtrl a _ => [a]
  | _ => []

/-- Whether a register that an instruction names, other than s0, awaits a value in flight (05 R106). -/
def Ctx.hazard (x : Ctx) (i : Instr) : Bool := x.loads.any (fun l => l.d ≠ 0 && (regsOf i).contains l.d)

/-- Whether an instruction ends with a boundary of 05 R101: the EMIT family, and the ends of a run. -/
def isBoundary : Instr → Bool
  | .emit _ _ | .emitP _ _ _ _ _ | .emitBc _ _ | .eqWait _ _ | .eqStat _ _ | .yield | .exit => true
  | _ => false

/-- Whether one more of count `k` of the cost summary exceeds it (13 R298). -/
def State.exceeds (s : State) (k n : Nat) : Bool := match s.budget s.fsq s.fcx k with
  | some m => decide (m < n + 1)
  | none => false

/-- Cause codes of decode checks 1 to 3 (02 R37). -/
def illegalCode : Illegal → Nat
  | .opcode => 0
  | .function => 1
  | .field => 2

/-- Whether a tile context may be chosen: READY and not held. -/
def Square.runnable (x : Square) (c : Fin 8) : Bool := x.ctxs[tileCx c].st == .ready && !x.ctxs[tileCx c].hold

/-- Whether some tile context may be chosen. -/
def Square.anyRunnable (x : Square) : Bool := (List.finRange 8).any x.runnable

/-- An instruction that F issues is counted: one of the 16 of a service, or one of a boundary's burst, and one credit; neither where no tile
context is ACTIVE or ready to run (05 R101, 15 R323). -/
def Square.spend (x : Square) : Square := match x.service with
  | some (c, n) => { x with service := some (c, n + 1), fcred := x.fcred - 1 }
  | none => if x.active.isNone && !x.anyRunnable then x else { x with fburst := x.fburst - 1, fcred := x.fcred - 1 }

/-- An entry takes an issue cycle: it counts as an instruction. In a tile context it closes the boundary at which F may issue, and in F it
spends F's share (05 R101, 13 R298). -/
def State.countIssue (s : State) : State :=
  let s := s.modMe (fun x => { x with instrs := x.instrs + 1 })
  if s.isF then s.modSq s.fsq Square.spend else s.modSq s.fsq (fun x => { x with fburst := 0 })

/-- Whether check 4 of 02 R37 refuses a word to context F, or to a tile context (02 R33, R36; 16 R336). -/
def formDenied (f : Bool) : Instr → Bool
  | .cpMig _ _ | .psWake _ _ | .psNap _ | .psDoze _ | .rfe | .ctxStart _ | .ctxSave _ _ | .ctxRestore _ _ | .ctxEnd _ _ | .mtrl _ _ => !f
  | .mfs _ r => !mfsAllowed f r.toNat
  | .mts _ r => !mtsAllowed f r.toNat
  | _ => false

/-- Whether an instruction waits on time or on a frontier (05 R101). -/
def waitsOnTime : Instr → Bool
  | .tmWaitf _ _ | .tmBar _ _ | .mwait _ _ => true
  | _ => false

/-- Whether F holds an instruction back: it does not execute one that waits on time or frontiers while a tile context is READY (05 R101;
log 74). -/
def State.heldBack (s : State) (i : Instr) : Bool := s.isF && waitsOnTime i && (s.sq s.fsq).anyRunnable

/-- A fetched and decoded instruction executes: check 4 of 02 R37, which changes no counter; its budget of boundaries, its registers, its
meaning. -/
def State.runInstr (s : State) (i : Instr) : Out :=
  if formDenied s.isF i then exec i s
  else if isBoundary i && s.exceeds 2 s.me.bounds then s.trap BUDGET_EXCEEDED
  else if s.me.hazard i || s.heldBack i then .next s
  else exec i s.countIssue

/-- The fetched bytes decoded by checks 1 to 3 of 02 R37; check 4 is in each meaning. -/
def State.runBytes (s : State) (bs : List Byte) : Out :=
  match decodeBytes bs with
  | some (.ok i, _) => s.runInstr i
  | some (.error e, _) => s.trapBad (word (leNat bs)) (illegalCode e)
  | none => .next s

/-- One issue of the issuing context: a waiting record is delivered first (07 R162), a nullified entry only shifts the queue (06 R130). -/
def State.issueOne (s : State) : Out :=
  let x := s.me
  if !x.records.isEmpty && (s.isF || !x.inh) then .next (s.deliver s.fsq s.fcx)
  else if x.q0.nul then .next s.countIssue.retire
  else if s.exceeds 1 x.instrs then s.trap BUDGET_EXCEEDED
  else match s.fetch s.fsq s.fcx x.q0.pc.toNat with
    | .wait t => .next t
    | .cause c t => t.trap c
    | .word bs t => t.runBytes bs

/-! ## The choice of a context (05 R100) -/

/-- The tile contexts in the order of examination: from the one after the context that ran last, modulo 8. -/
def Square.order (x : Square) : List (Fin 8) := (List.finRange 8).map (fun k => x.lastRun + 1 + k)

/-- The next context to become ACTIVE: the first in order among those of the highest priority. -/
def Square.choose (x : Square) : Option (Fin 8) :=
  let cs := x.order.filter x.runnable
  let top := listMax (cs.map (fun c => x.ctxs[tileCx c].pri))
  cs.find? (fun c => x.ctxs[tileCx c].pri == top)

/-- Context `c` becomes ACTIVE, and its run starts. -/
def State.activate (s : State) (q : Sq) (c : Fin 8) : State :=
  (s.modCtx q (tileCx c) (fun x => { x with st := .active, runStart := s.now })).modSq q (fun x => { x with active := some c })

/-- Whether the control core of a square issues: the package and the square run, and no machine check has stopped it (15 R324, 16 R332). -/
def State.coreRuns (s : State) (q : Sq) : Bool := s.power == .run && (s.sq q).power == .run && !(s.sq q).mchk

/-- An issue slot of the tile contexts of a square: the ACTIVE context, or the one chosen now, issues, unless a service holds the core, F
stands blocked in it, or the context waits. -/
def State.issueTile (s : State) (q : Sq) : Out :=
  let x := s.sq q
  if !s.coreRuns q || x.service.isSome || (s.ctx q 8).waits then .next s
  else match x.active with
    | some c => if (s.ctx q (tileCx c)).waits then .next s else (s.focus q (tileCx c)).issueOne
    | none => match x.choose with
      | some c => ((s.activate q c).focus q (tileCx c)).issueOne
      | none => .next s

/-! ## Firmware's share (05 R101, 15 R323) -/

/-- Whether F may take an issue slot: in a service up to 16 instructions; freely where no tile context is ACTIVE or ready to run; else
within the burst of a boundary, with credit. -/
def Square.firmwareSlot (x : Square) : Bool := match x.service with
  | some (_, n) => decide (n < 16)
  | none => (x.active.isNone && !x.anyRunnable) || (x.fburst ≠ 0 && x.fcred ≠ 0)

/-- An issue slot of context F. -/
def State.issueFirmware (s : State) (q : Sq) : Out :=
  if !s.coreRuns q || (s.ctx q 8).waits || !(s.sq q).firmwareSlot then .next s
  else (s.focus q 8).issueOne

/-! ## Events -/

/-- What an event needs: it never happens on its own; a square that issues; a square that runs; a package that runs; firmware at work;
INVOKE, which BROWN holds; the powered module; its link; nothing. -/
inductive Scene where
  | never
  | issuing (q : Sq)
  | awake (q : Sq)
  | package
  | firmware
  | invokes
  | powered
  | link
  | anytime
deriving DecidableEq, Repr

/-- Where a copy engine stands: a square, or a bulk engine of a die. -/
def engScene (e : Eng) : Scene := if h : e.val < 160 then .awake ⟨e.val, h⟩ else .package

/-- What a row needs to happen as an event. A word of the control core, an operation of a vector unit or of the array, and the MTS of TLBI
happen only inside an instruction or a bundle. -/
def scene : Instr → Scene
  | .bundleIssue q _ | .loopReplay q _ | .bundleFaultDelivery q _ | .emitStall q _ | .blockedInstructionResume q _ | .mwaitWake q _
  | .mwaitTimeout q _ | .firmwareInterrupt q _ | .firmwareServiceLimit q | .runOverrun q | .frontierStall q _ | .lockStall q _
  | .copyStall q _ => .issuing q
  | .bundleRetire q _ | .unitResultDelivery q _ _ | .streamLoadLand q _ | .queuedGeneratorFetch q _ _ | .vcoreStall q _
  | .loadValueDelivery q _ | .icacheFillComplete q _ | .contextBind q | .contextFree q _ | .fcredCredit q | .leaseGrant q
  | .arrayDeferredAccept q _ | .arrayStall q _ | .arrayStepRetire q | .arrayCommandRetire q | .napEntry q | .droopAlarm q
  | .droopWindowEnd q _ | .storePerformed q _ => .awake q
  | .copyStart e | .copyChunkRestart e | .copySignalApply e _ | .copyComplete e => engScene e
  | .blkFillComplete _ _ | .pageMigration _ | .countMessageApply _ | .frontierBroadcast _ | .commitEntryArrival _ _ | .plainCommit _
  | .squareWake _ | .acceptTokenRelease _ => .package
  | .load _ | .loadInstallComplete _ | .unload | .invokeCompletion _ | .updateImage _ | .updateMap _ | .updatePatch | .queryIdent
  | .queryResidence | .queryBound | .queryAttest | .signalNotify | .notifyFire _ | .signalReduce | .reduceCombine _ _ | .peerLost _ _
  | .updateInstallComplete _ | .commandTake => .firmware
  | .invoke => .invokes
  | .linkRestore | .laneFailure => .powered
  | .hostWindowRead _ _ | .hostWindowWrite _ _ => .link
  | .brownEntry | .brownExit | .powerFailWarning _ _ | .holdupExhausted | .resumption | .coldStart | .mresetGo | .sqtDoorbell _ _
  | .cqhWrite _ _ | .hostRegisterWrite _ _ | .uncorrectableError _ | .wfltClear | .qctlWrite _ _ | .peerDomainConfig _ _
  | .imageKeySlotWrite _ _ => .anytime
  | _ => .never

/-- Whether the state allows it. -/
def State.allows (s : State) : Scene → Bool
  | .never => false
  | .issuing q => s.coreRuns q
  | .awake q => s.power == .run && (s.sq q).power == .run
  | .package => s.power == .run
  | .firmware => (s.power == .run || s.power == .brown) && !s.mchk
  | .invokes => s.power == .run && !s.mchk
  | .powered => s.power == .run || s.power == .brown
  | .link => (s.power == .run || s.power == .brown) && s.lup
  | .anytime => true

/-- A machine check stops the taking of commands (15 R324, 17 R368). -/
def State.admits (s : State) (i : Instr) : Bool := !(i == .commandTake && s.mchk)

/-- An event: where the state does not allow it, nothing happens. -/
def State.event (s : State) (i : Instr) : Out := if s.allows (scene i) && s.admits i then exec i s else .next s

/-! ## Time (16 R348, R333) -/

/-- The square that acts in an occurrence. -/
def actor : What → Option Sq
  | .issue q => some q
  | .issueF q => some q
  | .event i => match scene i with
    | .issuing q => some q
    | .awake q => some q
    | _ => none

/-- The cycles of a square pass: its cycle counter, and its count towards firmware's credit while a tile context is ACTIVE. -/
def Square.tickCycles (x : Square) (n : Nat) : Square :=
  { x with cyc := x.cyc + n, fcycles := if x.active.isSome then x.fcycles + n else x.fcycles }

/-- The time of an occurrence passes: reference time in RUN and BROWN, the cycles of the acting square while it runs. -/
def State.passTime (s : State) (o : Occ) : State :=
  let s := if s.power = .run || s.power = .brown then { s with now := s.now + o.ns } else s
  match actor o.what with
  | some q => if s.power = .run && (s.sq q).power = .run then s.modSq q (fun x => x.tickCycles o.cycles) else s
  | none => s

/-- The moment since which a square is idle moves on while it is not (16 R333). -/
def State.noteIdle (s : State) (w : What) : State := match actor w with
  | some q => if s.idle q then s else s.modSq q (fun x => { x with idleSince := x.cyc })
  | none => s

/-- What happens in an occurrence. -/
def State.happen (s : State) : What → Out
  | .issue q => s.issueTile q
  | .issueF q => s.issueFirmware q
  | .event i => s.event i

/-- The next occurrence: the head of the agenda, or the one that the schedule names (log 1). -/
def State.nextOcc (s : State) : Occ × State := match s.agenda with
  | o :: t => (o, { s with agenda := t })
  | [] => (Config.schedule s.tick, { s with tick := s.tick + 1 })

/-- One occurrence: its time passes, and it happens; a square was idle only where it is so before and after. -/
def State.occur (s : State) : Out :=
  let (o, s) := s.nextOcc
  match ((s.passTime o).noteIdle o.what).happen o.what with
  | .next t => .next (t.noteIdle o.what)
  | .fault f => .fault f
  | .refused r => .refused r

end Sys2Proof.Machine
end

