-- ==== Sys2Proof/Machine/Fetchable.lean ====
section
/-! DEFINITION. A word placed where the next step fetches it: what stands in for the loading of a program (log 31). -/

namespace Sys2Proof.Machine

/-- Whether a word is refused to a tile context, so that context F runs it where it is placed. -/
def firmwareOnly (i : Instr) : Bool := formDenied false i

/-- The context of square 0 that runs a placed word: context 0, or F for a word that only F may execute. -/
def placeCx (bs : List Byte) : Cx := match decodeBytes bs with
  | some (.ok i, _) => if firmwareOnly i then 8 else 0
  | _ => 0

/-- A context that is about to issue the word at an address below 2^48: nothing is in flight, waits, or is counted in its way. -/
def Ctx.poised (x : Ctx) (c : Cx) : Ctx :=
  { x with
    q0 := ⟨epcOf x.q0.pc, false⟩, st := if c = 8 then x.st else .active, records := [], blocked := none, loads := []
    pri := if x.pri = 3 then 2 else x.pri }

/-- A translation of the page of `pc` to the first frame of HBM4, with every right. -/
def placedEnt (pc : Nat) : TlbEnt :=
  { va := pc / 65536 * 65536, big := false, frame := 0, own := 0xFF, r := true, w := true, x := true, p := false, m := false, l := false }

/-- The instruction cache with the line of `pc` valid. -/
def Square.withLine (x : Square) (pc : Nat) (bs : List Byte) : Square :=
  let w : IWay := { tag := superblock pc, valid := 1 <<< icLine pc, f := false, data := Vector.replicate 4 bs }
  { x with icache := vset x.icache (icSet pc) (w :: (x.icache[icSet pc]).filter (fun v => v.tag ≠ superblock pc)) }

/-- Bytes placed at the program counter of context `c` of square 0, which issues in the next step. -/
def State.placeWord (s : State) (c : Cx) (bs : List Byte) : State :=
  let pc := (epcOf (s.ctx 0 c).q0.pc).toNat
  let pa := pc % 65536
  let s := { s with mem := memPut s.mem pa bs, power := .run }
  let line := s.rdB (pa - pa % 128) 128
  let s := s.modSq 0 (fun x =>
    { (x.withLine pc line) with
      power := .run, mchk := false, service := none, active := if c = 8 then none else some 0
      fburst := 16, fcred := if x.fcred = 0 then 1 else x.fcred
      tlb := placedEnt pc :: x.tlb
      ctxs := vset (vset x.ctxs 8 { x.ctxs[(8 : Cx)] with blocked := none }) c (x.ctxs[c].poised c) })
  { s with agenda := { ns := 0, cycles := 0, what := if c = 8 then .issueF 0 else .issue 0 } :: s.agenda }

end Sys2Proof.Machine
end

