-- ==== Sys2Proof/Machine/Step.lean ====
section
/-! DEFINITION. The step: one occurrence; and the word that the next step fetches. -/

namespace Sys2Proof.Machine

/-- One step of the module: the next occurrence happens. -/
def step (s : State) : Host.Outcome State Fault Refusal := s.occur

/-- The state with the instruction of an opcode-table row's bits where the next step fetches it, every word being 32 bits long (log 31). -/
def State.withFetchWord (s : State) (nbits w : Nat) : State :=
  let bs := wordBytes (w % 2 ^ nbits)
  s.placeWord (placeCx bs) bs

end Sys2Proof.Machine
end

