-- ==== Sys2Proof/Safety.lean ====
section
/-! DEFINITION. What the statements speak of: a completed instruction, the canonical form of memory, what stays as it was, and the reserved
bits of the page-table base. -/

namespace Sys2Proof.Machine

/-- An instruction completes that writes `v` to s[d] and nothing else: the queue shifts (06 R130). -/
abbrev State.sets (s : State) (d : Reg) (v : Word) : Out := .next (s.wS d v).retire

/-- An instruction completes that writes `v` to p[d] and nothing else. -/
abbrev State.setsP (s : State) (d : Pr) (v : Bool) : Out := .next (s.wP d v).retire

/-- The canonical form of memory: addresses strictly rising, and no entry that an unlisted address would read as. -/
def Memory.wf (m : List Host.Cell) : Bool := mwf 0 m

/-- The reserved bits of PTBR (05 Table 5-5): all but [47:12]. -/
def ptbrReserved : Word := 0xFFFF000000000FFF

/-- What every step keeps: memory is canonical, and the reserved bits of PTBR are zero. -/
def State.Inv (s : State) : Prop := Memory.wf s.mem = true ∧ s.ptbr &&& ptbrReserved = 0

/-- The atomics in the order of 05 Table 5-14. -/
def atomicOf (d a b : Reg) (sp : Fin 4) (z : Bool) : Fin 10 → Instr
  | 0 => .swap d a b sp z
  | 1 => .cas d a b sp z
  | 2 => .aadd d a b sp z
  | 3 => .aand d a b sp z
  | 4 => .aor d a b sp z
  | 5 => .axor d a b sp z
  | 6 => .amin d a b sp z
  | 7 => .amax d a b sp z
  | 8 => .aminu d a b sp z
  | 9 => .amaxu d a b sp z

/-- The new memory value of 05 Table 5-14, from the old one, v, and s[d] on entry. -/
def atomicNew {w : Nat} (old v c : BitVec w) : Fin 10 → BitVec w
  | 0 => v
  | 1 => if old = c then v else old
  | 2 => old + v
  | 3 => old &&& v
  | 4 => old ||| v
  | 5 => old ^^^ v
  | 6 => if old.toInt ≤ v.toInt then old else v
  | 7 => if old.toInt ≤ v.toInt then v else old
  | 8 => if old.toNat ≤ v.toNat then old else v
  | 9 => if old.toNat ≤ v.toNat then v else old

/-- A unit operation starts: its result waits for delivery, and nothing else changes (08 R174). -/
abbrev State.starts (s : State) (q : Sq) (v : Vc) (p : Pend) : Out := .next (s.modCore q v (fun x => { x with pend := x.pend ++ [p] }))

/-- An operation of vector unit `k` works lane by lane on the lanes of its guard: `f` gives a lane's result, its F bit and its conditions,
and the other lanes give zeros (08 R174, R175). -/
def State.startsLanes (s : State) (q : Sq) (v : Vc) (k : Fin 4) (g : Option (Fin 8)) (i : Instr)
    (f : Lane → Lane → Lane → Lane × Bool × Cond) : Prop :=
  let x := s.core q v
  let on := fun (j : Fin 64) => (s.lanesOf q v g).getLsbD j.val
  let r := fun (j : Fin 64) => f x.oa[k][j] x.ob[k][j] x.oc[k][j]
  ∃ (p : Pend) (w : Word), exec i s = s.starts q v p ∧ p.id = x.nextId - 1 ∧ p.unit.val = k.val ∧ p.f = some w ∧
    (∀ j : Fin 64, p.rv[j] = if on j then (r j).1 else 0) ∧
    (∀ j : Fin 64, w.getLsbD j.val = (on j && (r j).2.1)) ∧
    (∀ n : Nat, p.cond.getLsbD n = true ↔ ∃ j : Fin 64, on j = true ∧ (r j).2.2.bits.getLsbD n = true)

/-- An operation of vector unit `k` gives the lanes `f` where its guard is set and zeros elsewhere, with no flag and no condition. -/
def State.startsWhole (s : State) (q : Sq) (v : Vc) (k : Fin 4) (g : Option (Fin 8)) (i : Instr) (f : Fin 64 → Lane) : Prop :=
  ∃ p : Pend, exec i s = s.starts q v p ∧ p.id = (s.core q v).nextId - 1 ∧ p.unit.val = k.val ∧ p.f = some 0 ∧ p.cond = 0 ∧
    ∀ j : Fin 64, p.rv[j] = if (s.lanesOf q v g).getLsbD j.val then f j else 0

/-- A lane operation with no flag and no condition. -/
abbrev plainLane (f : Lane → Lane → Lane → Lane) : Lane → Lane → Lane → Lane × Bool × Cond := fun a b c => (f a b c, false, {})
/-- A lane operation whose F bit tells whether it raises a condition. -/
abbrev condLane (f : Lane → Lane → Lane → Lane × Cond) : Lane → Lane → Lane → Lane × Bool × Cond :=
  fun a b c => ((f a b c).1, (f a b c).2.any, (f a b c).2)
/-- A comparison. -/
abbrev cmpLane (f : Lane → Lane → Bool) : Lane → Lane → Lane → Lane × Bool × Cond :=
  fun a b _ => if f a b then (0xFFFFFFFF, true, {}) else (0, false, {})
/-- An integer in the range of a signed lane, and SAT where it was not. -/
abbrev clampLane (z : Int) : Lane × Cond :=
  if z < -2 ^ 31 then (0x80000000, { sat := true }) else if z > 2 ^ 31 - 1 then (0x7FFFFFFF, { sat := true }) else (BitVec.ofInt 32 z, {})
/-- Element `j` of `n` bits of a lane. -/
abbrev el (n : Nat) (a : Lane) (j : Nat) : BitVec n := a.extractLsb' (n * j) n
/-- Two elements of 16 bits in a lane, and four of 8. -/
abbrev lane2 (f : Nat → BitVec 16) : Lane := f 1 ++ f 0
abbrev lane4 (f : Nat → BitVec 8) : Lane := f 3 ++ f 2 ++ f 1 ++ f 0
/-- Codes with their conditions in the elements of a lane. -/
abbrev codes2 (f : Nat → Nat × Cond) : Lane × Cond := (lane2 (fun j => BitVec.ofNat 16 (f j).1), (f 0).2.or (f 1).2)
abbrev codes4 (f : Nat → Nat × Cond) : Lane × Cond :=
  (lane4 (fun j => BitVec.ofNat 8 (f j).1), (((f 0).2.or (f 1).2).or (f 2).2).or (f 3).2)

end Sys2Proof.Machine
end

