-- ==== Sys2Proof/Certificates/Slice0/Obligations.lean ====
section
/-! DEFINITION. The statements for the provers. -/

open Sys2Proof Sys2Proof.Machine

/-- 05 R107, Table 5-9: each INT operation of two registers writes its result to s[d] and retires; all else is as before. 05 R107, Table 5-9: the INT
operations of one register and a constant. 05 R109, Table 5-10, and R112: immediates and selection. -/
def Obligations.IntegerInstructions : Prop :=
  (∀ (s : State) (d a b : Reg),
    let x := s.rs a
    let y := s.rs b
    let n := y.toNat % 64
    exec (.add d a b) s = s.sets d (x + y) ∧ exec (.sub d a b) s = s.sets d (x - y) ∧
    exec (.and d a b) s = s.sets d (x &&& y) ∧ exec (.or d a b) s = s.sets d (x ||| y) ∧
    exec (.xor d a b) s = s.sets d (x ^^^ y) ∧ exec (.andn d a b) s = s.sets d (x &&& ~~~y) ∧
    exec (.shl d a b) s = s.sets d (x <<< n) ∧ exec (.shr d a b) s = s.sets d (x >>> n) ∧
    exec (.sra d a b) s = s.sets d (x.sshiftRight n) ∧ exec (.ror d a b) s = s.sets d (x.rotateRight n) ∧
    exec (.mul d a b) s = s.sets d (x * y) ∧
    exec (.mulh d a b) s = s.sets d (((x.signExtend 128 * y.signExtend 128) >>> 64).setWidth 64) ∧
    exec (.mulhu d a b) s = s.sets d (((x.setWidth 128 * y.setWidth 128) >>> 64).setWidth 64) ∧
    exec (.min d a b) s = s.sets d (if x.toInt ≤ y.toInt then x else y) ∧
    exec (.max d a b) s = s.sets d (if x.toInt ≤ y.toInt then y else x) ∧
    exec (.minu d a b) s = s.sets d (if x.toNat ≤ y.toNat then x else y) ∧
    exec (.maxu d a b) s = s.sets d (if x.toNat ≤ y.toNat then y else x) ∧
    exec (.slt d a b) s = s.sets d (if x.toInt < y.toInt then 1 else 0) ∧
    exec (.sltu d a b) s = s.sets d (if x.toNat < y.toNat then 1 else 0) ∧
    exec (.adds d a b) s = s.sets d (if x.toInt + y.toInt < -2 ^ 63 then 0x8000000000000000
      else if x.toInt + y.toInt > 2 ^ 63 - 1 then 0x7FFFFFFFFFFFFFFF else x + y)) ∧
  (∀ (s : State) (d a : Reg) (h : Fin 64),
    let x := s.rs a
    exec (.shli d a h) s = s.sets d (x <<< h.val) ∧ exec (.shri d a h) s = s.sets d (x >>> h.val) ∧
    exec (.srai d a h) s = s.sets d (x.sshiftRight h.val) ∧ exec (.rori d a h) s = s.sets d (x.rotateRight h.val) ∧
    exec (.sext d a h) s = s.sets d ((x.setWidth (h.val + 1)).signExtend 64) ∧
    (∃ k : Nat, k ≤ 64 ∧ x.toNat < 2 ^ (64 - k) ∧ (k < 64 → 2 ^ (63 - k) ≤ x.toNat) ∧ exec (.clz d a) s = s.sets d (BitVec.ofNat 64 k)) ∧
    exec (.popc d a) s = s.sets d (BitVec.ofNat 64 ((List.range 64).filter (fun i => x.getLsbD i)).length)) ∧
  (∀ (s : State) (d a b : Reg) (k : Fin 4) (i : BitVec 16) (p : Pr),
    let x := s.rs a
    exec (.addi d a i) s = s.sets d (x + i.signExtend 64) ∧ exec (.andi d a i) s = s.sets d (x &&& i.setWidth 64) ∧
    exec (.ori d a i) s = s.sets d (x ||| i.setWidth 64) ∧ exec (.xori d a i) s = s.sets d (x ^^^ i.setWidth 64) ∧
    exec (.movi d i) s = s.sets d (i.signExtend 64) ∧
    (∃ v : Word, exec (.movhi d k i) s = s.sets d v ∧
      ∀ j : Nat, j < 64 → v.getLsbD j = if 16 * k.val ≤ j ∧ j < 16 * k.val + 16 then i.getLsbD (j - 16 * k.val) else (s.rs d).getLsbD j) ∧
    exec (.slti d a i) s = s.sets d (if x.toInt < i.toInt then 1 else 0) ∧
    exec (.sel d a b p) s = s.sets d (if s.rp p then x else s.rs b))

/-- 05 R108: quotients and remainders, for every pair of operands. -/
def Obligations.DividesNeverTrap : Prop :=
  ∀ (s : State) (d a b : Reg),
    let x := s.rs a
    let y := s.rs b
    (y = 0 → exec (.div d a b) s = s.sets d 0xFFFFFFFFFFFFFFFF ∧ exec (.divu d a b) s = s.sets d 0xFFFFFFFFFFFFFFFF ∧
      exec (.rem d a b) s = s.sets d x ∧ exec (.remu d a b) s = s.sets d x) ∧
    (x = 0x8000000000000000 ∧ y = 0xFFFFFFFFFFFFFFFF → exec (.div d a b) s = s.sets d 0x8000000000000000 ∧ exec (.rem d a b) s = s.sets d 0) ∧
    (y ≠ 0 ∧ ¬(x = 0x8000000000000000 ∧ y = 0xFFFFFFFFFFFFFFFF) →
      exec (.div d a b) s = s.sets d (BitVec.ofInt 64 (x.toInt.tdiv y.toInt)) ∧
      exec (.rem d a b) s = s.sets d (x - BitVec.ofInt 64 (x.toInt.tdiv y.toInt) * y)) ∧
    (y ≠ 0 → exec (.divu d a b) s = s.sets d (BitVec.ofNat 64 (x.toNat / y.toNat)) ∧
      exec (.remu d a b) s = s.sets d (x - BitVec.ofNat 64 (x.toNat / y.toNat) * y))

/-- 05 R110 and R111: compares and operations on predicates. -/
def Obligations.PredicateInstructions : Prop :=
  ∀ (s : State) (p q r : Pr) (d a b : Reg) (i : BitVec 16),
    let x := s.rs a
    let y := s.rs b
    exec (.cmpEq p a b) s = s.setsP p (decide (x = y)) ∧ exec (.cmpNe p a b) s = s.setsP p (decide (x ≠ y)) ∧
    exec (.cmpLt p a b) s = s.setsP p (decide (x.toInt < y.toInt)) ∧ exec (.cmpLe p a b) s = s.setsP p (decide (x.toInt ≤ y.toInt)) ∧
    exec (.cmpLtu p a b) s = s.setsP p (decide (x.toNat < y.toNat)) ∧ exec (.cmpLeu p a b) s = s.setsP p (decide (x.toNat ≤ y.toNat)) ∧
    exec (.cmpiEq p a i) s = s.setsP p (decide (x = i.signExtend 64)) ∧ exec (.cmpiLt p a i) s = s.setsP p (decide (x.toInt < i.toInt)) ∧
    exec (.cmpiLtu p a i) s = s.setsP p (decide (x.toNat < (i.signExtend 64).toNat)) ∧
    exec (.pand p q r) s = s.setsP p (s.rp q && s.rp r) ∧ exec (.por p q r) s = s.setsP p (s.rp q || s.rp r) ∧
    exec (.pxor p q r) s = s.setsP p (s.rp q != s.rp r) ∧ exec (.pandn p q r) s = s.setsP p (s.rp q && !s.rp r) ∧
    exec (.pmov p q) s = s.setsP p (s.rp q) ∧
    exec (.ptos d q) s = .next (s.wS d (if s.rp q then 1 else 0)).retire

/-- 06 R130, R133, Table 6-1: branches and calls shift the fetch queue, with the target in q2 where taken and both slots nullified where squashed, and
CALL writes the link to s31. 06 R133, R134: a jump goes to an aligned s[a], read before the link is written, and traps on any other with nothing
written. -/
def Obligations.ControlFlowInstructions : Prop :=
  (∀ (s : State) (p : Pr) (sense : Bool) (o : BitVec 21),
    let x := s.me
    let tgt := x.q0.pc + 4 * o.signExtend 64
    let next := x.q2.pc + 4
    let taken := s.rp p = sense
    exec (.br p sense o) s = .next (s.setMe { x with
      q0 := x.q1, q1 := x.q2, q2 := ⟨if taken then tgt else next, false⟩, blocked := none }) ∧
    exec (.brN p sense o) s = .next (s.setMe { x with
      q0 := if taken then x.q1 else ⟨x.q1.pc, true⟩
      q1 := if taken then x.q2 else ⟨x.q2.pc, true⟩
      q2 := ⟨if taken then tgt else next, false⟩
      blocked := none }) ∧
    exec (.call o) s = .next (s.setMe { x with
      s := vset x.s 31 next, q0 := x.q1, q1 := x.q2, q2 := ⟨tgt, false⟩, blocked := none })) ∧
  (∀ (s : State) (d a : Reg),
    let x := s.me
    let link := x.q2.pc + 4
    (s.rs a % 4 = 0 →
      exec (.jr a) s = .next (s.setMe { x with q0 := x.q1, q1 := x.q2, q2 := ⟨s.rs a, false⟩, blocked := none }) ∧
      exec (.jrN a) s = .next (s.setMe { x with
        q0 := ⟨x.q1.pc, true⟩, q1 := ⟨x.q2.pc, true⟩, q2 := ⟨s.rs a, false⟩, blocked := none }) ∧
      exec (.jrl d a) s = .next (s.setMe { x with
        s := if d = 0 then x.s else vset x.s d link, q0 := x.q1, q1 := x.q2, q2 := ⟨s.rs a, false⟩, blocked := none }) ∧
      exec (.jrlN d a) s = .next (s.setMe { x with
        s := if d = 0 then x.s else vset x.s d link, q0 := ⟨x.q1.pc, true⟩, q1 := ⟨x.q2.pc, true⟩, q2 := ⟨s.rs a, false⟩, blocked := none })) ∧
    (s.rs a % 4 ≠ 0 →
      exec (.jr a) s = s.trap 0x020 ∧ exec (.jrN a) s = s.trap 0x020 ∧
      exec (.jrl d a) s = s.trap 0x020 ∧ exec (.jrlN d a) s = s.trap 0x020))

/-- 15 R320, 06 R145: a precise fault of a tile context saves the queue and writes CAUSE; with THND.EN and not INH it enters the handler with INH set, and
else the task ends with the cause: it is ENDING, off the core, and its waiting records are gone. 15 R324, 17 R368: a precise fault of context F stops
its square and the taking of commands, and tells the host by vector 0. 15 R321: TRAP with 0 in the handler returns from it, with 0 elsewhere raises
TRAP_STATE, and with another code SOFTWARE_TRAP. -/
def Obligations.TrapsAndMachineChecks : Prop :=
  (∀ (s : State) (swc code : Nat), s.fcx ≠ 8 →
    ∃ t : State, s.trapSwc swc code = .next t ∧
      let x := s.me
      let y := t.me
      let m : Word := 0x0000FFFFFFFFFFFC
      let h := x.thnd &&& m
      y.epc0 = x.q0.pc &&& m ∧ y.epc1 = x.q1.pc &&& m ∧ y.epc2 = x.q2.pc &&& m ∧
      y.enul = (if x.q0.nul then 1 else 0) + (if x.q1.nul then 2 else 0) + (if x.q2.nul then 4 else 0) ∧
      y.cause = BitVec.ofNat 64 (swc * 2 ^ 36 + code) ∧
      y.s = x.s ∧ y.p = x.p ∧ y.tm = x.tm ∧ y.badw = x.badw ∧ y.bprov = x.bprov ∧ y.bflt = x.bflt ∧ t.mem = s.mem ∧
      (x.thnd.getLsbD 0 = true ∧ x.thnd.getLsbD 1 = false →
        y.thnd = x.thnd ||| 2 ∧ y.q0 = ⟨h, false⟩ ∧ y.q1 = ⟨h + 4, false⟩ ∧ y.q2 = ⟨h + 8, false⟩ ∧ y.st = x.st ∧
        t = s.setMe y) ∧
      (¬(x.thnd.getLsbD 0 = true ∧ x.thnd.getLsbD 1 = false) →
        y.st = .ending ∧ y.endCause = some code ∧ y.records = [] ∧ (t.sq s.fsq).active.map tileCx ≠ some s.fcx ∧
        ∀ v : Vc, ∀ e ∈ (t.core s.fsq v).eq, e.ctx ≠ s.fcx)) ∧
  (∀ (s : State) (swc code : Nat), s.fcx = 8 →
    ∃ t : State, s.trapSwc swc code = .next t ∧ t.mchk = true ∧ (t.sq s.fsq).mchk = true ∧ 0 ∈ t.msix ∧ t.mem = s.mem ∧
      t.invs = [] ∧ t.installs = [] ∧ t.notifies = [] ∧ t.reduces = []) ∧
  (∀ (s : State) (i : BitVec 12), s.fcx ≠ 8 →
    let x := s.me
    (i = 0 ∧ x.thnd.getLsbD 1 = true → exec (.trap i) s = .next (s.setMe { x with
      q0 := ⟨x.epc0, x.enul.getLsbD 0⟩, q1 := ⟨x.epc1, x.enul.getLsbD 1⟩, q2 := ⟨x.epc2, x.enul.getLsbD 2⟩, blocked := none,
      thnd := x.thnd &&& ~~~2 })) ∧
    (i = 0 ∧ x.thnd.getLsbD 1 = false → exec (.trap i) s = s.trap 0x005) ∧
    (i ≠ 0 → exec (.trap i) s = s.trapSwc i.toNat 0x004))

/-- 02 R37, R39: a word that fails check 1, 2 or 3 takes no effect, and its whole word goes to BADW with the cause of the check. 02 R33, R36, R37 check 4:
what only context F may execute raises PRIVILEGED with the word in BADW in a tile context. -/
def Obligations.IllegalAndPrivilegedWords : Prop :=
  (∀ (s : State) (bs rest : List Byte) (e : Illegal), decodeBytes bs = some (.error e, rest) →
    s.runBytes bs = s.trapBad (BitVec.ofNat 64 (leNat bs)) (match e with | .opcode => 0 | .function => 1 | .field => 2) ∧
    (s.fcx ≠ 8 → ∀ w c, s.trapBad w c = (s.setMe { s.me with badw := w }).trap c)) ∧
  (∀ (s : State) (d a : Reg) (k : Fin 16) (r : BitVec 12), s.fcx ≠ 8 →
    (∀ i, i ∈ [Instr.rfe, .ctxStart a, .ctxSave d a, .ctxRestore d a, .ctxEnd d a, .mtrl a k, .psWake d a, .psNap d, .psDoze d, .cpMig d a] →
      ∃ w, encodeNat i = some w ∧ exec i s = s.trapBad (BitVec.ofNat 64 w) 0x003) ∧
    (0x300 ≤ r.toNat → exec (.mfs d r) s = s.trapBad (BitVec.ofNat 64 (0xD0000000 + d.val * 0x200000 + r.toNat)) 0x003) ∧
    (r ≠ 0x008 ∧ r ≠ 0x101 → exec (.mts a r) s = s.trapBad (BitVec.ofNat 64 (0xD0001000 + a.val * 0x10000 + r.toNat)) 0x003) ∧
    exec (.tlbi a) s = s.trapBad (BitVec.ofNat 64 (0xD0001302 + a.val * 0x10000)) 0x003)

/-- 05 R113, 02 R36, 15 R319, R320: registers that a context reads and writes for itself: MFS gives the register's value, and MTS to THND and FILL writes
their RW fields alone. RDTIME and RDCYC give the counters (16 R348). FVR, CTXN, VCLM, DRCNT and PSTAT read as their tables lay them out (02 R54, 05
Table 5-6, 08 R169, 16 Tables 16-9 and 16-10). 15 R323: while TSEL.EN is 1, the MFS and MTS of context F to registers 0x000 to 0x00F, 0x101 and 0x210
reach the registers of context TSEL.CTX, and else its own; each MTS of F writes what is not reserved: of BADW, all of [31:0] where EWORD is 0 (02 R39).
MTRL writes the rl registers of the context of TSEL.CTX while it is held. F reads FCRED (05 R102), PTBR, TSEL and CTXR, writes DRTH, PTBR with its
reserved bits zero (14 R304), and TSEL, whose CTX takes no value from 8 on (Table 15-6). -/
def Obligations.SpecialRegisters : Prop :=
  (∀ (s : State) (d a : Reg), s.fcx ≠ 8 →
    let x := s.me
    exec (.mfs d 0x000) s = s.sets d x.epc0 ∧ exec (.mfs d 0x001) s = s.sets d x.epc1 ∧ exec (.mfs d 0x002) s = s.sets d x.epc2 ∧
    exec (.mfs d 0x003) s = s.sets d x.enul ∧ exec (.mfs d 0x004) s = s.sets d x.cause ∧ exec (.mfs d 0x005) s = s.sets d x.badw ∧
    exec (.mfs d 0x006) s = s.sets d x.bprov ∧ exec (.mfs d 0x007) s = s.sets d (x.bflt ||| if (∃ r ∈ x.records, r.lvl = 1) then 1 else 0) ∧
    exec (.mfs d 0x008) s = s.sets d x.thnd ∧
    exec (.mfs d 0x101) s = s.sets d x.fill ∧ exec (.mfs d 0x103) s = s.sets d x.tidx ∧
    (∀ k : Fin 16, exec (.mfs d (0x110 + BitVec.ofNat 12 k.val)) s = s.sets d x.rl[k]) ∧
    exec (.mfs d 0x200) s = s.sets d (s.sq s.fsq).drth ∧ exec (.mfs d 0x210) s = s.sets d x.fwdt ∧
    exec (.mfs d 0x100) s = s.sets d (BitVec.ofNat 64 (0x0009 * 2 ^ 48 + 0x01 * 2 ^ 40 + s.patchLevel.toNat * 2 ^ 16 + x.fvrSeq.toNat)) ∧
    exec (.mfs d 0x102) s = s.sets d (BitVec.ofNat 64 (s.fsq.val * 2 ^ 32 + x.res % 256 * 2 ^ 24 + x.pri % 4 * 2 ^ 20 + x.scope.val * 2 ^ 16 + s.fcx.val)) ∧
    exec (.mfs d 0x201) s = s.sets d ((s.sq s.fsq).drcnt.setWidth 64) ∧
    exec (.mfs d 0x202) s = s.sets d (BitVec.ofNat 64 (x.pstatRes % 2 ^ 16 * 2 ^ 48 + if x.pstatSafe then 1 else 0)) ∧
    (∃ w : Word, exec (.mfs d 0x104) s = s.sets d w ∧ w.toNat < 2 ^ 20 ∧ ∀ v : Vc,
      w.getLsbD (16 + v.val) = (s.core s.fsq v).claim.isSome ∧ bits w (4 * v.val) 4 = match (s.core s.fsq v).claim with
        | some c => c.val
        | none => 0) ∧
    exec (.mts a 0x008) s = .next (s.setMe { x with
      thnd := (x.thnd &&& ~~~0x0000FFFFFFFFFFFD) ||| (s.rs a &&& 0x0000FFFFFFFFFFFD) }).retire ∧
    exec (.mts a 0x101) s = .next (s.setMe { x with
      fill := (x.fill &&& ~~~0xFFFFFFFF) ||| (s.rs a &&& 0xFFFFFFFF) }).retire ∧
    exec (.rdtime d) s = s.sets d (BitVec.ofNat 64 s.now) ∧ exec (.rdcyc d) s = s.sets d (BitVec.ofNat 64 (s.sq s.fsq).cyc)) ∧
  (∀ (s : State) (d a : Reg) (c : Cx), s.fcx = 8 →
    (∃ j : Fin 8, (s.sq s.fsq).tsel = BitVec.ofNat 64 (16 + j.val) ∧ c = tileCx j) ∨ ((s.sq s.fsq).tsel.getLsbD 4 = false ∧ c = 8) →
    let x := s.ctx s.fsq c
    let v := s.rs a
    let into := fun (old m : Word) => (old &&& ~~~m) ||| (v &&& m)
    let put : Ctx → Out := fun y => .next (s.setCtx s.fsq c y).retire
    exec (.mfs d 0x000) s = s.sets d x.epc0 ∧ exec (.mfs d 0x001) s = s.sets d x.epc1 ∧ exec (.mfs d 0x002) s = s.sets d x.epc2 ∧
    exec (.mfs d 0x003) s = s.sets d x.enul ∧ exec (.mfs d 0x004) s = s.sets d x.cause ∧ exec (.mfs d 0x005) s = s.sets d x.badw ∧
    exec (.mfs d 0x006) s = s.sets d x.bprov ∧ exec (.mfs d 0x007) s = s.sets d (x.bflt ||| if (∃ r ∈ x.records, r.lvl = 1) then 1 else 0) ∧
    exec (.mfs d 0x008) s = s.sets d x.thnd ∧ exec (.mfs d 0x101) s = s.sets d x.fill ∧ exec (.mfs d 0x210) s = s.sets d x.fwdt ∧
    exec (.mts a 0x000) s = put { x with epc0 := into x.epc0 0x0000FFFFFFFFFFFC } ∧
    exec (.mts a 0x001) s = put { x with epc1 := into x.epc1 0x0000FFFFFFFFFFFC } ∧
    exec (.mts a 0x002) s = put { x with epc2 := into x.epc2 0x0000FFFFFFFFFFFC } ∧
    exec (.mts a 0x003) s = put { x with enul := into x.enul 0x7 } ∧
    exec (.mts a 0x004) s = put { x with cause := into x.cause 0x0000FFFC000001FF } ∧
    exec (.mts a 0x005) s = put { x with badw := if v >>> 32 = 0 then v else v &&& 0xFFFFFFFF07FFFFFF } ∧
    exec (.mts a 0x006) s = put { x with bprov := v } ∧
    exec (.mts a 0x007) s = put { x with bflt := into x.bflt 0xFFFF0701 } ∧
    exec (.mts a 0x008) s = put { x with thnd := into x.thnd 0x0000FFFFFFFFFFFD } ∧
    exec (.mts a 0x101) s = put { x with fill := into x.fill 0xFFFFFFFF } ∧
    exec (.mts a 0x210) s = put { x with fwdt := into x.fwdt 0xFFFFFFFF }) ∧
  (∀ (s : State) (d a : Reg), s.fcx = 8 →
    let y := s.sq s.fsq
    let v := s.rs a
    let into := fun (old m : Word) => (old &&& ~~~m) ||| (v &&& m)
    exec (.mfs d 0x102) s = s.sets d (BitVec.ofNat 64 (s.fsq.val * 2 ^ 32 + 0xF)) ∧ exec (.mfs d 0x103) s = s.sets d 0 ∧
    exec (.mfs d 0x200) s = s.sets d y.drth ∧ exec (.mfs d 0x201) s = s.sets d (y.drcnt.setWidth 64) ∧
    exec (.mfs d 0x300) s = s.sets d (BitVec.ofNat 64 y.fcred) ∧ exec (.mfs d 0x301) s = s.sets d s.ptbr ∧
    exec (.mfs d 0x303) s = s.sets d y.tsel ∧ exec (.mfs d 0x304) s = s.sets d y.ctxr ∧
    exec (.mts a 0x200) s = .next (s.setSq s.fsq { y with drth := into y.drth 0x1003F }).retire ∧
    exec (.mts a 0x301) s = .next ({ s with ptbr := into s.ptbr 0x0000FFFFFFFFF000 } : State).retire ∧
    (v.getLsbD 3 = false → exec (.mts a 0x303) s = .next (s.setSq s.fsq { y with tsel := into y.tsel 0x1F }).retire) ∧
    (v.getLsbD 3 = true → exec (.mts a 0x303) s = s.trap 0x002)) ∧
  (∀ (s : State) (a : Reg) (c : Fin 8) (k : Fin 16), s.fcx = 8 → (s.sq s.fsq).tsel = BitVec.ofNat 64 (16 + c.val) →
    let x := s.ctx s.fsq (tileCx c)
    (x.st = .ready ∧ x.hold = true →
      exec (.mtrl a k) s = .next ((s.setCtx s.fsq (tileCx c) { x with rl := vset x.rl k (s.rs a) }).modSq s.fsq
        (fun y => { y with ctxr := 0 })).retire))

/-- 05 R118, R120, R123: a load from space 1 or 2, or of context F from its management window, space 3 (05 R114; that the window holds plain bytes is
log 10), that passes its checks writes the zero-extended bytes of the effective address to s[d], each as the context's own later stores left it, after
the context's earlier load misses are performed (12 R269); where there are none, nothing else changes. 05 R118, R123, R124, 14 R308: a load of space 0
that translates. Where its line is in the data cache, or its context's own stores hold all its bytes, the value is there at once, else the load is in
flight, to be delivered later, and the instruction retires in both cases. -/
def Obligations.Loads : Prop :=
  (∀ (s : State) (d b : Reg) (sp : Fin 4) (o : BitVec 14) (i : Instr) (n : Nat),
    (i, n) ∈ [(Instr.ldB d b sp o, 1), (.ldH d b sp o, 2), (.ldW d b sp o, 4), (.ldD d b sp o, 8)] →
    let ea := s.rs b + o.signExtend 64 * BitVec.ofNat 64 n
    let a := if sp = 1 then storeAddr s.fsq.val ea.toNat else if sp = 3 then windowAddr s.fsq.val ea.toNat else privAddr s.fsq.val s.fcx.val ea.toNat
    let t := s.performLoads s.fsq s.fcx
    (sp = 1 ∧ ea.toNat < 0x7DC000 ∧ s.blockBad s.fsq (ea.toNat / 512) = false) ∨ (sp = 2 ∧ ea.toNat < 0x4000) ∨
      (sp = 3 ∧ s.fcx = 8 ∧ ea.toNat < 0x10000) →
    ea.toNat % n = 0 → s.isBad a n = false →
    exec i s = t.sets d (BitVec.ofNat 64 (leNat ((List.range n).map (fun k => (s.ownByte s.fsq s.fcx (a + k)).getD (t.rd (a + k)))))) ∧
      ((∀ l ∈ s.me.loads, l.value.isSome = true) → t = s)) ∧
  (∀ (s t : State) (d b : Reg) (o : BitVec 14) (i : Instr) (n pa : Nat),
    (i, n) ∈ [(Instr.ldB d b 0 o, 1), (.ldH d b 0 o, 2), (.ldW d b 0 o, 4), (.ldD d b 0 o, 8)] →
    let ea := s.rs b + o.signExtend 64 * BitVec.ofNat 64 n
    let own := fun (k : Nat) => t.ownByte s.fsq s.fcx (pa + k)
    ea.toNat % n = 0 → s.translate s.fsq (s.me.who s.fcx) { r := true } ea.toNat = .ok (pa, t) →
    (∀ l, (t.sq s.fsq).line (ea.toNat / 64) = some l → (∀ k < n, (own k).isSome = true ∨ l.good (ea.toNat % 64 + k) = true) →
      exec i s = t.sets d (BitVec.ofNat 64 (leNat ((List.range n).map (fun k => (own k).getD (l.get (ea.toNat % 64 + k))))))) ∧
    ((t.sq s.fsq).line (ea.toNat / 64) = none →
      ((∀ k < n, (own k).isSome = true) → exec i s = t.sets d (BitVec.ofNat 64 (leNat ((List.range n).map (fun k => (own k).getD 0))))) ∧
      ((∃ k < n, own k = none) → t.isBad pa n = false → (t.sq s.fsq).outLoads s.fcx < 4095 →
        ∃ u : State, exec i s = .next u ∧ u.mem = s.mem ∧ u.me.s = s.me.s ∧ u.me.q0 = s.me.q1 ∧
          ∃ l : LoadFlight, u.me.loads = t.me.loads ++ [l] ∧ l.d = d ∧ l.size = n ∧ l.va = ea.toNat ∧ l.pa = pa ∧ l.value = none ∧
            l.known = (List.range n).map own)))

/-- 05 R119, R120, R122: a store to the private space, or of context F to its management window (05 R114; log 10), writes the low bytes of s[d] at the
effective address, fires the watches of its sector, and changes nothing else, once the context's earlier load misses are performed (12 R269). 05 R122,
R124: a store to space 0 outside the plain-shared regions is posted and retires; memory and the registers are unchanged until it is performed. 05
R116, 10 R228, R229: a store to the square store outside the plain-shared regions whose block decodes and finds its place writes its bytes and no
other byte of memory, and retires; one that finds none takes the cause precisely. -/
def Obligations.Stores : Prop :=
  (∀ (s : State) (d a b : Reg) (sp : Fin 4) (o : BitVec 14) (z : Fin 4) (i : Instr) (ea : Word) (n : Nat),
    (i, ea, n) ∈ [(Instr.stW d b sp o, s.rs b + o.signExtend 64 * 4, 4), (.stD d b sp o, s.rs b + o.signExtend 64 * 8, 8),
      (.stx d a b sp z, s.rs a + s.rs b, 2 ^ z.val)] →
    ea.toNat % n = 0 → (sp = 2 ∧ ea.toNat < 0x4000) ∨ (sp = 3 ∧ s.fcx = 8 ∧ ea.toNat < 0x10000) →
    let at_ := if sp = 3 then windowAddr s.fsq.val ea.toNat else privAddr s.fsq.val s.fcx.val ea.toNat
    let u := s.performLoads s.fsq s.fcx
    u.me = { s.me with loads := u.me.loads } ∧ ((∀ l ∈ s.me.loads, l.value.isSome = true) → u = s) ∧
    ∃ t : State, exec i s = .next t ∧ t.me = u.me.advance ∧ t.squares = (u.setMe u.me.advance).squares ∧
      (∀ k < n, t.rd (at_ + k) = (s.rs d).extractLsb' (8 * k) 8) ∧
      (∀ m, (m < at_ ∨ at_ + n ≤ m) → t.rd m = u.rd m) ∧
      (∀ w ∈ t.watches, w.sector = at_ / 32 → w.fired = true)) ∧
  (∀ (s t : State) (d a b : Reg) (o : BitVec 14) (z : Fin 4) (i : Instr) (ea : Word) (n pa : Nat),
    (i, ea, n) ∈ [(Instr.stW d b 0 o, s.rs b + o.signExtend 64 * 4, 4), (.stD d b 0 o, s.rs b + o.signExtend 64 * 8, 8),
      (.stx d a b 0 z, s.rs a + s.rs b, 2 ^ z.val)] →
    ea.toNat % n = 0 → s.translate s.fsq (s.me.who s.fcx) { w := true } ea.toNat = .ok (pa, t) → t.plainAt 0 ea = none →
    (t.sq s.fsq).outStores s.fcx < 4095 →
    ∃ u : State, exec i s = .next u ∧ u.mem = s.mem ∧ u.me.s = s.me.s ∧ u.me.p = s.me.p ∧ u.me.tm = s.me.tm ∧ u.me.q0 = s.me.q1 ∧
      ∃ p : Posted, u.me.posted = t.me.posted ++ [p] ∧ p.va = ea.toNat ∧ p.pa = pa ∧ p.bytes = natLE n (s.rs d).toNat) ∧
  (∀ (s : State) (d a b : Reg) (o : BitVec 14) (z : Fin 4) (i : Instr) (ea : Word) (n : Nat),
    (i, ea, n) ∈ [(Instr.stW d b 1 o, s.rs b + o.signExtend 64 * 4, 4), (.stD d b 1 o, s.rs b + o.signExtend 64 * 8, 8),
      (.stx d a b 1 z, s.rs a + s.rs b, 2 ^ z.val)] →
    ea.toNat % n = 0 → ea.toNat < 0x7DC000 → s.plainAt 1 ea = none →
    let at_ := storeAddr s.fsq.val ea.toNat
    let u := s.performLoads s.fsq s.fcx
    (∀ t, u.writeStore s.fsq ea.toNat (natLE n (s.rs d).toNat) = .ok t →
      exec i s = .next t.retire ∧ (∀ k < n, t.rd (at_ + k) = (s.rs d).extractLsb' (8 * k) 8) ∧
      (∀ m, (m < at_ ∨ at_ + n ≤ m) → t.rd m = u.rd m)) ∧
    (∀ c, u.writeStore s.fsq ea.toNat (natLE n (s.rs d).toNat) = .error c → exec i s = s.trap c))

/-- 05 R122, 12 R281, R283, R284: a store to a plain-shared region leaves memory as it is and puts its bytes into the log entry of its word, its scope and
its stamp, the least time at which its context holds a token of the scope; one without a token, one of F and one that finds the log full trap. 12
R281, R282: a log entry that reaches its home is held until its frontier has passed its stamp, and is then performed; where it is the only entry that
has passed, exactly the bytes of its mask become its data. -/
def Obligations.PlainStores : Prop :=
  (∀ (s t : State) (d a b : Reg) (sp : Fin 4) (o : BitVec 14) (z : Fin 4) (i : Instr) (ea : Word) (n pa : Nat) (r : Region) (stamp : Word),
    (i, ea, n) ∈ [(Instr.stW d b sp o, s.rs b + o.signExtend 64 * 4, 4), (.stD d b sp o, s.rs b + o.signExtend 64 * 8, 8),
      (.stx d a b sp z, s.rs a + s.rs b, 2 ^ z.val)] →
    (sp = 0 ∧ s.translate s.fsq (s.me.who s.fcx) { w := true } ea.toNat = .ok (pa, t)) ∨
      (sp = 1 ∧ ea.toNat < 0x7DC000 ∧ pa = storeAddr s.fsq.val ea.toNat ∧ t = s) →
    ea.toNat % n = 0 → pa % n = 0 → t.plainAt sp ea = some r →
    let x := t.sq s.fsq
    let scope : Fin 8 := Fin.ofNat 8 (bits r.sync 0 3)
    let mine := fun (e : LogEnt) => e.task = t.me.task ∧ e.ctx = s.fcx ∧ e.addr = pa / 8 * 8 ∧ e.scope = scope ∧ e.stamp = stamp
    let holds := fun (e : LogEnt) => ∀ k < n, e.mask.getLsbD (pa % 8 + k) = true ∧
      e.data.extractLsb' (8 * (pa % 8 + k)) 8 = (s.rs d).extractLsb' (8 * k) 8
    (s.fcx = 8 → exec i s = t.trap 0x116) ∧
    (s.fcx ≠ 8 →
      (x.leastHeld (.ctx s.fcx) scope = none → exec i s = t.trap 0x117) ∧
      (x.leastHeld (.ctx s.fcx) scope = some stamp →
        ((∀ e ∈ x.log, ¬mine e) → 2048 ≤ x.log.length → exec i s = t.trap 0x110) ∧
        ((∀ e ∈ x.log, ¬mine e) → x.log.length < 2048 → ∃ (u : State) (e : LogEnt), exec i s = .next u ∧ u.mem = s.mem ∧ u.me.s = s.me.s ∧
          (u.sq s.fsq).log = x.log ++ [e] ∧ mine e ∧ holds e ∧ e.arrived = false ∧
          ∀ k < 8, k < pa % 8 ∨ pa % 8 + n ≤ k → e.mask.getLsbD k = false) ∧
        ((∃ e ∈ x.log, mine e) → ∃ u : State, exec i s = .next u ∧ u.mem = s.mem ∧ u.me.s = s.me.s ∧ (u.sq s.fsq).log.length = x.log.length ∧
          (∃ e ∈ (u.sq s.fsq).log, mine e) ∧ ∀ e ∈ (u.sq s.fsq).log, mine e → holds e ∧ e.arrived = false)))) ∧
  (∀ (s : State) (q : Sq) (k : Nat) (e : LogEnt),
    (∃ u : State, exec (.plainCommit q) s = .next u ∧ (∀ r : Sq, (u.sq r).log = (s.sq r).log.filter (fun x => !s.passed x)) ∧
      u.localF = s.localF ∧ ((∀ r : Sq, ∀ x ∈ (s.sq r).log, s.passed x = false) → u = s)) ∧
    ((s.sq q).log[k]? = some e →
      (∀ r : Sq, ∀ x ∈ (s.sq r).log, s.passed x = false) →
      (s.localF[e.scope] ≤ e.stamp → ∃ u : State, exec (.commitEntryArrival q k) s = .next u ∧ u.mem = s.mem ∧
        (u.sq q).log = updAt (fun x => { x with arrived := true }) k (s.sq q).log) ∧
      (e.stamp < s.localF[e.scope] → ∃ u : State, exec (.commitEntryArrival q k) s = .next u ∧ (u.sq q).log = (s.sq q).log.eraseIdx k ∧
        (e.addr < 2 ^ 48 →
          (∀ j : Fin 8, u.rd (e.addr + j.val) = if e.mask.getLsbD j.val then (e.data >>> (8 * j.val)).setWidth 8 else s.rd (e.addr + j.val)) ∧
          (∀ a, a < e.addr ∨ e.addr + 8 ≤ a → u.rd a = s.rd a)))))

/-- 05 R120 checks 2 to 7, in their order: what an access that fails one raises, precisely, one of space 3 by a tile context (05 R117), a translation of
space 0 that fails (14 R308) and an
atomic of a plain-shared region among them; an access to a page that is being migrated waits (14 R312). 12 R275, R276: the same of ACQ and REL, and a
lock word in a plain-shared region is LOCK_PLACE. The model's choice among these: after LOCK_PLACE, ACQ and REL find an uncorrectable error of the
word (log 18) and a malformed block (10 R231; log 32). -/
def Obligations.AccessChecksInOrder : Prop :=
  (∀ (s : State) (d a b : Reg) (sp : Fin 4) (o : BitVec 14) (z : Fin 4) (zb : Bool) (k : Fin 10) (i : Instr) (ea : Word) (n : Nat),
    (i, ea, n) ∈ [(Instr.ldB d b sp o, s.rs b + o.signExtend 64 * 1, 1), (.ldH d b sp o, s.rs b + o.signExtend 64 * 2, 2),
      (.ldW d b sp o, s.rs b + o.signExtend 64 * 4, 4), (.ldD d b sp o, s.rs b + o.signExtend 64 * 8, 8),
      (.stW d b sp o, s.rs b + o.signExtend 64 * 4, 4), (.stD d b sp o, s.rs b + o.signExtend 64 * 8, 8),
      (.stx d a b sp z, s.rs a + s.rs b, 2 ^ z.val), (atomicOf d a b sp zb k, s.rs a, if zb then 8 else 4)] →
    (sp = 3 ∧ s.fcx ≠ 8 → exec i s = s.trap 0x042) ∧
    (¬(sp = 3 ∧ s.fcx ≠ 8) ∧ ea.toNat % n ≠ 0 → exec i s = s.trap 0x040) ∧
    (sp = 1 ∧ ea.toNat % n = 0 ∧ 0x7DC000 ≤ ea.toNat → exec i s = s.trap 0x041) ∧
    (sp = 2 ∧ ea.toNat % n = 0 ∧ 0x4000 ≤ ea.toNat → exec i s = s.trap 0x041) ∧
    (sp = 0 ∧ ea.toNat % n = 0 ∧ 2 ^ 48 ≤ ea.toNat → exec i s = s.trap 0x060) ∧
    (sp = 3 ∧ s.fcx = 8 ∧ ea.toNat % n = 0 ∧ 0x10000 ≤ ea.toNat → exec i s = s.trap 0x041)) ∧
  (∀ (s : State) (d a b : Reg) (o : BitVec 14) (z : Fin 4) (zb : Bool) (k : Fin 10) (i : Instr) (ea : Word) (n c : Nat) (r w : Bool),
    (i, ea, n, r, w) ∈ [(Instr.ldB d b 0 o, s.rs b + o.signExtend 64 * 1, 1, true, false), (.ldH d b 0 o, s.rs b + o.signExtend 64 * 2, 2, true, false),
      (.ldW d b 0 o, s.rs b + o.signExtend 64 * 4, 4, true, false), (.ldD d b 0 o, s.rs b + o.signExtend 64 * 8, 8, true, false),
      (.stW d b 0 o, s.rs b + o.signExtend 64 * 4, 4, false, true), (.stD d b 0 o, s.rs b + o.signExtend 64 * 8, 8, false, true),
      (.stx d a b 0 z, s.rs a + s.rs b, 2 ^ z.val, false, true), (atomicOf d a b 0 zb k, s.rs a, if zb then 8 else 4, true, true),
      (.acq d a false, s.rs a, 8, true, true), (.rel a false, s.rs a, 8, true, true)] →
    ea.toNat % n = 0 →
    (s.translate s.fsq (s.me.who s.fcx) { r := r, w := w } ea.toNat = .error (.cause c) → exec i s = s.trap c) ∧
    (s.translate s.fsq (s.me.who s.fcx) { r := r, w := w } ea.toNat = .error .stall → exec i s = s.block i)) ∧
  (∀ (s t : State) (d a b : Reg) (sp : Fin 4) (zb : Bool) (k : Fin 10) (pa : Nat),
    let i := atomicOf d a b sp zb k
    let n := if zb then 8 else 4
    let ea := (s.rs a).toNat
    ea % n = 0 →
    (sp = 0 ∧ s.translate s.fsq (s.me.who s.fcx) { r := true, w := true } ea = .ok (pa, t)) ∨
      (sp = 1 ∧ ea < 0x7DC000 ∧ pa = storeAddr s.fsq.val ea ∧ t = s) ∨ (sp = 2 ∧ ea < 0x4000 ∧ pa = privAddr s.fsq.val s.fcx.val ea ∧ t = s) →
    let h := ((t.performLoads s.fsq s.fcx).drainPosted s.fsq s.fcx).flushLine s.fsq ea
    ((∃ r, t.plainAt sp (s.rs a) = some r) → exec i s = t.trap 0x043) ∧
    (t.plainAt sp (s.rs a) = none → sp = 0 → h.isBad pa n = true → exec i s = h.trap 0x160) ∧
    (t.plainAt sp (s.rs a) = none → sp = 2 → t.isBad pa n = true → exec i s = t.trap 0x160) ∧
    (t.plainAt sp (s.rs a) = none → sp = 1 → t.blockBad s.fsq (ea / 512) = true → exec i s = t.trap 0x0E4)) ∧
  (∀ (s t : State) (d b : Reg) (sp : Fin 4) (o : BitVec 14) (i : Instr) (n pa : Nat),
    (i, n) ∈ [(Instr.ldB d b sp o, 1), (.ldH d b sp o, 2), (.ldW d b sp o, 4), (.ldD d b sp o, 8)] →
    let ea := s.rs b + o.signExtend 64 * BitVec.ofNat 64 n
    let own := fun (k : Nat) => t.ownByte s.fsq s.fcx (pa + k)
    ea.toNat % n = 0 →
    (sp = 0 → s.translate s.fsq (s.me.who s.fcx) { r := true } ea.toNat = .ok (pa, t) →
      (∀ l, (t.sq s.fsq).line (ea.toNat / 64) = some l → (∃ k < n, own k = none ∧ l.good (ea.toNat % 64 + k) = false) → exec i s = t.trap 0x160) ∧
      ((t.sq s.fsq).line (ea.toNat / 64) = none → (∃ k < n, own k = none) → t.isBad pa n = true → exec i s = t.trap 0x160)) ∧
    (sp = 1 → ea.toNat < 0x7DC000 → s.blockBad s.fsq (ea.toNat / 512) = true → exec i s = s.trap 0x0E4) ∧
    (sp = 2 → ea.toNat < 0x4000 → s.isBad (privAddr s.fsq.val s.fcx.val ea.toNat) n = true → exec i s = s.trap 0x160)) ∧
  (∀ (s t : State) (d a : Reg) (sp : Bool) (i : Instr) (pa : Nat),
    let ea := (s.rs a).toNat
    i ∈ [Instr.acq d a sp, .rel a sp] →
    (ea % 8 ≠ 0 → exec i s = s.trap 0x040) ∧
    (ea % 8 = 0 → sp = true → 0x7DC000 ≤ ea → exec i s = s.trap 0x041) ∧
    (ea % 8 = 0 → sp = true → ea < 0x7DC000 → s.inPlain 1 ea = true → exec i s = s.trap 0x115) ∧
    (ea % 8 = 0 → sp = true → ea < 0x7DC000 → s.inPlain 1 ea = false → s.blockBad s.fsq (ea / 512) = true → exec i s = s.trap 0x0E4) ∧
    (ea % 8 = 0 → sp = false → s.translate s.fsq (s.me.who s.fcx) { r := true, w := true } ea = .ok (pa, t) →
      (t.inPlain 0 ea = true → exec i s = t.trap 0x115) ∧
      (let h := ((t.performLoads s.fsq s.fcx).drainPosted s.fsq s.fcx).flushLine s.fsq ea
       t.inPlain 0 ea = false → h.isBad pa 8 = true → exec i s = h.trap 0x160)))

/-- 05 R125, R126, Table 5-14: an atomic of the private space, of the square store, or of context F in its management window (05 R114; log 10), writes
the new value at s[a] and the old one to s[d], and no other byte of memory, once the context's earlier load misses are performed (12 R269); one of the
square store that finds no place for its block takes the cause precisely. 05 R124, R125: an atomic of space 0 outside the plain-shared regions takes
effect at its home when it issues, after the context's earlier accesses and with the line out of its data cache: the word at its place becomes the new
value, no other byte changes, and the old value is in flight to s[d]. An atomic of a plain-shared region is ATOMIC_IN_PLAIN. -/
def Obligations.Atomics : Prop :=
  (∀ (s : State) (d a b : Reg) (z : Bool) (k : Fin 10),
    let n := if z then 8 else 4
    let w := if z then 64 else 32
    let ea := (s.rs a).toNat
    let priv := privAddr s.fsq.val s.fcx.val ea
    let stor := storeAddr s.fsq.val ea
    let win := windowAddr s.fsq.val ea
    let old := fun (at_ : Nat) => BitVec.ofNat w (s.rdN at_ n)
    let new := fun (at_ : Nat) => atomicNew (old at_) ((s.rs b).setWidth w) ((s.rs d).setWidth w) k
    let u := s.performLoads s.fsq s.fcx
    let wrote := fun (at_ : Nat) (t : State) =>
      (∀ j < n, t.rd (at_ + j) = (new at_).extractLsb' (8 * j) 8) ∧ (∀ m, (m < at_ ∨ at_ + n ≤ m) → t.rd m = u.rd m)
    ea % n = 0 →
    ((∀ l ∈ s.me.loads, l.value.isSome = true) → u = s) ∧
    (ea < 0x4000 → s.isBad priv n = false →
      ∃ t : State, exec (atomicOf d a b 2 z k) s = .next t ∧ t.me = (u.me.setS d ((old priv).setWidth 64)).advance ∧
        t.squares = (u.setMe t.me).squares ∧ wrote priv t) ∧
    (s.fcx = 8 → ea < 0x10000 → s.isBad win n = false →
      ∃ t : State, exec (atomicOf d a b 3 z k) s = .next t ∧ t.me = (u.me.setS d ((old win).setWidth 64)).advance ∧
        t.squares = (u.setMe t.me).squares ∧ wrote win t) ∧
    (ea < 0x7DC000 → s.plainAt 1 (s.rs a) = none → s.blockBad s.fsq (ea / 512) = false →
      (∀ v, u.writeStore s.fsq ea (natLE n (new stor).toNat) = .ok v →
        ∃ t : State, exec (atomicOf d a b 1 z k) s = .next t ∧ t.me = (u.me.setS d ((old stor).setWidth 64)).advance ∧ wrote stor t) ∧
      (∀ c, u.writeStore s.fsq ea (natLE n (new stor).toNat) = .error c → exec (atomicOf d a b 1 z k) s = u.trap c)) ∧
    (ea < 0x7DC000 → (∃ r, s.plainAt 1 (s.rs a) = some r) → exec (atomicOf d a b 1 z k) s = s.trap 0x043)) ∧
  (∀ (s t : State) (d a b : Reg) (z : Bool) (k : Fin 10) (pa : Nat),
    let i := atomicOf d a b 0 z k
    let n := if z then 8 else 4
    let w := if z then 64 else 32
    let h := ((t.performLoads s.fsq s.fcx).drainPosted s.fsq s.fcx).flushLine s.fsq (s.rs a).toNat
    let old := BitVec.ofNat w (h.rdN pa n)
    let new := atomicNew old ((s.rs b).setWidth w) ((s.rs d).setWidth w) k
    (s.rs a).toNat % n = 0 → s.translate s.fsq (s.me.who s.fcx) { r := true, w := true } (s.rs a).toNat = .ok (pa, t) →
    ((∃ r, t.plainAt 0 (s.rs a) = some r) → exec i s = t.trap 0x043) ∧
    (t.plainAt 0 (s.rs a) = none → h.isBad pa n = false → (t.sq s.fsq).outLoads s.fcx < 4095 →
      ((∀ l ∈ s.me.loads, l.value.isSome = true) → s.me.posted = [] → (t.sq s.fsq).line ((s.rs a).toNat / 64) = none → h = t ∧ h.mem = s.mem) ∧
      ∃ u : State, exec i s = .next u ∧ u.me.s = s.me.s ∧ u.me.p = s.me.p ∧ u.me.tm = s.me.tm ∧ u.me.q0 = s.me.q1 ∧
        (∀ j < n, u.rd (pa + j) = new.extractLsb' (8 * j) 8) ∧ (∀ m, (m < pa ∨ pa + n ≤ m) → u.rd m = h.rd m) ∧
        ∃ l : LoadFlight, u.me.loads = h.me.loads ++ [l] ∧ l.d = d ∧ l.size = n ∧ l.pa = pa ∧ l.value = some (old.setWidth 64))) ∧
  (∀ (s : State) (d a b : Reg) (z : Bool),
    (s.rs a).toNat % (if z then 8 else 4) = 0 → (s.rs a).toNat < 0x4000 →
    s.isBad (privAddr s.fsq.val s.fcx.val (s.rs a).toNat) (if z then 8 else 4) = false →
    ∀ i ∈ [Instr.swap d a b 2 z, .cas d a b 2 z, .aadd d a b 2 z, .aand d a b 2 z, .aor d a b 2 z, .axor d a b 2 z, .amin d a b 2 z, .amax d a b 2 z,
      .aminu d a b 2 z, .amaxu d a b 2 z], ∃ t : State, exec i s = .next t ∧ t.me.q0 = s.me.q1 ∧ t.me.p = s.me.p ∧ ∀ r, r ≠ d → t.rs r = s.rs r)

/-- 11 R252, R254, Table 11-1: the instructions that compute times. TM.MTT refuses ⊤, TM.ADDC adds to one counter without carry and clears those below,
and TM.EDGE applies an installed edge. -/
def Obligations.TimeArithmetic : Prop :=
  ∀ (s : State) (d b : Tm) (r a : Reg) (i : Fin 4) (k : BitVec 16) (e : Fin 16) (n : Fin 8),
    let c := fun (w : Word) (j : Nat) => w.toNat / 2 ^ (16 * j) % 65536
    (s.rs a ≠ 0xFFFFFFFFFFFFFFFF → exec (.tmMtt d a) s = .next (s.wT d (s.rs a)).retire) ∧
    (s.rs a = 0xFFFFFFFFFFFFFFFF → exec (.tmMtt d a) s = s.trap 0x103) ∧
    exec (.tmMft r b) s = s.sets r (s.rt b) ∧ exec (.tmFront r n) s = s.sets r s.localF[n] ∧
    (c (s.rt d) i.val + k.toNat > 0xFFFF → exec (.tmAddc d i k) s = s.trap 0x103) ∧
    (∀ w : Word, (∀ j : Fin 4, c w j.val = if j < i then 0 else if j = i then c (s.rt d) j.val + k.toNat else c (s.rt d) j.val) →
      c (s.rt d) i.val + k.toNat ≤ 0xFFFF →
      (w ≠ 0xFFFFFFFFFFFFFFFF → exec (.tmAddc d i k) s = .next (s.wT d w).retire) ∧
      (w = 0xFFFFFFFFFFFFFFFF → exec (.tmAddc d i k) s = s.trap 0x103)) ∧
    (s.edge n e = none → exec (.tmEdge d b e n) s = s.trap 0x104) ∧
    (∀ g, s.edge n e = some g →
      (∀ t, g.apply (s.rt b) = some t → exec (.tmEdge d b e n) s = .next (s.wT d t).retire) ∧
      (g.apply (s.rt b) = none → exec (.tmEdge d b e n) s = s.trap 0x103))

/-- 11 R254: TM.EDGE adds counter by counter with its carry, traps with TM_OVERFLOW where a counter exceeds 0xFFFF or the result is ⊤ and with
TM_EDGE_EMPTY for an empty edge, tm[d] unchanged; the result is never less, and the highest counter that changes gains kᵢ > 0 or a carry. The edge is
one that R253 lets LOAD install. -/
def Obligations.EdgesApply : Prop :=
  ∀ (s : State) (d a : Tm) (e : Fin 16) (n : Fin 8) (g : Edge),
    let c := fun (i : Fin 4) => (s.rt a).toNat / 2 ^ (16 * i.val) % 65536
    let mode := fun (i : Nat) => g.modes / 4 ^ i % 4
    let carry := fun (i : Fin 4) => if i.val ≠ 0 ∧ mode (i.val - 1) = 2 then 1 else 0
    let v := fun (i : Fin 4) => if mode i.val = 1 then c i + carry i + g.k[i] else if mode i.val = 2 then 0 else c i + carry i
    let w := v 0 + v 1 * 2 ^ 16 + v 2 * 2 ^ 32 + v 3 * 2 ^ 48
    (∀ u : State, ∀ code, s.fcx ≠ 8 → s.trap code = .next u → u.me.tm = s.me.tm) ∧
    (s.edge n e = none → exec (.tmEdge d a e n) s = s.trap 0x104) ∧
    (s.edge n e = some g → (∀ i : Fin 4, mode i.val ≠ 3) → mode 3 ≠ 2 →
      ((∃ i : Fin 4, 0xFFFF < v i) ∨ w = 2 ^ 64 - 1 → exec (.tmEdge d a e n) s = s.trap 0x103) ∧
      ((∀ i : Fin 4, v i ≤ 0xFFFF) → w ≠ 2 ^ 64 - 1 →
        exec (.tmEdge d a e n) s = .next (s.wT d (BitVec.ofNat 64 w)).retire ∧ (s.rt a).toNat ≤ w ∧
        ∀ i : Fin 4, v i ≠ c i → (∀ j : Fin 4, i < j → v j = c j) → (mode i.val = 1 ∧ 0 < g.k[i]) ∨ carry i = 1))

/-- 11 R259: TM.HOLD, TM.DROP and TM.MOVE with a count from 1 to 65,535, the tokens they need, and room: the table changes and the message enters the
stream as they retire. 11 R259: what a count instruction that fails a check raises: TM_COUNT, TM_ORDER, then the holding checks. -/
def Obligations.TokenInstructions : Prop :=
  (∀ (s : State) (a d : Tm) (b : Reg) (n : Fin 8) (k : Nat),
    let x := s.sq s.fsq
    let o : Owner := .ctx s.fcx
    let t := s.rt a
    let t' := s.rt d
    (if b = 0 then k = 1 else k = (s.rs b).toNat) → 1 ≤ k → k ≤ 65535 → x.streamRoom 1 = true →
    (x.holdsBy o n t = true → x.held o n t + k ≤ 65535 → x.tokRoom o n t = true →
      exec (.tmHold a b n) s = .next (s.modSq s.fsq (fun y => (y.addTok o n t k).send n [(t, (k : Int))])).retire) ∧
    (k ≤ x.held o n t → s.dropReady s.fsq s.fcx n t = true →
      exec (.tmDrop a b n) s = .next ((s.dropWrites s.fsq s.fcx n).modSq s.fsq (fun y => (y.subTok o n t k).send n [(t, -(k : Int))])).retire) ∧
    (t < t' → k ≤ x.held o n t → x.held o n t' + k ≤ 65535 → (x.tokRoom o n t' = true ∨ x.held o n t = k) →
      s.dropReady s.fsq s.fcx n t = true →
      exec (.tmMove d a b n) s = .next ((s.dropWrites s.fsq s.fcx n).modSq s.fsq
        (fun y => ((y.subTok o n t k).addTok o n t' k).send n [(t', (k : Int)), (t, -(k : Int))])).retire) ∧
    (t = t' → k ≤ x.held o n t → exec (.tmMove d a b n) s = .next s.retire)) ∧
  (∀ (s : State) (a d : Tm) (b : Reg) (n : Fin 8),
    let x := s.sq s.fsq
    let o : Owner := .ctx s.fcx
    (b ≠ 0 ∧ ((s.rs b).toNat = 0 ∨ 65535 < (s.rs b).toNat) →
      exec (.tmHold a b n) s = s.trap 0x106 ∧ exec (.tmDrop a b n) s = s.trap 0x106 ∧ exec (.tmMove d a b n) s = s.trap 0x106) ∧
    (x.holdsBy o n (s.rt a) = false → exec (.tmHold a 0 n) s = s.trap 0x101) ∧
    (x.held o n (s.rt a) = 0 → exec (.tmDrop a 0 n) s = s.trap 0x100) ∧
    (s.rt d < s.rt a → exec (.tmMove d a 0 n) s = s.trap 0x102) ∧
    (s.rt a ≤ s.rt d → x.held o n (s.rt a) = 0 → exec (.tmMove d a 0 n) s = s.trap 0x100))

/-- 11 R260, R251, 12 R279: a wait for a frontier ends when local(N) is greater than the time, and then the clean lines of the scope's regions leave; a
wait that could not end raises TM_DEADLOCK, which is looked for once, before the wait, and one that may waits. TM.BAR first moves all the tokens of the
context at its time to the successor, with one message, and then waits; executed again it finds them there and moves nothing. 08 R187, 12 R280: WAIT.C
retires as soon as every counter stands at or below its limit, a limit of 15 being none; XFENCE retires when no access of its from-mask is
outstanding, after the write-backs and invalidations of path P. -/
def Obligations.Waits : Prop :=
  (∀ (s : State) (a : Tm) (n : Fin 8),
    let x := s.sq s.fsq
    let o : Owner := .ctx s.fcx
    let t := s.rt a
    let clear := fun (u : State) => (u.dropClean u.fsq (u.lineIn (·.ofScope n))).retire
    let waits := fun (u : State) (first : Bool) (i : Instr) (r : Out) =>
      (first = true → u.deadlock n t = true → r = u.trap 0x107) ∧
      (first = false ∨ u.deadlock n t = false →
        (t < s.localF[n] → r = .next (clear u)) ∧ (¬(t < s.localF[n]) → r = u.block i))
    (s.deadlock n t = true ↔ x.holdsBy o n t = true ∨ ∃ c : Fin 8, (s.ctx s.fsq (tileCx c)).st = .ready ∧ x.holdsBy (.ctx (tileCx c)) n t = true) ∧
    waits s (!s.me.waits) (.tmWaitf a n) (exec (.tmWaitf a n) s) ∧
    (t.toNat + 1 < 2 ^ 64 - 1 → ∀ k, x.held o n t = k → k ≠ 0 →
      (65535 < x.held o n (t + 1) + k → exec (.tmBar a n) s = s.trap 0x106) ∧
      (x.held o n (t + 1) + k ≤ 65535 → s.dropReady s.fsq s.fcx n t = false ∨ x.streamRoom 1 = false → exec (.tmBar a n) s = s.block (.tmBar a n)) ∧
      (x.held o n (t + 1) + k ≤ 65535 → s.dropReady s.fsq s.fcx n t = true → x.streamRoom 1 = true →
        waits ((s.dropWrites s.fsq s.fcx n).modSq s.fsq (fun y => ((y.subTok o n t k).addTok o n (t + 1) k).send n [(t + 1, (k : Int)), (t, -(k : Int))]))
          true (.tmBar a n) (exec (.tmBar a n) s))) ∧
    (t.toNat + 1 < 2 ^ 64 - 1 → x.held o n t = 0 → x.held o n (t + 1) ≠ 0 → waits s (!s.me.waits) (.tmBar a n) (exec (.tmBar a n) s)) ∧
    (t.toNat + 1 < 2 ^ 64 - 1 → x.held o n t = 0 → x.held o n (t + 1) = 0 → exec (.tmBar a n) s = s.trap 0x100) ∧
    (2 ^ 64 - 1 ≤ t.toNat + 1 → exec (.tmBar a n) s = s.trap 0x103)) ∧
  (∀ (s : State) (r c t l : Fin 16) (f g : BitVec 5),
    let x := s.sq s.fsq
    let within := fun (lim : Fin 16) (n : Nat) => lim.val = 15 ∨ n ≤ lim.val
    (within l (x.outLoads s.fcx) ∧ within t (x.outStores s.fcx) ∧ within c (s.outCopies s.fsq s.fcx) ∧ within r (x.outArray s.fcx) →
      exec (.waitC r c t l) s = .next s.retire) ∧
    (¬(within l (x.outLoads s.fcx) ∧ within t (x.outStores s.fcx) ∧ within c (s.outCopies s.fsq s.fcx) ∧ within r (x.outArray s.fcx)) →
      exec (.waitC r c t l) s = s.block (.waitC r c t l)) ∧
    let busy := (f.getLsbD 0 = true ∧ s.me.loads ≠ []) ∨ (f.getLsbD 1 = true ∧ x.vBusy s.fcx = true) ∨
      (f.getLsbD 2 = true ∧ ∃ y ∈ x.copyQ, y.ctx = s.fcx) ∨ (f.getLsbD 3 = true ∧ x.aBusy s.fcx = true) ∨
      (f.getLsbD 4 = true ∧ ∃ e : Fin 16, ∃ y ∈ s.bulk[e], y.hw = false ∧ y.sq = s.fsq ∧ y.ctx = s.fcx)
    (busy → exec (.xfence f g) s = s.block (.xfence f g)) ∧
    (¬busy →
      let u := if f.getLsbD 0 then (s.drainPosted s.fsq s.fcx).writeBack s.fsq (fun y => y.writers.getLsbD s.fcx.val) else s
      exec (.xfence f g) s = .next (if g.getLsbD 0 then u.dropClean u.fsq (fun _ => true) else u).retire))

/-- 12 R275, R276: ACQ of a free lock word in the square store, and REL of one that the context holds, with no earlier access in flight: the word is
written, and the version goes to s[d] or is advanced with the note. 12 R275, R276: the same for a lock word of space 0, which acts at its home with
the line out of the data cache. -/
def Obligations.Locks : Prop :=
  (∀ (s u : State) (d a : Reg),
    let ea := (s.rs a).toNat
    let at_ := storeAddr s.fsq.val ea
    let w := BitVec.ofNat 64 (s.rdN at_ 8)
    let v := w.toNat % 2 ^ 48
    let mine := s.fsq.val * 16 + (if s.fcx = 8 then 15 else s.fcx.val)
    let bound := fun (r : Region) => r.ofLock 1 ea
    ea % 8 = 0 → ea < 0x7DC000 → s.inPlain 1 ea = false → s.blockBad s.fsq (ea / 512) = false → s.isBad at_ 8 = false →
    s.me.loads = [] → s.me.posted = [] →
    (w.getLsbD 63 = false → s.writeStore s.fsq ea (natLE 8 (2 ^ 63 + mine * 2 ^ 48 + v)) = .ok u →
      let p := u.pull (u.note at_).mask bound
      let q := p.setNote at_ { p.note at_ with mask := 0 }
      exec (.acq d a true) s = .next ((q.dropClean q.fsq (q.lineIn bound)).wS d (BitVec.ofNat 64 v)).retire) ∧
    (w.getLsbD 63 = true → w.toNat / 2 ^ 48 % 2 ^ 12 ≠ mine → exec (.acq d a true) s = s.block (.acq d a true)) ∧
    (w.getLsbD 63 = true → w.toNat / 2 ^ 48 % 2 ^ 12 = mine →
      exec (.acq d a true) s = s.trap 0x114 ∧
      (s.writeStore s.fsq ea (natLE 8 ((v + 1) % 2 ^ 48)) = .ok u →
        ∃ t : State, exec (.rel a true) s = .next t ∧ t.me = u.me.advance ∧ t.mem = u.mem ∧
          (t.note at_).version = BitVec.ofNat 48 (v + 1))) ∧
    (¬(w.getLsbD 63 = true ∧ w.toNat / 2 ^ 48 % 2 ^ 12 = mine) → exec (.rel a true) s = s.trap 0x114)) ∧
  (∀ (s t : State) (d a : Reg) (pa : Nat),
    let ea := (s.rs a).toNat
    let u := t.flushLine t.fsq ea
    let w := BitVec.ofNat 64 (u.rdN pa 8)
    let v := w.toNat % 2 ^ 48
    let mine := s.fsq.val * 16 + (if s.fcx = 8 then 15 else s.fcx.val)
    let bound := fun (r : Region) => r.ofLock 0 ea
    ea % 8 = 0 → s.translate s.fsq (s.me.who s.fcx) { r := true, w := true } ea = .ok (pa, t) → t.inPlain 0 ea = false →
    u.isBad pa 8 = false → t.me.loads = [] → t.me.posted = [] →
    (w.getLsbD 63 = false →
      let h := u.writeHome pa (natLE 8 (2 ^ 63 + mine * 2 ^ 48 + v))
      let p := h.pull (h.note ea).mask bound
      let q := p.setNote ea { p.note ea with mask := 0 }
      exec (.acq d a false) s = .next ((q.dropClean q.fsq (q.lineIn bound)).wS d (BitVec.ofNat 64 v)).retire) ∧
    (w.getLsbD 63 = true → w.toNat / 2 ^ 48 % 2 ^ 12 ≠ mine → ∃ b : State, exec (.acq d a false) s = .next b ∧
      (∃ k, b.me.blocked = some k ∧ k.instr = .acq d a false) ∧ b.me.q0 = s.me.q0 ∧ b.me.s = s.me.s) ∧
    (w.getLsbD 63 = true → w.toNat / 2 ^ 48 % 2 ^ 12 = mine →
      ∃ e : State, exec (.rel a false) s = .next e ∧ e.me = u.me.advance ∧ e.mem = memPut u.mem pa (natLE 8 ((v + 1) % 2 ^ 48)) ∧
        (e.note ea).version = BitVec.ofNat 48 (v + 1)))

/-- 08 R188 to R190: MON arms the context's entry for the sector, and MWAIT ends with the reason that holds: 3 with no entry, 1 where it has fired, 4 once
after a restore, and else it waits. -/
def Obligations.WatchesAndMwait : Prop :=
  ∀ (s t : State) (d a : Reg) (pa : Nat),
    (s.translate s.fsq (s.me.who s.fcx) { r := true } (s.rs a).toNat = .ok (pa, t) →
      ∃ u : State, exec (.mon a) s = .next u ∧ u.me = s.me.advance ∧ u.mem = s.mem ∧
        ∃ w ∈ u.watches, w.sq = s.fsq ∧ w.owner = s.fcx ∧ w.sector = pa / 32 ∧ w.fired = false ∧ w.restored = false ∧ w.armed = s.now) ∧
    (s.me.blocked = none →
      (s.watchOf s.fsq s.fcx = none → exec (.mwait d a) s = s.sets d 3) ∧
      (∀ w, s.watchOf s.fsq s.fcx = some w →
        (w.restored = false → w.fired = true → exec (.mwait d a) s = (s.dropWatch s.fsq s.fcx).sets d 1) ∧
        (w.restored = false → w.fired = false → (s.rs a).toNat = 0 → exec (.mwait d a) s = s.sets d 2) ∧
        (w.restored = true → ∃ u : State, exec (.mwait d a) s = .next u ∧ u.me = (s.me.setS d 4).advance ∧
          { w with restored := false } ∈ u.watches) ∧
        (w.restored = false → w.fired = false → 0 < (s.rs a).toNat → s.higherReady s.fsq s.fcx = false →
          exec (.mwait d a) s = s.block (.mwait d a))))

/-- 05 R97: a blocked instruction leaves the queue and the registers as they are, and remembers since when it waits; tried again, every instruction that
can wait is executed afresh in its context: a WAIT.C, a TM.WAITF, an EQ.WAIT, an MWAIT, an H.WAIT, an EMIT and an ACQ whose condition holds retire with
what they do when they need not wait; a record that waits is delivered before it (07 R162, 15 R320). 07 R155, 11 R267, 12 R276, 13 R296, 18 R376:
the watchdogs of waits. A wait for a frontier or for a lock that has lasted the limit of FWDT, and one of the EMIT family on a full core without
progress for 1 ms, raise their fault, the latter with its word in BADW (02 R39), and the run of a task of lower priority that has lasted RUNMAX while a
record of priority 3 waits ends with RUN_OVERRUN, unless its MJ.COMMIT has begun (log 36); earlier nothing happens. -/
def Obligations.BlockedInstructions : Prop :=
  (∀ (s : State) (i : Instr) (q : Sq) (c : Cx) (b : Blocked),
    (s.me.blocked = none → s.block i = .next (s.setMe { s.me with blocked := some { instr := i, since := s.now, now := s.now, afresh := false } })) ∧
    ((s.ctx q c).blocked = some b → b.afresh = false → s.issues q c = true → s.recordDue q c = true →
      exec (.blockedInstructionResume q c) s = .next (s.deliver q c)) ∧
    ((s.ctx q c).blocked = some b → b.afresh = false → s.issues q c = true → s.recordDue q c = false →
      let m := s.focus q c
      let x := s.sq q
      let k := s.ctx q c
      let resumed := exec (.blockedInstructionResume q c) s
      let within := fun (lim : Fin 16) (n : Nat) => lim.val = 15 ∨ n ≤ lim.val
      (∀ (d a e : Reg) (sp z : Fin 4) (o : BitVec 14) (l : Bool) (f g : BitVec 5) (r p t y : Fin 16) (j : Tm) (h : Tm) (n : Fin 8) (v : Vc) (w : Fin 65)
        (u : Fin 4) (mask : BitVec 4) (st : Fin 5),
        let kinds : List (List Instr) :=
          [ [.ldB d a sp o, .ldH d a sp o, .ldW d a sp o, .ldD d a sp o, .stW d a sp o, .stD d a sp o, .stx d a e sp z],
            [.swap d a e sp z, .cas d a e sp z, .aadd d a e sp z, .aand d a e sp z, .aor d a e sp z, .axor d a e sp z, .amin d a e sp z],
            [.amax d a e sp z, .aminu d a e sp z, .amaxu d a e sp z, .acq d a l, .rel a l, .mon a, .mwait d a, .xfence f g, .waitC r p t y],
            [.spawn a, .tmHold j a n, .tmDrop j a n, .tmMove j h a n, .tmBar j n, .tmWaitf j n, .emit v a, .emitP v a e n u, .emitBc a mask],
            [.eqWait v w, .cpPut d a, .cpGet d a, .cpPuts d a, .cpMcast d a, .cpGather d a, .cpMig d a, .hWait a st, .hFree a, .hBind a e],
            [.fmtSet a e, .blkLd d a e, .blkWait d a, .rgnBind a e, .mjWr a e, .mjCommit d, .mjStat d a, .exit, .ctxSave d a, .ctxRestore d a],
            [.ctxEnd d a] ]
        ∀ i ∈ kinds, b.instr ∈ i → resumed = exec b.instr m) ∧
      (∀ r p t l, b.instr = .waitC r p t l → within l (x.outLoads c) → within t (x.outStores c) → within p (s.outCopies q c) →
        within r (x.outArray c) → resumed = .next m.retire) ∧
      (∀ a n, b.instr = .tmWaitf a n → m.rt a < s.localF[n] → resumed = .next (m.dropClean q (m.lineIn (·.ofScope n))).retire) ∧
      (∀ (v : Vc) (n : Fin 65), b.instr = .eqWait v n →
        (if n.val = 0 then (s.core q v).eq = [] ∧ (s.core q v).issued = [] else (s.core q v).eq.length + n.val ≤ 64) →
        ∃ t : State, resumed = .next t ∧ t.ctx q c = { t.ctx q c with q0 := k.q1, s := k.s, blocked := none } ∧ t.mem = s.mem) ∧
      (∀ d a w, b.instr = .mwait d a → s.watchOf q c = some w → w.fired = true → resumed = .next ((m.dropWatch q c).wS d 1).retire) ∧
      (∀ (a : Reg) (st : Fin 5) (v : Vc) (h : Fin 64) (i : Fin 8), b.instr = .hWait a st → c = tileCx i → (s.core q v).claim = some i →
        k.rs_ a = BitVec.ofNat 64 (v.val * 64 + h.val) → (s.hnd q v h).sp ≠ 0 → (s.hnd q v h).st.num = st.val → resumed = .next m.retire) ∧
      (∀ (v : Vc) (a : Reg) (w : BitVec 192) (t : State), b.instr = .emit v a → k.records = [] → (k.rs_ a).toNat % 8 = 0 →
        m.readTemplate (k.rs_ a).toNat = .ok (w, t) → firstIllegal w = none → firstConflict w = none → t.foreign q v c = false →
        (t.core q v).eq.length < 64 → t.countsFit { w := w, ctx := c, seq := 0, gwa := 0 } 1 = true →
        ∃ u : State, resumed = .next u ∧ (u.ctx q c).q0 = k.q1 ∧ (u.ctx q c).s = k.s ∧ (u.ctx q c).seq[v] = k.seq[v] + 1 ∧ u.mem = t.mem ∧
          (u.core q v).eq = (t.core q v).eq ++ [{ w := w, ctx := c, seq := k.seq[v], gwa := BitVec.ofNat 46 (k.q0.pc.toNat / 4) }]) ∧
      (∀ (d a : Reg) (u : State), b.instr = .acq d a true →
        let ea := (k.rs_ a).toNat
        let w := BitVec.ofNat 64 (s.rdN (storeAddr q.val ea) 8)
        let mine := q.val * 16 + (if c = 8 then 15 else c.val)
        ea % 8 = 0 → ea < 0x7DC000 → s.inPlain 1 ea = false → s.blockBad q (ea / 512) = false → s.isBad (storeAddr q.val ea) 8 = false →
        k.loads = [] → k.posted = [] → w.getLsbD 63 = false → m.writeStore q ea (natLE 8 (2 ^ 63 + mine * 2 ^ 48 + w.toNat % 2 ^ 48)) = .ok u →
        ∃ t : State, resumed = .next t ∧ (t.ctx q c).q0 = k.q1 ∧ (d ≠ 0 → (t.ctx q c).rs_ d = BitVec.ofNat 64 (w.toNat % 2 ^ 48)) ∧
          (∀ r, r ≠ d → (t.ctx q c).rs_ r = k.rs_ r)))) ∧
  (∀ (s : State) (q : Sq) (c : Cx) (b : Blocked) (v : Vc) (a : Reg) (t : Tm) (n : Fin 8) (d : Reg) (sp : Bool) (k : Fin 8) (r : Residence),
    let x := s.ctx q c
    let due := bits x.fwdt 0 32 ≠ 0 ∧ b.since + bits x.fwdt 0 32 * 1000 ≤ s.now
    (x.blocked = some b → b.afresh = false →
      (b.instr = .tmWaitf t n →
        (due → exec (.frontierStall q c) s = .next (s.stallTrap q c 0x105)) ∧
        (¬due → exec (.frontierStall q c) s = .next s) ∧ exec (.lockStall q c) s = .next s) ∧
      (b.instr = .acq d a sp →
        (due → (s.focus q c).lockHeld a sp = true → exec (.lockStall q c) s = .next (s.stallTrap q c 0x118)) ∧
        (¬due ∨ (s.focus q c).lockHeld a sp = false → exec (.lockStall q c) s = .next s) ∧ exec (.frontierStall q c) s = .next s) ∧
      (b.instr = .emit v a →
        (∀ w u, b.since + 1000000 ≤ s.now → (s.core q v).progress + 1000000 ≤ s.now → (s.focus q c).readTemplate (x.rs_ a).toNat = .ok (w, u) →
          64 ≤ (s.core q v).eq.length ∨ u.countsFit { w := w, ctx := c, seq := 0, gwa := 0 } 1 = false →
          s.recordDue q c = false → c ≠ 8 →
          exec (.emitStall q c) s = .next ((s.setCtx q c { x with
            badw := BitVec.ofNat 64 ((0x80000000 + v.val * 0x1000000 + a.val * 0x80000) * 2 ^ 32) }).stallTrap q c 0x083)) ∧
        (s.now < b.since + 1000000 ∨ s.now < (s.core q v).progress + 1000000 ∨ (∃ e, (s.focus q c).readTemplate (x.rs_ a).toNat = .error e) ∨
            (∃ w u, (s.focus q c).readTemplate (x.rs_ a).toNat = .ok (w, u) ∧ (s.core q v).eq.length < 64 ∧
              u.countsFit { w := w, ctx := c, seq := 0, gwa := 0 } 1 = true) →
          exec (.emitStall q c) s = .next s))) ∧
    ((s.sq q).active = some k → s.residence (s.ctx q (tileCx k)).res = some r →
      (let late := (∃ e ∈ (s.sq q).launchQ, e.words.pri = 3) ∧ (∀ i : Fin 8, (s.ctx q (tileCx i)).st ≠ .free) ∧ (s.ctx q (tileCx k)).pri < 3 ∧
         (s.sq q).service = none ∧ (s.ctx q (tileCx k)).runStart + r.runmax ≤ s.now ∧ s.committing q (tileCx k) = false
       (late → exec (.runOverrun q) s = .next (s.endTask q (tileCx k) 0x12F)) ∧ (¬late → exec (.runOverrun q) s = .next s))))

/-- 07 R149 to R153, R162: an EMIT whose aligned template reads, is legal, finds its core unclaimed or claimed by the context, and finds room, puts the
bundle with its provenance at the tail of the queue, advances SEQ and retires; EMIT.P the patched template, EMIT.BC to every core of its mask. Memory
is unchanged. 07 R150, R152, R153, 02 R39, R47, 08 R168: what an EMIT that cannot enqueue does, in the order of the checks; BADW holds its word, with
the refused move where there is one. -/
def Obligations.Emission : Prop :=
  (∀ (s t : State) (v : Vc) (a b : Reg) (k : Fin 8) (f : Fin 4) (m : BitVec 4) (w x : BitVec 192),
    let q := s.fsq
    let ready := fun (w : BitVec 192) (vs : List Vc) => firstIllegal w = none ∧ firstConflict w = none ∧
      (∀ c ∈ vs, t.foreign q c s.fcx = false ∧ (t.core q c).eq.length < 64) ∧
      t.countsFit { w := w, ctx := s.fcx, seq := 0, gwa := 0 } vs.length = true
    let sent := fun (o : Out) (w : BitVec 192) (vs : List Vc) => ∃ u : State, o = .next u ∧ u.me.q0 = s.me.q1 ∧ u.me.s = s.me.s ∧ u.mem = t.mem ∧
      ∀ c ∈ vs, (u.core q c).eq = (t.core q c).eq ++
          [{ w := w, ctx := s.fcx, seq := s.me.seq[c], gwa := BitVec.ofNat 46 (s.me.q0.pc.toNat / 4) }] ∧
        u.me.seq[c] = s.me.seq[c] + 1
    (s.rs a).toNat % 8 = 0 → s.readTemplate (s.rs a).toNat = .ok (w, t) → s.me.records = [] →
    (ready w [v] → sent (exec (.emit v a) s) w [v]) ∧
    (patch w k.val f.val (s.rs b) = some x → ready x [v] → sent (exec (.emitP v a b k f) s) x [v]) ∧
    (let vs := (List.finRange 4).filter (fun c => m.getLsbD c.val)
     ready w vs → sent (exec (.emitBc a m) s) w vs)) ∧
  (∀ (s t : State) (v : Vc) (a b : Reg) (k : Fin 8) (f : Fin 4) (w : BitVec 192),
    let bad := fun (e : Nat) (slot move : Nat) => BitVec.ofNat 64 (e * 2 ^ 32 + slot * 2 ^ 24 + move)
    let e := 0x80000000 + v.val * 0x1000000 + a.val * 0x80000
    let ep := 0x84000000 + v.val * 0x1000000 + a.val * 0x80000 + b.val * 0x4000 + k.val * 0x100 + f.val * 0x40
    ((s.rs a).toNat % 8 ≠ 0 → exec (.emit v a) s = s.trap 0x040 ∧ exec (.emitP v a b k f) s = s.trap 0x040) ∧
    ((s.rs a).toNat % 8 = 0 → s.readTemplate (s.rs a).toNat = .ok (w, t) →
      (patch w k.val f.val (s.rs b) = none → exec (.emitP v a b k f) s = t.trapBad (bad ep k.val (slotBits w k.val)) 0x082) ∧
      (∀ j, firstIllegal w = some j → exec (.emit v a) s = t.trapBad (bad e j (slotBits w j)) 0x081) ∧
      (∀ j, firstIllegal w = none → firstConflict w = some j → exec (.emit v a) s = t.trapBad (bad e j (slotBits w j)) 0x080) ∧
      (firstIllegal w = none → firstConflict w = none → t.foreign s.fsq v s.fcx = true → exec (.emit v a) s = t.trapBad (bad e 0 0) 0x084) ∧
      (firstIllegal w = none → firstConflict w = none → t.foreign s.fsq v s.fcx = false → 64 ≤ (t.core s.fsq v).eq.length →
        exec (.emit v a) s = t.block (.emit v a))))

/-- 07 R154, R156, Table 7-4: EQ.WAIT retires when its core has room for n more entries, or for n = 0 when the core is empty and every bundle has retired,
and EQ.STAT gives the snapshot. 10 R232 to R235, Tables 10-3 to 10-5: the handle instructions on a core that the context claims. A handle that H.FREE or
H.BIND sets anew leaves the others as they are, and a tile of it that the array has fetched ahead is dropped (10 R233). -/
def Obligations.QueuesAndHandles : Prop :=
  (∀ (s : State) (v : Vc) (n : Fin 65) (d : Reg),
    let x := s.core s.fsq v
    let y := s.me
    let met := if n.val = 0 then x.eq = [] ∧ x.issued = [] else x.eq.length + n.val ≤ 64
    (met → ∃ t : State, exec (.eqWait v n) s = .next t ∧ t.me.q0 = y.q1 ∧ t.me.s = y.s ∧ t.mem = s.mem) ∧
    (¬met → exec (.eqWait v n) s = s.block (.eqWait v n)) ∧
    (∃ t : State, exec (.eqStat v d) s = .next t ∧ t.me.q0 = y.q1 ∧ t.mem = s.mem ∧
      (d ≠ 0 → t.rs d = BitVec.ofNat 64 (y.seq[v].toNat * 2 ^ 48 + y.rseq[v].toNat * 2 ^ 32 + (if y.rv[v] then 2 ^ 31 else 0) +
        (x.eq.filter (fun e => e.ctx == s.fcx)).length * 2 ^ 16 + (64 - x.eq.length))))) ∧
  (∀ (s : State) (a b d : Reg) (n : Fin 5) (v : Vc) (h : Fin 64) (c : Fin 8) (y : Hnd),
    s.fcx = tileCx c → (s.core s.fsq v).claim = some c → s.rs a = BitVec.ofNat 64 (v.val * 64 + h.val) → s.hnd s.fsq v h = y →
    let set := fun (z : Hnd) => Host.Outcome.next (φ := Fault) (ρ := Refusal) (s.modHnd s.fsq v h (fun _ => z)).retire
    (y.sp ≠ 0 ∧ y.st.num = n.val → exec (.hWait a n) s = .next s.retire) ∧
    (y.sp ≠ 0 ∧ y.st ≠ .error ∧ y.st.num ≠ n.val → exec (.hWait a n) s = s.block (.hWait a n)) ∧
    (y.sp ≠ 0 ∧ y.st = .error ∧ n.val ≠ 4 → exec (.hWait a n) s = s.trap 0x0E2) ∧
    (y.sp = 0 ∧ n ≠ 0 → exec (.hWait a n) s = s.trap 0x0E0) ∧
    exec (.hStat d a) s = s.sets d (BitVec.ofNat 64 (y.st.num * 2 ^ 61 + (if y.st = .error then y.cause % 512 else 0) * 2 ^ 52 +
      (if y.sp ≠ 0 then 2 ^ 51 else 0) + (if y.keep then 2 ^ 50 else 0) + y.sp % 4 * 2 ^ 48 + y.len % 2 ^ 14 * 2 ^ 34 + y.pos % 2 ^ 16)) ∧
    let anew := fun (z : Hnd) => (s.dropTile s.fsq v h).resetHnd s.fsq v h (fun _ => z)
    (∀ z : Hnd, (anew z).hnd s.fsq v h = z ∧ (anew z).mem = s.mem ∧ (anew z).me = s.me ∧
      (∀ w g, (w ≠ v ∨ g ≠ h) → (anew z).hnd s.fsq w g = s.hnd s.fsq w g) ∧
      (anew z).arr s.fsq = { s.arr s.fsq with ahead := ((anew z).arr s.fsq).ahead } ∧
      (((anew z).arr s.fsq).ahead = none ∨ ((anew z).arr s.fsq).ahead = (s.arr s.fsq).ahead)) ∧
    (y.sp ≠ 0 ∧ (y.st = .full ∨ y.st = .error) → exec (.hFree a) s = .next (anew { y with st := .free, pos := 0, cause := 0 }).retire) ∧
    (y.sp ≠ 0 ∧ y.st = .free → exec (.hFree a) s = .next (anew y).retire) ∧
    (y.sp ≠ 0 ∧ (y.st = .filling ∨ y.st = .draining) → exec (.hFree a) s = s.block (.hFree a)) ∧
    (y.sp ≠ 0 → exec (.hKeep a) s = set { y with keep := true } ∧ exec (.hDisc a) s = set { y with keep := false }) ∧
    (y.sp = 0 → exec (.hFree a) s = s.trap 0x0E0 ∧ exec (.hKeep a) s = s.trap 0x0E0 ∧ exec (.hDisc a) s = s.trap 0x0E0) ∧
    (y.st ≠ .filling → y.st ≠ .draining →
      (s.rs b = 0 → exec (.hBind a b) s = .next (anew { sp := 0, len := 0, base := 0, st := .free, pos := 0, keep := false, cause := 0 }).retire) ∧
      (∀ sp len base : Nat, ∀ full : Bool, 1 ≤ sp → sp ≤ 3 → len < 2 ^ 14 → base < 2 ^ 39 →
        base * 512 + (len + 1) * 512 ≤ (if sp = 1 then 0x7DC000 else if sp = 2 then 0x80000 else 2 ^ 48) →
        s.rs b = BitVec.ofNat 64 (sp * 2 ^ 62 + len * 2 ^ 48 + base * 2 ^ 9 + (if full then 1 else 0)) →
        exec (.hBind a b) s = .next (anew { sp := sp, len := len, base := base * 512, st := if full then .full else .free, pos := 0,
                                            keep := false, cause := 0 }).retire)))

/-- 10 R224: FMT.SET writes the format of a bank of a core that the context claims, once no bundle and no queued copy of the context uses it and the array
holds no command of the core, and FMT.GET reads it; a format or a bank out of range is FORMAT_WORD, and FMT.SET on a core that another context claims is
CORE_CLAIMED, with the word in BADW (02 R39). 12 R272 to R274: RGN.DECL installs the region of a well-formed space-0 descriptor that meets no other under
a free number; a malformed one is REGION_DESC, and one that meets another REGION_OVERLAP. RGN.BIND gives an own region a new synchronisation word, from
none, from a frontier scope or from a lock: once its log entries are committed and the old lock word reads H = 0, with the bytes that the lock's note
names written back; till then it waits. A region that is not its own, or a malformed word, is REGION_DESC. How the old lock word is read, and what a read
that fails raises, is the model's choice (log 98). -/
def Obligations.FormatsAndRegions : Prop :=
  (∀ (s : State) (a b d : Reg) (v : Vc) (k : Fin 16) (c : Fin 8),
    s.fcx = tileCx c → (s.core s.fsq v).claim = some c → s.rs a = BitVec.ofNat 64 (v.val * 16 + k.val) →
    let x := s.core s.fsq v
    let f := (s.rs b).toNat
    let known := f ≤ 8 ∨ f = 12 ∨ f = 13
    exec (.fmtGet d a) s = s.sets d (BitVec.ofNat 64 x.fmt[k]) ∧
    (¬known → exec (.fmtSet a b) s = s.trap 0x0E9) ∧
    (known → (∀ e ∈ x.eq, e.ctx ≠ s.fcx) → (∀ e ∈ x.issued, e.ent.ctx ≠ s.fcx) →
      (∀ m, (s.acore s.fsq v).cur = some m ∨ (s.acore s.fsq v).nxt = some m → m.accepted = false) → s.copyBank s.fsq v k.val = false →
      exec (.fmtSet a b) s = .next (s.modCore s.fsq v (fun y => { y with fmt := vset y.fmt k f })).retire)) ∧
  (∀ (s : State) (d a b : Reg) (v : Vc) (k : Fin 16) (c : Fin 8),
    (64 ≤ (s.rs a).toNat → exec (.fmtSet a b) s = s.trap 0x0E9 ∧ exec (.fmtGet d a) s = s.trap 0x0E9) ∧
    (s.rs a = BitVec.ofNat 64 (v.val * 16 + k.val) → (s.rs b).toNat ≤ 8 → (s.core s.fsq v).claim = some c → s.fcx ≠ tileCx c →
      ∃ w, encode (.fmtSet a b) = some w ∧ exec (.fmtSet a b) s = s.trapBad (BitVec.ofNat 64 (w.toNat * 2 ^ 32)) 0x084) ∧
    (s.rs a = BitVec.ofNat 64 (v.val * 16 + k.val) → (s.rs b).toNat ≤ 8 → (s.core s.fsq v).claim = some c → s.fcx = tileCx c →
      ((∃ e ∈ (s.core s.fsq v).eq, e.ctx = s.fcx) ∨ (∃ e ∈ (s.core s.fsq v).issued, e.ent.ctx = s.fcx) ∨
        (∃ m, ((s.acore s.fsq v).cur = some m ∨ (s.acore s.fsq v).nxt = some m) ∧ m.accepted = true) ∨ s.copyBank s.fsq v k.val = true) →
      exec (.fmtSet a b) s = s.block (.fmtSet a b))) ∧
  (∀ (s : State) (d a : Reg),
    let p := (s.rs a).toNat
    let w := fun (i : Nat) => s.privWord (p + 8 * i)
    p % 32 = 0 → p + 32 ≤ 0x4000 → s.isBad (privAddr s.fsq.val s.fcx.val p) 32 = false →
    (bits (w 0) 62 2 ≠ 0 ∨ bits (w 0) 48 14 ≠ 0 ∨ bits (w 0) 0 48 % 512 ≠ 0 ∨ bits (w 1) 48 16 ≠ 0 ∨ bits (w 1) 0 48 = 0 ∨ bits (w 1) 0 48 % 512 ≠ 0 ∨
        2 ^ 48 < bits (w 0) 0 48 + bits (w 1) 0 48 ∨ bits (w 3) 4 28 ≠ (if bit (w 3) 8 then 16 else 0) ∨ bits (w 3) 32 32 ≠ 0 ∨ bits (w 3) 0 4 ≠ 8 ∨
        s.syncOk (w 2) (bit (w 3) 8) = false →
      exec (.rgnDecl d a) s = s.trap 0x113) ∧
    (∀ r own, own = RgnOwner.inv (s.me.inv.getD 0) → s.regionOf (w 0) (w 1) (w 2) (w 3) own = some r → r.space = 0 →
      (∃ t ∈ s.regionList, r.meets t = true) → exec (.rgnDecl d a) s = s.trap 0x111)) ∧
  (∀ (s t : State) (a b : Reg) (r : Region) (pa : Nat),
    let n := (s.rs a).toNat
    let i := Instr.rgnBind a b
    let logged := ∃ q : Sq, ∃ e ∈ (s.sq q).log, ∃ v, e.va = some v ∧ r.start ≤ v ∧ v < r.start + r.len
    let bound := fun (u : State) => Host.Outcome.next (φ := Fault) (ρ := Refusal)
      ({ u with regions := mput none u.regions n (some { r with sync := s.rs b }) } : State).retire
    let freed := fun (u : State) (k : Nat) => bound (u.pull (u.note k).mask (fun g => g == r))
    mget none s.regions n = some r →
    (r.owner ≠ RgnOwner.inv (s.me.inv.getD 0) ∨ s.syncOk (s.rs b) r.plain = false → exec i s = s.trap 0x113) ∧
    (r.owner = RgnOwner.inv (s.me.inv.getD 0) → s.syncOk (s.rs b) r.plain = true →
      (logged → exec i s = s.block i) ∧
      (¬logged →
        (bits r.sync 62 2 = 3 → exec i s = bound s) ∧
        (bits r.sync 62 2 = 2 → s.blockBad s.fsq (bits r.sync 0 23 / 512) = false →
          let at_ := storeAddr s.fsq.val (bits r.sync 0 23)
          ((BitVec.ofNat 64 (s.rdN at_ 8)).getLsbD 63 = true → exec i s = s.block i) ∧
          ((BitVec.ofNat 64 (s.rdN at_ 8)).getLsbD 63 = false → exec i s = freed s at_)) ∧
        (bits r.sync 62 2 = 1 →
          let l := bits r.sync 0 48
          (∀ c, s.translate s.fsq (s.me.who s.fcx) { r := true } l = .error (.cause c) → exec i s = s.trap c) ∧
          (s.translate s.fsq (s.me.who s.fcx) { r := true } l = .error .stall → exec i s = s.block i) ∧
          (s.translate s.fsq (s.me.who s.fcx) { r := true } l = .ok (pa, t) →
            let u := t.blkTouch pa 8
            (t.isBad pa 8 = true → exec i s = s.trap 0x160) ∧
            (t.isBad pa 8 = false → (BitVec.ofNat 64 (t.rdN pa 8)).getLsbD 63 = true → exec i s = u.block i) ∧
            (t.isBad pa 8 = false → (BitVec.ofNat 64 (t.rdN pa 8)).getLsbD 63 = false → exec i s = freed u l)))))) ∧
  (∀ (s : State) (d a b : Reg) (r : Region) (n : Nat),
    let p := (s.rs a).toNat
    let own := RgnOwner.inv (s.me.inv.getD 0)
    (p % 32 = 0 → p + 32 ≤ 0x4000 → s.isBad (privAddr s.fsq.val s.fcx.val p) 32 = false →
      s.regionOf (s.privWord p) (s.privWord (p + 8)) (s.privWord (p + 16)) (s.privWord (p + 24)) own = some r → r.space = 0 →
      (∀ t ∈ s.regionList, r.meets t = false) →
      (n < 1024 → mget none s.regions n = none → ∃ m : Nat, m < 1024 ∧ mget none s.regions m = none ∧
        exec (.rgnDecl d a) s = ({ s with regions := mput none s.regions m (some r), free := s.free + 1 } : State).sets d (BitVec.ofNat 64 m)) ∧
      ((∀ m < 1024, (mget none s.regions m).isSome = true) → exec (.rgnDecl d a) s = s.trap 0x112)) ∧
    (mget none s.regions p = some r → r.owner = own → s.syncOk (s.rs b) r.plain = true → r.sync = 0 →
      (∀ q : Sq, ∀ e ∈ (s.sq q).log, ∀ v, e.va = some v → v < r.start ∨ r.start + r.len ≤ v) →
      exec (.rgnBind a b) s = .next ({ s with regions := mput none s.regions p (some { r with sync := s.rs b }) } : State).retire) ∧
    (mget none s.regions p = none → exec (.rgnBind a b) s = s.trap 0x113))

/-- 14 R314, R315: BLK.LD of lines that lie in one page allots a block and returns its handle, BLK.WAIT gives 1 once the block is filled and 2 where the
handle names none, and BLK.EVICT takes away a block of the context's own; an address or a count out of range and lines that cross a page are
BLK_RANGE, and a handle with a zero field set is BLK_HANDLE. 02 R40, R41, 06 R141: a hint of any kind retires and never faults, whatever its address;
it changes no register, and no memory but by the write-back of a line that a filled one replaces. PREF.D of an address that translates leaves its line
in the data cache, PREF.I the lines of its superblock valid or in flight, and DEMOTE.D its line marked. -/
def Obligations.CacheBlocksAndHints : Prop :=
  (∀ (s t : State) (d a b : Reg) (pa : Nat),
    let va := (s.rs a).toNat
    let n := (s.rs b).toNat
    (∀ e, va % 128 = 0 → 1 ≤ n → n ≤ 64 → s.translate s.fsq (s.me.who s.fcx) { r := true } va = .ok (pa, t) → s.findXl s.fsq va = .ok e →
      (va % pageSize e.big + n * 128 ≤ pageSize e.big →
        ∃ u : State, exec (.blkLd d a b) s = .next u ∧ u.me.q0 = s.me.q1 ∧ u.mem = s.mem ∧ (∀ r, r ≠ d → u.rs r = s.rs r) ∧
          ∃ x : Blk, x ∈ u.blks ∧ x.pa = pa ∧ x.n = n ∧ x.die = homeDie pa ∧ x.owner = some (s.fsq, s.fcx) ∧ x.filled = false ∧
            (d ≠ 0 → u.rs d = x.handle) ∧ ∀ y ∈ u.blks, y ≠ x → y ∈ s.blks) ∧
      (pageSize e.big < va % pageSize e.big + n * 128 → exec (.blkLd d a b) s = s.trap 0x067)) ∧
    (∀ c, va % 128 = 0 → 1 ≤ n → n ≤ 64 → s.translate s.fsq (s.me.who s.fcx) { r := true } va = .error (.cause c) → exec (.blkLd d a b) s = s.trap c) ∧
    (va % 128 ≠ 0 ∨ n = 0 ∨ 64 < n → exec (.blkLd d a b) s = s.trap 0x067) ∧
    (2 ^ 32 ≤ va ∨ 2 ^ 13 ≤ va % 2 ^ 14 → exec (.blkEvict a) s = s.trap 0x068 ∧ exec (.blkWait d a) s = s.trap 0x068) ∧
    (va < 2 ^ 32 → va % 2 ^ 14 < 2 ^ 13 →
      exec (.blkEvict a) s = .next ({ s with blks := s.blks.filter (fun x => !(x.handle == s.rs a && x.owner == some (s.fsq, s.fcx))) } : State).retire ∧
      (s.blkOf (s.rs a) = none → exec (.blkWait d a) s = s.sets d 2) ∧
      (∀ x, s.blkOf (s.rs a) = some x → (x.filled = true → exec (.blkWait d a) s = s.sets d 1) ∧
        (x.filled = false → exec (.blkWait d a) s = s.block (.blkWait d a)))) ∧
    (∀ (i : Die) (k : Nat), exec (.blkFillComplete i k) s =
      .next { s with blks := s.blks.map (fun x => if x.die == i && x.tag == k then { x with filled := true } else x) })) ∧
  (∀ (s : State) (i : Instr) (b : Reg) (sp : Fin 4) (o : BitVec 14) (k : Fin 32),
    i ∈ [Instr.prefI b sp o, .prefD b sp o, .prefM b sp o, .demoteD b sp o, .reservedHint k b sp o] →
    let va := (s.rs b + o.signExtend 64 * 4).toNat
    ∃ t : State, exec i s = .next t ∧ t.me = s.me.advance ∧ (i ≠ .prefD b sp o → t.mem = s.mem) ∧
      (i = .prefD b sp o →
        (sp ≠ 0 ∨ (∃ e, s.translate s.fsq (s.me.who s.fcx) { r := true } va = .error e) → t.mem = s.mem) ∧
        (∀ pa u, sp = 0 → s.translate s.fsq (s.me.who s.fcx) { r := true } va = .ok (pa, u) →
          ((t.sq s.fsq).line (va / 64)).isSome = true ∧
          ∀ m, t.rd m ≠ s.rd m → ∃ l ∈ (s.sq s.fsq).dcache, ∃ (e : TlbEnt) (j : Nat), u.findXl s.fsq (l.tag * 64) = .ok e ∧ j < 64 ∧
            l.dirty.getLsbD j = true ∧ m = e.pa (l.tag * 64) + j ∧ t.rd m = l.get j ∧ (t.sq s.fsq).line l.tag = none)) ∧
      (i = .prefI b sp o → sp = 0 → ∀ pa u, s.translate s.fsq (s.me.who s.fcx) { x := true } va = .ok (pa, u) → ∀ j < 4,
        ((t.sq s.fsq).icHit (va / 512 * 512 + 128 * j) || (t.sq s.fsq).icFlying (va / 512 * 512 + 128 * j)) = true) ∧
      (i = .demoteD b sp o → sp = 0 → (∃ p, s.translate s.fsq (s.me.who s.fcx) { r := true } va = .ok p) →
        ∀ l ∈ (t.sq s.fsq).dcache, l.tag = va / 64 → l.demoted = true) ∧
      (i = .demoteD b sp o → (sp ≠ 0 ∨ ∃ e, s.translate s.fsq (s.me.who s.fcx) { r := true } va = .error e) → (t.sq s.fsq).dcache = (s.sq s.fsq).dcache))

/-- 10 R239, R242, Tables 10-6 and 10-8: a copy instruction of forms 0 to 4 whose descriptor is aligned, readable and passes checks 3 to 5, whose handles
are ready, with no accepted command of the array before it for the same state (10 R233), and whose queue has room, enters its square's queue with the
next ticket, which s[d] receives; memory is unchanged. One that finds no room waits; a check that fails raises its cause, CORE_CLAIMED with the word in
BADW (02 R39). 14 R313: CP.MIG, in context F, of a page of a DRAM tier that is unpinned, not lost and not moving, enters
a bulk engine of the die that holds the page, with a ticket; a page that may not move is MIG_REFUSED. In a tile context it is privileged. -/
def Obligations.CopyInstructions : Prop :=
  (∀ (s : State) (d a : Reg) (n : Fin 5),
    let i := [Instr.cpPut d a, .cpGet d a, .cpPuts d a, .cpMcast d a, .cpGather d a].getD n.val (.cpPut d a)
    let p := (s.rs a).toNat
    let y := (s.descAt p).1
    let r := s.copyCheck y (s.descAt p).2 n.val
    let ready := ∀ e ∈ y.handles n.val, (s.hnd s.fsq e.1 e.2.1).st = (if e.2.2 then .free else .full) ∧ s.cmdAwaits s.fsq e.1 e.2.1 e.2.2 = false
    let room := (s.sq s.fsq).copyQ.length < 32 ∧ s.outCopies s.fsq s.fcx < 4095
    (p % 64 ≠ 0 → exec i s = s.trap 0x040) ∧
    (p % 64 = 0 → p + 64 ≤ 0x4000 → s.isBad (privAddr s.fsq.val s.fcx.val p) 64 = false →
      (∀ c, r = .error c → c ≠ 0x084 → exec i s = s.trap c) ∧
      (r = .error 0x084 → ∃ w, encode i = some w ∧ exec i s = s.trapBad (BitVec.ofNat 64 (w.toNat * 2 ^ 32)) 0x084) ∧
      (∀ total, r = .ok total → ¬(ready ∧ room) → exec i s = s.block i) ∧
      (∀ total, r = .ok total → ready → room →
        ∃ (t : State) (z : Copy), exec i s = .next t ∧ t.me.q0 = s.me.q1 ∧ t.me.ticket = s.me.ticket + 1 ∧ t.mem = s.mem ∧
          (d ≠ 0 → t.rs d = s.me.ticket.setWidth 64) ∧ (∀ e, e ≠ d → t.rs e = s.rs e) ∧
          (t.sq s.fsq).copyQ = (s.sq s.fsq).copyQ ++ [z] ∧ z.ctx = s.fcx ∧ z.op.val = n.val ∧ z.d = y ∧ z.ticket = s.me.ticket ∧
          z.total = total ∧ z.started = false ∧ z.dest = 0 ∧ z.done = 0))) ∧
  (∀ (s : State) (d a : Reg) (va ea : Nat) (w : Word) (big : Bool) (e : Fin 16),
    let p := (s.rs a).toNat
    let y := (s.descAt p).1
    (s.fcx ≠ 8 → exec (.cpMig d a) s = s.trapBad (word (0xA0000140 + d.val * 0x200000 + a.val * 0x10000)) 0x003) ∧
    (s.fcx = 8 → p % 64 = 0 → p + 64 ≤ 0x4000 → s.isBad (privAddr s.fsq.val s.fcx.val p) 64 = false →
      placeOf y.src = some (.glob va) → y.w2 = 0 → y.sig = 0 → y.w4 = 0 → y.time = 0 → y.rect = 0 → (s.descAt p).2 = 0 → y.dst.toNat < 2 →
      s.walk va = .ok (ea, w, big) → va % pageSize big = 0 →
      (migratable w = false → exec (.cpMig d a) s = s.trap 0x066) ∧
      (migratable w = true → s.outCopies s.fsq s.fcx < 4095 → s.bulkOf (homeDie (pteAddr w)) = none → exec (.cpMig d a) s = s.block (.cpMig d a)) ∧
      (migratable w = true → s.outCopies s.fsq s.fcx < 4095 → s.bulkOf (homeDie (pteAddr w)) = some e →
        ∃ (t : State) (z : Copy), exec (.cpMig d a) s = .next t ∧ t.me.q0 = s.me.q1 ∧ t.mem = s.mem ∧ t.bulk[e] = s.bulk[e] ++ [z] ∧
          z.d = y ∧ z.op = 5 ∧ z.ticket = s.me.ticket ∧ t.me.ticket = s.me.ticket + 1 ∧ (d ≠ 0 → t.rs d = s.me.ticket.setWidth 64))))

/-- 10 R239, R242: the head copy of a square's engine, from one scratchpad extent to another without conversion, writes its next sector when it starts,
once its context's earlier accesses are performed, and each time it goes on: the 32 bytes become the source's as they were, every other byte of memory
stays, and after the last sector the copy goes on to its next destination with no error. 10 R246: a halted copy starts its chunk of 4 KiB again once the
destination translates, stays halted while the page moves, and else takes the cause. 10 R244, 11 R264: the signal of a written destination takes DEC
from bits [62:0] of its counter, modulo 2^63, and keeps bit 63 or sets it for an error; the last one destroys the copy's token. Table 10-9, R242: a whole
and signalled copy leaves with its entry in the result queue it names, or the entry waits where that is full. R239: a copy instruction blocked for 1 ms
without an entry of its queue freed faults with COPY_STALL. -/
def Obligations.CopiesRun : Prop :=
  (∀ (s : State) (q : Sq) (y : Copy) (rest : List Copy) (v w : Vc) (b o n : Nat),
    let x := s.sq q
    let u := if y.started = true then s else s.performAll q y.ctx
    let src := spadAddr q.val v.val (b + y.pos)
    let dst := spadAddr q.val w.val (o + y.pos)
    let done := Nat.max y.done (y.base + y.pos + 32)
    let e : Eng := ⟨q.val, by omega⟩
    x.copyQ = y :: rest → y.sq = q → y.dest = 0 → y.err = none → y.halted = none → y.d.sig = 0 →
    y.d.sources y.op.val = [.pad v b] → y.d.dests y.op.val = [.pad w o] → y.d.len = n →
    (y.started = false → x.crqHeld ≠ none → exec (.copyStart e) s = .next s) ∧
    ((y.started = false → x.crqHeld = none) → u.convOf q y.ctx y.d.senc (.pad v b) (.pad w o) = .same → n % 32 = 0 → y.pos % 32 = 0 → y.pos < n →
      b % 32 = 0 → b + n ≤ 0x80000 → o % 32 = 0 → o + n ≤ 0x80000 → u.isBad src 32 = false →
      ∃ t : State, exec (.copyStart e) s = .next t ∧
        (∀ k, k < 32 → t.rd (dst + k) = u.rd (src + k)) ∧ (∀ a, a < dst ∨ dst + 32 ≤ a → t.rd a = u.rd a) ∧
        (t.sq q).copyQ = (if n ≤ y.pos + 32 then { y with started := true, done := done, dest := 1, pos := 0, base := done }
          else { y with started := true, done := done, pos := y.pos + 32 }) :: rest)) ∧
  (∀ (s t : State) (q : Sq) (y : Copy) (rest : List Copy) (a pa c k : Nat),
    let e : Eng := ⟨q.val, by omega⟩
    let x := s.translate q y.who { w := true } (a + y.pos)
    (s.sq q).copyQ = y :: rest → y.sq = q → y.dest = 0 → y.err = none → y.halted = some c → y.d.dests y.op.val = [.glob a] →
    (x = .ok (pa, t) → exec (.copyChunkRestart e) s =
      .next (t.setCopy q { y with pos := y.pos - Nat.min y.pos ((a + y.pos) % 4096), halted := none })) ∧
    (x = .error .stall → exec (.copyChunkRestart e) s = .next s) ∧
    (x = .error (.cause k) → y.d.handles y.op.val = [] → y.ctx ≠ 8 → exec (.copyChunkRestart e) s =
      .next (s.setCopy q { y with err := some k, errFrom := 0, zero := false, dest := 1, pos := 0, base := y.done, halted := none }))) ∧
  (∀ (s t : State) (q : Sq) (y : Copy) (rest : List Copy) (i pa : Nat) (va : Nat) (v : Vc) (c : Cx) (b : Blocked),
    let e : Eng := ⟨q.val, by omega⟩
    let bad := y.err.isSome && decide (y.errFrom ≤ i)
    ((s.sq q).copyQ = y :: rest → y.sq = q →
      (y.d.sig ≠ 0 → placeOf y.d.sig = some (.glob va) → i < y.dest → i ∉ y.signalled →
        s.translate q y.who { w := true } va = .ok (pa, t) → t.isBad pa 8 = false →
        ∃ z : Word,
          (y.tok = false → exec (.copySignalApply e i) s =
            .next ((t.writeHome pa (natLE 8 z.toNat)).setCopy q { y with signalled := y.signalled ++ [i], tok := false })) ∧
          (y.tok = true → i + 1 = y.count → (s.sq q).streamRoom 1 = true → exec (.copySignalApply e i) s =
            .next (((t.writeHome pa (natLE 8 z.toNat)).modSq q (fun x => x.send y.d.scope [(y.d.time, -1)])).setCopy q
              { y with signalled := y.signalled ++ [i], tok := false })) ∧
          z.toNat % 2 ^ 63 = (t.rdN pa 8 % 2 ^ 63 + 2 ^ 63 - y.d.dec % 2 ^ 63) % 2 ^ 63 ∧
          z.getLsbD 63 = ((word (t.rdN pa 8)).getLsbD 63 || bad)) ∧
      (y.written = true → (y.d.sig = 0 ∨ ∀ k < y.count, k ∈ y.signalled) → y.tok = false → y.d.handles y.op.val = [] →
        (y.core = none → exec (.copyComplete e) s = .next (s.modSq q (fun x => { x with copyQ := rest, copyFreed := s.now }))) ∧
        (y.core = some v → (s.core q v).crq.length < 32 →
          exec (.copyComplete e) s = .next ((s.modCore q v (fun x => { x with crq := x.crq ++ [word (2 ^ 63 + y.err.getD 0 % 512 * 2 ^ 48 +
            y.ticket.toNat * 2 ^ 32 + y.done % 2 ^ 32)] })).modSq q (fun x => { x with copyQ := rest, copyFreed := s.now }))) ∧
        (y.core = some v → 32 ≤ (s.core q v).crq.length →
          exec (.copyComplete e) s = .next (s.modSq q (fun x => { x with copyQ := rest, copyFreed := s.now, crqHeld := some (v, word (2 ^ 63 +
            y.err.getD 0 % 512 * 2 ^ 48 + y.ticket.toNat * 2 ^ 32 + y.done % 2 ^ 32)) }))))) ∧
    ((s.ctx q c).blocked = some b → b.afresh = false → (∃ d a : Reg, b.instr ∈ [Instr.cpPut d a, .cpGet d a, .cpPuts d a, .cpMcast d a, .cpGather d a]) →
      (b.since + 1000000 ≤ s.now → (s.sq q).copyFreed + 1000000 ≤ s.now → exec (.copyStall q c) s = .next (s.stallTrap q c 0x0E5)) ∧
      (s.now < b.since + 1000000 ∨ s.now < (s.sq q).copyFreed + 1000000 → exec (.copyStall q c) s = .next s)) ∧
    (∀ d a ea w big, (s.ctx q c).blocked = some b → b.afresh = false → b.instr = .cpMig d a →
      (s.focus q c).walk (bits ((s.focus q c).descAt ((s.focus q c).rs a).toNat).1.src 0 48) = .ok (ea, w, big) →
      b.since + 1000000 ≤ s.now → s.bulkFreed[homeDie (pteAddr w)] + 1000000 ≤ s.now → exec (.copyStall q c) s = .next (s.stallTrap q c 0x0E5)))

/-- 14 R312, 16 R347: a page migration marks its leaf and shoots its translations down once every access made through them is performed, and then moves
the page; it ends at once where the page is in the tier already, may not move or has been lost, and waits while another engine moves the page; a
migration that has ended leaves the engine. A cause goes to context F, whose work it is (15 R324). Which free frame the page takes is a free choice,
made afresh where the one chosen has been taken (log 7). -/
def Obligations.MigrationsMovePages : Prop :=
  ∀ (s : State) (e : Fin 16) (y : Copy) (rest : List Copy) (ea : Nat) (w : Word) (big : Bool) (f : Nat),
    let va := bits y.d.src 0 48
    let tier := if bits y.d.dst 0 2 = 0 then Tier.hbm else .lpddr
    let ends := fun (s : State) (c : Option Nat) => ({ s with bulk := vset s.bulk e ({ y with dest := 1, err := c } :: rest) } : State)
    let fails := fun (c : Nat) => Host.Outcome.next (φ := Fault) (ρ := Refusal)
      (if y.hw = true then ends s (some c) else (ends s (some c)).engineRecord y.sq y.ctx 0 c)
    let arg : TlbiArg := { all := false, va := va, big := big }
    s.bulk[e] = y :: rest →
    (y.dest = 0 → s.walk va = .ok (ea, w, big) →
      (w.getLsbD 62 = true → exec (.pageMigration e) s = fails 0x065) ∧
      (y.started = false → w.getLsbD 62 = false → w.getLsbD 60 = true → exec (.pageMigration e) s = .next s) ∧
      (y.started = false → w.getLsbD 62 = false → w.getLsbD 60 = false → migratable w = false → exec (.pageMigration e) s = fails 0x066) ∧
      (y.started = false → migratable w = true → tierOf (pteAddr w) = tier → exec (.pageMigration e) s = .next (ends s none)) ∧
      (y.started = false → migratable w = true → tierOf (pteAddr w) ≠ tier → s.newFrame big tier = none → exec (.pageMigration e) s = .next s.bump) ∧
      (y.started = false → migratable w = true → tierOf (pteAddr w) ≠ tier → s.newFrame big tier = some f →
        exec (.pageMigration e) s = .next (((s.bump.writeHome ea (natLE 8 (w ||| 0x1000000000000000).toNat)).tlbInvalidate arg false).setBulk e
          { y with started := true, frame := f })) ∧
      (y.started = true → w.getLsbD 62 = false → s.frameFree y.frame (pageSize big) = false → s.newFrame big tier = some f →
        exec (.pageMigration e) s = .next (s.bump.setBulk e { y with frame := f })) ∧
      (y.started = true → w.getLsbD 62 = false → s.frameFree y.frame (pageSize big) = true →
        ∃ t : State, exec (.pageMigration e) s = .next t ∧ t.bulk[e] = { y with dest := 1, err := none } :: rest ∧
          (Memory.wf s.mem = true → y.frame % 4096 = 0 → y.frame < 2 ^ 48 → (ea + 8 ≤ y.frame ∨ y.frame + pageSize big ≤ ea) →
            (y.frame + pageSize big ≤ pteAddr w ∨ pteAddr w + pageSize big ≤ y.frame) →
            (∀ k, k < pageSize big → t.rd (y.frame + k) = s.rd (pteAddr w + k)) ∧
            (∃ x : Word, t.rdN ea 8 = x.toNat ∧ pteAddr x = y.frame ∧ x.getLsbD 60 = false ∧
              ∀ j, (j < 12 ∨ 48 ≤ j) → j ≠ 60 → x.getLsbD j = w.getLsbD j)))) ∧
    (y.dest ≠ 0 → exec (.copyComplete ⟨160 + e.val, by omega⟩) s =
      .next { s with bulk := vset s.bulk e rest, bulkFreed := vset s.bulkFreed ⟨e.val / 4, by omega⟩ s.now })

/-- 06 R136, R137, 05 R100: YIELD ends the run of a tile context, which becomes READY behind the others; EXIT of a context with no bundle under way makes
it ENDING, its half-way handles that no copy and no command uses ERROR with HANDLE_PARTIAL (10 R237), and with a bundle under way it waits; a record that
waits is delivered first (07 R164; log 16). Registers and memory stay. In context F, which has no run and no task, both retire (the model's choice, log
15). 13 R297: SPAWN of a well-formed record, read from the context's own area, with the residence, scope and at most the priority of the context, no end
time, no tile later than the invocation's end, and a base time at which the context holds a token, enters the square's launch queue under the lowest
free place where there is room. Another record is LAUNCH_RECORD, a base without a token TM_NO_BASE, and a full queue or table makes it wait. Every tile
that a task of priority 3 spawns counts towards the residence's budget (Table 13-1), and tiles of priority 3 beyond it are SPAWN_BUDGET (log 100). -/
def Obligations.RunsEndAndSpawn : Prop :=
  (∀ (s : State) (c : Fin 8),
    let q := s.fsq
    let ended := fun (o : Out) (st : CtxSt) => ∃ t : State, o = .next t ∧ (t.ctx q (tileCx c)).st = st ∧ (t.sq q).active = none ∧
      (t.sq q).lastRun = c ∧ (t.sq q).fburst = 16 ∧ t.me.q0 = s.me.q1 ∧ t.me.s = s.me.s ∧ t.me.p = s.me.p ∧ t.me.tm = s.me.tm ∧ t.mem = s.mem
    s.fcx = tileCx c →
    ended (exec .yield s) .ready ∧
    ((s.sq q).bundlesOf s.fcx = true → exec .exit s = s.block .exit) ∧
    ((s.sq q).bundlesOf s.fcx = false → s.me.records ≠ [] → exec .exit s = .next (s.deliver q s.fcx)) ∧
    ((s.sq q).bundlesOf s.fcx = false → s.me.records = [] →
      ended (exec .exit s) .ending ∧ ∀ t : State, exec .exit s = .next t → (t.ctx q (tileCx c)).endCause = none ∧
        ∀ (v : Vc) (h : Fin 64),
          let y := s.hnd q v h
          t.hnd q v h = if s.claimedBy q v = some s.fcx ∧ y.partly = true ∧ s.copyUses q v h = false ∧ s.arrayUses q v h = false then
            { y with st := .error, cause := 0x0EB } else y)) ∧
  (∀ (s : State), s.fcx = 8 →
    exec .yield s = .next (s.retire.modSq s.fsq (fun x => { x with fburst := 0 })) ∧ exec .exit s = .next s.retire) ∧
  (∀ (s : State) (a : Reg),
    let x := s.sq s.fsq
    let p := (s.rs a).toNat
    let w := s.readRecord p
    let inv := s.me.inv.bind s.invOf
    let fit := w.res = s.me.res ∧ w.scope = s.me.scope ∧ w.pri ≤ s.me.pri ∧ w.rect = 0 ∧ w.tend = 0 ∧ (∀ l, w.isVar l = false) ∧
      (w.mode = 1 → w.tableOk (s.residence w.res) 1 = true) ∧ ∀ i, inv = some i → w.timeOf w.lastTile ≤ i.words.tend
    let spent := w.pri = 3 ∧ ∃ i r, inv = some i ∧ s.residence w.res = some r ∧ r.spb < i.spawned + w.total
    let more := fun (j : Inv) => if some j.id = s.me.inv then { j with spawned := j.spawned + w.total } else j
    (p % 64 ≠ 0 → exec (.spawn a) s = s.trap 0x040) ∧
    (p % 64 = 0 → 0x4000 < p + 64 → exec (.spawn a) s = s.trap 0x041) ∧
    (p % 64 = 0 → p + 64 ≤ 0x4000 → s.isBad (privAddr s.fsq.val s.fcx.val p) 64 = false →
      (¬(w.wellFormed = true ∧ fit) → exec (.spawn a) s = s.trap 0x126) ∧
      (w.wellFormed = true → fit →
        (x.holdsBy s.owner w.scope w.tbase = false → exec (.spawn a) s = s.trap 0x101) ∧
        (x.holdsBy s.owner w.scope w.tbase = true → spent → exec (.spawn a) s = s.trap 0x130) ∧
        (x.holdsBy s.owner w.scope w.tbase = true → ¬spent →
          ((∀ k < 12, s.placeFree s.fsq k = false) → exec (.spawn a) s = s.block (.spawn a)) ∧
          (∀ k < 12, s.placeFree s.fsq k = true → (∀ j < k, s.placeFree s.fsq j = false) →
            let t := s.post s.fsq k w (s.me.inv.getD 0) s.me.tmpl true
            (64 ≤ x.tokens.length ∨ x.streamRoom 1 = false → exec (.spawn a) s = s.block (.spawn a)) ∧
            (x.tokens.length < 64 → x.streamRoom 1 = true →
              (s.me.pri ≠ 3 → exec (.spawn a) s = .next t.retire) ∧
              (s.me.pri = 3 → exec (.spawn a) s = .next ({ t with invs := t.invs.map more, closedInvs := t.closedInvs.map more } : State).retire)))))))

/-- 16 R352, R353: the journal of a square. MJ.OPEN gives 0 and opens a closed journal, 2 and the other half where it stands on worn pages, 1 while
another context owns it; MJ.ABORT closes it without a write, and its entries are counted until MJ.OPEN; MJ.STAT reports its state, length and the wear
of a page. An instruction of a context that does not own it open is MJ_STATE. 16 R353, R354, 19 R380: each execution of MJ.WR makes one attempt, which
wears the page of the journal: a good one appends the address and the value and writes no home, a failed one leaves MJ.WR blocked, and the fifth gives
MJ_WRITE_FAIL. MJ.COMMIT goes on by steps (log 36): the two copies of its record, which write no home; the decision, MJ_WRITE_FAIL where neither
copy was written, else COMMITTING; each entry at its home, counted where it cannot be written, whose page is then worn; the count in s[d], and the close.
How many attempts of a write fail is free (log 6): the statement holds for each. The address of MJ.WR and MJ.STAT must be aligned, translate as a load,
and lie in the weight store of the square, else MJ_RANGE. 16 R334, R336, Table 16-2: the power instructions. PS.SAFE sets PSTAT.SAFE of a tile context
and does nothing in F; PS.WAKE counts and wakes the sleeping squares of a rectangle of the mesh; PS.NAP and PS.DOZE enter their state or answer 1. That
PS.NAP asks of the square what R333 asks, F itself apart, is the model's reading (log 59). In DOZE the square's blocks read zero, its accumulators, count
registers and codebooks are 0, its formats 7, its tags, lines and translations invalid, and the registers of F stay (Table 16-1); the private areas, that
of F among them, and the scratchpads have lost their contents (R334), and read 0 by the model's choice (log 3). -/
def Obligations.JournalAndPowerInstructions : Prop :=
  (∀ (s t : State) (d a b : Reg) (pa : Nat),
    let q := s.fsq
    let j := s.journal q
    (j.st = .closed → s.halfWorn q.val j.half = false →
      exec (.mjOpen d) s = .next ((s.modJournal q (fun j => { Journal.reset with st := .opened, owner := s.fcx, half := 1 - j.half, serial := j.serial })).wS
        d 0).retire) ∧
    (j.st = .closed → s.halfWorn q.val j.half = true →
      exec (.mjOpen d) s = .next ((s.modJournal q (fun j => { j with half := 1 - j.half })).wS d 2).retire) ∧
    (j.st ≠ .closed → j.owner ≠ s.fcx → exec (.mjOpen d) s = s.sets d 1) ∧
    (j.st ≠ .closed → j.owner = s.fcx → exec (.mjOpen d) s = s.trap 0x142) ∧
    (j.st = .opened → j.owner = s.fcx →
      exec .mjAbort s = .next (s.modJournal q Journal.close).retire ∧ j.close.st = .closed ∧ j.close.entries = j.entries) ∧
    (¬(j.st = .opened ∧ j.owner = s.fcx) → exec .mjAbort s = s.trap 0x142 ∧ exec (.mjWr a b) s = s.trap 0x142 ∧
      (¬(j.st = .committing ∧ j.owner = s.fcx ∧ s.me.waits = true) → exec (.mjCommit d) s = s.trap 0x142)) ∧
    (∀ i : Instr, (i = .mjWr a b ∧ j.st = .opened ∧ j.owner = s.fcx) ∨ i = .mjStat d a →
      ((s.rs a).toNat % 8 ≠ 0 → exec i s = s.trap 0x040) ∧
      ((s.rs a).toNat % 8 = 0 →
        (∀ c, s.translate q (s.me.who s.fcx) { r := true } (s.rs a).toNat = .error (.cause c) → exec i s = s.trap c) ∧
        (s.translate q (s.me.who s.fcx) { r := true } (s.rs a).toNat = .error .stall → exec i s = s.block i) ∧
        (s.translate q (s.me.who s.fcx) { r := true } (s.rs a).toNat = .ok (pa, t) → pa < mramBase q.val ∨ mramBase q.val + 0x8000000 ≤ pa →
          exec i s = s.trap 0x143))) ∧
    ((s.rs a).toNat % 8 = 0 → s.translate q (s.me.who s.fcx) { r := true } (s.rs a).toNat = .ok (pa, t) → mramBase q.val ≤ pa →
      pa < mramBase q.val + 0x8000000 →
      exec (.mjStat d a) s = t.sets d (BitVec.ofNat 64 ((match j.st with
        | .closed => 0
        | .opened => if j.owner = s.fcx then 1 else 2
        | .committing => 3) * 2 ^ 62 + j.entries.length * 2 ^ 32 + mget 0 s.wear (pa / 4096))))) ∧
  (∀ (s t : State) (d a b : Reg) (pa : Nat),
    let q := s.fsq
    let j := s.journal q
    let at_ := entryAddr q.val j.here j.entries.length
    let tries := if s.me.waits then j.tries else 0
    let home := fun x : Nat => x < mramBase q.val + 0x7300000 ∨ mramBase q.val + 0x7400000 ≤ x
    j.st = .opened → j.owner = s.fcx →
    ((s.rs a).toNat % 8 = 0 → s.translate q (s.me.who s.fcx) { r := true } (s.rs a).toNat = .ok (pa, t) → mramBase q.val ≤ pa →
      pa < mramBase q.val + 0x8000000 →
      (1000000000 ≤ mget 0 s.wear (pa / 4096) → exec (.mjWr a b) s = t.trap 0x144) ∧
      (mget 0 s.wear (pa / 4096) < 1000000000 → 32512 ≤ j.entries.length → exec (.mjWr a b) s = t.trap 0x145) ∧
      (mget 0 s.wear (pa / 4096) < 1000000000 → j.entries.length < 32512 →
        ∃ u : State, mget 0 u.wear (at_ / 4096) = Nat.min (mget 0 s.wear (at_ / 4096) + 1) (2 ^ 32 - 1) ∧ (∀ x, home x → u.rd x = s.rd x) ∧
          (Config.failedAttempts t.free = 0 → exec (.mjWr a b) s = .next u ∧ u.me.q0 = s.me.q1 ∧ (u.journal q).entries = j.entries ++ [(pa, s.rs b)]) ∧
          (Config.failedAttempts t.free ≠ 0 → (u.journal q).entries = j.entries ∧
            (tries < 4 → exec (.mjWr a b) s = u.block (.mjWr a b) ∧ (u.journal q).tries = tries + 1) ∧
            (4 ≤ tries → exec (.mjWr a b) s = u.trap 0x146)))) ∧
    (j.copies < 2 → ∃ u : State, exec (.mjCommit d) s = u.block (.mjCommit d) ∧ (u.journal q).copies = j.copies + 1 ∧
      (u.journal q).good = (j.good || decide (Config.failedAttempts s.free < 5)) ∧ (u.journal q).entries = j.entries ∧ ∀ x, home x → u.rd x = s.rd x) ∧
    (2 ≤ j.copies → j.good = false → exec (.mjCommit d) s = (s.modJournal q Journal.close).trap 0x146) ∧
    (2 ≤ j.copies → j.good = true →
      exec (.mjCommit d) s = (s.modJournal q (fun j => { j with st := .committing })).block (.mjCommit d))) ∧
  (∀ (s : State) (d : Reg) (e : Nat × Word),
    let q := s.fsq
    let j := s.journal q
    j.st = .committing → j.owner = s.fcx → s.me.waits = true → 2 ≤ j.copies →
    (j.entries[j.applied]? = some e → ∃ u : State, exec (.mjCommit d) s = u.block (.mjCommit d) ∧ (u.journal q).st = .committing ∧
      (u.journal q).applied = j.applied + 1 ∧ (u.journal q).entries = j.entries ∧
      (Config.failedAttempts s.free < 5 → (u.journal q).failed = j.failed ∧ u.rdN e.1 8 = e.2.toNat ∧
        ∀ x, x < e.1 ∨ e.1 + 8 ≤ x → u.rd x = s.rd x) ∧
      (5 ≤ Config.failedAttempts s.free → (u.journal q).failed = j.failed + 1 ∧ u.mem = s.mem ∧ 1000000000 ≤ mget 0 u.wear (e.1 / 4096))) ∧
    (j.entries.length ≤ j.applied →
      exec (.mjCommit d) s = .next ((s.modJournal q Journal.close).wS d (BitVec.ofNat 64 j.failed)).retire)) ∧
  (∀ (s : State) (d a : Reg),
    let q := s.fsq
    let r := (s.rs a).toNat % 2 ^ 32
    (s.fcx ≠ 8 → (s.rs a).toNat < 2 → exec (.psSafe a) s = .next (s.modMe (fun x => { x with pstatSafe := (s.rs a).getLsbD 0 })).retire) ∧
    (s.fcx ≠ 8 → 2 ≤ (s.rs a).toNat → exec (.psSafe a) s = s.trap 0x147) ∧
    (s.fcx = 8 →
      exec (.psSafe a) s = .next s.retire ∧
      (rectOnMesh r = false → exec (.psWake d a) s = s.trap 0x002) ∧
      (rectOnMesh r = true → ∃ t : State, exec (.psWake d a) s = .next t ∧ t.me.q0 = s.me.q1 ∧ t.mem = s.mem ∧
        (d ≠ 0 → t.rs d = BitVec.ofNat 64 ((rectSquares r).filter (fun k => (s.sq k).power ≠ .run)).length) ∧
        (∀ k, (t.sq k).waking = ((s.sq k).waking || (decide (k ∈ rectSquares r) && (s.sq k).power ≠ .run)) ∧ (t.sq k).power = (s.sq k).power)) ∧
      (s.restful q = false ∨ (s.sq q).timed = true → exec (.psNap d) s = s.sets d 1) ∧
      (s.restful q = true → (s.sq q).timed = false →
        exec (.psNap d) s = .next ((s.wS d 0).retire.modSq q (fun x => { x with power := .nap }))) ∧
      (s.dozeOk q = false → exec (.psDoze d) s = s.sets d 1) ∧
      (s.dozeOk q = true → ∃ t : State, exec (.psDoze d) s = .next t ∧ (t.sq q).power = .doze ∧ t.me.q0 = s.me.q1 ∧ (d ≠ 0 → t.rs d = 0) ∧
        t.me = (s.wS d 0).retire.me ∧ (t.sq q).drth = (s.sq q).drth ∧ (t.sq q).drcnt = (s.sq q).drcnt ∧ t.localF = s.localF ∧
        (∀ o, o < 0x7DC000 → t.rd (storeAddr q.val o) = 0) ∧
        (t.arr q).acc = [] ∧ (t.arr q).counts = [] ∧ (t.arr q).cb = [] ∧ (∀ k : Fin 16, (t.arr q).tags[k] = none) ∧
        (∀ (v : Vc) (k : Fin 16), (t.core q v).fmt[k] = 7) ∧ (t.sq q).dcache = [] ∧ (t.sq q).tlb = [] ∧ (∀ k : Fin 16, (t.sq q).icache[k] = []) ∧
        (∀ o, 0x7DC000 ≤ o → o < 0x800000 → t.rd (storeAddr q.val o) = 0) ∧ (∀ (v : Vc) (o : Nat), o < 0x80000 → t.rd (spadAddr q.val v.val o) = 0))))

/-- 15 R327, Table 15-8, 14 R306: CTX.START clears the dispatch hold of a READY context and CTXR becomes 0; a context in another state, or a selector with
another bit, gives CTX_STATE in CTXR and changes nothing else; TLBI removes the translations that its word names, once the accesses made through them
are performed. Tile contexts may run none of these. 15 R328, R329, R325: CTX.SAVE of a READY context whose work stands at its points leaves it FREE,
its cores unclaimed, and its image recorded; it is refused for a context with an open journal, and for an area that will not do; CTX.RESTORE of an
image that verifies makes a FREE context READY and held, and waits for an area with a page that is being migrated (14 R308); CTX.END ends a live context
with the code it carries. Each writes 0 to CTXR, or the cause that stopped it, by the model's choice also that of data with an uncorrectable error which
a save would read (log 60). The translations of the area are used first, and a restore then reads its bytes (14 R310, R315; log 108). 16 R355: CTX.SAVE
and CTX.END of a context in MJ.COMMIT wait for it. -/
def Obligations.FirmwareInstructions : Prop :=
  (∀ (s : State) (a : Reg) (c : Fin 8),
    let q := s.fsq
    let done := fun (t : State) (code : Word) => Host.Outcome.next (φ := Fault) (ρ := Refusal) (t.modSq q (fun x => { x with ctxr := code })).retire
    s.fcx = 8 →
    (8 ≤ (s.rs a).toNat → exec (.ctxStart a) s = done s 0x162) ∧
    (s.rs a = BitVec.ofNat 64 c.val →
      ((s.ctx q (tileCx c)).st = .ready → (s.ctx q (tileCx c)).hold = true →
        exec (.ctxStart a) s = done (s.modCtx q (tileCx c) (fun x => { x with hold := false })) 0) ∧
      (¬((s.ctx q (tileCx c)).st = .ready ∧ (s.ctx q (tileCx c)).hold = true) → exec (.ctxStart a) s = done s 0x162)) ∧
    exec (.tlbi a) s = .next (s.tlbInvalidate (tlbiArg (s.rs a)) true).retire) ∧
  (∀ (s t u : State) (d a : Reg) (c : Fin 8) (code : Nat) (l : List Seg) (m : Image),
    let q := s.fsq
    let cx := tileCx c
    let area := (s.rs d).toNat
    let rd := u.imageRead q area
    let segs := readSegs rd 0x20000 0 0 0 (((rd 0 1).getD []).headD 0).toNat
    let seen := u.areaTouch q area (segsEnd rd 0x20000 0)
    let held := u.modCtx q cx (fun x => { x with hold := true })
    s.fcx = 8 →
    ((s.areaOk q area = .ok u ∨ s.areaSeen q area = some u) → u.mem = s.mem ∧ u.me = s.me ∧ seen.mem = s.mem ∧ seen.squares = u.squares) ∧
    (s.rs a = BitVec.ofNat 64 c.val →
      (s.committing q cx = true → exec (.ctxSave d a) s = s.block (.ctxSave d a)) ∧
      (s.committing q cx = false → (s.sq q).journal.st = .opened → (s.sq q).journal.owner = cx →
        exec (.ctxSave d a) s = .next (s.modSq q (fun x => { x with ctxr := 0x162 })).retire) ∧
      (s.committing q cx = false → (s.ctx q cx).st = .ready → ¬((s.sq q).journal.st = .opened ∧ (s.sq q).journal.owner = cx) →
        s.areaOk q area = .error (.cause code) → exec (.ctxSave d a) s = .next (s.modSq q (fun x => { x with ctxr := 0x164 })).retire) ∧
      (s.committing q cx = false → (s.ctx q cx).st = .ready → ¬((s.sq q).journal.st = .opened ∧ (s.sq q).journal.owner = cx) → s.areaOk q area = .ok u →
        (held.savePoint q cx = false → exec (.ctxSave d a) s = held.block (.ctxSave d a)) ∧
        (held.savePoint q cx = true → held.saveBad q c = true → exec (.ctxSave d a) s = .next (held.modSq q (fun x => { x with ctxr := 0x160 })).retire) ∧
        (held.savePoint q cx = true → held.saveBad q c = false → held.writeArea q 49 area (imageBytes c.val q.val Config.moduleId.toNat (held.saveKinds q c)) = .ok t →
          ∃ z : State, exec (.ctxSave d a) s = .next z ∧ (z.ctx q cx).st = .free ∧ (z.sq q).ctxr = 0 ∧ z.mem = t.mem ∧ z.me.q0 = s.me.q1 ∧
            (∀ v : Vc, (z.core q v).claim ≠ some c) ∧ (∃ y ∈ z.saved, y.sq = q ∧ y.area = area ∧ y.task = (s.ctx q cx).task))) ∧
      (s.committing q cx = false → (s.ctx q cx).st ≠ .ready →
        ∃ z : State, exec (.ctxSave d a) s = .next z ∧ (z.sq q).ctxr = 0x162 ∧ z.mem = s.mem) ∧
      ((s.ctx q cx).st = .free → s.areaSeen q area = none → exec (.ctxRestore d a) s = s.block (.ctxRestore d a)) ∧
      ((s.ctx q cx).st = .free → s.areaSeen q area = some u → segs = none →
        exec (.ctxRestore d a) s = .next (seen.modSq q (fun x => { x with ctxr := 0x163 })).retire) ∧
      ((s.ctx q cx).st = .free → s.areaSeen q area = some u → segs = some l →
        seen.decodeImage q cx l = some m → m.module = Config.moduleId.toNat → seen.restoreRoom q m = true →
        ∃ z : State, exec (.ctxRestore d a) s = .next z ∧ (z.ctx q cx).st = .ready ∧ (z.ctx q cx).hold = true ∧ (z.ctx q cx).s = m.x.s ∧
          (z.ctx q cx).p = m.x.p ∧ (z.ctx q cx).tm = m.x.tm ∧ (z.ctx q cx).q0 = m.x.q0 ∧ (z.sq q).ctxr = 0) ∧
      ((s.ctx q cx).st ≠ .free → ∃ z : State, exec (.ctxRestore d a) s = .next z ∧ (z.sq q).ctxr = 0x162 ∧ z.mem = s.mem)) ∧
    (s.rs a = BitVec.ofNat 64 (code * 2 ^ 16 + c.val) → code < 2 ^ 9 → code ≠ 0 → assigned code = true →
      ((s.ctx q cx).st = .free → ∃ z : State, exec (.ctxEnd d a) s = .next z ∧ (z.sq q).ctxr = 0x162 ∧ z.mem = s.mem) ∧
      ((s.ctx q cx).st = .ready → s.committing q cx = true → exec (.ctxEnd d a) s = s.block (.ctxEnd d a)) ∧
      ((s.ctx q cx).st = .ready → s.committing q cx = false →
        ∃ z : State, exec (.ctxEnd d a) s = .next z ∧ (z.ctx q cx).st = .ending ∧ (z.ctx q cx).endCause = some code ∧ (z.sq q).ctxr = 0)))

/-- 08 R174, R175, Tables 8-5 and 8-8: the integer and comparing operations of the vector units, lane by lane, with saturation, flags and conditions. -/
def Obligations.VectorIntegerOperations : Prop :=
  ∀ (s : State) (q : Sq) (v : Vc) (k : Fin 4) (g : Option (Fin 8)),
    let op := s.startsLanes q v k g
    op (.vfuIadd q v k g) (plainLane fun a b _ => a + b) ∧ op (.vfuIsub q v k g) (plainLane fun a b _ => a - b) ∧
    op (.vfuImul q v k g) (plainLane fun a b _ => a * b) ∧ op (.vfuImad q v k g) (plainLane fun a b c => a * b + c) ∧
    op (.vfuIadds q v k g) (condLane fun a b _ => clampLane (a.toInt + b.toInt)) ∧
    op (.vfuIsubs q v k g) (condLane fun a b _ => clampLane (a.toInt - b.toInt)) ∧
    op (.vfuImin q v k g) (plainLane fun a b _ => if a.toInt ≤ b.toInt then a else b) ∧
    op (.vfuImax q v k g) (plainLane fun a b _ => if a.toInt ≤ b.toInt then b else a) ∧
    op (.vfuIminu q v k g) (plainLane fun a b _ => if a.toNat ≤ b.toNat then a else b) ∧
    op (.vfuImaxu q v k g) (plainLane fun a b _ => if a.toNat ≤ b.toNat then b else a) ∧
    op (.vfuAnd q v k g) (plainLane fun a b _ => a &&& b) ∧ op (.vfuOr q v k g) (plainLane fun a b _ => a ||| b) ∧
    op (.vfuXor q v k g) (plainLane fun a b _ => a ^^^ b) ∧ op (.vfuShl q v k g) (plainLane fun a b _ => a <<< (b.toNat % 32)) ∧
    op (.vfuShr q v k g) (plainLane fun a b _ => a >>> (b.toNat % 32)) ∧
    op (.vfuSra q v k g) (plainLane fun a b _ => a.sshiftRight (b.toNat % 32)) ∧
    op (.vfuIabs q v k g) (plainLane fun a _ _ => if a.toInt < 0 then -a else a) ∧
    op (.vfuIaddH q v k g) (plainLane fun a b _ => lane2 fun j => el 16 a j + el 16 b j) ∧
    op (.vfuIaddB q v k g) (plainLane fun a b _ => lane4 fun j => el 8 a j + el 8 b j) ∧
    op (.vfuIaddsB q v k g) (condLane fun a b _ =>
      let z := fun j => (el 8 a j).toInt + (el 8 b j).toInt
      (lane4 fun j => if z j < -128 then 0x80 else if z j > 127 then 0x7F else el 8 a j + el 8 b j,
        { sat := (List.range 4).any fun j => decide (z j < -128 ∨ z j > 127) })) ∧
    op (.vfuIdot4 q v k g) (condLane fun a b c =>
      let t := fun j => (el 8 a j).toInt * (el 8 b j).toInt
      clampLane (c.toInt + t 0 + t 1 + t 2 + t 3)) ∧
    op (.vfuIcmpEq q v k g) (cmpLane fun a b => decide (a = b)) ∧ op (.vfuIcmpLt q v k g) (cmpLane fun a b => decide (a.toInt < b.toInt)) ∧
    op (.vfuIcmpLtu q v k g) (cmpLane fun a b => decide (a.toNat < b.toNat)) ∧
    op (.vfuVsel q v k g) (fun a b c => if c ≠ 0 then (a, true, {}) else (b, false, {}))

/-- 08 R174, R175, Tables 8-6 and 8-7, 04 R85, R86: the floating-point operations, comparisons and conversions of the vector units, lane by lane, by the
arithmetic of chapter 4 under VRM. -/
def Obligations.VectorFloatOperations : Prop :=
  ∀ (s : State) (q : Sq) (v : Vc) (k : Fin 4) (g : Option (Fin 8)),
    let op := s.startsLanes q v k g
    let rm := (s.core q v).vrm.toNat
    let lane := fun (r : Nat × Cond) => (BitVec.ofNat 32 r.1, r.2)
    let x := fun (a : Lane) => fp32.value a.toNat
    let nan := fun (a : Lane) => (x a).isNan
    let e := fun (n : Nat) (a : Lane) (j : Nat) => (el n a j).toNat
    let wide := fun (f : Fmt) (n : Nat) (a b : Lane) => BitVec.ofNat 32 (fp32.convert 0 (f.value (e n a (b.toNat % (32 / n))))).1
    op (.vfuFadd q v k g) (condLane fun a b _ => lane (fp32.add rm a.toNat b.toNat)) ∧
    op (.vfuFsub q v k g) (condLane fun a b _ => lane (fp32.sub rm a.toNat b.toNat)) ∧
    op (.vfuFmul q v k g) (condLane fun a b _ => lane (fp32.mul rm a.toNat b.toNat)) ∧
    op (.vfuFma q v k g) (condLane fun a b c => lane (fp32.fma rm a.toNat b.toNat c.toNat)) ∧
    op (.vfuFmin q v k g) (plainLane fun a b _ => if nan a && nan b then 0x7FC00000 else if nan a then b else if nan b then a else if (x b).lt (x a) then b else a) ∧
    op (.vfuFmax q v k g) (plainLane fun a b _ => if nan a && nan b then 0x7FC00000 else if nan a then b else if nan b then a else if (x a).lt (x b) then b else a) ∧
    op (.vfuFabs q v k g) (plainLane fun a _ _ => if nan a then 0x7FC00000 else a &&& 0x7FFFFFFF) ∧
    op (.vfuFneg q v k g) (plainLane fun a _ _ => if nan a then 0x7FC00000 else a ^^^ 0x80000000) ∧
    op (.vfuFrcp q v k g) (condLane fun a _ _ => lane (fp32.arith rm (x a).recip)) ∧
    op (.vfuFsqrt q v k g) (condLane fun a _ _ => ((lane (fp32.arith rm (x a).sqrt.1)).1, (x a).sqrt.2.or (fp32.arith rm (x a).sqrt.1).2)) ∧
    op (.vfuFaddBf q v k g) (condLane fun a b _ => codes2 fun j => bf16.add rm (e 16 a j) (e 16 b j)) ∧
    op (.vfuFmulBf q v k g) (condLane fun a b _ => codes2 fun j => bf16.mul rm (e 16 a j) (e 16 b j)) ∧
    op (.vfuFmaBf q v k g) (condLane fun a b c => codes2 fun j => bf16.fma rm (e 16 a j) (e 16 b j) (e 16 c j)) ∧
    op (.vfuFmaHf q v k g) (condLane fun a b c => codes2 fun j => fp16.fma rm (e 16 a j) (e 16 b j) (e 16 c j)) ∧
    op (.vfuFmaE4 q v k g) (condLane fun a b c => codes4 fun j => e4m3.fma rm (e 8 a j) (e 8 b j) (e 8 c j)) ∧
    op (.vfuFmaE5 q v k g) (condLane fun a b c => codes4 fun j => e5m2.fma rm (e 8 a j) (e 8 b j) (e 8 c j)) ∧
    op (.vfuCvtFI q v k g) (condLane fun a _ _ => lane (fp32.convert rm (.ofInt a.toInt))) ∧
    op (.vfuCvtIF q v k g) (condLane fun a _ _ => (BitVec.ofInt 32 (toInteger (-(2 ^ 31)) (2 ^ 31 - 1) rm (x a)).1, (toInteger (-(2 ^ 31)) (2 ^ 31 - 1) rm (x a)).2)) ∧
    op (.vfuCvtBfF q v k g) (condLane fun a b _ => codes2 fun j => bf16.convert rm (x (if j = 0 then a else b))) ∧
    op (.vfuCvtHfF q v k g) (condLane fun a b _ => codes2 fun j => fp16.convert rm (x (if j = 0 then a else b))) ∧
    op (.vfuCvtE4F q v k g) (condLane fun a b c => (c.setWidth 16 ++ BitVec.ofNat 8 (e4m3.convert rm (x b)).1 ++ BitVec.ofNat 8 (e4m3.convert rm (x a)).1,
      (e4m3.convert rm (x a)).2.or (e4m3.convert rm (x b)).2)) ∧
    op (.vfuCvtE5F q v k g) (condLane fun a b c => (c.setWidth 16 ++ BitVec.ofNat 8 (e5m2.convert rm (x b)).1 ++ BitVec.ofNat 8 (e5m2.convert rm (x a)).1,
      (e5m2.convert rm (x a)).2.or (e5m2.convert rm (x b)).2)) ∧
    op (.vfuCvtFBf q v k g) (plainLane fun a b _ => wide bf16 16 a b) ∧ op (.vfuCvtFHf q v k g) (plainLane fun a b _ => wide fp16 16 a b) ∧
    op (.vfuCvtFE4 q v k g) (plainLane fun a b _ => wide e4m3 8 a b) ∧ op (.vfuCvtFE5 q v k g) (plainLane fun a b _ => wide e5m2 8 a b) ∧
    op (.vfuCvtII8 q v k g) (plainLane fun a b _ => (el 8 a (b.toNat % 4)).signExtend 32) ∧
    op (.vfuCvtI8I q v k g) (condLane fun a _ c =>
      (c.setWidth 24 ++ (if a.toInt < -128 then 0x80#8 else if a.toInt > 127 then 0x7F#8 else a.setWidth 8), { sat := decide (a.toInt < -128 ∨ a.toInt > 127) })) ∧
    op (.vfuFcmpEq q v k g) (cmpLane fun a b => (x a).eq (x b)) ∧ op (.vfuFcmpLt q v k g) (cmpLane fun a b => (x a).lt (x b)) ∧
    op (.vfuFcmpLe q v k g) (cmpLane fun a b => (x a).le (x b)) ∧ op (.vfuFcmpUn q v k g) (cmpLane fun a b => nan a || nan b)

/-- 08 R174, R175, Table 8-9, 04 R81: permutations, reductions over the active lanes, and the operations on blocks of E2M1X. -/
def Obligations.VectorPermutationsAndReductions : Prop :=
  ∀ (s : State) (q : Sq) (v : Vc) (k : Fin 4) (g : Option (Fin 8)),
    let y := s.core q v
    let a := fun (j : Fin 64) => y.oa[k][j]
    let b := fun (j : Fin 64) => y.ob[k][j]
    let op := s.startsWhole q v k g
    let on := fun (j : Fin 64) => (s.lanesOf q v g).getLsbD j.val
    let x := fun (j : Fin 64) => fp32.value (a j).toNat
    let cand := fun (j : Fin 64) => on j = true ∧ (x j).isNan = false
    let live := (List.finRange 64).filter on
    let blk := fun (n : Nat) => quantise ((List.range 32).map (fun i => x (Fin.ofNat 64 (32 * n + i))))
    let bytes := (blk 0).bytes.take 16 ++ (blk 1).bytes.take 16 ++ (blk 0).bytes.drop 16 ++ (blk 1).bytes.drop 16
    op (.vfuPerm q v k g) (fun j => a (Fin.ofNat 64 (b j).toNat)) ∧ op (.vfuRotl q v k g) (fun j => a (Fin.ofNat 64 (j.val + (b 0).toNat))) ∧
    op (.vfuBcast q v k g) (fun _ => a (Fin.ofNat 64 (b 0).toNat)) ∧
    op (.vfuRsumI q v k g) (fun _ => (live.map a).foldl (· + ·) 0) ∧
    (∀ m ∈ live, (∀ j ∈ live, (a j).toInt ≤ (a m).toInt) → op (.vfuRmaxI q v k g) (fun _ => a m)) ∧
    (live = [] → op (.vfuRmaxI q v k g) (fun _ => 0)) ∧
    (∀ m, cand m → (∀ j, cand j → (x m).lt (x j) = false) → (∀ j, j < m → cand j → (x j).lt (x m) = true) →
      op (.vfuRmaxF q v k g) (fun _ => a m) ∧ op (.vfuArgmaxF q v k g) (fun _ => BitVec.ofNat 32 m.val)) ∧
    (∀ m, cand m → (∀ j, cand j → (x j).lt (x m) = false) → (∀ j, j < m → cand j → (x m).lt (x j) = true) → op (.vfuRminF q v k g) (fun _ => a m)) ∧
    ((∀ j, ¬cand j) → op (.vfuRmaxF q v k g) (fun _ => 0x7FC00000) ∧ op (.vfuRminF q v k g) (fun _ => 0x7FC00000) ∧ op (.vfuArgmaxF q v k g) (fun _ => 0)) ∧
    (∃ (p : Pend) (c : Cond) (r : Lane), exec (.vfuRsumF q v k g) s = s.starts q v p ∧ (∀ j : Fin 64, p.rv[j] = if on j then r else 0) ∧
      treeSum y.vrm.toNat 6 ((List.finRange 64).map (fun j => if on j then a j else 0), {}) = (r, c) ∧
      p.f = some (if c.any then s.lanesOf q v g else 0)) ∧
    (∃ p : Pend, exec (.vfuQntE2 q v k g) s = s.starts q v p ∧ ∀ j : Fin 64, p.rv[j] =
      if on j && decide (j.val < 9) then BitVec.ofNat 32 (leNat ((bytes.drop (4 * j.val)).take 4)) else 0) ∧
    op (.vfuDqntE2 q v k g) (fun j =>
      let n := j.val / 32
      let lanes := (List.finRange 64).map a
      let bs := ((lanes.drop (4 * n)).take 4).flatMap (fun w => natLE 4 w.toNat) ++ ((natLE 4 (a 8).toNat).drop (2 * n)).take 2
      BitVec.ofNat 32 (e2m1xToFp32 (blockElem bs (j.val % 32))))

/-- 08 R174, R177, Table 8-10: the operations of the scalar units. 08 R178 to R181, Tables 8-11 to 8-13: the operations of the control and memory units,
which act at once: a loop with a count from 1 to 65,536, a fence, the rounding mode, the reads that clear, the lowest set bit, and the fields of a
generator, whose position starts over and is no longer that of the accesses it has issued (R184). Wrong arguments are LOOP_COUNT or GEN_CONFIG of the
bundle that started them. -/
def Obligations.ScalarAndControlUnits : Prop :=
  (∀ (s : State) (q : Sq) (v : Vc) (k : Bool),
    let x := s.core q v
    let u : Fin 4 := if k then 1 else 0
    let a := x.sa[u]
    let b := x.sb[u]
    let c := x.sc[u]
    let n := b.toNat % 64
    let op := fun (i : Instr) (r : Word) => exec i s = s.starts q v
      { id := x.nextId - 1, unit := if k then 5 else 4, rv := Vector.replicate 64 0, rs := r, f := none, cond := 0 }
    op (.kfAdd q v k) (a + b) ∧ op (.kfSub q v k) (a - b) ∧ op (.kfMul q v k) (a * b) ∧ op (.kfMad q v k) (a * b + c) ∧
    op (.kfAnd q v k) (a &&& b) ∧ op (.kfOr q v k) (a ||| b) ∧ op (.kfXor q v k) (a ^^^ b) ∧ op (.kfAndn q v k) (a &&& ~~~b) ∧
    op (.kfShl q v k) (a <<< n) ∧ op (.kfShr q v k) (a >>> n) ∧ op (.kfSra q v k) (a.sshiftRight n) ∧
    op (.kfMin q v k) (if a.toInt ≤ b.toInt then a else b) ∧ op (.kfMax q v k) (if a.toInt ≤ b.toInt then b else a) ∧
    op (.kfMinu q v k) (if a.toNat ≤ b.toNat then a else b) ∧ op (.kfMaxu q v k) (if a.toNat ≤ b.toNat then b else a) ∧
    op (.kfPopc q v k) (BitVec.ofNat 64 ((List.range 64).filter (fun i => a.getLsbD i)).length) ∧
    (∃ m : Nat, m ≤ 64 ∧ a.toNat < 2 ^ (64 - m) ∧ (m < 64 → 2 ^ (63 - m) ≤ a.toNat) ∧ op (.kfClz q v k) (BitVec.ofNat 64 m)) ∧
    op (.kfSel q v k) (if c ≠ 0 then a else b) ∧ op (.kfCmpEq q v k) (if a = b then 1 else 0) ∧
    op (.kfCmpLt q v k) (if a.toInt < b.toInt then 1 else 0) ∧ op (.kfCmpLtu q v k) (if a.toNat < b.toNat then 1 else 0) ∧
    op (.kfLea q v k) (a + (b <<< (c.toNat % 64)))) ∧
  (∀ (s : State) (q : Sq) (v : Vc) (y : Issued) (g : Fin 8) (l : Fin 4),
    let x := s.core q v
    let a := x.sa[(3 : Fin 4)]
    let b := x.sb[(3 : Fin 4)]
    let ma := x.sa[(2 : Fin 4)]
    let mb := x.sb[(2 : Fin 4)]
    let mc := x.sc[(2 : Fin 4)]
    let put := fun (f : VCore → VCore) => Host.Outcome.next (φ := Fault) (ρ := Refusal) (s.modCore q v f)
    let anew := fun (z : VCore) (y : Gen) => { z.stale (fun p => p.gen.map (·.1) == some g) with gens := vset z.gens g { y with pos := 0 } }
    let gen := fun (f : Gen → Gen) => put (fun z => anew z { f z.gens[g] with fetching := false })
    let r := fun (w : Word) (z : VCore) => { z with rs := vset z.rs (3 : Fin 4) w }
    (x.issued.getLast? = some y →
      (1 ≤ a.toNat → a.toNat ≤ 65536 → b.toNat < 64 → ∃ t : State, exec (.ctlLoop q v) s = .next t ∧ ∃ z, (t.core q v).loop = some z ∧
        z.count = a.toNat ∧ z.n = b.toNat / 4 + 1 ∧ z.x.val = b.toNat % 4 ∧ z.owner = y.ent ∧ z.body = [] ∧ (t.core q v).lc[z.x] = 0) ∧
      (a = 0 ∨ 65536 < a.toNat ∨ 64 ≤ b.toNat → exec (.ctlLoop q v) s = .next (s.bundleFault q v y.ent y.id 7 0x0A5)) ∧
      (8 ≤ mb.toNat → exec (.memGbase q v) s = .next (s.bundleFault q v y.ent y.id 6 0x0A4))) ∧
    exec (.ctlVfence q v) s = put (fun z => { z with fence := some (z.nextId - 1) }) ∧
    exec (.ctlRmode q v) s = put (fun z => { z with vrm := a.setWidth 2 }) ∧
    exec (.ctlCond q v) s = put (fun z => r (x.vcond.setWidth 64) { z with vcond := x.vcond &&& ~~~(a.setWidth 3) }) ∧
    exec (.ctlQstat q v) s = put (fun z => r (x.qst.setWidth 64) { z with qst := x.qst &&& ~~~(a.setWidth 3) }) ∧
    exec (.ctlMfirst q v) s = put (r (a &&& -a)) ∧
    (mb = BitVec.ofNat 64 g.val → exec (.memGbase q v) s = gen (fun z => { z with base := ma, configured := true })) ∧
    (mb = BitVec.ofNat 64 (l.val * 8 + g.val) → 1 ≤ mc.toNat → mc.toNat ≤ 65536 →
      exec (.memGlev q v) s = gen (fun z => { z with cnt := vset z.cnt l mc.toNat, stride := vset z.stride l ma })) ∧
    (mb = BitVec.ofNat 64 g.val → x.cfgOk g ma = true → exec (.memGcfg q v) s = gen (fun z => { z with cfg := ma })) ∧
    (ma = BitVec.ofNat 64 g.val →
      exec (.memGrst q v) s = put (fun z => anew z { z.gens[g] with fetching := bit (x.gens[g]).cfg 3 }) ∧
      exec (.memGpos q v) s = put (fun z => { z with rs := vset z.rs (2 : Fin 4) (BitVec.ofNat 64 (x.gens[g]).pos) })))

/-- 07 R148, R160, 08 R170 to R172, R184: the head of a queue, outside a loop and on a core whose claim is not new, waits, also for the port of a handle,
or faults at issue and leaves with its record, or issues and takes the core's next number; a bundle that has been next for 1 ms is refused with
VCORE_STALL, whose record names slot 0 by the model's choice, for the rule names no move (log 48). 08 R170, 02 R43: a bundle whose one move carries a
vector register of a unit to another of its own file writes that register whole and no other register of the core, and stores nothing; of the result
queues arq and crq only the word that waits for room may enter. -/
def Obligations.BundlesIssue : Prop :=
  (∀ (s : State) (q : Sq) (v : Vc) (e : Entry) (rest : List Entry) (z : Option VSide × Option VSide),
    let x := s.core q v
    x.loop = none → x.eq = e :: rest → x.fresh = false →
    (s.bundleWaits q v e = true ∨ s.portWaits q v e = true → exec (.bundleIssue q v) s = .next s) ∧
    (s.bundleWaits q v e = false → s.portWaits q v e = false →
      (∀ k c, s.issueCheck q v e = .error (k, c) → exec (.bundleIssue q v) s =
        .next ((s.modCore q v (fun y => { y with eq := rest })).bundleFault q v e x.nextId k c)) ∧
      (s.issueCheck q v e = .ok z → ∃ u : State, exec (.bundleIssue q v) s = .next u ∧
        (u.core q v).nextId = x.nextId + 1 ∧
        (u.core q v).issued = x.issued ++ [{ id := x.nextId, ent := e, loop := (s.loopArgs q v e).isSome }])) ∧
    (x.headSince + 1000000 ≤ s.now → exec (.vcoreStall q v) s =
      .next ((s.modCore q v (fun y => { y with eq := rest })).bundleFault q v e x.nextId 0 0x0A7)) ∧
    (s.now < x.headSince + 1000000 → exec (.vcoreStall q v) s = .next s)) ∧
  (∀ (s : State) (q : Sq) (v : Vc) (e : Entry) (rest : List Entry) (k : Fin 4) (m : Move) (a b : Fin 16),
    let x := s.core q v
    x.loop = none → x.eq = e :: rest → x.fresh = false → s.bundleWaits q v e = false →
    e.moves = [(k.val, m)] → m.kind = 0 → m.src = a.val → m.dst = b.val →
    ∃ u : State, exec (.bundleIssue q v) s = .next u ∧
      (∀ (f : Fin 4) (r : Fin 16), (u.core q v).vf[f][r] = if f = k ∧ r = b then x.vf[k][a] else x.vf[f][r]) ∧
      (let y := u.core q v
       y.kf = x.kf ∧ y.m = x.m ∧ y.lc = x.lc ∧ y.oa = x.oa ∧ y.ob = x.ob ∧ y.oc = x.oc ∧ y.sa = x.sa ∧ y.sb = x.sb ∧ y.sc = x.sc ∧ y.rv = x.rv ∧
         y.rs = x.rs ∧ y.f = x.f ∧ y.gens = x.gens ∧ y.vrm = x.vrm ∧ y.vcond = x.vcond ∧ y.qst = x.qst ∧ y.mrq = x.mrq ∧ y.handles = x.handles ∧
         y.fmt = x.fmt ∧ y.loop = none ∧ y.lbuf = x.lbuf ∧ y.pend = x.pend ∧ y.vpath = x.vpath ∧ y.claim = x.claim ∧ y.eq = rest ∧
         y.arq = x.arq ++ (s.acore q v).hreg.take (32 - x.arq.length) ∧
         ∃ l, y.crq = x.crq ++ l ∧ l.length ≤ 1 ∧ ((s.sq q).crqHeld = none → l = [])) ∧ u.mem = s.mem)

/-- 08 R179: the loop buffer issues again, entry by entry, while replays are left; the counter of the loop holds the iteration; an entry of another
context or a LOOP in the body is LOOP_BODY. A memory-unit operation of an entry may find a wrong argument after issue, and its fault ends the loop. -/
def Obligations.LoopsReplay : Prop :=
  ∀ (s : State) (q : Sq) (v : Vc) (l : LoopRun) (e : Entry) (rest : List Entry) (z : Option VSide × Option VSide),
    let x := s.core q v
    x.loop = some l →
    (l.body.length < l.n → x.eq = e :: rest →
      (some e.ctx ≠ x.claim.map tileCx ∨ e.isLoop = true → exec (.bundleIssue q v) s = .next (s.loopBodyFault q v l e)) ∧
      (some e.ctx = x.claim.map tileCx → e.isLoop = false → x.fresh = false → s.bundleWaits q v e = false → s.issueCheck q v e = .ok z →
        s.portWaits q v e = false → ∃ u : State, exec (.bundleIssue q v) s = .next u ∧ (u.core q v).nextId = x.nextId + 1 ∧
          (((e.slot 6).trig = true ∧ (u.core q v).loop = none) ∨
            (u.core q v).loop = if l.body.length + 1 < l.n then some { l with body := l.body ++ [e] }
              else if l.count ≤ 1 then none else some { l with body := l.body ++ [e], it := 1, next := 0 })) ∧
      exec (.loopReplay q v) s = .next s) ∧
    (l.n ≤ l.body.length → l.body[l.next]? = some e → x.fresh = false → e.isLoop = false →
      (s.bundleWaits q v e = true ∨ s.portWaits q v e = true → exec (.loopReplay q v) s = .next s) ∧
      (s.bundleWaits q v e = false → s.issueCheck q v e = .ok z → s.portWaits q v e = false →
        ∃ u : State, exec (.loopReplay q v) s = .next u ∧ (u.core q v).nextId = x.nextId + 1 ∧
          (((e.slot 6).trig = true ∧ (u.core q v).loop = none) ∨
            ((u.core q v).issued = x.issued ∧
              (u.core q v).loop = (if l.next + 1 < l.n then some { l with next := l.next + 1 }
                else if l.it + 1 < l.count then some { l with it := l.it + 1, next := 0 } else none) ∧
              (l.n ≤ l.next + 1 → l.it + 1 < l.count → (u.core q v).lc[l.x] = BitVec.ofNat 64 (l.it + 1))))))

/-- 08 R174, R175, 07 R148, R156, 08 R182, R183: the oldest operation of a unit delivers R, its flags and its conditions; the first issued bundle with
nothing outstanding retires, older ones or not, and its sequence number is the context's; the oldest stream load lands whole in the lanes of its guard;
the oldest store is performed; a queued generator brings its next element, once no load of its index register is outstanding. -/
def Obligations.BundleResultsArrive : Prop :=
  ∀ (s t : State) (q : Sq) (v : Vc) (p : Pend) (ps : List Pend) (i : Issued) (js is_ : List Issued) (a : VAcc) (as : List VAcc) (z : VSide)
    (y : VReg) (f : Fin 4) (r : Fin 16) (g : Slot),
    let x := s.core q v
    let put := fun (t : State) (h : VCore → VCore) => Host.Outcome.next (φ := Fault) (ρ := Refusal) (t.modCore q v h)
    (x.pend = p :: ps →
      (∀ k : Fin 4, ∀ w, p.unit.val = k.val → p.f = some w → exec (.unitResultDelivery q v p.unit) s =
        put s (fun c => { c with pend := ps, vcond := x.vcond ||| p.cond, rv := vset x.rv k p.rv, f := vset x.f k w })) ∧
      (∀ k : Fin 4, p.unit.val = k.val + 4 → exec (.unitResultDelivery q v p.unit) s =
        put s (fun c => { c with pend := ps, vcond := x.vcond ||| p.cond, rs := vset x.rs k p.rs }))) ∧
    (x.issued = js ++ i :: is_ → (∀ j ∈ js, x.retirable j = false) → x.retirable i = true → (∀ j ∈ js ++ is_, j.id ≠ i.id) →
      ∃ u : State, exec (.bundleRetire q v) s = .next u ∧ (u.core q v).issued = js ++ is_ ∧
        (u.ctx q i.ent.ctx).rseq[v] = i.ent.seq ∧ (u.ctx q i.ent.ctx).rv[v] = true ∧ u.mem = s.mem) ∧
    ((∀ j ∈ x.issued, x.retirable j = false) → exec (.bundleRetire q v) s = .next s) ∧
    (x.vpath = a :: as → a.from_ = some z → z.hnd = none →
      (a.to_ = none → a.dst = some (f, r) → s.readSide q v a.ent.ctx z = .ok (y, t) →
        ∃ u : State, exec (.streamLoadLand q v) s = .next u ∧ (u.core q v).vpath = (t.core q v).vpath.tail ∧
          (∀ j : Fin 64, (u.core q v).vf[f][r][j] = if a.gm.getLsbD j.val then y[j] else (t.core q v).vf[f][r][j]) ∧ u.mem = t.mem) ∧
      (a.to_ = none → s.readSide q v a.ent.ctx z = .error .stall → exec (.streamLoadLand q v) s = .next s)) ∧
    (x.vpath = a :: as → a.from_ = none → a.to_ = some z → z.hnd = none → a.dst = none → s.writeSide q v a.ent.ctx z a.data a.gm = .ok t →
      exec (.storePerformed q (.vec v)) s = put t (fun c => { c with vpath := c.vpath.tail })) ∧
    ((x.gens[g]).fetching = true → (x.gens[g]).queued = true → x.mrq.length < 8 → (∀ a ∈ x.vpath, a.to_ = none) → (x.gens[g]).pos < (x.gens[g]).total →
      x.fresh = false → ((x.gens[g]).idx = true → x.loading (bits (x.gens[g]).cfg 8 2) (bits (x.gens[g]).cfg 10 4) = false) →
      x.genSide g (x.gens[g]).pos = .ok z → s.readSide q v (s.coreCtx q v) z = .ok (y, t) →
      exec (.queuedGeneratorFetch q v g) s = put t (fun c => { c with mrq := c.mrq ++ [.val y], gens := vset c.gens g { x.gens[g] with pos := (x.gens[g]).pos + 1 } }))

/-- 05 R123, R124, 06 R139, 12 R270: a load or an atomic in flight delivers its value to its register; the oldest posted store enters the line of its
address, which then reads as stored; a fill makes its line valid where it carries no error, and else the fetches that wait for it find the error
(06 R140). -/
def Obligations.AccessesComplete : Prop :=
  ∀ (s : State) (q : Sq) (c : Cx) (l : LoadFlight) (ls : List LoadFlight) (p : Posted) (ps : List Posted) (d : DLine) (f : IFill) (fs : List IFill),
    let x := s.ctx q c
    (x.loads = l :: ls →
      (∀ v, l.value = some v → exec (.loadValueDelivery q c) s = .next (s.setCtx q c (({ x with loads := ls } : Ctx).setS l.d v))) ∧
      (l.value = none → (s.sq q).line (l.va / 64) = some d → ∃ w : Word,
        exec (.loadValueDelivery q c) s = .next (s.setCtx q c (({ x with loads := ls } : Ctx).setS l.d w)) ∧
        w.toNat = leNat (((List.range l.size).map (fun i => d.get (l.va % 64 + i))).zip l.known |>.map (fun e => e.2.getD e.1)) % 2 ^ 64) ∧
      (l.value = none → (s.sq q).line (l.va / 64) = none → s.victimTag q = none → l.va % 64 + l.size ≤ 64 → ∃ (u : State) (w : Word),
        exec (.loadValueDelivery q c) s = .next u ∧ u.ctx q c = ({ x with loads := ls } : Ctx).setS l.d w ∧ u.mem = s.mem ∧
        w.toNat = leNat (((List.range l.size).map (fun i => s.rd (l.pa - l.pa % 64 + (l.va % 64 + i)))).zip l.known |>.map
          (fun e => e.2.getD e.1)) % 2 ^ 64) ∧
      (l.value = none → ∃ u : State, exec (.loadValueDelivery q c) s = .next u ∧ (u.ctx q c).loads = ls)) ∧
    (x.posted = p :: ps → (∀ k ∈ x.loads, k.value.isSome = true ∨ p.po < k.po) →
      ∃ u : State, exec (.storePerformed q (.ctx c)) s = .next u ∧ (u.ctx q c).posted = ps ∧
        (p.va % 64 + p.bytes.length ≤ 64 → ∃ e, (u.sq q).line (p.va / 64) = some e ∧
          ∀ k, k < p.bytes.length → e.get (p.va % 64 + k) = p.bytes.getD k 0 ∧ e.dirty.getLsbD (p.va % 64 + k) = true)) ∧
    (x.posted = p :: ps → (∃ k ∈ x.loads, k.value = none ∧ k.po ≤ p.po) → exec (.storePerformed q (.ctx c)) s = .next s) ∧
    ((s.sq q).ifills = f :: fs → ∃ u : State, exec (.icacheFillComplete q 0) s = .next u ∧ (u.sq q).ifills = fs ∧ u.mem = s.mem ∧
      (f.bad = true → (u.sq q).icache = (s.sq q).icache ∧
        (((s.sq q).icache[icSet (f.line * 128)]).any (fun w => w.tag == superblock (f.line * 128)) = true →
          ∀ c ∈ f.waiting, (f.line, c) ∈ (u.sq q).ifails)) ∧
      (f.bad = false → ((s.sq q).icache[icSet (f.line * 128)]).any (fun w => w.tag == superblock (f.line * 128)) = true →
        (u.sq q).icHit (f.line * 128) = true))

/-- 05 R104, Tables 5-6 and 5-7, 13 R293: the next tile of the square's record of the highest priority is bound to the lowest FREE context, READY and
held: its indices in s1 to s4, its time in tm0, s30 at the end of its area, every other register zero, its area zero. 05 R97, 15 R325, 11 R261: an ENDING
context whose work is done destroys its tokens, and it becomes FREE once their drops have entered the stream of 32: it holds no core, no token, no watch
and no waiting record; while its work is not done, or a drop finds no room, it stays, and the engine error of a task that ran to its EXIT is
the end of its invocation and the task's cause (15 R326). -/
def Obligations.ContextsAreBoundAndFreed : Prop :=
  (∀ (s : State) (q : Sq) (r : LRec) (c : Fin 8) (j : Tile) (js : List Tile) (res : Residence),
    let x := s.sq q
    let w := r.words
    x.nextRecord = some r → x.freeCtx = some c → s.pending q r = j :: js → s.residence w.res = some res → x.tokens.length ≤ 62 → x.streamRoom 1 = true →
    ∃ u : State, exec (.contextBind q) s = .next u ∧
      (let k := u.ctx q (tileCx c)
       k.st = .ready ∧ k.hold = true ∧ k.res = w.res ∧ k.pri = w.pri ∧ k.scope = w.scope ∧ k.tidx = tidxOf (w.index j) ∧
       (∀ l : Fin 4, k.s[l.val + 1]'(by omega) = BitVec.ofNat 64 (w.index j l)) ∧ k.s[30] = 0x4000 ∧
       (∀ n : Fin 32, n.val = 0 ∨ (5 ≤ n.val ∧ n ≠ 30) → k.s[n] = 0) ∧ k.tm[0] = w.timeOf j ∧ (∀ n : Fin 4, n ≠ 0 → k.tm[n] = 0) ∧
       k.q0 = ⟨res.entry, false⟩ ∧ k.q1 = ⟨res.entry + 4, false⟩ ∧ k.q2 = ⟨res.entry + 8, false⟩ ∧ k.posted = [] ∧ k.loads = [] ∧ k.blocked = none) ∧
      (∀ o, o < 0x4000 → u.rd (privAddr q.val c.val o) = 0) ∧
      (∀ a, a < privAddr q.val c.val 0 ∨ privAddr q.val c.val 0x4000 ≤ a → u.rd a = s.rd a)) ∧
  (∀ (s : State) (q : Sq) (c : Fin 8),
    let cx := tileCx c
    let x := s.sq q
    let n := (x.tokens.filter (fun t => t.owner == .ctx cx)).length
    ((s.ctx q cx).st ≠ .ending ∨ s.drained q cx = false → exec (.contextFree q cx) s = .next s) ∧
    ((s.ctx q cx).st = .ending → s.drained q cx = true →
      ∃ u : State, exec (.contextFree q cx) s = .next u ∧ (∀ t ∈ (u.sq q).tokens, t.owner ≠ .ctx cx) ∧
        (32 - x.stream.length < x.owed.length + n → (u.ctx q cx).st = .ending ∧ (∀ k, (s.ctx q cx).endCause = some k → (u.ctx q cx).endCause = some k) ∧
          ((s.ctx q cx).endCause = none → (u.ctx q cx).endCause = s.engineCause q cx)) ∧
        (∀ (i : Inv) (k : Nat), (s.ctx q cx).endCause = none → s.engineCause q cx = some k → (s.ctx q cx).inv = some i.id → i ∈ s.invs →
          ∃ j ∈ u.invs, j.id = i.id ∧ { time := (s.ctx q cx).tileTime, sq := q.val, ctx := cx.val, cause := k } ∈ j.ended) ∧
        (x.owed.length + n ≤ 32 - x.stream.length → (u.ctx q cx).st = .free ∧ (u.ctx q cx).records = [] ∧ (u.ctx q cx).blocked = none ∧
          (∀ v : Vc, (u.core q v).claim ≠ some c) ∧ u.watchOf q cx = none)))

/-- 07 R162, R163, 08 R190, 15 R320, R323, R324: a waiting record is delivered at a boundary, as a trap of the ACTIVE context outside its handler and as
CAUSE, BPROV and BFLT of F; an MWAIT ends with the reason that holds, a timeout with 2, unless a record waits, which goes first. An MJ.COMMIT that has
begun is no boundary (16 R353; log 36). -/
def Obligations.RecordsAndWakesAreDelivered : Prop :=
  ∀ (s : State) (q : Sq) (c : Cx) (r : BRec) (rs : List BRec) (b : Blocked) (d a : Reg) (w : Watch),
    let x := s.ctx q c
    let clear := fun (s : State) => s.modCtx q c (fun k => { k with records := rs, bprov := r.prov, bflt := r.flt })
    (x.records = [] → exec (.bundleFaultDelivery q c) s = .next s) ∧
    (x.records = r :: rs → r.lvl = 1 →
      (c ≠ 8 → (s.sq q).active.map tileCx = some c → x.inh = false → (s.sq q).service = none → s.committing q c = false →
        exec (.bundleFaultDelivery q c) s = .next ((clear s).trapEnter q c 0 1 r.cause)) ∧
      ((c ≠ 8 ∧ x.inh = true) ∨ s.committing q c = true → exec (.bundleFaultDelivery q c) s = .next s) ∧
      (c = 8 → s.committing q c = false →
        exec (.bundleFaultDelivery q c) s = .next ((clear s).modCtx q c (fun k => { k with cause := causeWord 0 1 r.cause })))) ∧
    (x.blocked = some b → b.afresh = false → b.instr = .mwait d a → s.recordDue q c = true →
      (s.watchOf q c = none → exec (.mwaitWake q c) s = .next (s.deliver q c)) ∧
      (s.watchOf q c = some w → w.fired = true → exec (.mwaitWake q c) s = .next (s.deliver q c)) ∧
      (s.watchOf q c = some w → w.fired = false → mwaitLimit (x.rs_ a) ≤ s.now - b.now → exec (.mwaitTimeout q c) s = .next (s.deliver q c))) ∧
    (x.blocked = some b → b.afresh = false → b.instr = .mwait d a → s.recordDue q c = false →
      (s.watchOf q c = none → exec (.mwaitWake q c) s = ((s.focus q c).sets d 3)) ∧
      (s.watchOf q c = some w →
        (w.fired = true → exec (.mwaitWake q c) s = (((s.focus q c).dropWatch q c).sets d 1) ∧ exec (.mwaitTimeout q c) s = .next s) ∧
        (w.fired = false → mwaitLimit (x.rs_ a) ≤ s.now - b.now →
          exec (.mwaitTimeout q c) s = ((s.focus q c).sets d 2) ∧ exec (.mwaitWake q c) s = .next s) ∧
        (w.fired = false → s.now - b.now < mwaitLimit (x.rs_ a) → s.higherReady q c = true → exec (.mwaitWake q c) s = ((s.focus q c).sets d 5)) ∧
        (w.fired = false → s.now - b.now < mwaitLimit (x.rs_ a) → s.higherReady q c = false →
          exec (.mwaitWake q c) s = .next s ∧ exec (.mwaitTimeout q c) s = .next s)))

/-- 05 R101, 15 R322, R323: firmware's credit grows by one for 16 cycles up to 64; an ACTIVE context blocked for 2 µs outside its handler, while F has 16
credits and does not stand blocked itself, gives way to a service: its queue and the cause INTERRUPT are saved and TSEL names it; no context in an
MJ.COMMIT that has begun does (16 R353; log 36); after 16 instructions, or by RFE, the service ends,
TSEL.EN is 0, and the context resumes from what was saved. 15 R322, R323: RFE ends the service: TSEL.EN becomes 0 and the interrupted context goes on
from its EPCs, in the state it was in; outside a service it is a precise fault of F. -/
def Obligations.FirmwareInterruptsAndReturns : Prop :=
  (∀ (s : State) (q : Sq) (c : Fin 8) (n : Nat) (b : Blocked),
    let x := s.sq q
    let cx := tileCx c
    let k := s.ctx q cx
    (16 ≤ x.fcycles → exec (.fcredCredit q) s = .next (s.setSq q { x with fcycles := x.fcycles - 16, fcred := Nat.min 64 (x.fcred + 1) })) ∧
    (x.fcycles < 16 → exec (.fcredCredit q) s = .next s) ∧
    (k.blocked = some b → b.afresh = false → x.active = some c → k.inh = false → x.service = none →
      ((s.ctx q 8).waits = true ∨ s.committing q cx = true → exec (.firmwareInterrupt q cx) s = .next s) ∧
      (b.now + 2000 ≤ s.now → 16 ≤ x.fcred → (s.ctx q 8).waits = false → s.committing q cx = false →
       ∃ u : State, exec (.firmwareInterrupt q cx) s = .next u ∧ (u.sq q).service = some (c, 0) ∧
        bits (u.sq q).tsel 0 5 = 16 + c.val ∧
        (let y := u.ctx q cx
         y.epc0 = k.q0.pc &&& 0x0000FFFFFFFFFFFC ∧ y.epc1 = k.q1.pc &&& 0x0000FFFFFFFFFFFC ∧ y.epc2 = k.q2.pc &&& 0x0000FFFFFFFFFFFC ∧
         y.cause = 0x800000006 ∧ y.s = k.s ∧ y.blocked = some { b with afresh := true })) ∧
      (s.now < b.now + 2000 ∨ x.fcred < 16 → exec (.firmwareInterrupt q cx) s = .next s)) ∧
    (x.service = some (c, n) →
      (n < 16 → exec (.firmwareServiceLimit q) s = .next s) ∧
      (16 ≤ n → exec (.firmwareServiceLimit q) s = .next (s.serviceEnd q c)) ∧
      (s.fsq = q → s.fcx = 8 → exec .rfe s = .next (s.retire.serviceEnd q c)) ∧
      (let y := (s.serviceEnd q c).ctx q cx
       (s.serviceEnd q c).sq q = { x with service := none, tsel := x.tsel &&& ~~~0x10, ctxs := vset x.ctxs cx y } ∧ y.blocked = k.blocked ∧
       y.q0 = ⟨k.epc0, k.enul.getLsbD 0⟩ ∧ y.q1 = ⟨k.epc1, k.enul.getLsbD 1⟩ ∧ y.q2 = ⟨k.epc2, k.enul.getLsbD 2⟩ ∧ y.s = k.s))) ∧
  (∀ (s : State), s.fcx = 8 →
    (∀ (c : Fin 8) (n : Nat), (s.sq s.fsq).service = some (c, n) →
      ∃ t : State, exec .rfe s = .next t ∧ (t.sq s.fsq).service = none ∧
        (t.sq s.fsq).tsel = (s.sq s.fsq).tsel &&& ~~~0x10 ∧
        let x := s.ctx s.fsq (tileCx c)
        t.ctx s.fsq (tileCx c) = { x with
          q0 := ⟨x.epc0, x.enul.getLsbD 0⟩, q1 := ⟨x.epc1, x.enul.getLsbD 1⟩, q2 := ⟨x.epc2, x.enul.getLsbD 2⟩ }) ∧
    ((s.sq s.fsq).service = none → exec .rfe s = s.trap 0x005))

/-- 09 R193, R197 to R201, R213: the specifier and lease ports of the array and the grant of its lease. A request is recorded where it names no buffer
beside those held; a release frees at once what no term or request needs; a clear takes ERROR and the named conditions away; a word that breaks the
rules of the port is LEASE_WORD; a release of a core with accepted commands waits, with the buffers of those that wait; the array without a holder goes to the core that is next, whose request takes its buffers, where every one of them is
free or held by its context; the suspended command of a core whose request has to wait goes on without it. A holder without a current command gives the
array up as soon as another core's request can be granted. -/
def Obligations.ArrayPortsAndLease : Prop :=
  ∀ (s : State) (q : Sq) (v : Vc) (x : Word) (r : AReq),
    let a := s.acore q v
    let arr := s.arr q
    let c := s.coreCtx q v
    let op := x.toNat % 4
    let buf := BitVec.ofNat 2 (x.toNat / 4)
    let i := [Instr.leaseRequest q v x, .leaseRelease q v x, .leaseClear q v x].getD op (.leaseRequest q v x)
    let idle := fun (u : State) => ∃ w, (u.arr q).holder = some w ∧ (u.acore q w).cur = none ∧ u.otherGrantable q w = true
    (a.spq.length < 4 → exec (.specifierWrite q v x) s = .next (s.modACore q v (fun y => { y with spq := a.spq ++ [x] }))) ∧
    (4 ≤ a.spq.length → exec (.specifierWrite q v x) s = .next s) ∧
    (op < 3 → leaseOk x = false → exec i s = .next (s.leaseFault q v 0x0CB)) ∧
    (op < 3 → leaseOk x = true →
      (op = 0 → ((∀ b : Fin 2, arr.bufs[b] ≠ some c) ∨ ∀ b : Fin 2, buf.getLsbD b.val = true → arr.bufs[b] = some c) →
        let u := s.modACore q v (fun y => { y with
          req := some ⟨if x.toNat / 256 % 256 = 0 then 16 else x.toNat / 256 % 256, BitVec.ofNat 2 (x.toNat / 16), buf⟩ })
        (idle u → exec i s = .next (u.endTerm q)) ∧ (¬idle u → exec i s = .next u)) ∧
      (op = 0 → (∃ b : Fin 2, arr.bufs[b] = some c) → (∃ b : Fin 2, buf.getLsbD b.val = true ∧ arr.bufs[b] ≠ some c) →
        exec i s = .next (s.leaseFault q v 0x0CA)) ∧
      (op = 1 → arr.holder ≠ some v → a.req = none → s.suspended q v = false → ∃ u : State, exec i s = .next u ∧
        (∀ b : Fin 2, (u.arr q).bufs[b] = if buf.getLsbD b.val && arr.bufs[b] == some c then none else arr.bufs[b]) ∧
        ((u.arr q).holder = arr.holder ∨ (∃ w, arr.holder = some w ∧ (s.acore q w).cur = none ∧ (u.arr q).holder = none)) ∧ ¬idle u ∧ u.mem = s.mem) ∧
      (op = 1 → arr.holder = some v ∨ a.req ≠ none ∨ s.suspended q v = true → a.accepted ≠ [] →
        exec i s = .next (s.modACore q v (fun y => { y with rel := some (a.rel.getD 0 ||| buf) }))) ∧
      (op = 2 → exec i s = .next (s.modACore q v (fun y => { y with
        err := none, steps := if y.err.isSome then 0 else y.steps, cond := y.cond &&& ~~~(BitVec.ofNat 3 (x.toNat / 4 % 8)) })))) ∧
    (arr.holder = none → s.nextHolder q = none → exec (.leaseGrant q) s = .next s) ∧
    (arr.holder = none → s.nextHolder q = some v → a.req = some r → ∃ u : State, exec (.leaseGrant q) s = .next u ∧ (u.arr q).holder = some v ∧
      (u.arr q).term = 0 ∧ u.mem = s.mem ∧
      ((∀ b : Fin 2, r.buf.getLsbD b.val = true → arr.bufs[b] = none ∨ arr.bufs[b] = some c) → (u.acore q v).req = none ∧ (u.acore q v).lim = r.lim ∧
        ∀ b : Fin 2, (u.arr q).bufs[b] = if r.buf.getLsbD b.val then some c else arr.bufs[b]) ∧
      (∀ b : Fin 2, r.buf.getLsbD b.val = true → arr.bufs[b] ≠ none → arr.bufs[b] ≠ some c → (u.acore q v).req = some r ∧ (u.arr q).bufs = arr.bufs))

/-- 09 R194, R195, R213, R214: a command word of any operation, written to a port whose second slot is free and whose holding register lets it in, is
accepted under the next sequence number with the specifiers it consumes; the first check that fails puts the core in ERROR with its cause, the ACMD of
its task before the others (13 R298); a word that waits is accepted once the holding register is empty, and after 1 ms it faults, unless its task has
ended (15 R325). -/
def Obligations.ArrayCommandsAreAccepted : Prop :=
  ∀ (s : State) (q : Sq) (v : Vc) (x : Word) (n : Fin 15) (roles : List Role) (y : ACmd),
    let a := s.acore q v
    let c := s.coreCtx q v
    let w := cword x
    let i := [Instr.dpaMm q v x, .dpaWld q v x, .dpaZero q v x, .dpaDrain q v x, .dpaAccld q v x, .dpaAccadd q v x, .dpaCbld q v x, .dpaSync q v x,
      .dpaDist q v x, .dpaNear q v x, .dpaCupd q v x, .dpaCdiv q v x, .dpaCntr q v x, .dpaCmp24 q v x, .dpaCbenc q v x].getD n.val (.dpaMm q v x)
    let op := [0x00, 0x01, 0x03, 0x04, 0x05, 0x06, 0x07, 0x08, 0x10, 0x11, 0x12, 0x13, 0x14, 0x15, 0x16].getD n.val 0
    let specs := a.spq.take roles.length
    let rs := roles.zip specs
    let failed := fun (o : Out) (k : Nat) => ∃ u : State, o = .next u ∧ (u.acore q v).err = some k ∧ (u.acore q v).acseq = (a.acseq + 1) % 2 ^ 16 ∧
      (u.acore q v).accepted = []
    let taken := fun (o : Out) => ∃ (u : State) (m : ACmd), o = .next u ∧
      (if a.cur = none then (u.acore q v).cur = some m else (u.acore q v).cur = a.cur ∧ (u.acore q v).nxt = some m) ∧
      m.word = x ∧ m.accepted = true ∧ m.seq = a.acseq ∧ m.specs = specs ∧ m.steps = 0 ∧ m.ctx = c ∧
      (u.acore q v).spq = a.spq.drop roles.length ∧ (u.acore q v).acseq = (a.acseq + 1) % 2 ^ 16 ∧ (u.acore q v).err = none ∧ u.mem = s.mem
    w.op = op → opRoles op = some roles →
    (a.nxt = none → a.err = none → (a.hreg = [] ∨ x.getLsbD 31 = false) → s.overAcmd q c = true → failed (exec i s) 0x131) ∧
    (a.nxt = none → a.err = none → (a.hreg = [] ∨ x.getLsbD 31 = false) → s.overAcmd q c = false →
      ((s.arr q).holder ≠ some v → a.req = none → s.suspended q v = false → failed (exec i s) 0x0C0) ∧
      ((s.arr q).holder = some v →
        (cmdLegal x = false → failed (exec i s) 0x0C1) ∧
        (cmdLegal x = true → a.spq.length < roles.length → failed (exec i s) 0x0C3) ∧
        (cmdLegal x = true → roles.length ≤ a.spq.length →
          ((∃ e ∈ rs, specLegal w e.1 e.2 = false) ∨ pairLegal w specs = false → failed (exec i s) 0x0C2) ∧
          ((∀ e ∈ rs, specLegal w e.1 e.2 = true) → pairLegal w specs = true → overlaps w rs = true → failed (exec i s) 0x0CC) ∧
          ((∀ e ∈ rs, specLegal w e.1 e.2 = true) → pairLegal w specs = true → overlaps w rs = false → taken (exec i s))))) ∧
    (a.nxt ≠ none → exec i s = .next s) ∧
    (a.nxt = some y → y.accepted = false →
      (a.hreg ≠ [] → exec (.arrayDeferredAccept q v) s = .next s) ∧
      (a.hreg = [] → exec (.arrayDeferredAccept q v) s = .next ((s.modACore q v (fun b => { b with nxt := none })).acceptCmd q v y)) ∧
      (s.now < y.since + 1000000 → exec (.arrayStall q v) s = .next s) ∧
      (y.since + 1000000 ≤ s.now → y.void = true →
        exec (.arrayStall q v) s = .next ((s.modACore q v (fun b => { b with nxt := none })).acceptCmd q v y)) ∧
      (y.void = false → a.hreg = [] → exec (.arrayStall q v) s = .next s) ∧
      (y.since + 1000000 ≤ s.now → y.void = false → a.hreg ≠ [] → ∃ u : State, exec (.arrayStall q v) s = .next u ∧ (u.acore q v).err = some 0x0C8 ∧
        (u.acore q v).hreg = [] ∧ (u.acore q v).nxt = none))

/-- 09 R207, R208, R213, R214: the next step of the holder's command retires with its effect and its conditions, or puts the core in ERROR, or waits for a
translation; a command with all its steps leaves its slot and posts its completion, which a core claimed since by another context does not take (08 R168).
DPA.ZERO clears its buffer and DPA.SYNC does nothing else. The model's choices among these: a buffer that is not held is found before what is wrong
with an operand (log 91), and a step that faults leaves memory as it was (log 92). -/
def Obligations.ArrayStepsRetire : Prop :=
  ∀ (s t : State) (q : Sq) (v : Vc) (m : ACmd) (cond : Cond),
    let a := s.acore q v
    let w := cword m.word
    (s.arr q).holder = some v → a.cur = some m → m.accepted = true → m.void = false →
    (m.steps < w.nsteps → s.vpathBefore q v m.id = true → exec (.arrayStepRetire q) s = .next s) ∧
    (m.steps < w.nsteps → s.vpathBefore q v m.id = false → (∀ b ∈ w.bufs, (s.arr q).bufs[b] = some m.ctx) →
      (s.stepEffect q v m = .error .stall → exec (.arrayStepRetire q) s = .next s) ∧
      (∀ k, s.stepEffect q v m = .error (.cause k) → exec (.arrayStepRetire q) s = .next (s.arrayFault q v k m.steps)) ∧
      (s.stepEffect q v m = .ok (t, cond) → s.saving q m.ctx = false →
        ((t.takeHnds q v m).otherGrantable q v = false) →
        ∃ (u : State) (p k : Nat), exec (.arrayStepRetire q) s = .next u ∧
          (u.acore q v).cur = some { m with steps := m.steps + 1, handles := m.handles ++ m.takes.map (·.1), pointSteps := p, pointCyc := k } ∧
          (u.acore q v).steps = m.steps + 1 ∧ (u.acore q v).cond = ((t.takeHnds q v m).acore q v).cond ||| cond.bits ∧ u.mem = t.mem ∧
          (w.op = 0x03 → (∀ r n, r < 256 → n < 128 → (u.arr q).accAt w.ab r n = 0) ∧ u.mem = s.mem) ∧
          (w.op = 0x08 → (u.arr q).acc = (s.arr q).acc ∧ u.mem = s.mem))) ∧
    (m.steps = 0 → 0 < w.nsteps → s.vpathBefore q v m.id = false → (∃ b ∈ w.bufs, (s.arr q).bufs[b] ≠ some m.ctx) →
      exec (.arrayStepRetire q) s = .next (s.arrayFault q v 0x0C9 0)) ∧
    (w.nsteps ≤ m.steps → w.op ≠ 0x11 → m.handles = [] → a.nxt = none → a.rel = none → (∀ z : Vc, ∀ k, (s.acore q z).cur = some k → k.void = false) →
      m.inTerm = false → (s.core q v).arq.length < 32 → a.hreg = [] →
      ∃ u : State, exec (.arrayCommandRetire q) s = .next u ∧ (u.acore q v).cur = none ∧ u.mem = s.mem ∧
        (u.core q v).arq = (s.core q v).arq ++ (if w.post = true ∧ m.ctx = s.coreCtx q v then
          [BitVec.ofNat 64 (2 ^ 63 + (if w.op = 8 then w.x else 0) * 2 ^ 48 + m.seq % 2 ^ 16 * 2 ^ 32 +
          m.steps % 2 ^ 16 * 2 ^ 16 + w.op)] else []))

/-- 04 R89 to R91: in integer mode a group of sixteen products of integers is summed exactly and added to its word once, clamped to 32 bits with SAT. 04
R74, R85, R86: a value that a format holds is its own rounding, in every mode and without a condition, NaN apart; of E2M1 the code 0b1000 is no value
(R75, R79). -/
def Obligations.ArrayNumbersAreExact : Prop :=
  (∀ (acc : Lane) (x y : Fin 16 → Int),
    let z := acc.toInt + ((List.finRange 16).map (fun i => x i * y i)).sum
    accGroup true acc ((List.finRange 16).map (fun i => cellTerm none (.ofInt (x i)) (.ofInt (y i)))) =
      if z < -2 ^ 31 then (0x80000000, { sat := true }) else if 2 ^ 31 - 1 < z then (0x7FFFFFFF, { sat := true }) else (BitVec.ofInt 32 z, {})) ∧
  (∀ f ∈ [fp32, bf16, fp16, e5m2, e4m3, e2m1], ∀ (rm c : Nat), c < 2 ^ f.width → (f.kind = .e2m1 → c ≠ 8) → (f.value c).isNan = false →
    f.arith rm (f.value c) = (c, {}) ∧ f.convert rm (f.value c) = (c, {}))

/-- 11 R261 to R263, 13 R293: the root applies the oldest message of a square's stream in one step: its pairs are added to the totals of its scope, or its
accept message ends firmware's wait for that square; and a broadcast becomes local(N) everywhere. -/
def Obligations.CountsAndBroadcasts : Prop :=
  ∀ (s : State) (q : Sq) (n : Fin 8) (ps : List (Word × Int)) (ms : List Msg) (k : Nat) (b : Bcast) (i : Inv),
    ((s.sq q).stream = .count n ps :: ms → ∃ (u : State) (l : List Msg), exec (.countMessageApply q) s = .next u ∧ (u.sq q).stream = ms ++ l ∧
      (∀ (m : Fin 8) (t : Word), mget 0 u.root (rootKey m t) =
        mget 0 s.root (rootKey m t) + (if m = n then ((ps.filter (fun p => p.1 = t)).map (fun p => p.2)).sum else 0)) ∧
      u.localF = s.localF ∧ u.mem = s.mem ∧
      (u.frontier n ≠ s.frontier n → u.bcast = s.bcast ++ [⟨n, u.frontier n, s.bseq[n] + 1⟩]) ∧ (u.frontier n = s.frontier n → u.bcast = s.bcast)) ∧
    ((s.sq q).stream = .accept k :: ms → ∃ (u : State) (l : List Msg), exec (.countMessageApply q) s = .next u ∧ (u.sq q).stream = ms ++ l ∧
      u.root = s.root ∧ ∀ j ∈ s.invs, ∃ j' ∈ u.invs, j'.id = j.id ∧ j'.token = j.token ∧
        j'.waiting = if j.id = k then j.waiting.filter (fun r => r ≠ q) else j.waiting) ∧
    ((s.sq q).stream = [] → (∀ j ∈ s.invs, j.unposted = []) → exec (.countMessageApply q) s = .next s) ∧
    (s.bcast.find? (fun c => c.scope == n) = some b → ∃ u : State, exec (.frontierBroadcast n) s = .next u ∧ u.localF = vset s.localF n b.frontier ∧
      u.bcast = updFirst (fun c => c.scope == n) (fun _ => []) s.bcast ∧ u.root = s.root ∧ (∀ r : Sq, ∀ e ∈ (u.sq r).log, u.passed e = false)) ∧
    (s.bcast.find? (fun c => c.scope == n) = none → exec (.frontierBroadcast n) s = .next s) ∧
    (s.invs.find? (fun j => j.id == k) = some i →
      (i.token = false ∨ i.waiting ≠ [] → exec (.acceptTokenRelease k) s = .next s) ∧
      (i.token = true → i.waiting = [] → ∃ u : State, exec (.acceptTokenRelease k) s = .next u ∧ (∀ j ∈ u.invs, j.id = k → j.token = false) ∧
        u.squares = s.squares ∧ ∀ (m : Fin 8) (t : Word), mget 0 u.root (rootKey m t) =
          mget 0 s.root (rootKey m t) - (if m = i.words.scope ∧ t = i.words.tbase then 1 else 0)))

/-- 16 R333, R335, R336, R351: a square idle for 64 cycles without timed work enters NAP; one that sleeps and has been called runs again; with DRTH.EN a
droop counts one alarm and opens a window of 70 cycles, after which a droop that persists is a new alarm. 16 R337, R340, R344 to R346, R350, 17 R360,
R368: the events of the package's power and MRESET: the state each leads to, the interval it records, which memory it loses, and that a state which it
does not belong to stays. The model's choices among these: the bytes of a memory that is lost read 0 (log 3); MRESET keeps LUP and LANES, and PATCH is 0
after a cold start (log 58); the registers without a reset value of the spec are zero after a cold start (log 2, in Ctx.reset); and the kinds of the
entries of the commands that a cold start ends (log 97). -/
def Obligations.PowerStates : Prop :=
  (∀ (s : State) (q : Sq) (c : Nat) (b : Bool),
    let x := s.sq q
    let put := fun (y : Square) => Host.Outcome.next (φ := Fault) (ρ := Refusal) (s.setSq q y)
    (x.power = .run → s.idle q = true → x.timed = false → x.idleSince + 64 ≤ x.cyc → exec (.napEntry q) s = put { x with power := .nap }) ∧
    (x.power ≠ .run ∨ s.idle q = false ∨ x.timed = true ∨ x.cyc < x.idleSince + 64 → exec (.napEntry q) s = .next s) ∧
    (x.power ≠ .run → x.waking = true → exec (.squareWake q) s = put { x with power := .run, waking := false, idleSince := x.cyc }) ∧
    (x.power = .nap → s.napEvent q = true → exec (.squareWake q) s = put { x with power := .run, waking := false, idleSince := x.cyc }) ∧
    (x.power = .run ∨ (x.waking = false ∧ (x.power = .doze ∨ s.napEvent q = false)) → exec (.squareWake q) s = .next s) ∧
    (x.drth.getLsbD 16 = true → x.droop = none → exec (.droopAlarm q) s = put { x with droop := some x.cyc, drcnt := x.drcnt + 1 }) ∧
    (x.drth.getLsbD 16 = false ∨ x.droop.isSome = true → exec (.droopAlarm q) s = .next s) ∧
    (x.droop = some c → c + 70 ≤ x.cyc → exec (.droopWindowEnd q b) s =
      put (if b = true ∧ x.drth.getLsbD 16 = true then { x with droop := some x.cyc, drcnt := x.drcnt + 1 } else { x with droop := none })) ∧
    (x.droop = some c → x.cyc < c + 70 → exec (.droopWindowEnd q b) s = .next s)) ∧
  (∀ (s : State) (qs : List Sq) (hub : Bool) (b : Nat),
    (s.power = .run → ∃ u : State, exec .brownEntry s = .next u ∧ u.power = .brown ∧ u.brownStart = some u.now ∧
      ∀ n, u.cur = some n → u.holdsInvoke n = false) ∧
    (s.power ≠ .run → exec .brownEntry s = .next s) ∧
    (s.power = .brown → s.brownStart = some b → ∃ u : State, exec .brownExit s = .next u ∧ u.power = .run ∧ u.brownStart = none ∧
      u.intervals = s.intervals ++ [(b, s.now - b)] ∧ u.mem = s.mem ∧
      ∀ (q : Sq) (c : Fin 8), (u.ctx q (tileCx c)).pstatRes =
        if (s.ctx q (tileCx c)).st = .free then (s.ctx q (tileCx c)).pstatRes else ((s.ctx q (tileCx c)).pstatRes + 1) % 2 ^ 16) ∧
    (s.power ≠ .brown → exec .brownExit s = .next s) ∧
    (s.power = .run ∨ s.power = .brown → ∃ u : State, exec (.powerFailWarning qs hub) s = .next u ∧ u.power = .sealed ∧ u.offStart = some s.now ∧
      u.persistGen = s.persistGen + 1 ∧ u.hubValid = hub ∧
      ∀ q : Sq, (u.sq q).persist.valid u.persistGen = (decide ((u.sq q).power ≠ .doze) && !qs.contains q)) ∧
    (s.power = .sealed → ∃ u : State, exec .holdupExhausted s = .next u ∧ u.power = .off ∧ u.squares = s.squares ∧
      ∀ a, u.rd a = if tierOf a = .hbm ∨ tierOf a = .lpddr then 0 else s.rd a) ∧
    (s.power ≠ .sealed → exec .holdupExhausted s = .next s) ∧
    (s.power = .sealed ∨ s.power = .off →
      (s.hubValid = true → exec .coldStart s = .next s ∧
        ∃ u : State, exec .resumption s = .next u ∧ u.power = .run ∧ u.hubValid = false ∧ u.offStart = none ∧ ∀ q : Sq, (u.sq q).persist = Seal.none) ∧
      (s.hubValid = false → exec .resumption s = exec .coldStart s ∧
        ∃ u : State, exec .coldStart s = .next u ∧ u.power = .run ∧ u.mchk = false ∧ u.invs = [] ∧ u.patchLevel = 0 ∧
          (∀ i ∈ s.invs, ∃ nf, 1 ≤ nf ∧
            mkComp i.q i.tag 0 0x141 nf (word (s.extension i.accepted)) (word (Nat.min i.lost (2 ^ 64 - 1))) 0 ∈ u.held) ∧
          (∀ n ∈ s.notifies, mkComp n.q n.tag 2 0x141 0 0 0 0 ∈ u.held) ∧
          (∀ q : Sq, (u.sq q).power = .doze ∧ ∀ c : Cx, u.ctx q c = Ctx.reset))) ∧
    (s.power = .run ∨ s.power = .brown → exec .resumption s = .next s ∧ exec .coldStart s = .next s ∧
      ∃ u : State, exec .mresetGo s = .next u ∧ u.power = s.power ∧ u.mchk = false ∧ u.lup = s.lup ∧ u.lanes = s.lanes ∧ u.invs = [] ∧
        (∀ n : Fin 16, u.qps[n] = Qp.reset) ∧ ∀ q : Sq, (u.sq q).power = .doze))

/-- 17 R359, R360, R366, Table 17-1: what a write of each register of the adapter does, what the doublewords read, zero where they are write-only, and
the accesses of the host through the window onto space 0; a window access that faults is recorded in WFLT and does nothing else. 17 R358, R369, R370,
R373, 05 R386: the peer domain of this module, the loss of a peer, a lane failure and the link's return, a slot of the key store, written under a
certificate alone (log 8), and an uncorrectable error of a stored byte, before which the loads in flight that read its unit take their values (log 83). -/
def Obligations.HostAdapter : Prop :=
  (∀ (s : State) (n : Fin 16) (x : BitVec 32) (w : Word) (k : Fin 8) (key : Nat) (a : BitVec 36) (m : Nat) (bs : List Byte)
    (l : List (Nat × Nat)) (c : Nat),
    let at_ := fun (o : Nat) => BitVec.ofNat 32 (0x1000 + 0x40 * n.val + o)
    let p := s.qps[n]
    let put := fun (p : Qp) => Host.Outcome.next (φ := Fault) (ρ := Refusal) { s with qps := vset s.qps n p }
    let va := s.winBase.toNat * 2 ^ 36 + a.toNat
    exec (.sqtDoorbell n x) s = put { p with sqt := x.toNat } ∧
    exec (.hostRegisterWrite (at_ 0x18) w) s = exec (.sqtDoorbell n (w.setWidth 32)) s ∧
    exec (.hostRegisterWrite (at_ 0x20) w) s = exec (.cqhWrite n (w.setWidth 32)) s ∧
    exec (.hostRegisterWrite (at_ 0x10) w) s = exec (.qctlWrite n (w.setWidth 32)) s ∧
    exec (.hostRegisterWrite (at_ 0) w) s = put (if p.en then p else { p with sqb := w }) ∧
    exec (.hostRegisterWrite (at_ 8) w) s = put (if p.en then p else { p with cqb := w }) ∧
    exec (.hostRegisterWrite 0x10 w) s = .next { s with winBase := w.setWidth 12 } ∧
    exec (.hostRegisterWrite 0x18 0x8000000000000000) s = exec .wfltClear s ∧
    exec (.hostRegisterWrite 0x8 1) s = exec .mresetGo s ∧ exec (.hostRegisterWrite 0x8 0) s = .next s ∧
    (s.held = [] → exec (.cqhWrite n x) s = put { p with cqh := x.toNat } ∧ ∃ y : Qp, exec (.qctlWrite n x) s = put y ∧
      y.ien = x.getLsbD 1 ∧ (p.en = false → y.sql = (x.extractLsb' 12 4).toNat ∧ y.cql = (x.extractLsb' 8 4).toNat) ∧
      (p.en = true → y.sql = p.sql ∧ y.cql = p.cql ∧ y.en = x.getLsbD 0) ∧
      (p.en = false → (y.en = true ↔ x.getLsbD 0 = true ∧ 4 ≤ y.sql ∧ 4 ≤ y.cql)) ∧ y.sqb = p.sqb ∧ y.cqb = p.cqb) ∧
    exec .wfltClear s = .next { s with wflt := { s.wflt with v := false, wr := false, cause := 0, addr := 0 } } ∧
    exec (.imageKeySlotWrite k key) s =
      .next (if certOk k key (Config.keyCertificate s.free) then { s with keySlots := vset s.keySlots k (some key) } else s).bump ∧
    s.barRead 0x8 = 0 ∧ s.barRead (at_ 0x18).toNat = 0 ∧ s.barRead (at_ 0x20).toNat = 0 ∧
    s.barRead 0x10 = s.winBase.setWidth 64 ∧ s.barRead (at_ 0).toNat = p.sqb ∧ s.barRead (at_ 8).toNat = p.cqb ∧
    (s.barRead (at_ 0x28).toNat).toNat = p.sqh % 2 ^ 32 ∧
    (0 < m → a.toNat + m ≤ 2 ^ 36 →
      (s.hubPieces m va m = .ok l → (∀ p ∈ l, s.isBad p.1 p.2 = false) →
        exec (.hostWindowRead a m) s =
          .next { l.foldl (fun u p => u.blkTouch p.1 p.2) s with lastRead := some (l.flatMap (fun p => s.rdB p.1 p.2)) }) ∧
      (s.hubPieces m va m = .error (.cause c) → s.wflt.v = false →
        exec (.hostWindowRead a m) s = .next { s with lastRead := none, wflt := ⟨true, s.wflt.ovf, false, c, va⟩ }) ∧
      (s.hubPieces m va m = .error (.cause c) → s.wflt.v = true →
        exec (.hostWindowRead a m) s = .next { s with lastRead := none, wflt := { s.wflt with ovf := true } })) ∧
    (bs ≠ [] → a.toNat + bs.length ≤ 2 ^ 36 →
      (s.hubPieces bs.length va bs.length = .ok l → (l.map (fun p => p.2)).sum = bs.length →
        ∃ u : State, exec (.hostWindowWrite a bs) s = .next u ∧ u.wflt = s.wflt ∧
          (∀ e, (∀ p ∈ l, e < p.1 ∨ p.1 + p.2 ≤ e) → u.rd e = s.rd e) ∧
          (l.Pairwise (fun p r => p.1 + p.2 ≤ r.1 ∨ r.1 + r.2 ≤ p.1) → l.flatMap (fun p => u.rdB p.1 p.2) = bs)) ∧
      (s.hubPieces bs.length va bs.length = .error (.cause c) → s.wflt.v = false →
        exec (.hostWindowWrite a bs) s = .next { s with wflt := ⟨true, s.wflt.ovf, true, c, va⟩ }))) ∧
  (∀ (s : State) (m : Fin 8) (ms : List (Fin 8)) (ws : List Word) (a : Nat),
    (∃ u : State, exec (.peerDomainConfig m ms) s = .next u ∧ u.modn = BitVec.ofNat 8 m.val ∧ u.peers.Nodup ∧ m ∉ u.peers ∧
      (∀ p, p ∈ u.peers ↔ p ∈ ms ∧ p ≠ m) ∧ u.squares = s.squares ∧ u.mem = s.mem) ∧
    (m ∉ s.peers → exec (.peerLost m ws) s = .next s) ∧
    (m ∈ s.peers → ∃ u : State, exec (.peerLost m ws) s = .next u ∧ m ∉ u.peers ∧ (∀ p, p ≠ m → (p ∈ u.peers ↔ p ∈ s.peers)) ∧
      (∀ r, r ∈ u.reduces ↔ r ∈ s.reduces ∧ r.num ∉ ws ∧ bits r.head 48 8 ≤ s.peers.length)) ∧
    (s.lup = true → exec .laneFailure s = .next { s with lup := false, lanes := 8 } ∧ exec .linkRestore s = .next s) ∧
    (s.lup = false → exec .laneFailure s = .next s ∧
      ∃ u : State, exec .linkRestore s = .next u ∧ u.lup = true ∧ u.lanes = (if s.lanes = 0 then 16 else s.lanes) ∧
        (∀ c ∈ u.held, (u.qps[c.q]).room = false)) ∧
    (isStored a = false ∨ unitBase a ∈ s.bad → exec (.uncorrectableError a) s = .next s) ∧
    (isStored a = true → unitBase a ∉ s.bad → ∃ u : State, exec (.uncorrectableError a) s = .next u ∧ unitBase a ∈ u.bad ∧
      ((∀ (q : Sq) (c : Cx), ∀ l ∈ (s.ctx q c).loads, l.value = none → l.pa + l.size ≤ unitBase a ∨ unitBase a + unitSize (unitBase a) ≤ l.pa) →
        u = { s with bad := s.bad ++ [unitBase a] })))

/-- 17 R358, R366, Table 17-6: a command's entry stands behind the entries of its queue; while the link is up and its ring has room it is posted with the
ring's phase bit, at the tail, which advances and turns the phase at its wrap; else it is held. 17 R361 to R363, R366: firmware takes the next command
of the round unless it examines one; a head that waits is examined again, and with the link up, and fewer than 4,096 incomplete, so is the entry at the
head of the submission ring, with the snapshot of its buffer; a malformed
entry is BAD_COMMAND, a snapshot whose CRC differs CRC, and each leaves its ring. A LOAD or an UPDATE IMAGE that finds no staging memory is NO_CAPACITY;
when it does is free (log 82). In BROWN an INVOKE stays at the head of its queue (16 R337). That a command whose buffer cannot be read is REFUSED with
the cause of the access is the model's choice (log 25). -/
def Obligations.CommandsAndCompletions : Prop :=
  (∀ (s : State) (c : Comp),
    let p := s.qps[c.q]
    let t := (p.ctail + 1) % 2 ^ p.cql
    let a := p.cqb.toNat + 32 * p.ctail
    (s.lup = false → s.complete c = { s with held := s.held ++ [c] }) ∧
    (s.lup = true → (∃ h ∈ s.held, h.q = c.q) → (∀ h ∈ s.held, (s.qps[h.q]).room = false) → s.complete c = { s with held := s.held ++ [c] }) ∧
    (s.lup = true → s.held = [] → p.room = false → s.complete c = { s with held := [c] }) ∧
    (s.lup = true → s.held = [] → p.room = true → ∃ u : State, s.complete c = u ∧ u.held = [] ∧
      u.qps = vset s.qps c.q { p with ctail := t, phase := if t = 0 then !p.phase else p.phase } ∧
      u.msix = (if p.ien then s.msix ++ [c.q.val + 1] else s.msix) ∧
      leNat (u.hostB a 8) = (c.w0 ||| (if p.phase then 0x8000000000000000 else 0)).toNat ∧ leNat (u.hostB (a + 8) 8) = c.ext.toNat ∧
      leNat (u.hostB (a + 16) 8) = c.val0.toNat ∧ leNat (u.hostB (a + 24) 8) = c.val1.toNat ∧
      (∀ e, e < a ∨ a + 32 ≤ e → mget 0 u.hostMem e = mget 0 s.hostMem e) ∧ u.mem = s.mem)) ∧
  (∀ (s : State) (q : Fin 16) (bs : List Byte) (c : Cmd) (k : Nat),
    let p := s.qps[q]
    let w : Vector Word 8 := Vector.ofFn (fun i => word (leNat (s.hostB (p.sqb.toNat + 64 * (p.sqh % 2 ^ p.sql) + 8 * i.val) 8)))
    let s' := { s with round := q.val + 1 }
    let new : Cmd := { q := q, w := w, buf := bs }
    let staged := bits w[0] 56 8 = 1 ∨ (bits w[0] 56 8 = 4 ∧ bits w[0] 48 8 = 0)
    (s.cur.isSome = true ∨ s.turn = none → exec .commandTake s = .next s) ∧
    (s.lup = false ∨ 4096 ≤ s.accepted → (∀ n : Fin 16, s.heads[n] = none) → exec .commandTake s = .next s) ∧
    (s.cur = none → s.turn = some q →
      (s.heads[q] = some c → exec .commandTake s = .next { s' with cur := some q }) ∧
      (s.heads[q] = none →
        (entryBad w = true → exec .commandTake s = .next (s'.reply { new with buf := [] } 4 0 0 0 0)) ∧
        (entryBad w = false → staged → Config.stagingRoom s.free = false →
          exec .commandTake s = .next (s'.bump.refuse { new with buf := [] } 0x12C)) ∧
        (entryBad w = false → (¬staged ∨ Config.stagingRoom s.free = true) →
          (s'.snapshot w = .ok bs → (w[2] = 0 ∨ crc32c bs = (w[6]).setWidth 32) →
            ∃ f : Nat, exec .commandTake s = .next { s'.snapTouch w with
              cur := if s.power = .brown ∧ bits w[0] 56 8 = 3 then none else some q, heads := vset s.heads q (some new), free := f }) ∧
          (s'.snapshot w = .ok bs → w[2] ≠ 0 → crc32c bs ≠ (w[6]).setWidth 32 → exec .commandTake s = .next ((s'.snapTouch w).reply { new with buf := [] } 3 0 0 0 0)) ∧
          (s'.snapshot w = .error (.cause k) → exec .commandTake s = .next (s'.refuse { new with buf := [] } k))))))

/-- 17 Table 17-3, R364, R371, R374, R375: what the QUERY commands reply, and that they change nothing else but the bytes they write; a NOTIFY is
registered and fires once local(SCOPE) has passed its time; a REDUCE is posted and combines with the contributions of the other members. Where the word
or the result cannot be written, nothing of the command has taken effect, and it is REFUSED with the cause (17 R366; log 25). While a patch is being
installed, or 4,096 commands are incomplete, a SIGNAL waits at the head of its queue (02 R52, 17 R358; log 96). -/
def Obligations.QueriesAndSignals : Prop :=
  ∀ (s : State) (c : Cmd) (pa k i : Nat) (n : Notify) (r : Reduce) (x : Checked) (os : List (Fin 8 × Word × Word × List Lane)) (u : State),
    let ident := 9 * 2 ^ 32 + 2 ^ 24 + s.patchLevel.toNat
    let h := word (leNat (c.buf.take 8))
    let h1 := word (leNat ((c.buf.drop 8).take 8))
    let all := (List.finRange 8).filterMap (fun m =>
      if m.val = s.modn.toNat then some r.elems else (os.find? (fun o => o.1 == m)).map (fun o => o.2.2.2))
    (s.exam 5 0 = some c →
      (c.w[4] = 0 ∨ (c.w[5]).toNat < 5389 → exec .queryIdent s = .next (s.reply c 0 0 5389 Config.idn (word ident))) ∧
      (c.w[4] ≠ 0 → 5389 ≤ (c.w[5]).toNat → exec .queryIdent s =
        .next (({ s with hostMem := memPut s.hostMem (c.w[4]).toNat certificate } : State).reply c 0 0 5389 Config.idn (word ident)))) ∧
    (s.exam 5 1 = some c → ∃ z : Word, exec .queryResidence s = .next (s.reply c 0 0 0 z 0) ∧
      z.getLsbD 0 = (s.residence c.res).isSome ∧ z.toNat = z.toNat % 2 + s.contextsOf c.res % 65536 * 2 ^ 32) ∧
    (s.exam 5 2 = some c → (s.invChecks c = .ok x → exec .queryBound s = .next (s.reply c 0 0 0 (word x.bound) 0)) ∧
      (s.invChecks c = .error k → exec .queryBound s = .next (s.refuse c k))) ∧
    (s.exam 5 3 = some c →
      let report := s.reportHead c.buf ++ bytesBy 3373 (Config.sign (s.reportHead c.buf))
      exec .queryAttest s = .next (({ s with hostMem := memPut s.hostMem (c.w[4]).toNat report } : State).reply c 0 0 0 0 0)) ∧
    (s.exam 6 0 = some c ∨ s.exam 6 1 = some c → s.admissionStopped = true → exec .signalNotify s = .next (if s.exam 6 0 = none then s else { s with cur := none }) ∧
      exec .signalReduce s = .next (if s.exam 6 1 = none then s else { s with cur := none })) ∧
    (s.exam 6 0 = some c → s.admissionStopped = false →
      (s.swapPlace (c.w[4]).toNat = .ok pa → exec .signalNotify s = .next { s.endExam c.q with
          notifies := s.notifies ++ [⟨c.q, c.tag, Fin.ofNat 8 (bits c.w[0] 36 3), c.w[3], c.w[4], c.w[5]⟩] }) ∧
      (s.swapPlace (c.w[4]).toNat = .error (.cause k) → exec .signalNotify s = .next (s.refuse c k))) ∧
    (s.notifies[i]? = some n →
      (s.localF[n.scope] ≤ n.time → exec (.notifyFire i) s = .next s) ∧
      (n.time < s.localF[n.scope] → s.swapPlace n.addr.toNat = .ok pa → ∃ t : State, exec (.notifyFire i) s = .next t ∧
        t.rdN pa 8 = n.value.toNat ∧ (∀ a, a < pa ∨ pa + 8 ≤ a → t.rd a = s.rd a) ∧ t.notifies = s.notifies.eraseIdx i) ∧
      (n.time < s.localF[n.scope] → s.swapPlace n.addr.toNat = .error (.cause k) → exec (.notifyFire i) s =
        .next (({ s with notifies := s.notifies.eraseIdx i } : State).complete (mkComp n.q n.tag 2 k 0 0 0 0)))) ∧
    (s.exam 6 1 = some c → s.admissionStopped = false →
      (headOk h h1 c.buf.length = true → exec .signalReduce s = .next { s.endExam c.q with
        reduces := s.reduces ++ [⟨c.q, c.tag, c.w[5], h, h1, lanesOf (c.buf.drop 16), c.w[4]⟩] }) ∧
      (headOk h h1 c.buf.length = false → exec .signalReduce s = .next (s.reply c 4 0 0 0 0))) ∧
    (s.reduces[i]? = some r → os ≠ [] → (os.map (fun o => o.1)).Nodup → (∀ o ∈ os, o.1 ∈ s.peers) →
      ((∃ o ∈ os, o.2.1 ≠ r.head ∨ o.2.2.1 ≠ r.head1) → exec (.reduceCombine i os) s =
        .next (({ s with reduces := s.reduces.eraseIdx i } : State).complete (mkComp r.q r.tag 4 0 0 0 0 0))) ∧
      ((∀ o ∈ os, o.2.1 = r.head ∧ o.2.2.1 = r.head1 ∧ o.2.2.2.length = r.elems.length) → os.length + 1 = bits r.head 48 8 →
        let left : State := { s with reduces := s.reduces.eraseIdx i }
        let sums := (reduceAll (bits r.head 56 8 == 1) all).flatMap (fun x => natLE 4 x.toNat)
        (left.hubWrite r.addr.toNat sums = .ok u → exec (.reduceCombine i os) s = .next (u.complete (mkComp r.q r.tag 0 0 0 0 0 0))) ∧
        (left.hubWrite r.addr.toNat sums = .error (.cause k) →
          exec (.reduceCombine i os) s = .next (left.complete (mkComp r.q r.tag 2 k 0 0 0 0)))))

/-- 13 R290, R293, R299 to R301, 15 R326: an INVOKE whose checks fail is refused with their cause; with priority 3 it is refused where a queue is full or
its deadline lies before now + backlog + B, and else waits for a place; accepted, firmware's token stands at its base and every square of its
rectangle has a place; it completes with its first task's cause once the frontier has passed TEND and the drops of the tasks to be reported have entered
the streams (11 R266), unless its residence is being unloaded with FORCE (13 R287). While an update or a patch waits for the accepted ones (17 R365, 02
R52), or 4,096 commands are incomplete (17 R358; log 96), and behind an UNLOAD with FORCE in another queue (log 28), it waits at the head of its queue. -/
def Obligations.InvocationsAreAdmitted : Prop :=
  ∀ (s : State) (c : Cmd) (k : Nat) (x : Checked) (ps : List (Sq × Nat)) (i : Inv),
    (s.exam 3 0 = some c → s.full = true ∨ s.invokeHeld c.res = true ∨ s.behindUnload c = true → exec .invoke s = .next { s with cur := none }) ∧
    (s.exam 3 0 = some c → s.full = false → s.invokeHeld c.res = false → s.behindUnload c = false →
      (s.invChecks c = .error k → exec .invoke s = .next (s.refuse c k)) ∧
      (s.invChecks c = .ok x →
        (s.reserve x.rec_.rect = none → x.rec_.pri = 3 → exec .invoke s = .next (s.refuse c 0x124)) ∧
        (s.reserve x.rec_.rect = none → x.rec_.pri ≠ 3 → exec .invoke s = .next { s with cur := none }) ∧
        (s.reserve x.rec_.rect = some ps → x.rec_.pri = 3 → (c.w[3]).toNat < s.now + s.backlog x.rec_.rect + x.bound →
          exec .invoke s = .next (s.refuse c 0x127)) ∧
        (s.reserve x.rec_.rect = some ps → (x.rec_.pri = 3 → s.now + s.backlog x.rec_.rect + x.bound ≤ (c.w[3]).toNat) →
          ∃ u : State, exec .invoke s = .next u ∧ u.nextInv = s.nextInv + 1 ∧ u.cur = none ∧
            mget 0 u.root (rootKey x.rec_.scope x.rec_.tbase) = mget 0 s.root (rootKey x.rec_.scope x.rec_.tbase) + 1 ∧
            ∃ j ∈ u.invs, j.id = s.nextInv ∧ j.words = x.rec_ ∧ j.res = c.res ∧ j.token = true ∧ j.bound = x.bound ∧ j.accepted = s.now ∧
              j.waiting = ps.map (fun p => p.1)))) ∧
    (s.invs.find? (fun j => j.id == k) = some i →
      (i.token = true ∨ i.unposted ≠ [] ∨ i.waiting ≠ [] ∨ s.localF[i.words.scope] ≤ i.words.tend ∨ s.unloading i.res = true ∨ s.endsReported i = false →
        exec (.invokeCompletion k) s = .next s) ∧
      (i.token = false → i.unposted = [] → i.waiting = [] → i.words.tend < s.localF[i.words.scope] → s.unloading i.res = false → s.endsReported i = true →
        ∃ t : State, exec (.invokeCompletion k) s = .next (t.complete (mkComp i.q i.tag 0 i.cause i.ended.length
            (word (s.extension i.accepted)) (word (Nat.min i.lost (2 ^ 64 - 1))) 0)) ∧
          t.invs = s.invs.filter (fun j => j.id ≠ k) ∧ t.held = s.held ∧ (∀ g ∈ t.regionList, g.owner ≠ .inv k) ∧ t.root = s.root))

/-- 03 R71, R72, 11 R255, 12 R272: the checks of LOAD in their order, each with its cause, and its acceptance, which installs its edges;
LOAD_INSTALL_COMPLETE makes the residence PRESENT with its sections and regions, and completes the command. 13 R287, 17 R361 to R367: UNLOAD of an
absent residence is refused, and without FORCE so is one of a residence in use; else the residence is ABSENT. With FORCE the live contexts of the
residence end with CODE_GONE. The model's choices among these: UNLOAD with FORCE waits at the head of its queue until the contexts are free, and the
commands of other queues that name the residence wait behind it, and an invocation that bound no tile is refused with CODE_GONE (log 28); a LOAD waits
while a patch is being installed or 4,096 commands are incomplete (log 96); the digest of an image is that of its LOAD buffer (log 8); the entry of .residence
is an offset in .text, and power-safe is a size of 1 (log 26); an installation whose MRAM cannot be written is refused with the cause (log 94). -/
def Obligations.Residences : Prop :=
  (∀ (s : State) (c : Cmd) (p : Placement) (m : Image0) (rs : List MRange) (secs : List ISec) (gs : List Region) (i : Nat) (q : Fin 16) (tag : BitVec 32)
    (r : Residence) (maps : List Mapping),
    let placed := List.zip m.secs p.vas
    let edges := edgesOf (schedOf m.secs)
    let nums := m.rangeNums []
    let fits := s.edgesFit edges = true ∧ s.pinsFit (secMaps c.res placed p.frames) = true ∧
      s.regionsFit (regionPlaces m (schedOf (m.staged p.vas nums)) c.res) = true
    let bare : State := { s with installs := s.installs.eraseIdx i }
    (s.exam 1 0 = some c → s.admissionStopped = true ∨ s.behindUnload c = true → ∀ o, exec (.load o) s = .next { s with cur := none }) ∧
    (s.exam 1 0 = some c → s.admissionStopped = false → s.behindUnload c = false →
      (s.imageSigned c.buf = false → ∀ o, exec (.load o) s = .next (s.refuse c 0x128)) ∧
      (s.imageSigned c.buf = true →
        (parseImage c.buf = none → ∀ o, exec (.load o) s = .next (s.refuse c 0x129)) ∧
        (parseImage c.buf = some m →
          (m.ok true = false → ∀ o, exec (.load o) s = .next (s.refuse c 0x129)) ∧
          (m.ok true = true → s.taken c.res = true → ∀ o, exec (.load o) s = .next (s.refuse c 0x12B)) ∧
          (m.ok true = true → s.taken c.res = false → exec (.load none) s = .next (s.refuse c 0x12C) ∧
            (p.vas.length = m.secs.length → s.placementFits placed p.frames (fun _ => false) = true →
              placeRanges m nums placed (secMaps c.res placed p.frames) = some rs →
              (¬fits → exec (.load (some p)) s = .next (s.refuse c 0x12C)) ∧
              (fits → m.relocate p.vas nums = none → exec (.load (some p)) s = .next (s.refuse c 0x12A)) ∧
              (fits → m.relocate p.vas nums = some secs →
                let sched := schedOf secs
                (s.imageRegions m sched c.res = none → exec (.load (some p)) s = .next (s.refuse c 0x12A)) ∧
                (s.imageRegions m sched c.res = some gs →
                 ∀ y : Residence, y.num = c.res → y.sched = sched → y.secs = secsOf secs p.vas (shadowsOf p m.secs) → y.ranges = rs → y.edges = edges →
                  y.digest = digest c.buf → y.formats = (m.records 0xFFF1).filterMap formatOf →
                  y.entry = word ((((secsOf secs p.vas (shadowsOf p m.secs)).find? (fun x => x.kind == 0)).map (fun x => x.va)).getD 0 +
                    ((m.records 0xFFF2).headD { sec := 0, value := 0, size := 0 }).value) →
                  y.psafe = (((m.records 0xFFF2).headD { sec := 0, value := 0, size := 0 }).size == 1) →
                  (s.boundsFit y = false → exec (.load (some p)) s = .next (s.refuse c 0x12C)) ∧
                  (s.boundsFit y = true → exec (.load (some p)) s =
                    .next (({ s.endExam c.q with installs := s.installs ++ [.load c.q c.tag y (secMaps c.res placed p.frames) gs] } : State).addEdges
                      edges))))))))) ∧
    (s.installs[i]? = some (.load q tag r maps gs) → s.journalsFree (Install.frames (.load q tag r maps gs)) = true →
      (∀ g ∈ gs, ∀ h ∈ s.regionList, g.meets h = false) →
      s.regionList.length + gs.length ≤ 1024 → ∀ v : State,
      (bare.program r.secs maps = (none, v) →
        ∃ t : State, exec (.loadInstallComplete i) s = .next (t.complete (mkComp q tag 0 0 0 0 0 0)) ∧ t.residence r.num = some r ∧
          t.installs = s.installs.eraseIdx i ∧ (∀ g ∈ gs, g ∈ t.regionList) ∧ (∀ n : Sq, ∀ k : Fin 16, (t.sq n).icache[k] = []) ∧ t.held = s.held) ∧
      (∀ k, bare.program r.secs maps = (some k, v) →
        exec (.loadInstallComplete i) s = .next ((v.dropEdges r.edges).complete (mkComp q tag 2 k 0 0 0 0)) ∧ v.residences = s.residences))) ∧
  (∀ (s : State) (c : Cmd) (r : Residence),
    s.exam 2 0 = some c →
    (s.behindUnload c = true → exec .unload s = .next { s with cur := none }) ∧
    (s.behindUnload c = false → s.residence c.res = none → exec .unload s = .next (s.refuse c 0x120)) ∧
    (s.behindUnload c = false → s.residence c.res = some r → r.num = c.res →
      ((c.w[0]).getLsbD 39 = false →
        (s.referenced c.res = true → exec .unload s = .next (s.refuse c 0x12E)) ∧
        (s.referenced c.res = false →
          ∃ t : State, exec .unload s = .next (t.reply c 0 0 0 0 0) ∧ t.residence c.res = none ∧ (∀ g ∈ t.regionList, g.owner ≠ .res c.res) ∧
            (∀ m ∈ t.maps, m ∉ s.mapsOf r.secs))) ∧
      ((c.w[0]).getLsbD 39 = true → s.contextsOf c.res = 0 → (∀ j ∈ s.invs, j.res ≠ c.res) →
        ∃ t : State, exec .unload s = .next (t.reply c 0 0 0 0 0) ∧ t.residence c.res = none ∧ (∀ m ∈ t.maps, m ∉ s.mapsOf r.secs) ∧
          ∀ q : Sq, ∀ e ∈ (t.sq q).launchQ, e.words.res ≠ c.res) ∧
      ((c.w[0]).getLsbD 39 = true → s.contextsOf c.res = 0 → (∀ q : Sq, ∀ e ∈ (s.sq q).launchQ, e.words.res ≠ c.res) →
        ((∀ j ∈ s.invs, j.res = c.res → s.endsReported j = true ∧ j.halt.waiting = []) →
          ∃ t : State, exec .unload s = .next (t.reply c 0 0 0 0 0) ∧ t.residence c.res = none ∧ (∀ j ∈ t.invs, j.res ≠ c.res) ∧
            (s.lup = false → ∀ j ∈ s.invs, j.res = c.res → s.goneEntry j ∈ t.held)) ∧
        ((∃ j ∈ s.invs, j.res = c.res ∧ (s.endsReported j = false ∨ j.halt.waiting ≠ [])) →
          ∃ u : State, exec .unload s = .next u ∧ u.cur = none ∧ u.residence c.res = some r ∧ u.heads = s.heads ∧ u.root = s.root)) ∧
      (∀ j : Inv, j.ended = [] → j.begun = false → s.goneEntry j = mkComp j.q j.tag 2 0x12D 0 0 0 0) ∧
      (∀ j : Inv, j.ended ≠ [] ∨ j.begun = true →
        s.goneEntry j = mkComp j.q j.tag 0 j.cause j.ended.length (word (s.extension j.accepted)) (word (Nat.min j.lost (2 ^ 64 - 1))) 0) ∧
      ((c.w[0]).getLsbD 39 = true → ∀ (q : Sq) (k : Fin 8), (s.ctx q (tileCx k)).st ≠ .free → (s.ctx q (tileCx k)).res = c.res →
        (s.ctx q (tileCx k)).endCause = none → s.committing q (tileCx k) = false →
        ∃ u : State, exec .unload s = .next u ∧ (u.ctx q (tileCx k)).st = .ending ∧ (u.ctx q (tileCx k)).endCause = some 0x12D ∧
          u.residence c.res = some r ∧ u.cur = none ∧ u.heads = s.heads ∧ c.q ∈ u.unloads)))

/-- 17 R365, R372, R387, 02 R52, R54: the commands of UPDATE: IMAGE and PATCH are checked, wait, and commit in one step, the updates of a residence in
their order and a patch after every other command; MAP checks every record before a leaf changes; a patch that commits stands in the idle slot of the
store, and raises PATCH and every context's FVR. The model's choices among these: the layout of a patch's header, with its generation, its stepping, its
level, its length and the place of its signatures (log 29); which commands wait while admission has stopped (log 96) and behind an UNLOAD (log 28); an
update whose MRAM cannot be written leaves the old residence in force (log 94). -/
def Obligations.UpdatesCommit : Prop :=
  ∀ (s : State) (c : Cmd) (m : Image0) (r : Residence) (p : Placement) (secs : List ISec) (rs : List MRange) (q : Fin 16) (tag : BitVec 32)
    (lvl : BitVec 16) (body : List Byte) (i num : Nat) (new : List Sec) (rg : List MRange) (maps : List Mapping),
    let vas := updateVas (s.merged r).secs m.secs p.vas
    let nums := m.rangeNums (s.merged r).ranges
    let placed := List.zip m.secs vas
    let olds := r.secs ++ (s.updatesOf c.res).flatMap Install.secs
    let own := fun (k : Mapping) => (s.mapsOf r.secs ++ (s.updatesOf c.res).flatMap Install.maps).contains k &&
      placed.any (fun e => olds.any (fun y => y.kind == e.1.kind && y.va == e.2 && y.owns k))
    let n := 16 + le c.buf 8 8
    let recs := mapRecs c.buf
    let pages := recs.flatMap (fun e => e.pages.map (fun va => (e, va)))
    let need := pages.filter (fun e => s.needsFrame e.1 e.2)
    (s.exam 4 0 = some c → s.admissionStopped = true ∨ s.behindUnload c = true → ∀ o, exec (.updateImage o) s = .next { s with cur := none }) ∧
    (s.exam 4 0 = some c → s.admissionStopped = false → s.behindUnload c = false →
      (s.imageSigned c.buf = false → ∀ o, exec (.updateImage o) s = .next (s.refuse c 0x128)) ∧
      (s.imageSigned c.buf = true → parseImage c.buf = some m → m.ok false = true → s.residence c.res = some r →
        (m.code = true → s.referenced c.res = true → ∀ o, exec (.updateImage o) s = .next (s.refuse c 0x12E)) ∧
        (m.code = false ∨ s.referenced c.res = false → exec (.updateImage none) s = .next (s.refuse c 0x12C) ∧
          (s.placementFits placed p.frames own = true → placeRanges m nums placed (secMaps c.res placed p.frames) = some rs →
            (s.pinsFit (secMaps c.res placed p.frames) = false → exec (.updateImage (some p)) s = .next (s.refuse c 0x12C)) ∧
            (s.pinsFit (secMaps c.res placed p.frames) = true → m.relocate vas nums = none → exec (.updateImage (some p)) s = .next (s.refuse c 0x12A)) ∧
            (s.pinsFit (secMaps c.res placed p.frames) = true → m.relocate vas nums = some secs →
              let fresh := secsOf secs vas (shadowsOf p m.secs)
              let y := (s.merged r).merge fresh rs
              y.secs = (s.merged r).secs.filter (fun o => !fresh.any (fun x => x.kind == o.kind)) ++ fresh ∧
              (∀ g ∈ (s.merged r).ranges, (∀ x ∈ fresh, x.kind ≠ g.kind) → g ∈ y.ranges) ∧
              (s.boundsFit y = false → exec (.updateImage (some p)) s = .next (s.refuse c 0x12C)) ∧
              (s.boundsFit y = true → exec (.updateImage (some p)) s =
                .next { s.endExam c.q with installs := s.installs ++ [.image c.q c.tag c.res fresh rs (secMaps c.res placed p.frames)] })))))) ∧
    (s.exam 4 2 = some c → s.admissionStopped = true → exec .updatePatch s = .next { s with cur := none }) ∧
    (s.exam 4 2 = some c → s.admissionStopped = false → n + 3373 ≤ c.buf.length →
      let good := Config.signatureOk false Config.patchKey (c.buf.take n) ((c.buf.drop n).take 64) = true ∧
        Config.signatureOk true Config.patchKey (c.buf.take n) ((c.buf.drop (n + 64)).take 3309) = true
      (¬good → exec .updatePatch s = .next (s.refuse c 0x128)) ∧
      (good → le c.buf 0 2 = 9 → le c.buf 2 1 = 1 →
        (le c.buf 4 2 ≤ s.patchLevel.toNat ∨ le c.buf 4 2 ≤ s.patchFloor.toNat → exec .updatePatch s = .next (s.refuse c 0x129)) ∧
        (s.patchLevel.toNat < le c.buf 4 2 → s.patchFloor.toNat < le c.buf 4 2 → exec .updatePatch s =
          .next { s.endExam c.q with installs := s.installs ++ [.patch c.q c.tag (BitVec.ofNat 16 (le c.buf 4 2)) c.buf] }))) ∧
    (s.installs[i]? = some (.image q tag num new rg maps) → s.residence num = some r → r.num = num →
      ((s.updatesOf num).head? ≠ s.installs[i]? ∨ (∃ j ∈ s.invs, j.res = num) ∨ s.unloading num = true → exec (.updateInstallComplete i) s = .next s) ∧
      ((s.updatesOf num).head? = s.installs[i]? → (∀ j ∈ s.invs, j.res ≠ num) → s.unloading num = false →
        s.journalsFree (Install.frames (.image q tag num new rg maps)) = true → ∀ v : State,
        let bare : State := { s with installs := s.installs.eraseIdx i }
        (bare.program new maps = (none, v) →
          ∃ u : State, exec (.updateInstallComplete i) s = .next (u.complete (mkComp q tag 0 0 0 0 0 0)) ∧ u.residence num = some (r.merge new rg) ∧
            u.installs = s.installs.eraseIdx i ∧
            ∀ (z : Sq) (k : Fin 16), (u.sq z).icache[k] = [] ∧ ∀ g, (u.sq z).arr.tags[k] = some g → g.res ≠ num) ∧
        (∀ k, bare.program new maps = (some k, v) →
          exec (.updateInstallComplete i) s = .next (v.complete (mkComp q tag 2 k 0 0 0 0)) ∧ v.residences = s.residences))) ∧
    (s.installs[i]? = some (.patch q tag lvl body) →
      (1 < s.installs.length ∨ s.invs ≠ [] ∨ s.notifies ≠ [] ∨ s.reduces ≠ [] → exec (.updateInstallComplete i) s = .next s) ∧
      (s.installs.length = 1 → s.invs = [] → s.notifies = [] → s.reduces = [] →
        ∃ u : State, exec (.updateInstallComplete i) s = .next (u.complete (mkComp q tag 0 0 0 0 0 0)) ∧ u.patchLevel = lvl ∧
          u.patchFloor = lvl ∧ u.installs = [] ∧ u.patchSlot = !s.patchSlot ∧ u.patchStore[if u.patchSlot then (1 : Fin 2) else 0] = body ∧
          ∀ (z : Sq) (k : Cx), u.ctx z k = { s.ctx z k with fvrSeq := (s.ctx z k).fvrSeq + 1 })) ∧
    (s.exam 4 1 = some c →
      ((∃ e ∈ recs, s.mapBad e = true) → ∀ o, exec (.updateMap o) s = .next (s.refuse c 0x132)) ∧
      ((∀ e ∈ recs, s.mapBad e = false) → recs.Pairwise (fun a b => a.meets b.base b.size = false) →
        (∀ z : Tier, z = .hbm ∨ z = .lpddr → s.pinRoom z ((pages.filter (fun e => e.1.tier ≠ 3 && e.1.w2.testBit 3 && e.1.toTier == z &&
          !((s.mapAt e.2).map (fun m => m.p && tierOf m.frame == z)).getD false)).map (fun e => pageSize e.1.big)).sum = true) →
        p.frames.length = need.length → (List.zip p.frames need).Pairwise (fun a b => a.1 + pageSize a.2.1.big ≤ b.1 ∨ b.1 + pageSize b.2.1.big ≤ a.1) →
        (∀ e ∈ List.zip p.frames need, s.frameSuits e.1 e.2.1.big e.2.1.toTier = true) →
        (∀ k ∈ s.maps, ∀ a w b, s.walk k.va = .ok (a, w, b) → bit w 60 = false) →
        ∃ u : State, exec (.updateMap (some p)) s = .next (u.reply c 0 0 0 0 0) ∧
          (∀ e ∈ pages, e.1.tier = 3 → ∀ k ∈ u.maps, k.va ≠ e.2) ∧
          (∀ e ∈ pages, e.1.tier ≠ 3 → ∃ k ∈ u.maps, k.va = e.2 ∧ k.big = e.1.big ∧ k.own = fld e.1.w2 8 8 ∧
            k.x = e.1.w2.testBit 6 ∧ k.w = e.1.w2.testBit 5 ∧ k.r = e.1.w2.testBit 4 ∧ k.p = e.1.w2.testBit 3 ∧ k.lost = false)))

/-- 00 R7 with Tables 2-5, 5-3, 5-7, 6-3, 6-4, 7-7, 7-8, 11-6, 14-4, 15-2, 15-3, 15-5, 15-6, 16-7, 17-1, 11 R263, 16 R345: what reset leaves, where the
spec gives a value. -/
def Obligations.ResetValues : Prop :=
  let s := State.reset
  (∀ q : Sq, (s.sq q).power = .doze ∧ (s.sq q).fcred = 0 ∧ (s.sq q).tsel = 0 ∧ (s.sq q).ctxr = 0 ∧ (s.sq q).drcnt = 0 ∧ (s.sq q).drth = 0x10019 ∧
    (∀ c : Cx, let x := s.ctx q c
      x.epc0 = 0 ∧ x.epc1 = 0 ∧ x.epc2 = 0 ∧ x.enul = 0 ∧ x.cause = 0 ∧ x.badw = 0 ∧ x.bprov = 0 ∧ x.bflt = 0 ∧ x.thnd = 0 ∧ x.fill = 0 ∧
        x.fwdt = 100000 ∧ x.tidx = 0 ∧ x.fvrSeq = 0 ∧ x.p[(0 : Fin 8)] = true) ∧
    (∀ v : Vc, (s.core q v).vrm = 0 ∧ (s.core q v).claim = none)) ∧
  s.ptbr = 0 ∧ s.patchLevel = 0 ∧ (∀ n : Fin 8, s.localF[n] = 0xFFFFFFFFFFFFFFFF ∧ s.frontier n = 0xFFFFFFFFFFFFFFFF) ∧ s.mchk = false ∧ s.winBase = 0 ∧
  s.wflt = ⟨false, false, false, 0, 0⟩ ∧ (∀ n : Fin 16, s.qps[n].en = false ∧ s.qps[n].ien = false ∧ s.qps[n].sqt = 0 ∧ s.qps[n].cqh = 0) ∧ s.modn = 0xFF

/-- 02 R28 to R33, Tables 2-1 to 2-3: words of the spec's encodings, each with the instruction it stands for. -/
def Obligations.WordsDecode : Prop :=
  decode 0x00611040 = .ok (.add 3 1 2) ∧ decode 0x0484FFFF = .ok (.addi 4 4 0xFFFF) ∧ decode 0x14400000 = .ok (.movi 2 0) ∧
    decode 0x04000000 = .ok (.addi 0 0 0) ∧ decode 0xD0A00103 = .ok (.mfs 5 0x103) ∧ decode 0xC9400000 = .ok (.rdtime 10)

/-- 02 R37, 05 R101, R106, 06 R130, R139, 13 R298: a step runs the decoded instruction: when the ACTIVE context of a running square, or F in its share, is
due to issue, stands outside every wait, its q0 is not nullified, and the bytes fetched at q0 decode to i, the step is exec i after the fetch and the
count of the issue, which a form that check 4 refuses does not make; before and after, only the moment since which a square is idle may move. An event
that the state allows is exec of it. -/
def Obligations.StepRunsTheDecodedInstruction : Prop :=
  ∀ (s t u : State) (o : Occ) (q : Sq) (c : Fin 8) (n : Nat) (bs rest : List Byte) (i : Instr),
    let p := (t.passTime o).noteIdle o.what
    let after := fun (r : Out) => match r with
      | .next v => Host.Outcome.next (v.noteIdle o.what)
      | .fault f => .fault f
      | .refused e => .refused e
    let ready := fun (m : State) =>
      (m.me.records = [] ∨ (m.isF = false ∧ m.me.inh = true)) ∧ m.me.q0.nul = false ∧ m.exceeds 1 m.me.instrs = false ∧
      m.fetch m.fsq m.fcx m.me.q0.pc.toNat = .word bs u ∧ decodeBytes bs = some (.ok i, rest) ∧
      (formDenied u.isF i = false → (isBoundary i = true → u.exceeds 2 u.me.bounds = false) ∧ u.me.hazard i = false ∧ u.heldBack i = false)
    let runs := step s = after (exec i (if formDenied u.isF i = true then u else u.countIssue))
    s.nextOcc = (o, t) →
    (o.what = .issue q → p.coreRuns q = true → (p.sq q).service = none → (p.ctx q 8).waits = false →
      ((p.sq q).active = some c → (p.ctx q (tileCx c)).waits = false → ready (p.focus q (tileCx c)) → runs) ∧
      ((p.sq q).active = none → (p.sq q).choose = some c → ready ((p.activate q c).focus q (tileCx c)) → runs)) ∧
    (o.what = .issueF q → p.coreRuns q = true → (p.ctx q 8).waits = false → ready (p.focus q 8) →
      ((p.sq q).service = none → (p.sq q).active = none → (∀ k : Fin 8, (p.sq q).runnable k = false) → runs) ∧
      ((p.sq q).service = none → (p.sq q).fburst ≠ 0 → (p.sq q).fcred ≠ 0 → runs) ∧
      ((p.sq q).service = some (c, n) → n < 16 → runs)) ∧
    (o.what = .event i → p.allows (scene i) = true → p.admits i = true → step s = after (exec i p)) ∧
    (o.what = .event i → p.allows (scene i) = false → step s = .next (p.noteIdle o.what))

/-- 02 R28 to R37: the word of every well-formed instruction that has one decodes to that instruction, with every operand at every value; and a word that
decodes is the word of a well-formed instruction. -/
def Obligations.DecodingInvertsEncoding : Prop :=
  (∀ (i : Instr) (w : BitVec 32), i.wf = true → encode i = some w → decode w = .ok i) ∧
  (∀ (i : Instr) (w : BitVec 32), decode w = .ok i → i.wf = true ∧ encode i = some w)

/-- 05 R105, R107 to R113, 11 R252, R260, 16 R348: the frame of the register instructions, TM.MFT, TM.FRONT, RDTIME and RDCYC among them: when one completes, every scalar register but its destination, every predicate, time
and special register of its context, every other context, the square's stores and queues and every byte of memory are as before. -/
def Obligations.FrameOfRegisterInstructions : Prop :=
  ∀ (s t : State) (d a b : Reg) (h : Fin 64) (k : Fin 4) (i : BitVec 16) (p : Pr) (n : Fin 8) (e : Tm),
    ∀ w ∈ ([.add d a b, .sub d a b, .and d a b, .or d a b, .xor d a b, .andn d a b, .shl d a b, .shr d a b, .sra d a b, .ror d a b] ++
      [.shli d a h, .shri d a h, .srai d a h, .rori d a h, .mul d a b, .mulh d a b, .mulhu d a b, .div d a b, .divu d a b, .rem d a b] ++
      [.remu d a b, .min d a b, .max d a b, .minu d a b, .maxu d a b, .slt d a b, .sltu d a b, .sext d a h, .clz d a, .popc d a] ++
      [.adds d a b, .addi d a i, .andi d a i, .ori d a i, .xori d a i, .movi d i, .movhi d k i, .slti d a i, .sel d a b p] ++
      [.ptos d p, .tmMft d e, .tmFront d n, .rdtime d, .rdcyc d] : List Instr),
    exec w s = .next t →
      (∀ r : Reg, r ≠ d → t.rs r = s.rs r) ∧ (d = 0 → ∀ r : Reg, t.rs r = s.rs r) ∧ t.me.p = s.me.p ∧ t.me.tm = s.me.tm ∧ t.me.rl = s.me.rl ∧
      t.me = { s.me with s := t.me.s, q0 := s.me.q1, q1 := s.me.q2, q2 := ⟨s.me.q2.pc + 4, false⟩, blocked := none } ∧
      t = s.setSq s.fsq { s.sq s.fsq with ctxs := (t.sq s.fsq).ctxs } ∧ (∀ c : Cx, c ≠ s.fcx → t.ctx s.fsq c = s.ctx s.fsq c) ∧
      (∀ x, t.rd x = s.rd x)

/-- The invariant holds at reset: memory, which lists nothing, is canonical (the model's own form, log 3), and PTBR is 0 (14 R304, Table 14-4). -/
def Obligations.InvariantAtReset : Prop := State.reset.Inv

/-- Every step keeps the invariant: memory stays in the model's canonical form, so that equal memories are equal data, and the reserved bits of PTBR, all
but [47:12], stay zero (14 R304, Table 14-4, 05 Table 5-5). -/
def Obligations.StepsKeepTheInvariant : Prop :=
  ∀ s t : State, s.Inv → step s = .next t → t.Inv

/-- 02 R36, 14 R304, Table 14-4, 00 R7: of all instructions and events, only an MTS of PTBR by context F changes the root of the page tables, and a cold
start, which gives it its reset value 0: the event itself, a resumption without a valid image of the hub, and MRESET, the event or the host's write of
MRESET.GO (16 R345, 17 R368). That a cold start resets PTBR, which firmware then sets, is log 11. -/
def Obligations.OnlyFirmwareMovesTheRoot : Prop :=
  ∀ (i : Instr) (s t : State), exec i s = .next t → t.ptbr ≠ s.ptbr →
    (s.fcx = 8 ∧ ∃ a : Reg, i = .mts a 0x301 ∧ bits t.ptbr 12 36 = bits (s.rs a) 12 36) ∨
    (t.ptbr = 0 ∧ (i = .coldStart ∨ (i = .resumption ∧ s.hubValid = false) ∨ i = .mresetGo ∨
      ∃ w : Word, w.getLsbD 0 = true ∧ i = .hostRegisterWrite 0x8 w))
end

