-- ==== Sys2Proof/Laws/Memory.lean ====
section
/-! SUPPORT. Memory: every operation keeps the canonical form, a read after a write to the same place gives the value, and a write leaves every other
place alone. -/

namespace Sys2Proof.Machine

/-! ## Association lists -/

section Lists

variable {α : Type}

theorem mget_filter_keep (d : α) (p : Nat × α → Bool) (a : Nat) : ∀ l : List (Nat × α), (∀ e ∈ l, e.1 = a → p e = true) →
    mget d (l.filter p) a = mget d l a
  | [], _ => rfl
  | (k, v) :: t, h => by
    have ih := mget_filter_keep d p a t (fun e he => h e (List.mem_cons_of_mem _ he))
    by_cases hk : k = a
    · have hp := h (k, v) (by simp) hk
      subst hk; simp [hp, mget]
    · cases hp : p (k, v) <;> simp [hp, mget, hk, ih]

theorem mget_filter_drop (d : α) (p : Nat × α → Bool) (a : Nat) : ∀ l : List (Nat × α), (∀ e ∈ l, e.1 = a → p e = false) →
    mget d (l.filter p) a = d
  | [], _ => rfl
  | (k, v) :: t, h => by
    have ih := mget_filter_drop d p a t (fun e he => h e (List.mem_cons_of_mem _ he))
    cases hp : p (k, v)
    · simp [hp, ih]
    · have hk : k ≠ a := fun e => by simp [h (k, v) (by simp) e] at hp
      simp [hp, mget, hk, ih]

theorem mget_mins_same (d v : α) (a : Nat) : ∀ l : List (Nat × α), (∀ e ∈ l, e.1 ≠ a) → mget d (mins a v l) a = v
  | [], _ => by simp [mins, mget]
  | (k, w) :: t, h => by
    have hk : k ≠ a := h (k, w) (by simp)
    simp only [mins]
    split
    · simp [mget]
    · simp [mget, hk, mget_mins_same d v a t (fun e he => h e (List.mem_cons_of_mem _ he))]

theorem mget_mins_ne (d v : α) (a b : Nat) (hb : b ≠ a) : ∀ l : List (Nat × α), mget d (mins a v l) b = mget d l b
  | [] => by simp [mins, mget, Ne.symm hb]
  | (k, w) :: t => by
    simp only [mins]
    split
    · simp [mget, Ne.symm hb]
    · simp only [mget, mget_mins_ne d v a b hb t]

/-- Reading the key just written. -/
@[simp] theorem mget_mput_same [DecidableEq α] (d v : α) (l : List (Nat × α)) (a : Nat) : mget d (mput d l a v) a = v := by
  simp only [mput]
  split
  · next h => rw [h]; exact mget_filter_drop d _ a l (by simp)
  · exact mget_mins_same d v a _ (by simp)

/-- Reading another key. -/
theorem mget_mput_ne [DecidableEq α] (d v : α) (l : List (Nat × α)) (a b : Nat) (h : b ≠ a) : mget d (mput d l a v) b = mget d l b := by
  have hf : mget d (l.filter (fun e => e.1 ≠ a)) b = mget d l b :=
    mget_filter_keep d _ b l (fun e _ he => by simp [he, h])
  simp only [mput]
  split
  · exact hf
  · rw [mget_mins_ne d v a b h, hf]

theorem mget_mclear (d : α) (l : List (Nat × α)) (a n b : Nat) :
    mget d (mclear l a n) b = if a ≤ b ∧ b < a + n then d else mget d l b := by
  unfold mclear
  split
  · next h => exact mget_filter_drop d _ b l (fun e _ he => by simp [he, h])
  · next h => exact mget_filter_keep d _ b l (fun e _ he => by simp only [he]; simp; omega)

theorem mrising_filter (p : Nat × α → Bool) : ∀ l : List (Nat × α), mrising l = true → mrising (l.filter p) = true
  | [], _ => rfl
  | (k, v) :: t, h => by
    simp only [mrising, Bool.and_eq_true] at h
    have ih := mrising_filter p t h.2
    cases hp : p (k, v)
    · simpa [List.filter_cons, hp] using ih
    · simp only [List.filter_cons, hp, if_true, mrising, Bool.and_eq_true, List.all_eq_true]
      exact ⟨fun e he => List.all_eq_true.1 h.1 e (List.mem_of_mem_filter he), ih⟩

theorem mem_mins (a : Nat) (v : α) (e : Nat × α) : ∀ l : List (Nat × α), e ∈ mins a v l ↔ e = (a, v) ∨ e ∈ l
  | [] => by simp [mins]
  | (k, w) :: t => by
    simp only [mins]
    split
    · simp
    · simp only [List.mem_cons, mem_mins a v e t]; tauto

theorem mrising_mins (a : Nat) (v : α) : ∀ l : List (Nat × α), mrising l = true → (∀ e ∈ l, e.1 ≠ a) → mrising (mins a v l) = true
  | [], _, _ => by simp [mins, mrising]
  | (k, w) :: t, h, hn => by
    have hk : k ≠ a := hn (k, w) (by simp)
    have h' := h
    simp only [mrising, Bool.and_eq_true, List.all_eq_true, decide_eq_true_eq] at h'
    simp only [mins]
    split
    · next hlt =>
      simp only [mrising, Bool.and_eq_true, List.all_eq_true, decide_eq_true_eq, List.mem_cons]
      exact ⟨fun e he => by rcases he with rfl | he; exact hlt; exact Nat.lt_trans hlt (h'.1 e he), h'.1, h'.2⟩
    · next hge =>
      simp only [mrising, Bool.and_eq_true, List.all_eq_true, decide_eq_true_eq, mem_mins]
      refine ⟨fun e he => ?_, mrising_mins a v t h'.2 (fun e he => hn e (List.mem_cons_of_mem _ he))⟩
      rcases he with rfl | he
      · exact Nat.lt_of_le_of_ne (Nat.not_lt.1 hge) hk
      · exact h'.1 e he

theorem mwf_filter [DecidableEq α] (d : α) (p : Nat × α → Bool) (l : List (Nat × α)) (h : mwf d l = true) : mwf d (l.filter p) = true := by
  simp only [mwf, Bool.and_eq_true, List.all_eq_true] at h ⊢
  exact ⟨mrising_filter p l h.1, fun e he => h.2 e (List.mem_of_mem_filter he)⟩

/-- A write keeps the canonical form. -/
theorem mwf_mput [DecidableEq α] (d v : α) (l : List (Nat × α)) (a : Nat) (h : mwf d l = true) : mwf d (mput d l a v) = true := by
  have hf := mwf_filter d (fun e => e.1 ≠ a) l h
  simp only [mput]
  split
  · exact hf
  · next hv =>
    simp only [mwf, Bool.and_eq_true, List.all_eq_true, decide_eq_true_eq] at hf ⊢
    refine ⟨mrising_mins a v _ hf.1 (by simp), fun e he => ?_⟩
    rcases (mem_mins a v e _).1 he with rfl | he
    · exact hv
    · exact hf.2 e he

theorem mwf_mclear [DecidableEq α] (d : α) (l : List (Nat × α)) (a n : Nat) (h : mwf d l = true) : mwf d (mclear l a n) = true :=
  mwf_filter d _ l h

end Lists

/-! ## Bytes -/

theorem memPut_wf : ∀ (bs : List Byte) (m : List Host.Cell) (a : Nat), Memory.wf m = true → Memory.wf (memPut m a bs) = true
  | [], _, _, h => h
  | b :: t, m, a, h => memPut_wf t _ (a + 1) (mwf_mput 0 b m a h)

theorem mget_memPut_outside : ∀ (bs : List Byte) (m : List Host.Cell) (a b : Nat), b < a ∨ a + bs.length ≤ b → mget 0 (memPut m a bs) b = mget 0 m b
  | [], _, _, _, _ => rfl
  | x :: t, m, a, b, h => by
    simp only [List.length_cons] at h
    rw [memPut, mget_memPut_outside t _ (a + 1) b (by omega)]
    exact mget_mput_ne 0 x m a b (by omega)

theorem mget_memPut_inside : ∀ (bs : List Byte) (m : List Host.Cell) (a k : Nat), k < bs.length → mget 0 (memPut m a bs) (a + k) = bs.getD k 0
  | [], _, _, _, h => by simp at h
  | x :: t, m, a, 0, _ => by
    rw [memPut, mget_memPut_outside t _ (a + 1) (a + 0) (by omega)]; simp
  | x :: t, m, a, k + 1, h => by
    have := mget_memPut_inside t (mput 0 m a x) (a + 1) k (by simpa using h)
    rw [memPut, show a + (k + 1) = a + 1 + k by omega, this]; simp

/-! ## The state's memory -/

theorem State.rd_writeHome_outside (s : State) (a b : Nat) (bs : List Byte) (h : b < a ∨ a + bs.length ≤ b) : (s.writeHome a bs).rd b = s.rd b :=
  mget_memPut_outside bs s.mem a b h

theorem State.rd_writeHome_inside (s : State) (a k : Nat) (bs : List Byte) (h : k < bs.length) : (s.writeHome a bs).rd (a + k) = bs.getD k 0 :=
  mget_memPut_inside bs s.mem a k h

theorem State.rdB_length (s : State) : ∀ (n a : Nat), (s.rdB a n).length = n
  | 0, _ => rfl
  | n + 1, a => by simp [State.rdB, State.rdB_length s n (a + 1)]

theorem State.rdB_eq (s t : State) : ∀ (n a : Nat), (∀ k, k < n → t.rd (a + k) = s.rd (a + k)) → t.rdB a n = s.rdB a n
  | 0, _, _ => rfl
  | n + 1, a, h => by
    simp only [State.rdB]
    rw [show t.rd a = s.rd a from h 0 (by omega), State.rdB_eq s t n (a + 1) (fun k hk => by
      have := h (k + 1) (by omega); rwa [show a + (k + 1) = a + 1 + k by omega] at this)]

theorem State.rdB_writeHome_outside (s : State) (a b n : Nat) (bs : List Byte) (h : b + n ≤ a ∨ a + bs.length ≤ b) :
    (s.writeHome a bs).rdB b n = s.rdB b n :=
  State.rdB_eq s _ n b (fun k hk => s.rd_writeHome_outside a (b + k) bs (by omega))

/-- The bytes just written are the bytes read. -/
theorem State.rdB_put (s : State) : ∀ (bs : List Byte) (a : Nat), (∀ k, k < bs.length → s.rd (a + k) = bs.getD k 0) → s.rdB a bs.length = bs
  | [], _, _ => rfl
  | b :: t, a, h => by
    have h0 : s.rd a = b := by simpa using h 0 (by simp)
    have ht := State.rdB_put s t (a + 1) (fun k hk => by
      have := h (k + 1) (by simpa using hk)
      rw [show a + (k + 1) = a + 1 + k by omega] at this
      simpa using this)
    simp [State.rdB, h0, ht]

@[simp] theorem State.rdB_writeHome (s : State) (a : Nat) (bs : List Byte) : (s.writeHome a bs).rdB a bs.length = bs :=
  State.rdB_put _ bs a (fun k hk => s.rd_writeHome_inside a k bs hk)

theorem natLE_length : ∀ n v : Nat, (natLE n v).length = n
  | 0, _ => rfl
  | n + 1, v => by simp [natLE, natLE_length n]

theorem leNat_natLE : ∀ n v : Nat, leNat (natLE n v) = v % 256 ^ n
  | 0, v => by simp [natLE, leNat, Nat.mod_one]
  | n + 1, v => by
    simp only [natLE, leNat, leNat_natLE n, BitVec.toNat_ofNat]
    rw [show 256 ^ (n + 1) = 256 * 256 ^ n by rw [Nat.pow_succ, Nat.mul_comm], Nat.mod_mul]

theorem leNat_lt : ∀ bs : List Byte, leNat bs < 256 ^ bs.length
  | [] => by simp [leNat]
  | b :: t => by
    have := leNat_lt t
    have hb := b.isLt
    simp only [leNat, List.length_cons, Nat.pow_succ]
    omega

/-- A value written little-endian and read back at its width. -/
theorem State.rdN_writeHome (s : State) (a n v : Nat) : (s.writeHome a (natLE n v)).rdN a n = v % 256 ^ n := by
  have h := s.rdB_writeHome a (natLE n v)
  rw [natLE_length] at h
  rw [State.rdN, h, leNat_natLE]

theorem State.writeHome_wf (s : State) (a : Nat) (bs : List Byte) (h : Memory.wf s.mem = true) : Memory.wf (s.writeHome a bs).mem = true :=
  memPut_wf bs s.mem a h

theorem State.rd_zeroBytes (s : State) (a n b : Nat) : (s.zeroBytes a n).rd b = if a ≤ b ∧ b < a + n then 0 else s.rd b :=
  mget_mclear 0 s.mem a n b

theorem State.zeroBytes_wf (s : State) (a n : Nat) (h : Memory.wf s.mem = true) : Memory.wf (s.zeroBytes a n).mem = true :=
  mwf_mclear 0 s.mem a n h

/-! ## Accesses (05 R120) -/

/-- What an access that passes its checks has met, and where it is: at the translation of space 0, else at the flat address of its space, in the
same state. -/
theorem State.access_at (s t : State) (sp : Fin 4) (ea : Word) (size a : Nat) (n : Need) (h : s.access sp ea size n = .at a t) :
    ea.toNat % size = 0 ∧ (sp = 0 → s.translate s.fsq (s.me.who s.fcx) n ea.toNat = .ok (a, t)) ∧
      (sp ≠ 0 → t = s ∧ a = s.flat sp ea.toNat ∧ ea.toNat < spaceEnd sp) ∧ (sp = 3 → s.isF = true) := by
  unfold State.access at h
  split at h
  · cases h
  · rename_i h3
    split at h
    · cases h
    · rename_i hz
      have hf : sp = 3 → s.isF = true := fun e => by simpa [e] using h3
      have hz : ea.toNat % size = 0 := by simpa using hz
      split at h
      · rename_i h0
        split at h
        · rename_i e
          cases h
          exact ⟨hz, fun _ => e, fun k => absurd h0 k, hf⟩
        all_goals cases h
      · rename_i h0
        split at h
        · cases h
        · rename_i hr
          cases h
          exact ⟨hz, fun k => absurd k h0, fun _ => ⟨rfl, rfl, by simpa using hr⟩, hf⟩

/-! A use of the memory-side caches changes their order alone (14 R315). -/

@[simp] theorem State.rd_blkTouch (s : State) (a n b : Nat) : (s.blkTouch a n).rd b = s.rd b := rfl
@[simp] theorem State.rdB_blkTouch (s : State) (a n b m : Nat) : (s.blkTouch a n).rdB b m = s.rdB b m := State.rdB_eq _ _ m b (fun _ _ => rfl)
@[simp] theorem State.isBad_blkTouch (s : State) (a n b m : Nat) : (s.blkTouch a n).isBad b m = s.isBad b m := rfl
@[simp] theorem State.sq_blkTouch (s : State) (a n : Nat) (q : Sq) : (s.blkTouch a n).sq q = s.sq q := rfl
@[simp] theorem State.me_blkTouch (s : State) (a n : Nat) : (s.blkTouch a n).me = s.me := rfl
theorem State.blks_blkTouch_perm (s : State) (a n : Nat) : (s.blkTouch a n).blks.Perm s.blks := List.filter_append_perm _ _

@[simp] theorem State.ptbr_writeHome (s : State) (a : Nat) (bs : List Byte) : (s.writeHome a bs).ptbr = s.ptbr := rfl
@[simp] theorem State.ptbr_zeroBytes (s : State) (a n : Nat) : (s.zeroBytes a n).ptbr = s.ptbr := rfl

/-- Memory that lists nothing is canonical. -/
theorem State.reset_mem_wf : Memory.wf State.reset.mem = true := rfl

end Sys2Proof.Machine
end

