-- ==== Sys2Proof/Laws/State.lean ====
section
/-! SUPPORT. What each update of the state leaves in each field, and what it puts in the part it updates. -/

namespace Sys2Proof.Machine

/-! ## setSq -/

@[simp] theorem State.setSq_now (s : State) (q : Sq) (x : Square) : (s.setSq q x).now = s.now := rfl
@[simp] theorem State.setSq_power (s : State) (q : Sq) (x : Square) : (s.setSq q x).power = s.power := rfl
@[simp] theorem State.setSq_mchk (s : State) (q : Sq) (x : Square) : (s.setSq q x).mchk = s.mchk := rfl
@[simp] theorem State.setSq_mem (s : State) (q : Sq) (x : Square) : (s.setSq q x).mem = s.mem := rfl
@[simp] theorem State.setSq_bad (s : State) (q : Sq) (x : Square) : (s.setSq q x).bad = s.bad := rfl
@[simp] theorem State.setSq_wear (s : State) (q : Sq) (x : Square) : (s.setSq q x).wear = s.wear := rfl
@[simp] theorem State.setSq_ptbr (s : State) (q : Sq) (x : Square) : (s.setSq q x).ptbr = s.ptbr := rfl
@[simp] theorem State.setSq_root (s : State) (q : Sq) (x : Square) : (s.setSq q x).root = s.root := rfl
@[simp] theorem State.setSq_bcast (s : State) (q : Sq) (x : Square) : (s.setSq q x).bcast = s.bcast := rfl
@[simp] theorem State.setSq_bseq (s : State) (q : Sq) (x : Square) : (s.setSq q x).bseq = s.bseq := rfl
@[simp] theorem State.setSq_localF (s : State) (q : Sq) (x : Square) : (s.setSq q x).localF = s.localF := rfl
@[simp] theorem State.setSq_edges (s : State) (q : Sq) (x : Square) : (s.setSq q x).edges = s.edges := rfl
@[simp] theorem State.setSq_regions (s : State) (q : Sq) (x : Square) : (s.setSq q x).regions = s.regions := rfl
@[simp] theorem State.setSq_notes (s : State) (q : Sq) (x : Square) : (s.setSq q x).notes = s.notes := rfl
@[simp] theorem State.setSq_residences (s : State) (q : Sq) (x : Square) : (s.setSq q x).residences = s.residences := rfl
@[simp] theorem State.setSq_maps (s : State) (q : Sq) (x : Square) : (s.setSq q x).maps = s.maps := rfl
@[simp] theorem State.setSq_blks (s : State) (q : Sq) (x : Square) : (s.setSq q x).blks = s.blks := rfl
@[simp] theorem State.setSq_blkGen (s : State) (q : Sq) (x : Square) : (s.setSq q x).blkGen = s.blkGen := rfl
@[simp] theorem State.setSq_dieTlb (s : State) (q : Sq) (x : Square) : (s.setSq q x).dieTlb = s.dieTlb := rfl
@[simp] theorem State.setSq_walkCache (s : State) (q : Sq) (x : Square) : (s.setSq q x).walkCache = s.walkCache := rfl
@[simp] theorem State.setSq_bulk (s : State) (q : Sq) (x : Square) : (s.setSq q x).bulk = s.bulk := rfl
@[simp] theorem State.setSq_bulkFreed (s : State) (q : Sq) (x : Square) : (s.setSq q x).bulkFreed = s.bulkFreed := rfl
@[simp] theorem State.setSq_patchLevel (s : State) (q : Sq) (x : Square) : (s.setSq q x).patchLevel = s.patchLevel := rfl
@[simp] theorem State.setSq_patchFloor (s : State) (q : Sq) (x : Square) : (s.setSq q x).patchFloor = s.patchFloor := rfl
@[simp] theorem State.setSq_patchSlot (s : State) (q : Sq) (x : Square) : (s.setSq q x).patchSlot = s.patchSlot := rfl
@[simp] theorem State.setSq_patchStore (s : State) (q : Sq) (x : Square) : (s.setSq q x).patchStore = s.patchStore := rfl
@[simp] theorem State.setSq_keySlots (s : State) (q : Sq) (x : Square) : (s.setSq q x).keySlots = s.keySlots := rfl
@[simp] theorem State.setSq_modn (s : State) (q : Sq) (x : Square) : (s.setSq q x).modn = s.modn := rfl
@[simp] theorem State.setSq_peers (s : State) (q : Sq) (x : Square) : (s.setSq q x).peers = s.peers := rfl
@[simp] theorem State.setSq_lup (s : State) (q : Sq) (x : Square) : (s.setSq q x).lup = s.lup := rfl
@[simp] theorem State.setSq_lanes (s : State) (q : Sq) (x : Square) : (s.setSq q x).lanes = s.lanes := rfl
@[simp] theorem State.setSq_winBase (s : State) (q : Sq) (x : Square) : (s.setSq q x).winBase = s.winBase := rfl
@[simp] theorem State.setSq_wflt (s : State) (q : Sq) (x : Square) : (s.setSq q x).wflt = s.wflt := rfl
@[simp] theorem State.setSq_qps (s : State) (q : Sq) (x : Square) : (s.setSq q x).qps = s.qps := rfl
@[simp] theorem State.setSq_hostMem (s : State) (q : Sq) (x : Square) : (s.setSq q x).hostMem = s.hostMem := rfl
@[simp] theorem State.setSq_cur (s : State) (q : Sq) (x : Square) : (s.setSq q x).cur = s.cur := rfl
@[simp] theorem State.setSq_heads (s : State) (q : Sq) (x : Square) : (s.setSq q x).heads = s.heads := rfl
@[simp] theorem State.setSq_unloads (s : State) (q : Sq) (x : Square) : (s.setSq q x).unloads = s.unloads := rfl
@[simp] theorem State.setSq_round (s : State) (q : Sq) (x : Square) : (s.setSq q x).round = s.round := rfl
@[simp] theorem State.setSq_installs (s : State) (q : Sq) (x : Square) : (s.setSq q x).installs = s.installs := rfl
@[simp] theorem State.setSq_invs (s : State) (q : Sq) (x : Square) : (s.setSq q x).invs = s.invs := rfl
@[simp] theorem State.setSq_closedInvs (s : State) (q : Sq) (x : Square) : (s.setSq q x).closedInvs = s.closedInvs := rfl
@[simp] theorem State.setSq_nextInv (s : State) (q : Sq) (x : Square) : (s.setSq q x).nextInv = s.nextInv := rfl
@[simp] theorem State.setSq_nextTask (s : State) (q : Sq) (x : Square) : (s.setSq q x).nextTask = s.nextTask := rfl
@[simp] theorem State.setSq_notifies (s : State) (q : Sq) (x : Square) : (s.setSq q x).notifies = s.notifies := rfl
@[simp] theorem State.setSq_reduces (s : State) (q : Sq) (x : Square) : (s.setSq q x).reduces = s.reduces := rfl
@[simp] theorem State.setSq_held (s : State) (q : Sq) (x : Square) : (s.setSq q x).held = s.held := rfl
@[simp] theorem State.setSq_msix (s : State) (q : Sq) (x : Square) : (s.setSq q x).msix = s.msix := rfl
@[simp] theorem State.setSq_intervals (s : State) (q : Sq) (x : Square) : (s.setSq q x).intervals = s.intervals := rfl
@[simp] theorem State.setSq_brownStart (s : State) (q : Sq) (x : Square) : (s.setSq q x).brownStart = s.brownStart := rfl
@[simp] theorem State.setSq_offStart (s : State) (q : Sq) (x : Square) : (s.setSq q x).offStart = s.offStart := rfl
@[simp] theorem State.setSq_persistGen (s : State) (q : Sq) (x : Square) : (s.setSq q x).persistGen = s.persistGen := rfl
@[simp] theorem State.setSq_hubSeal (s : State) (q : Sq) (x : Square) : (s.setSq q x).hubSeal = s.hubSeal := rfl
@[simp] theorem State.setSq_saved (s : State) (q : Sq) (x : Square) : (s.setSq q x).saved = s.saved := rfl
@[simp] theorem State.setSq_trail (s : State) (q : Sq) (x : Square) : (s.setSq q x).trail = s.trail := rfl
@[simp] theorem State.setSq_watches (s : State) (q : Sq) (x : Square) : (s.setSq q x).watches = s.watches := rfl
@[simp] theorem State.setSq_tick (s : State) (q : Sq) (x : Square) : (s.setSq q x).tick = s.tick := rfl
@[simp] theorem State.setSq_free (s : State) (q : Sq) (x : Square) : (s.setSq q x).free = s.free := rfl
@[simp] theorem State.setSq_agenda (s : State) (q : Sq) (x : Square) : (s.setSq q x).agenda = s.agenda := rfl
@[simp] theorem State.setSq_fsq (s : State) (q : Sq) (x : Square) : (s.setSq q x).fsq = s.fsq := rfl
@[simp] theorem State.setSq_fcx (s : State) (q : Sq) (x : Square) : (s.setSq q x).fcx = s.fcx := rfl
@[simp] theorem State.setSq_lastRead (s : State) (q : Sq) (x : Square) : (s.setSq q x).lastRead = s.lastRead := rfl

/-! ## modSq -/

@[simp] theorem State.modSq_now (s : State) (q : Sq) (f : Square → Square) : (s.modSq q f).now = s.now := rfl
@[simp] theorem State.modSq_power (s : State) (q : Sq) (f : Square → Square) : (s.modSq q f).power = s.power := rfl
@[simp] theorem State.modSq_mchk (s : State) (q : Sq) (f : Square → Square) : (s.modSq q f).mchk = s.mchk := rfl
@[simp] theorem State.modSq_mem (s : State) (q : Sq) (f : Square → Square) : (s.modSq q f).mem = s.mem := rfl
@[simp] theorem State.modSq_bad (s : State) (q : Sq) (f : Square → Square) : (s.modSq q f).bad = s.bad := rfl
@[simp] theorem State.modSq_wear (s : State) (q : Sq) (f : Square → Square) : (s.modSq q f).wear = s.wear := rfl
@[simp] theorem State.modSq_ptbr (s : State) (q : Sq) (f : Square → Square) : (s.modSq q f).ptbr = s.ptbr := rfl
@[simp] theorem State.modSq_root (s : State) (q : Sq) (f : Square → Square) : (s.modSq q f).root = s.root := rfl
@[simp] theorem State.modSq_bcast (s : State) (q : Sq) (f : Square → Square) : (s.modSq q f).bcast = s.bcast := rfl
@[simp] theorem State.modSq_bseq (s : State) (q : Sq) (f : Square → Square) : (s.modSq q f).bseq = s.bseq := rfl
@[simp] theorem State.modSq_localF (s : State) (q : Sq) (f : Square → Square) : (s.modSq q f).localF = s.localF := rfl
@[simp] theorem State.modSq_edges (s : State) (q : Sq) (f : Square → Square) : (s.modSq q f).edges = s.edges := rfl
@[simp] theorem State.modSq_regions (s : State) (q : Sq) (f : Square → Square) : (s.modSq q f).regions = s.regions := rfl
@[simp] theorem State.modSq_notes (s : State) (q : Sq) (f : Square → Square) : (s.modSq q f).notes = s.notes := rfl
@[simp] theorem State.modSq_residences (s : State) (q : Sq) (f : Square → Square) : (s.modSq q f).residences = s.residences := rfl
@[simp] theorem State.modSq_maps (s : State) (q : Sq) (f : Square → Square) : (s.modSq q f).maps = s.maps := rfl
@[simp] theorem State.modSq_blks (s : State) (q : Sq) (f : Square → Square) : (s.modSq q f).blks = s.blks := rfl
@[simp] theorem State.modSq_blkGen (s : State) (q : Sq) (f : Square → Square) : (s.modSq q f).blkGen = s.blkGen := rfl
@[simp] theorem State.modSq_dieTlb (s : State) (q : Sq) (f : Square → Square) : (s.modSq q f).dieTlb = s.dieTlb := rfl
@[simp] theorem State.modSq_walkCache (s : State) (q : Sq) (f : Square → Square) : (s.modSq q f).walkCache = s.walkCache := rfl
@[simp] theorem State.modSq_bulk (s : State) (q : Sq) (f : Square → Square) : (s.modSq q f).bulk = s.bulk := rfl
@[simp] theorem State.modSq_bulkFreed (s : State) (q : Sq) (f : Square → Square) : (s.modSq q f).bulkFreed = s.bulkFreed := rfl
@[simp] theorem State.modSq_patchLevel (s : State) (q : Sq) (f : Square → Square) : (s.modSq q f).patchLevel = s.patchLevel := rfl
@[simp] theorem State.modSq_patchFloor (s : State) (q : Sq) (f : Square → Square) : (s.modSq q f).patchFloor = s.patchFloor := rfl
@[simp] theorem State.modSq_patchSlot (s : State) (q : Sq) (f : Square → Square) : (s.modSq q f).patchSlot = s.patchSlot := rfl
@[simp] theorem State.modSq_patchStore (s : State) (q : Sq) (f : Square → Square) : (s.modSq q f).patchStore = s.patchStore := rfl
@[simp] theorem State.modSq_keySlots (s : State) (q : Sq) (f : Square → Square) : (s.modSq q f).keySlots = s.keySlots := rfl
@[simp] theorem State.modSq_modn (s : State) (q : Sq) (f : Square → Square) : (s.modSq q f).modn = s.modn := rfl
@[simp] theorem State.modSq_peers (s : State) (q : Sq) (f : Square → Square) : (s.modSq q f).peers = s.peers := rfl
@[simp] theorem State.modSq_lup (s : State) (q : Sq) (f : Square → Square) : (s.modSq q f).lup = s.lup := rfl
@[simp] theorem State.modSq_lanes (s : State) (q : Sq) (f : Square → Square) : (s.modSq q f).lanes = s.lanes := rfl
@[simp] theorem State.modSq_winBase (s : State) (q : Sq) (f : Square → Square) : (s.modSq q f).winBase = s.winBase := rfl
@[simp] theorem State.modSq_wflt (s : State) (q : Sq) (f : Square → Square) : (s.modSq q f).wflt = s.wflt := rfl
@[simp] theorem State.modSq_qps (s : State) (q : Sq) (f : Square → Square) : (s.modSq q f).qps = s.qps := rfl
@[simp] theorem State.modSq_hostMem (s : State) (q : Sq) (f : Square → Square) : (s.modSq q f).hostMem = s.hostMem := rfl
@[simp] theorem State.modSq_cur (s : State) (q : Sq) (f : Square → Square) : (s.modSq q f).cur = s.cur := rfl
@[simp] theorem State.modSq_heads (s : State) (q : Sq) (f : Square → Square) : (s.modSq q f).heads = s.heads := rfl
@[simp] theorem State.modSq_unloads (s : State) (q : Sq) (f : Square → Square) : (s.modSq q f).unloads = s.unloads := rfl
@[simp] theorem State.modSq_round (s : State) (q : Sq) (f : Square → Square) : (s.modSq q f).round = s.round := rfl
@[simp] theorem State.modSq_installs (s : State) (q : Sq) (f : Square → Square) : (s.modSq q f).installs = s.installs := rfl
@[simp] theorem State.modSq_invs (s : State) (q : Sq) (f : Square → Square) : (s.modSq q f).invs = s.invs := rfl
@[simp] theorem State.modSq_closedInvs (s : State) (q : Sq) (f : Square → Square) : (s.modSq q f).closedInvs = s.closedInvs := rfl
@[simp] theorem State.modSq_nextInv (s : State) (q : Sq) (f : Square → Square) : (s.modSq q f).nextInv = s.nextInv := rfl
@[simp] theorem State.modSq_nextTask (s : State) (q : Sq) (f : Square → Square) : (s.modSq q f).nextTask = s.nextTask := rfl
@[simp] theorem State.modSq_notifies (s : State) (q : Sq) (f : Square → Square) : (s.modSq q f).notifies = s.notifies := rfl
@[simp] theorem State.modSq_reduces (s : State) (q : Sq) (f : Square → Square) : (s.modSq q f).reduces = s.reduces := rfl
@[simp] theorem State.modSq_held (s : State) (q : Sq) (f : Square → Square) : (s.modSq q f).held = s.held := rfl
@[simp] theorem State.modSq_msix (s : State) (q : Sq) (f : Square → Square) : (s.modSq q f).msix = s.msix := rfl
@[simp] theorem State.modSq_intervals (s : State) (q : Sq) (f : Square → Square) : (s.modSq q f).intervals = s.intervals := rfl
@[simp] theorem State.modSq_brownStart (s : State) (q : Sq) (f : Square → Square) : (s.modSq q f).brownStart = s.brownStart := rfl
@[simp] theorem State.modSq_offStart (s : State) (q : Sq) (f : Square → Square) : (s.modSq q f).offStart = s.offStart := rfl
@[simp] theorem State.modSq_persistGen (s : State) (q : Sq) (f : Square → Square) : (s.modSq q f).persistGen = s.persistGen := rfl
@[simp] theorem State.modSq_hubSeal (s : State) (q : Sq) (f : Square → Square) : (s.modSq q f).hubSeal = s.hubSeal := rfl
@[simp] theorem State.modSq_saved (s : State) (q : Sq) (f : Square → Square) : (s.modSq q f).saved = s.saved := rfl
@[simp] theorem State.modSq_trail (s : State) (q : Sq) (f : Square → Square) : (s.modSq q f).trail = s.trail := rfl
@[simp] theorem State.modSq_watches (s : State) (q : Sq) (f : Square → Square) : (s.modSq q f).watches = s.watches := rfl
@[simp] theorem State.modSq_tick (s : State) (q : Sq) (f : Square → Square) : (s.modSq q f).tick = s.tick := rfl
@[simp] theorem State.modSq_free (s : State) (q : Sq) (f : Square → Square) : (s.modSq q f).free = s.free := rfl
@[simp] theorem State.modSq_agenda (s : State) (q : Sq) (f : Square → Square) : (s.modSq q f).agenda = s.agenda := rfl
@[simp] theorem State.modSq_fsq (s : State) (q : Sq) (f : Square → Square) : (s.modSq q f).fsq = s.fsq := rfl
@[simp] theorem State.modSq_fcx (s : State) (q : Sq) (f : Square → Square) : (s.modSq q f).fcx = s.fcx := rfl
@[simp] theorem State.modSq_lastRead (s : State) (q : Sq) (f : Square → Square) : (s.modSq q f).lastRead = s.lastRead := rfl

/-! ## setCtx -/

@[simp] theorem State.setCtx_now (s : State) (q : Sq) (c : Cx) (x : Ctx) : (s.setCtx q c x).now = s.now := rfl
@[simp] theorem State.setCtx_power (s : State) (q : Sq) (c : Cx) (x : Ctx) : (s.setCtx q c x).power = s.power := rfl
@[simp] theorem State.setCtx_mchk (s : State) (q : Sq) (c : Cx) (x : Ctx) : (s.setCtx q c x).mchk = s.mchk := rfl
@[simp] theorem State.setCtx_mem (s : State) (q : Sq) (c : Cx) (x : Ctx) : (s.setCtx q c x).mem = s.mem := rfl
@[simp] theorem State.setCtx_bad (s : State) (q : Sq) (c : Cx) (x : Ctx) : (s.setCtx q c x).bad = s.bad := rfl
@[simp] theorem State.setCtx_wear (s : State) (q : Sq) (c : Cx) (x : Ctx) : (s.setCtx q c x).wear = s.wear := rfl
@[simp] theorem State.setCtx_ptbr (s : State) (q : Sq) (c : Cx) (x : Ctx) : (s.setCtx q c x).ptbr = s.ptbr := rfl
@[simp] theorem State.setCtx_root (s : State) (q : Sq) (c : Cx) (x : Ctx) : (s.setCtx q c x).root = s.root := rfl
@[simp] theorem State.setCtx_bcast (s : State) (q : Sq) (c : Cx) (x : Ctx) : (s.setCtx q c x).bcast = s.bcast := rfl
@[simp] theorem State.setCtx_bseq (s : State) (q : Sq) (c : Cx) (x : Ctx) : (s.setCtx q c x).bseq = s.bseq := rfl
@[simp] theorem State.setCtx_localF (s : State) (q : Sq) (c : Cx) (x : Ctx) : (s.setCtx q c x).localF = s.localF := rfl
@[simp] theorem State.setCtx_edges (s : State) (q : Sq) (c : Cx) (x : Ctx) : (s.setCtx q c x).edges = s.edges := rfl
@[simp] theorem State.setCtx_regions (s : State) (q : Sq) (c : Cx) (x : Ctx) : (s.setCtx q c x).regions = s.regions := rfl
@[simp] theorem State.setCtx_notes (s : State) (q : Sq) (c : Cx) (x : Ctx) : (s.setCtx q c x).notes = s.notes := rfl
@[simp] theorem State.setCtx_residences (s : State) (q : Sq) (c : Cx) (x : Ctx) : (s.setCtx q c x).residences = s.residences := rfl
@[simp] theorem State.setCtx_maps (s : State) (q : Sq) (c : Cx) (x : Ctx) : (s.setCtx q c x).maps = s.maps := rfl
@[simp] theorem State.setCtx_blks (s : State) (q : Sq) (c : Cx) (x : Ctx) : (s.setCtx q c x).blks = s.blks := rfl
@[simp] theorem State.setCtx_blkGen (s : State) (q : Sq) (c : Cx) (x : Ctx) : (s.setCtx q c x).blkGen = s.blkGen := rfl
@[simp] theorem State.setCtx_dieTlb (s : State) (q : Sq) (c : Cx) (x : Ctx) : (s.setCtx q c x).dieTlb = s.dieTlb := rfl
@[simp] theorem State.setCtx_walkCache (s : State) (q : Sq) (c : Cx) (x : Ctx) : (s.setCtx q c x).walkCache = s.walkCache := rfl
@[simp] theorem State.setCtx_bulk (s : State) (q : Sq) (c : Cx) (x : Ctx) : (s.setCtx q c x).bulk = s.bulk := rfl
@[simp] theorem State.setCtx_bulkFreed (s : State) (q : Sq) (c : Cx) (x : Ctx) : (s.setCtx q c x).bulkFreed = s.bulkFreed := rfl
@[simp] theorem State.setCtx_patchLevel (s : State) (q : Sq) (c : Cx) (x : Ctx) : (s.setCtx q c x).patchLevel = s.patchLevel := rfl
@[simp] theorem State.setCtx_patchFloor (s : State) (q : Sq) (c : Cx) (x : Ctx) : (s.setCtx q c x).patchFloor = s.patchFloor := rfl
@[simp] theorem State.setCtx_patchSlot (s : State) (q : Sq) (c : Cx) (x : Ctx) : (s.setCtx q c x).patchSlot = s.patchSlot := rfl
@[simp] theorem State.setCtx_patchStore (s : State) (q : Sq) (c : Cx) (x : Ctx) : (s.setCtx q c x).patchStore = s.patchStore := rfl
@[simp] theorem State.setCtx_keySlots (s : State) (q : Sq) (c : Cx) (x : Ctx) : (s.setCtx q c x).keySlots = s.keySlots := rfl
@[simp] theorem State.setCtx_modn (s : State) (q : Sq) (c : Cx) (x : Ctx) : (s.setCtx q c x).modn = s.modn := rfl
@[simp] theorem State.setCtx_peers (s : State) (q : Sq) (c : Cx) (x : Ctx) : (s.setCtx q c x).peers = s.peers := rfl
@[simp] theorem State.setCtx_lup (s : State) (q : Sq) (c : Cx) (x : Ctx) : (s.setCtx q c x).lup = s.lup := rfl
@[simp] theorem State.setCtx_lanes (s : State) (q : Sq) (c : Cx) (x : Ctx) : (s.setCtx q c x).lanes = s.lanes := rfl
@[simp] theorem State.setCtx_winBase (s : State) (q : Sq) (c : Cx) (x : Ctx) : (s.setCtx q c x).winBase = s.winBase := rfl
@[simp] theorem State.setCtx_wflt (s : State) (q : Sq) (c : Cx) (x : Ctx) : (s.setCtx q c x).wflt = s.wflt := rfl
@[simp] theorem State.setCtx_qps (s : State) (q : Sq) (c : Cx) (x : Ctx) : (s.setCtx q c x).qps = s.qps := rfl
@[simp] theorem State.setCtx_hostMem (s : State) (q : Sq) (c : Cx) (x : Ctx) : (s.setCtx q c x).hostMem = s.hostMem := rfl
@[simp] theorem State.setCtx_cur (s : State) (q : Sq) (c : Cx) (x : Ctx) : (s.setCtx q c x).cur = s.cur := rfl
@[simp] theorem State.setCtx_heads (s : State) (q : Sq) (c : Cx) (x : Ctx) : (s.setCtx q c x).heads = s.heads := rfl
@[simp] theorem State.setCtx_unloads (s : State) (q : Sq) (c : Cx) (x : Ctx) : (s.setCtx q c x).unloads = s.unloads := rfl
@[simp] theorem State.setCtx_round (s : State) (q : Sq) (c : Cx) (x : Ctx) : (s.setCtx q c x).round = s.round := rfl
@[simp] theorem State.setCtx_installs (s : State) (q : Sq) (c : Cx) (x : Ctx) : (s.setCtx q c x).installs = s.installs := rfl
@[simp] theorem State.setCtx_invs (s : State) (q : Sq) (c : Cx) (x : Ctx) : (s.setCtx q c x).invs = s.invs := rfl
@[simp] theorem State.setCtx_closedInvs (s : State) (q : Sq) (c : Cx) (x : Ctx) : (s.setCtx q c x).closedInvs = s.closedInvs := rfl
@[simp] theorem State.setCtx_nextInv (s : State) (q : Sq) (c : Cx) (x : Ctx) : (s.setCtx q c x).nextInv = s.nextInv := rfl
@[simp] theorem State.setCtx_nextTask (s : State) (q : Sq) (c : Cx) (x : Ctx) : (s.setCtx q c x).nextTask = s.nextTask := rfl
@[simp] theorem State.setCtx_notifies (s : State) (q : Sq) (c : Cx) (x : Ctx) : (s.setCtx q c x).notifies = s.notifies := rfl
@[simp] theorem State.setCtx_reduces (s : State) (q : Sq) (c : Cx) (x : Ctx) : (s.setCtx q c x).reduces = s.reduces := rfl
@[simp] theorem State.setCtx_held (s : State) (q : Sq) (c : Cx) (x : Ctx) : (s.setCtx q c x).held = s.held := rfl
@[simp] theorem State.setCtx_msix (s : State) (q : Sq) (c : Cx) (x : Ctx) : (s.setCtx q c x).msix = s.msix := rfl
@[simp] theorem State.setCtx_intervals (s : State) (q : Sq) (c : Cx) (x : Ctx) : (s.setCtx q c x).intervals = s.intervals := rfl
@[simp] theorem State.setCtx_brownStart (s : State) (q : Sq) (c : Cx) (x : Ctx) : (s.setCtx q c x).brownStart = s.brownStart := rfl
@[simp] theorem State.setCtx_offStart (s : State) (q : Sq) (c : Cx) (x : Ctx) : (s.setCtx q c x).offStart = s.offStart := rfl
@[simp] theorem State.setCtx_persistGen (s : State) (q : Sq) (c : Cx) (x : Ctx) : (s.setCtx q c x).persistGen = s.persistGen := rfl
@[simp] theorem State.setCtx_hubSeal (s : State) (q : Sq) (c : Cx) (x : Ctx) : (s.setCtx q c x).hubSeal = s.hubSeal := rfl
@[simp] theorem State.setCtx_saved (s : State) (q : Sq) (c : Cx) (x : Ctx) : (s.setCtx q c x).saved = s.saved := rfl
@[simp] theorem State.setCtx_trail (s : State) (q : Sq) (c : Cx) (x : Ctx) : (s.setCtx q c x).trail = s.trail := rfl
@[simp] theorem State.setCtx_watches (s : State) (q : Sq) (c : Cx) (x : Ctx) : (s.setCtx q c x).watches = s.watches := rfl
@[simp] theorem State.setCtx_tick (s : State) (q : Sq) (c : Cx) (x : Ctx) : (s.setCtx q c x).tick = s.tick := rfl
@[simp] theorem State.setCtx_free (s : State) (q : Sq) (c : Cx) (x : Ctx) : (s.setCtx q c x).free = s.free := rfl
@[simp] theorem State.setCtx_agenda (s : State) (q : Sq) (c : Cx) (x : Ctx) : (s.setCtx q c x).agenda = s.agenda := rfl
@[simp] theorem State.setCtx_fsq (s : State) (q : Sq) (c : Cx) (x : Ctx) : (s.setCtx q c x).fsq = s.fsq := rfl
@[simp] theorem State.setCtx_fcx (s : State) (q : Sq) (c : Cx) (x : Ctx) : (s.setCtx q c x).fcx = s.fcx := rfl
@[simp] theorem State.setCtx_lastRead (s : State) (q : Sq) (c : Cx) (x : Ctx) : (s.setCtx q c x).lastRead = s.lastRead := rfl

/-! ## modCtx -/

@[simp] theorem State.modCtx_now (s : State) (q : Sq) (c : Cx) (f : Ctx → Ctx) : (s.modCtx q c f).now = s.now := rfl
@[simp] theorem State.modCtx_power (s : State) (q : Sq) (c : Cx) (f : Ctx → Ctx) : (s.modCtx q c f).power = s.power := rfl
@[simp] theorem State.modCtx_mchk (s : State) (q : Sq) (c : Cx) (f : Ctx → Ctx) : (s.modCtx q c f).mchk = s.mchk := rfl
@[simp] theorem State.modCtx_mem (s : State) (q : Sq) (c : Cx) (f : Ctx → Ctx) : (s.modCtx q c f).mem = s.mem := rfl
@[simp] theorem State.modCtx_bad (s : State) (q : Sq) (c : Cx) (f : Ctx → Ctx) : (s.modCtx q c f).bad = s.bad := rfl
@[simp] theorem State.modCtx_wear (s : State) (q : Sq) (c : Cx) (f : Ctx → Ctx) : (s.modCtx q c f).wear = s.wear := rfl
@[simp] theorem State.modCtx_ptbr (s : State) (q : Sq) (c : Cx) (f : Ctx → Ctx) : (s.modCtx q c f).ptbr = s.ptbr := rfl
@[simp] theorem State.modCtx_root (s : State) (q : Sq) (c : Cx) (f : Ctx → Ctx) : (s.modCtx q c f).root = s.root := rfl
@[simp] theorem State.modCtx_bcast (s : State) (q : Sq) (c : Cx) (f : Ctx → Ctx) : (s.modCtx q c f).bcast = s.bcast := rfl
@[simp] theorem State.modCtx_bseq (s : State) (q : Sq) (c : Cx) (f : Ctx → Ctx) : (s.modCtx q c f).bseq = s.bseq := rfl
@[simp] theorem State.modCtx_localF (s : State) (q : Sq) (c : Cx) (f : Ctx → Ctx) : (s.modCtx q c f).localF = s.localF := rfl
@[simp] theorem State.modCtx_edges (s : State) (q : Sq) (c : Cx) (f : Ctx → Ctx) : (s.modCtx q c f).edges = s.edges := rfl
@[simp] theorem State.modCtx_regions (s : State) (q : Sq) (c : Cx) (f : Ctx → Ctx) : (s.modCtx q c f).regions = s.regions := rfl
@[simp] theorem State.modCtx_notes (s : State) (q : Sq) (c : Cx) (f : Ctx → Ctx) : (s.modCtx q c f).notes = s.notes := rfl
@[simp] theorem State.modCtx_residences (s : State) (q : Sq) (c : Cx) (f : Ctx → Ctx) : (s.modCtx q c f).residences = s.residences := rfl
@[simp] theorem State.modCtx_maps (s : State) (q : Sq) (c : Cx) (f : Ctx → Ctx) : (s.modCtx q c f).maps = s.maps := rfl
@[simp] theorem State.modCtx_blks (s : State) (q : Sq) (c : Cx) (f : Ctx → Ctx) : (s.modCtx q c f).blks = s.blks := rfl
@[simp] theorem State.modCtx_blkGen (s : State) (q : Sq) (c : Cx) (f : Ctx → Ctx) : (s.modCtx q c f).blkGen = s.blkGen := rfl
@[simp] theorem State.modCtx_dieTlb (s : State) (q : Sq) (c : Cx) (f : Ctx → Ctx) : (s.modCtx q c f).dieTlb = s.dieTlb := rfl
@[simp] theorem State.modCtx_walkCache (s : State) (q : Sq) (c : Cx) (f : Ctx → Ctx) : (s.modCtx q c f).walkCache = s.walkCache := rfl
@[simp] theorem State.modCtx_bulk (s : State) (q : Sq) (c : Cx) (f : Ctx → Ctx) : (s.modCtx q c f).bulk = s.bulk := rfl
@[simp] theorem State.modCtx_bulkFreed (s : State) (q : Sq) (c : Cx) (f : Ctx → Ctx) : (s.modCtx q c f).bulkFreed = s.bulkFreed := rfl
@[simp] theorem State.modCtx_patchLevel (s : State) (q : Sq) (c : Cx) (f : Ctx → Ctx) : (s.modCtx q c f).patchLevel = s.patchLevel := rfl
@[simp] theorem State.modCtx_patchFloor (s : State) (q : Sq) (c : Cx) (f : Ctx → Ctx) : (s.modCtx q c f).patchFloor = s.patchFloor := rfl
@[simp] theorem State.modCtx_patchSlot (s : State) (q : Sq) (c : Cx) (f : Ctx → Ctx) : (s.modCtx q c f).patchSlot = s.patchSlot := rfl
@[simp] theorem State.modCtx_patchStore (s : State) (q : Sq) (c : Cx) (f : Ctx → Ctx) : (s.modCtx q c f).patchStore = s.patchStore := rfl
@[simp] theorem State.modCtx_keySlots (s : State) (q : Sq) (c : Cx) (f : Ctx → Ctx) : (s.modCtx q c f).keySlots = s.keySlots := rfl
@[simp] theorem State.modCtx_modn (s : State) (q : Sq) (c : Cx) (f : Ctx → Ctx) : (s.modCtx q c f).modn = s.modn := rfl
@[simp] theorem State.modCtx_peers (s : State) (q : Sq) (c : Cx) (f : Ctx → Ctx) : (s.modCtx q c f).peers = s.peers := rfl
@[simp] theorem State.modCtx_lup (s : State) (q : Sq) (c : Cx) (f : Ctx → Ctx) : (s.modCtx q c f).lup = s.lup := rfl
@[simp] theorem State.modCtx_lanes (s : State) (q : Sq) (c : Cx) (f : Ctx → Ctx) : (s.modCtx q c f).lanes = s.lanes := rfl
@[simp] theorem State.modCtx_winBase (s : State) (q : Sq) (c : Cx) (f : Ctx → Ctx) : (s.modCtx q c f).winBase = s.winBase := rfl
@[simp] theorem State.modCtx_wflt (s : State) (q : Sq) (c : Cx) (f : Ctx → Ctx) : (s.modCtx q c f).wflt = s.wflt := rfl
@[simp] theorem State.modCtx_qps (s : State) (q : Sq) (c : Cx) (f : Ctx → Ctx) : (s.modCtx q c f).qps = s.qps := rfl
@[simp] theorem State.modCtx_hostMem (s : State) (q : Sq) (c : Cx) (f : Ctx → Ctx) : (s.modCtx q c f).hostMem = s.hostMem := rfl
@[simp] theorem State.modCtx_cur (s : State) (q : Sq) (c : Cx) (f : Ctx → Ctx) : (s.modCtx q c f).cur = s.cur := rfl
@[simp] theorem State.modCtx_heads (s : State) (q : Sq) (c : Cx) (f : Ctx → Ctx) : (s.modCtx q c f).heads = s.heads := rfl
@[simp] theorem State.modCtx_unloads (s : State) (q : Sq) (c : Cx) (f : Ctx → Ctx) : (s.modCtx q c f).unloads = s.unloads := rfl
@[simp] theorem State.modCtx_round (s : State) (q : Sq) (c : Cx) (f : Ctx → Ctx) : (s.modCtx q c f).round = s.round := rfl
@[simp] theorem State.modCtx_installs (s : State) (q : Sq) (c : Cx) (f : Ctx → Ctx) : (s.modCtx q c f).installs = s.installs := rfl
@[simp] theorem State.modCtx_invs (s : State) (q : Sq) (c : Cx) (f : Ctx → Ctx) : (s.modCtx q c f).invs = s.invs := rfl
@[simp] theorem State.modCtx_closedInvs (s : State) (q : Sq) (c : Cx) (f : Ctx → Ctx) : (s.modCtx q c f).closedInvs = s.closedInvs := rfl
@[simp] theorem State.modCtx_nextInv (s : State) (q : Sq) (c : Cx) (f : Ctx → Ctx) : (s.modCtx q c f).nextInv = s.nextInv := rfl
@[simp] theorem State.modCtx_nextTask (s : State) (q : Sq) (c : Cx) (f : Ctx → Ctx) : (s.modCtx q c f).nextTask = s.nextTask := rfl
@[simp] theorem State.modCtx_notifies (s : State) (q : Sq) (c : Cx) (f : Ctx → Ctx) : (s.modCtx q c f).notifies = s.notifies := rfl
@[simp] theorem State.modCtx_reduces (s : State) (q : Sq) (c : Cx) (f : Ctx → Ctx) : (s.modCtx q c f).reduces = s.reduces := rfl
@[simp] theorem State.modCtx_held (s : State) (q : Sq) (c : Cx) (f : Ctx → Ctx) : (s.modCtx q c f).held = s.held := rfl
@[simp] theorem State.modCtx_msix (s : State) (q : Sq) (c : Cx) (f : Ctx → Ctx) : (s.modCtx q c f).msix = s.msix := rfl
@[simp] theorem State.modCtx_intervals (s : State) (q : Sq) (c : Cx) (f : Ctx → Ctx) : (s.modCtx q c f).intervals = s.intervals := rfl
@[simp] theorem State.modCtx_brownStart (s : State) (q : Sq) (c : Cx) (f : Ctx → Ctx) : (s.modCtx q c f).brownStart = s.brownStart := rfl
@[simp] theorem State.modCtx_offStart (s : State) (q : Sq) (c : Cx) (f : Ctx → Ctx) : (s.modCtx q c f).offStart = s.offStart := rfl
@[simp] theorem State.modCtx_persistGen (s : State) (q : Sq) (c : Cx) (f : Ctx → Ctx) : (s.modCtx q c f).persistGen = s.persistGen := rfl
@[simp] theorem State.modCtx_hubSeal (s : State) (q : Sq) (c : Cx) (f : Ctx → Ctx) : (s.modCtx q c f).hubSeal = s.hubSeal := rfl
@[simp] theorem State.modCtx_saved (s : State) (q : Sq) (c : Cx) (f : Ctx → Ctx) : (s.modCtx q c f).saved = s.saved := rfl
@[simp] theorem State.modCtx_trail (s : State) (q : Sq) (c : Cx) (f : Ctx → Ctx) : (s.modCtx q c f).trail = s.trail := rfl
@[simp] theorem State.modCtx_watches (s : State) (q : Sq) (c : Cx) (f : Ctx → Ctx) : (s.modCtx q c f).watches = s.watches := rfl
@[simp] theorem State.modCtx_tick (s : State) (q : Sq) (c : Cx) (f : Ctx → Ctx) : (s.modCtx q c f).tick = s.tick := rfl
@[simp] theorem State.modCtx_free (s : State) (q : Sq) (c : Cx) (f : Ctx → Ctx) : (s.modCtx q c f).free = s.free := rfl
@[simp] theorem State.modCtx_agenda (s : State) (q : Sq) (c : Cx) (f : Ctx → Ctx) : (s.modCtx q c f).agenda = s.agenda := rfl
@[simp] theorem State.modCtx_fsq (s : State) (q : Sq) (c : Cx) (f : Ctx → Ctx) : (s.modCtx q c f).fsq = s.fsq := rfl
@[simp] theorem State.modCtx_fcx (s : State) (q : Sq) (c : Cx) (f : Ctx → Ctx) : (s.modCtx q c f).fcx = s.fcx := rfl
@[simp] theorem State.modCtx_lastRead (s : State) (q : Sq) (c : Cx) (f : Ctx → Ctx) : (s.modCtx q c f).lastRead = s.lastRead := rfl

/-! ## setCore -/

@[simp] theorem State.setCore_now (s : State) (q : Sq) (v : Vc) (x : VCore) : (s.setCore q v x).now = s.now := rfl
@[simp] theorem State.setCore_power (s : State) (q : Sq) (v : Vc) (x : VCore) : (s.setCore q v x).power = s.power := rfl
@[simp] theorem State.setCore_mchk (s : State) (q : Sq) (v : Vc) (x : VCore) : (s.setCore q v x).mchk = s.mchk := rfl
@[simp] theorem State.setCore_mem (s : State) (q : Sq) (v : Vc) (x : VCore) : (s.setCore q v x).mem = s.mem := rfl
@[simp] theorem State.setCore_bad (s : State) (q : Sq) (v : Vc) (x : VCore) : (s.setCore q v x).bad = s.bad := rfl
@[simp] theorem State.setCore_wear (s : State) (q : Sq) (v : Vc) (x : VCore) : (s.setCore q v x).wear = s.wear := rfl
@[simp] theorem State.setCore_ptbr (s : State) (q : Sq) (v : Vc) (x : VCore) : (s.setCore q v x).ptbr = s.ptbr := rfl
@[simp] theorem State.setCore_root (s : State) (q : Sq) (v : Vc) (x : VCore) : (s.setCore q v x).root = s.root := rfl
@[simp] theorem State.setCore_bcast (s : State) (q : Sq) (v : Vc) (x : VCore) : (s.setCore q v x).bcast = s.bcast := rfl
@[simp] theorem State.setCore_bseq (s : State) (q : Sq) (v : Vc) (x : VCore) : (s.setCore q v x).bseq = s.bseq := rfl
@[simp] theorem State.setCore_localF (s : State) (q : Sq) (v : Vc) (x : VCore) : (s.setCore q v x).localF = s.localF := rfl
@[simp] theorem State.setCore_edges (s : State) (q : Sq) (v : Vc) (x : VCore) : (s.setCore q v x).edges = s.edges := rfl
@[simp] theorem State.setCore_regions (s : State) (q : Sq) (v : Vc) (x : VCore) : (s.setCore q v x).regions = s.regions := rfl
@[simp] theorem State.setCore_notes (s : State) (q : Sq) (v : Vc) (x : VCore) : (s.setCore q v x).notes = s.notes := rfl
@[simp] theorem State.setCore_residences (s : State) (q : Sq) (v : Vc) (x : VCore) : (s.setCore q v x).residences = s.residences := rfl
@[simp] theorem State.setCore_maps (s : State) (q : Sq) (v : Vc) (x : VCore) : (s.setCore q v x).maps = s.maps := rfl
@[simp] theorem State.setCore_blks (s : State) (q : Sq) (v : Vc) (x : VCore) : (s.setCore q v x).blks = s.blks := rfl
@[simp] theorem State.setCore_blkGen (s : State) (q : Sq) (v : Vc) (x : VCore) : (s.setCore q v x).blkGen = s.blkGen := rfl
@[simp] theorem State.setCore_dieTlb (s : State) (q : Sq) (v : Vc) (x : VCore) : (s.setCore q v x).dieTlb = s.dieTlb := rfl
@[simp] theorem State.setCore_walkCache (s : State) (q : Sq) (v : Vc) (x : VCore) : (s.setCore q v x).walkCache = s.walkCache := rfl
@[simp] theorem State.setCore_bulk (s : State) (q : Sq) (v : Vc) (x : VCore) : (s.setCore q v x).bulk = s.bulk := rfl
@[simp] theorem State.setCore_bulkFreed (s : State) (q : Sq) (v : Vc) (x : VCore) : (s.setCore q v x).bulkFreed = s.bulkFreed := rfl
@[simp] theorem State.setCore_patchLevel (s : State) (q : Sq) (v : Vc) (x : VCore) : (s.setCore q v x).patchLevel = s.patchLevel := rfl
@[simp] theorem State.setCore_patchFloor (s : State) (q : Sq) (v : Vc) (x : VCore) : (s.setCore q v x).patchFloor = s.patchFloor := rfl
@[simp] theorem State.setCore_patchSlot (s : State) (q : Sq) (v : Vc) (x : VCore) : (s.setCore q v x).patchSlot = s.patchSlot := rfl
@[simp] theorem State.setCore_patchStore (s : State) (q : Sq) (v : Vc) (x : VCore) : (s.setCore q v x).patchStore = s.patchStore := rfl
@[simp] theorem State.setCore_keySlots (s : State) (q : Sq) (v : Vc) (x : VCore) : (s.setCore q v x).keySlots = s.keySlots := rfl
@[simp] theorem State.setCore_modn (s : State) (q : Sq) (v : Vc) (x : VCore) : (s.setCore q v x).modn = s.modn := rfl
@[simp] theorem State.setCore_peers (s : State) (q : Sq) (v : Vc) (x : VCore) : (s.setCore q v x).peers = s.peers := rfl
@[simp] theorem State.setCore_lup (s : State) (q : Sq) (v : Vc) (x : VCore) : (s.setCore q v x).lup = s.lup := rfl
@[simp] theorem State.setCore_lanes (s : State) (q : Sq) (v : Vc) (x : VCore) : (s.setCore q v x).lanes = s.lanes := rfl
@[simp] theorem State.setCore_winBase (s : State) (q : Sq) (v : Vc) (x : VCore) : (s.setCore q v x).winBase = s.winBase := rfl
@[simp] theorem State.setCore_wflt (s : State) (q : Sq) (v : Vc) (x : VCore) : (s.setCore q v x).wflt = s.wflt := rfl
@[simp] theorem State.setCore_qps (s : State) (q : Sq) (v : Vc) (x : VCore) : (s.setCore q v x).qps = s.qps := rfl
@[simp] theorem State.setCore_hostMem (s : State) (q : Sq) (v : Vc) (x : VCore) : (s.setCore q v x).hostMem = s.hostMem := rfl
@[simp] theorem State.setCore_cur (s : State) (q : Sq) (v : Vc) (x : VCore) : (s.setCore q v x).cur = s.cur := rfl
@[simp] theorem State.setCore_heads (s : State) (q : Sq) (v : Vc) (x : VCore) : (s.setCore q v x).heads = s.heads := rfl
@[simp] theorem State.setCore_unloads (s : State) (q : Sq) (v : Vc) (x : VCore) : (s.setCore q v x).unloads = s.unloads := rfl
@[simp] theorem State.setCore_round (s : State) (q : Sq) (v : Vc) (x : VCore) : (s.setCore q v x).round = s.round := rfl
@[simp] theorem State.setCore_installs (s : State) (q : Sq) (v : Vc) (x : VCore) : (s.setCore q v x).installs = s.installs := rfl
@[simp] theorem State.setCore_invs (s : State) (q : Sq) (v : Vc) (x : VCore) : (s.setCore q v x).invs = s.invs := rfl
@[simp] theorem State.setCore_closedInvs (s : State) (q : Sq) (v : Vc) (x : VCore) : (s.setCore q v x).closedInvs = s.closedInvs := rfl
@[simp] theorem State.setCore_nextInv (s : State) (q : Sq) (v : Vc) (x : VCore) : (s.setCore q v x).nextInv = s.nextInv := rfl
@[simp] theorem State.setCore_nextTask (s : State) (q : Sq) (v : Vc) (x : VCore) : (s.setCore q v x).nextTask = s.nextTask := rfl
@[simp] theorem State.setCore_notifies (s : State) (q : Sq) (v : Vc) (x : VCore) : (s.setCore q v x).notifies = s.notifies := rfl
@[simp] theorem State.setCore_reduces (s : State) (q : Sq) (v : Vc) (x : VCore) : (s.setCore q v x).reduces = s.reduces := rfl
@[simp] theorem State.setCore_held (s : State) (q : Sq) (v : Vc) (x : VCore) : (s.setCore q v x).held = s.held := rfl
@[simp] theorem State.setCore_msix (s : State) (q : Sq) (v : Vc) (x : VCore) : (s.setCore q v x).msix = s.msix := rfl
@[simp] theorem State.setCore_intervals (s : State) (q : Sq) (v : Vc) (x : VCore) : (s.setCore q v x).intervals = s.intervals := rfl
@[simp] theorem State.setCore_brownStart (s : State) (q : Sq) (v : Vc) (x : VCore) : (s.setCore q v x).brownStart = s.brownStart := rfl
@[simp] theorem State.setCore_offStart (s : State) (q : Sq) (v : Vc) (x : VCore) : (s.setCore q v x).offStart = s.offStart := rfl
@[simp] theorem State.setCore_persistGen (s : State) (q : Sq) (v : Vc) (x : VCore) : (s.setCore q v x).persistGen = s.persistGen := rfl
@[simp] theorem State.setCore_hubSeal (s : State) (q : Sq) (v : Vc) (x : VCore) : (s.setCore q v x).hubSeal = s.hubSeal := rfl
@[simp] theorem State.setCore_saved (s : State) (q : Sq) (v : Vc) (x : VCore) : (s.setCore q v x).saved = s.saved := rfl
@[simp] theorem State.setCore_trail (s : State) (q : Sq) (v : Vc) (x : VCore) : (s.setCore q v x).trail = s.trail := rfl
@[simp] theorem State.setCore_watches (s : State) (q : Sq) (v : Vc) (x : VCore) : (s.setCore q v x).watches = s.watches := rfl
@[simp] theorem State.setCore_tick (s : State) (q : Sq) (v : Vc) (x : VCore) : (s.setCore q v x).tick = s.tick := rfl
@[simp] theorem State.setCore_free (s : State) (q : Sq) (v : Vc) (x : VCore) : (s.setCore q v x).free = s.free := rfl
@[simp] theorem State.setCore_agenda (s : State) (q : Sq) (v : Vc) (x : VCore) : (s.setCore q v x).agenda = s.agenda := rfl
@[simp] theorem State.setCore_fsq (s : State) (q : Sq) (v : Vc) (x : VCore) : (s.setCore q v x).fsq = s.fsq := rfl
@[simp] theorem State.setCore_fcx (s : State) (q : Sq) (v : Vc) (x : VCore) : (s.setCore q v x).fcx = s.fcx := rfl
@[simp] theorem State.setCore_lastRead (s : State) (q : Sq) (v : Vc) (x : VCore) : (s.setCore q v x).lastRead = s.lastRead := rfl

/-! ## modCore -/

@[simp] theorem State.modCore_now (s : State) (q : Sq) (v : Vc) (f : VCore → VCore) : (s.modCore q v f).now = s.now := rfl
@[simp] theorem State.modCore_power (s : State) (q : Sq) (v : Vc) (f : VCore → VCore) : (s.modCore q v f).power = s.power := rfl
@[simp] theorem State.modCore_mchk (s : State) (q : Sq) (v : Vc) (f : VCore → VCore) : (s.modCore q v f).mchk = s.mchk := rfl
@[simp] theorem State.modCore_mem (s : State) (q : Sq) (v : Vc) (f : VCore → VCore) : (s.modCore q v f).mem = s.mem := rfl
@[simp] theorem State.modCore_bad (s : State) (q : Sq) (v : Vc) (f : VCore → VCore) : (s.modCore q v f).bad = s.bad := rfl
@[simp] theorem State.modCore_wear (s : State) (q : Sq) (v : Vc) (f : VCore → VCore) : (s.modCore q v f).wear = s.wear := rfl
@[simp] theorem State.modCore_ptbr (s : State) (q : Sq) (v : Vc) (f : VCore → VCore) : (s.modCore q v f).ptbr = s.ptbr := rfl
@[simp] theorem State.modCore_root (s : State) (q : Sq) (v : Vc) (f : VCore → VCore) : (s.modCore q v f).root = s.root := rfl
@[simp] theorem State.modCore_bcast (s : State) (q : Sq) (v : Vc) (f : VCore → VCore) : (s.modCore q v f).bcast = s.bcast := rfl
@[simp] theorem State.modCore_bseq (s : State) (q : Sq) (v : Vc) (f : VCore → VCore) : (s.modCore q v f).bseq = s.bseq := rfl
@[simp] theorem State.modCore_localF (s : State) (q : Sq) (v : Vc) (f : VCore → VCore) : (s.modCore q v f).localF = s.localF := rfl
@[simp] theorem State.modCore_edges (s : State) (q : Sq) (v : Vc) (f : VCore → VCore) : (s.modCore q v f).edges = s.edges := rfl
@[simp] theorem State.modCore_regions (s : State) (q : Sq) (v : Vc) (f : VCore → VCore) : (s.modCore q v f).regions = s.regions := rfl
@[simp] theorem State.modCore_notes (s : State) (q : Sq) (v : Vc) (f : VCore → VCore) : (s.modCore q v f).notes = s.notes := rfl
@[simp] theorem State.modCore_residences (s : State) (q : Sq) (v : Vc) (f : VCore → VCore) : (s.modCore q v f).residences = s.residences := rfl
@[simp] theorem State.modCore_maps (s : State) (q : Sq) (v : Vc) (f : VCore → VCore) : (s.modCore q v f).maps = s.maps := rfl
@[simp] theorem State.modCore_blks (s : State) (q : Sq) (v : Vc) (f : VCore → VCore) : (s.modCore q v f).blks = s.blks := rfl
@[simp] theorem State.modCore_blkGen (s : State) (q : Sq) (v : Vc) (f : VCore → VCore) : (s.modCore q v f).blkGen = s.blkGen := rfl
@[simp] theorem State.modCore_dieTlb (s : State) (q : Sq) (v : Vc) (f : VCore → VCore) : (s.modCore q v f).dieTlb = s.dieTlb := rfl
@[simp] theorem State.modCore_walkCache (s : State) (q : Sq) (v : Vc) (f : VCore → VCore) : (s.modCore q v f).walkCache = s.walkCache := rfl
@[simp] theorem State.modCore_bulk (s : State) (q : Sq) (v : Vc) (f : VCore → VCore) : (s.modCore q v f).bulk = s.bulk := rfl
@[simp] theorem State.modCore_bulkFreed (s : State) (q : Sq) (v : Vc) (f : VCore → VCore) : (s.modCore q v f).bulkFreed = s.bulkFreed := rfl
@[simp] theorem State.modCore_patchLevel (s : State) (q : Sq) (v : Vc) (f : VCore → VCore) : (s.modCore q v f).patchLevel = s.patchLevel := rfl
@[simp] theorem State.modCore_patchFloor (s : State) (q : Sq) (v : Vc) (f : VCore → VCore) : (s.modCore q v f).patchFloor = s.patchFloor := rfl
@[simp] theorem State.modCore_patchSlot (s : State) (q : Sq) (v : Vc) (f : VCore → VCore) : (s.modCore q v f).patchSlot = s.patchSlot := rfl
@[simp] theorem State.modCore_patchStore (s : State) (q : Sq) (v : Vc) (f : VCore → VCore) : (s.modCore q v f).patchStore = s.patchStore := rfl
@[simp] theorem State.modCore_keySlots (s : State) (q : Sq) (v : Vc) (f : VCore → VCore) : (s.modCore q v f).keySlots = s.keySlots := rfl
@[simp] theorem State.modCore_modn (s : State) (q : Sq) (v : Vc) (f : VCore → VCore) : (s.modCore q v f).modn = s.modn := rfl
@[simp] theorem State.modCore_peers (s : State) (q : Sq) (v : Vc) (f : VCore → VCore) : (s.modCore q v f).peers = s.peers := rfl
@[simp] theorem State.modCore_lup (s : State) (q : Sq) (v : Vc) (f : VCore → VCore) : (s.modCore q v f).lup = s.lup := rfl
@[simp] theorem State.modCore_lanes (s : State) (q : Sq) (v : Vc) (f : VCore → VCore) : (s.modCore q v f).lanes = s.lanes := rfl
@[simp] theorem State.modCore_winBase (s : State) (q : Sq) (v : Vc) (f : VCore → VCore) : (s.modCore q v f).winBase = s.winBase := rfl
@[simp] theorem State.modCore_wflt (s : State) (q : Sq) (v : Vc) (f : VCore → VCore) : (s.modCore q v f).wflt = s.wflt := rfl
@[simp] theorem State.modCore_qps (s : State) (q : Sq) (v : Vc) (f : VCore → VCore) : (s.modCore q v f).qps = s.qps := rfl
@[simp] theorem State.modCore_hostMem (s : State) (q : Sq) (v : Vc) (f : VCore → VCore) : (s.modCore q v f).hostMem = s.hostMem := rfl
@[simp] theorem State.modCore_cur (s : State) (q : Sq) (v : Vc) (f : VCore → VCore) : (s.modCore q v f).cur = s.cur := rfl
@[simp] theorem State.modCore_heads (s : State) (q : Sq) (v : Vc) (f : VCore → VCore) : (s.modCore q v f).heads = s.heads := rfl
@[simp] theorem State.modCore_unloads (s : State) (q : Sq) (v : Vc) (f : VCore → VCore) : (s.modCore q v f).unloads = s.unloads := rfl
@[simp] theorem State.modCore_round (s : State) (q : Sq) (v : Vc) (f : VCore → VCore) : (s.modCore q v f).round = s.round := rfl
@[simp] theorem State.modCore_installs (s : State) (q : Sq) (v : Vc) (f : VCore → VCore) : (s.modCore q v f).installs = s.installs := rfl
@[simp] theorem State.modCore_invs (s : State) (q : Sq) (v : Vc) (f : VCore → VCore) : (s.modCore q v f).invs = s.invs := rfl
@[simp] theorem State.modCore_closedInvs (s : State) (q : Sq) (v : Vc) (f : VCore → VCore) : (s.modCore q v f).closedInvs = s.closedInvs := rfl
@[simp] theorem State.modCore_nextInv (s : State) (q : Sq) (v : Vc) (f : VCore → VCore) : (s.modCore q v f).nextInv = s.nextInv := rfl
@[simp] theorem State.modCore_nextTask (s : State) (q : Sq) (v : Vc) (f : VCore → VCore) : (s.modCore q v f).nextTask = s.nextTask := rfl
@[simp] theorem State.modCore_notifies (s : State) (q : Sq) (v : Vc) (f : VCore → VCore) : (s.modCore q v f).notifies = s.notifies := rfl
@[simp] theorem State.modCore_reduces (s : State) (q : Sq) (v : Vc) (f : VCore → VCore) : (s.modCore q v f).reduces = s.reduces := rfl
@[simp] theorem State.modCore_held (s : State) (q : Sq) (v : Vc) (f : VCore → VCore) : (s.modCore q v f).held = s.held := rfl
@[simp] theorem State.modCore_msix (s : State) (q : Sq) (v : Vc) (f : VCore → VCore) : (s.modCore q v f).msix = s.msix := rfl
@[simp] theorem State.modCore_intervals (s : State) (q : Sq) (v : Vc) (f : VCore → VCore) : (s.modCore q v f).intervals = s.intervals := rfl
@[simp] theorem State.modCore_brownStart (s : State) (q : Sq) (v : Vc) (f : VCore → VCore) : (s.modCore q v f).brownStart = s.brownStart := rfl
@[simp] theorem State.modCore_offStart (s : State) (q : Sq) (v : Vc) (f : VCore → VCore) : (s.modCore q v f).offStart = s.offStart := rfl
@[simp] theorem State.modCore_persistGen (s : State) (q : Sq) (v : Vc) (f : VCore → VCore) : (s.modCore q v f).persistGen = s.persistGen := rfl
@[simp] theorem State.modCore_hubSeal (s : State) (q : Sq) (v : Vc) (f : VCore → VCore) : (s.modCore q v f).hubSeal = s.hubSeal := rfl
@[simp] theorem State.modCore_saved (s : State) (q : Sq) (v : Vc) (f : VCore → VCore) : (s.modCore q v f).saved = s.saved := rfl
@[simp] theorem State.modCore_trail (s : State) (q : Sq) (v : Vc) (f : VCore → VCore) : (s.modCore q v f).trail = s.trail := rfl
@[simp] theorem State.modCore_watches (s : State) (q : Sq) (v : Vc) (f : VCore → VCore) : (s.modCore q v f).watches = s.watches := rfl
@[simp] theorem State.modCore_tick (s : State) (q : Sq) (v : Vc) (f : VCore → VCore) : (s.modCore q v f).tick = s.tick := rfl
@[simp] theorem State.modCore_free (s : State) (q : Sq) (v : Vc) (f : VCore → VCore) : (s.modCore q v f).free = s.free := rfl
@[simp] theorem State.modCore_agenda (s : State) (q : Sq) (v : Vc) (f : VCore → VCore) : (s.modCore q v f).agenda = s.agenda := rfl
@[simp] theorem State.modCore_fsq (s : State) (q : Sq) (v : Vc) (f : VCore → VCore) : (s.modCore q v f).fsq = s.fsq := rfl
@[simp] theorem State.modCore_fcx (s : State) (q : Sq) (v : Vc) (f : VCore → VCore) : (s.modCore q v f).fcx = s.fcx := rfl
@[simp] theorem State.modCore_lastRead (s : State) (q : Sq) (v : Vc) (f : VCore → VCore) : (s.modCore q v f).lastRead = s.lastRead := rfl

/-! ## modArr -/

@[simp] theorem State.modArr_now (s : State) (q : Sq) (f : Arr → Arr) : (s.modArr q f).now = s.now := rfl
@[simp] theorem State.modArr_power (s : State) (q : Sq) (f : Arr → Arr) : (s.modArr q f).power = s.power := rfl
@[simp] theorem State.modArr_mchk (s : State) (q : Sq) (f : Arr → Arr) : (s.modArr q f).mchk = s.mchk := rfl
@[simp] theorem State.modArr_mem (s : State) (q : Sq) (f : Arr → Arr) : (s.modArr q f).mem = s.mem := rfl
@[simp] theorem State.modArr_bad (s : State) (q : Sq) (f : Arr → Arr) : (s.modArr q f).bad = s.bad := rfl
@[simp] theorem State.modArr_wear (s : State) (q : Sq) (f : Arr → Arr) : (s.modArr q f).wear = s.wear := rfl
@[simp] theorem State.modArr_ptbr (s : State) (q : Sq) (f : Arr → Arr) : (s.modArr q f).ptbr = s.ptbr := rfl
@[simp] theorem State.modArr_root (s : State) (q : Sq) (f : Arr → Arr) : (s.modArr q f).root = s.root := rfl
@[simp] theorem State.modArr_bcast (s : State) (q : Sq) (f : Arr → Arr) : (s.modArr q f).bcast = s.bcast := rfl
@[simp] theorem State.modArr_bseq (s : State) (q : Sq) (f : Arr → Arr) : (s.modArr q f).bseq = s.bseq := rfl
@[simp] theorem State.modArr_localF (s : State) (q : Sq) (f : Arr → Arr) : (s.modArr q f).localF = s.localF := rfl
@[simp] theorem State.modArr_edges (s : State) (q : Sq) (f : Arr → Arr) : (s.modArr q f).edges = s.edges := rfl
@[simp] theorem State.modArr_regions (s : State) (q : Sq) (f : Arr → Arr) : (s.modArr q f).regions = s.regions := rfl
@[simp] theorem State.modArr_notes (s : State) (q : Sq) (f : Arr → Arr) : (s.modArr q f).notes = s.notes := rfl
@[simp] theorem State.modArr_residences (s : State) (q : Sq) (f : Arr → Arr) : (s.modArr q f).residences = s.residences := rfl
@[simp] theorem State.modArr_maps (s : State) (q : Sq) (f : Arr → Arr) : (s.modArr q f).maps = s.maps := rfl
@[simp] theorem State.modArr_blks (s : State) (q : Sq) (f : Arr → Arr) : (s.modArr q f).blks = s.blks := rfl
@[simp] theorem State.modArr_blkGen (s : State) (q : Sq) (f : Arr → Arr) : (s.modArr q f).blkGen = s.blkGen := rfl
@[simp] theorem State.modArr_dieTlb (s : State) (q : Sq) (f : Arr → Arr) : (s.modArr q f).dieTlb = s.dieTlb := rfl
@[simp] theorem State.modArr_walkCache (s : State) (q : Sq) (f : Arr → Arr) : (s.modArr q f).walkCache = s.walkCache := rfl
@[simp] theorem State.modArr_bulk (s : State) (q : Sq) (f : Arr → Arr) : (s.modArr q f).bulk = s.bulk := rfl
@[simp] theorem State.modArr_bulkFreed (s : State) (q : Sq) (f : Arr → Arr) : (s.modArr q f).bulkFreed = s.bulkFreed := rfl
@[simp] theorem State.modArr_patchLevel (s : State) (q : Sq) (f : Arr → Arr) : (s.modArr q f).patchLevel = s.patchLevel := rfl
@[simp] theorem State.modArr_patchFloor (s : State) (q : Sq) (f : Arr → Arr) : (s.modArr q f).patchFloor = s.patchFloor := rfl
@[simp] theorem State.modArr_patchSlot (s : State) (q : Sq) (f : Arr → Arr) : (s.modArr q f).patchSlot = s.patchSlot := rfl
@[simp] theorem State.modArr_patchStore (s : State) (q : Sq) (f : Arr → Arr) : (s.modArr q f).patchStore = s.patchStore := rfl
@[simp] theorem State.modArr_keySlots (s : State) (q : Sq) (f : Arr → Arr) : (s.modArr q f).keySlots = s.keySlots := rfl
@[simp] theorem State.modArr_modn (s : State) (q : Sq) (f : Arr → Arr) : (s.modArr q f).modn = s.modn := rfl
@[simp] theorem State.modArr_peers (s : State) (q : Sq) (f : Arr → Arr) : (s.modArr q f).peers = s.peers := rfl
@[simp] theorem State.modArr_lup (s : State) (q : Sq) (f : Arr → Arr) : (s.modArr q f).lup = s.lup := rfl
@[simp] theorem State.modArr_lanes (s : State) (q : Sq) (f : Arr → Arr) : (s.modArr q f).lanes = s.lanes := rfl
@[simp] theorem State.modArr_winBase (s : State) (q : Sq) (f : Arr → Arr) : (s.modArr q f).winBase = s.winBase := rfl
@[simp] theorem State.modArr_wflt (s : State) (q : Sq) (f : Arr → Arr) : (s.modArr q f).wflt = s.wflt := rfl
@[simp] theorem State.modArr_qps (s : State) (q : Sq) (f : Arr → Arr) : (s.modArr q f).qps = s.qps := rfl
@[simp] theorem State.modArr_hostMem (s : State) (q : Sq) (f : Arr → Arr) : (s.modArr q f).hostMem = s.hostMem := rfl
@[simp] theorem State.modArr_cur (s : State) (q : Sq) (f : Arr → Arr) : (s.modArr q f).cur = s.cur := rfl
@[simp] theorem State.modArr_heads (s : State) (q : Sq) (f : Arr → Arr) : (s.modArr q f).heads = s.heads := rfl
@[simp] theorem State.modArr_unloads (s : State) (q : Sq) (f : Arr → Arr) : (s.modArr q f).unloads = s.unloads := rfl
@[simp] theorem State.modArr_round (s : State) (q : Sq) (f : Arr → Arr) : (s.modArr q f).round = s.round := rfl
@[simp] theorem State.modArr_installs (s : State) (q : Sq) (f : Arr → Arr) : (s.modArr q f).installs = s.installs := rfl
@[simp] theorem State.modArr_invs (s : State) (q : Sq) (f : Arr → Arr) : (s.modArr q f).invs = s.invs := rfl
@[simp] theorem State.modArr_closedInvs (s : State) (q : Sq) (f : Arr → Arr) : (s.modArr q f).closedInvs = s.closedInvs := rfl
@[simp] theorem State.modArr_nextInv (s : State) (q : Sq) (f : Arr → Arr) : (s.modArr q f).nextInv = s.nextInv := rfl
@[simp] theorem State.modArr_nextTask (s : State) (q : Sq) (f : Arr → Arr) : (s.modArr q f).nextTask = s.nextTask := rfl
@[simp] theorem State.modArr_notifies (s : State) (q : Sq) (f : Arr → Arr) : (s.modArr q f).notifies = s.notifies := rfl
@[simp] theorem State.modArr_reduces (s : State) (q : Sq) (f : Arr → Arr) : (s.modArr q f).reduces = s.reduces := rfl
@[simp] theorem State.modArr_held (s : State) (q : Sq) (f : Arr → Arr) : (s.modArr q f).held = s.held := rfl
@[simp] theorem State.modArr_msix (s : State) (q : Sq) (f : Arr → Arr) : (s.modArr q f).msix = s.msix := rfl
@[simp] theorem State.modArr_intervals (s : State) (q : Sq) (f : Arr → Arr) : (s.modArr q f).intervals = s.intervals := rfl
@[simp] theorem State.modArr_brownStart (s : State) (q : Sq) (f : Arr → Arr) : (s.modArr q f).brownStart = s.brownStart := rfl
@[simp] theorem State.modArr_offStart (s : State) (q : Sq) (f : Arr → Arr) : (s.modArr q f).offStart = s.offStart := rfl
@[simp] theorem State.modArr_persistGen (s : State) (q : Sq) (f : Arr → Arr) : (s.modArr q f).persistGen = s.persistGen := rfl
@[simp] theorem State.modArr_hubSeal (s : State) (q : Sq) (f : Arr → Arr) : (s.modArr q f).hubSeal = s.hubSeal := rfl
@[simp] theorem State.modArr_saved (s : State) (q : Sq) (f : Arr → Arr) : (s.modArr q f).saved = s.saved := rfl
@[simp] theorem State.modArr_trail (s : State) (q : Sq) (f : Arr → Arr) : (s.modArr q f).trail = s.trail := rfl
@[simp] theorem State.modArr_watches (s : State) (q : Sq) (f : Arr → Arr) : (s.modArr q f).watches = s.watches := rfl
@[simp] theorem State.modArr_tick (s : State) (q : Sq) (f : Arr → Arr) : (s.modArr q f).tick = s.tick := rfl
@[simp] theorem State.modArr_free (s : State) (q : Sq) (f : Arr → Arr) : (s.modArr q f).free = s.free := rfl
@[simp] theorem State.modArr_agenda (s : State) (q : Sq) (f : Arr → Arr) : (s.modArr q f).agenda = s.agenda := rfl
@[simp] theorem State.modArr_fsq (s : State) (q : Sq) (f : Arr → Arr) : (s.modArr q f).fsq = s.fsq := rfl
@[simp] theorem State.modArr_fcx (s : State) (q : Sq) (f : Arr → Arr) : (s.modArr q f).fcx = s.fcx := rfl
@[simp] theorem State.modArr_lastRead (s : State) (q : Sq) (f : Arr → Arr) : (s.modArr q f).lastRead = s.lastRead := rfl

/-! ## setMe -/

@[simp] theorem State.setMe_now (s : State) (x : Ctx) : (s.setMe x).now = s.now := rfl
@[simp] theorem State.setMe_power (s : State) (x : Ctx) : (s.setMe x).power = s.power := rfl
@[simp] theorem State.setMe_mchk (s : State) (x : Ctx) : (s.setMe x).mchk = s.mchk := rfl
@[simp] theorem State.setMe_mem (s : State) (x : Ctx) : (s.setMe x).mem = s.mem := rfl
@[simp] theorem State.setMe_bad (s : State) (x : Ctx) : (s.setMe x).bad = s.bad := rfl
@[simp] theorem State.setMe_wear (s : State) (x : Ctx) : (s.setMe x).wear = s.wear := rfl
@[simp] theorem State.setMe_ptbr (s : State) (x : Ctx) : (s.setMe x).ptbr = s.ptbr := rfl
@[simp] theorem State.setMe_root (s : State) (x : Ctx) : (s.setMe x).root = s.root := rfl
@[simp] theorem State.setMe_bcast (s : State) (x : Ctx) : (s.setMe x).bcast = s.bcast := rfl
@[simp] theorem State.setMe_bseq (s : State) (x : Ctx) : (s.setMe x).bseq = s.bseq := rfl
@[simp] theorem State.setMe_localF (s : State) (x : Ctx) : (s.setMe x).localF = s.localF := rfl
@[simp] theorem State.setMe_edges (s : State) (x : Ctx) : (s.setMe x).edges = s.edges := rfl
@[simp] theorem State.setMe_regions (s : State) (x : Ctx) : (s.setMe x).regions = s.regions := rfl
@[simp] theorem State.setMe_notes (s : State) (x : Ctx) : (s.setMe x).notes = s.notes := rfl
@[simp] theorem State.setMe_residences (s : State) (x : Ctx) : (s.setMe x).residences = s.residences := rfl
@[simp] theorem State.setMe_maps (s : State) (x : Ctx) : (s.setMe x).maps = s.maps := rfl
@[simp] theorem State.setMe_blks (s : State) (x : Ctx) : (s.setMe x).blks = s.blks := rfl
@[simp] theorem State.setMe_blkGen (s : State) (x : Ctx) : (s.setMe x).blkGen = s.blkGen := rfl
@[simp] theorem State.setMe_dieTlb (s : State) (x : Ctx) : (s.setMe x).dieTlb = s.dieTlb := rfl
@[simp] theorem State.setMe_walkCache (s : State) (x : Ctx) : (s.setMe x).walkCache = s.walkCache := rfl
@[simp] theorem State.setMe_bulk (s : State) (x : Ctx) : (s.setMe x).bulk = s.bulk := rfl
@[simp] theorem State.setMe_bulkFreed (s : State) (x : Ctx) : (s.setMe x).bulkFreed = s.bulkFreed := rfl
@[simp] theorem State.setMe_patchLevel (s : State) (x : Ctx) : (s.setMe x).patchLevel = s.patchLevel := rfl
@[simp] theorem State.setMe_patchFloor (s : State) (x : Ctx) : (s.setMe x).patchFloor = s.patchFloor := rfl
@[simp] theorem State.setMe_patchSlot (s : State) (x : Ctx) : (s.setMe x).patchSlot = s.patchSlot := rfl
@[simp] theorem State.setMe_patchStore (s : State) (x : Ctx) : (s.setMe x).patchStore = s.patchStore := rfl
@[simp] theorem State.setMe_keySlots (s : State) (x : Ctx) : (s.setMe x).keySlots = s.keySlots := rfl
@[simp] theorem State.setMe_modn (s : State) (x : Ctx) : (s.setMe x).modn = s.modn := rfl
@[simp] theorem State.setMe_peers (s : State) (x : Ctx) : (s.setMe x).peers = s.peers := rfl
@[simp] theorem State.setMe_lup (s : State) (x : Ctx) : (s.setMe x).lup = s.lup := rfl
@[simp] theorem State.setMe_lanes (s : State) (x : Ctx) : (s.setMe x).lanes = s.lanes := rfl
@[simp] theorem State.setMe_winBase (s : State) (x : Ctx) : (s.setMe x).winBase = s.winBase := rfl
@[simp] theorem State.setMe_wflt (s : State) (x : Ctx) : (s.setMe x).wflt = s.wflt := rfl
@[simp] theorem State.setMe_qps (s : State) (x : Ctx) : (s.setMe x).qps = s.qps := rfl
@[simp] theorem State.setMe_hostMem (s : State) (x : Ctx) : (s.setMe x).hostMem = s.hostMem := rfl
@[simp] theorem State.setMe_cur (s : State) (x : Ctx) : (s.setMe x).cur = s.cur := rfl
@[simp] theorem State.setMe_heads (s : State) (x : Ctx) : (s.setMe x).heads = s.heads := rfl
@[simp] theorem State.setMe_unloads (s : State) (x : Ctx) : (s.setMe x).unloads = s.unloads := rfl
@[simp] theorem State.setMe_round (s : State) (x : Ctx) : (s.setMe x).round = s.round := rfl
@[simp] theorem State.setMe_installs (s : State) (x : Ctx) : (s.setMe x).installs = s.installs := rfl
@[simp] theorem State.setMe_invs (s : State) (x : Ctx) : (s.setMe x).invs = s.invs := rfl
@[simp] theorem State.setMe_closedInvs (s : State) (x : Ctx) : (s.setMe x).closedInvs = s.closedInvs := rfl
@[simp] theorem State.setMe_nextInv (s : State) (x : Ctx) : (s.setMe x).nextInv = s.nextInv := rfl
@[simp] theorem State.setMe_nextTask (s : State) (x : Ctx) : (s.setMe x).nextTask = s.nextTask := rfl
@[simp] theorem State.setMe_notifies (s : State) (x : Ctx) : (s.setMe x).notifies = s.notifies := rfl
@[simp] theorem State.setMe_reduces (s : State) (x : Ctx) : (s.setMe x).reduces = s.reduces := rfl
@[simp] theorem State.setMe_held (s : State) (x : Ctx) : (s.setMe x).held = s.held := rfl
@[simp] theorem State.setMe_msix (s : State) (x : Ctx) : (s.setMe x).msix = s.msix := rfl
@[simp] theorem State.setMe_intervals (s : State) (x : Ctx) : (s.setMe x).intervals = s.intervals := rfl
@[simp] theorem State.setMe_brownStart (s : State) (x : Ctx) : (s.setMe x).brownStart = s.brownStart := rfl
@[simp] theorem State.setMe_offStart (s : State) (x : Ctx) : (s.setMe x).offStart = s.offStart := rfl
@[simp] theorem State.setMe_persistGen (s : State) (x : Ctx) : (s.setMe x).persistGen = s.persistGen := rfl
@[simp] theorem State.setMe_hubSeal (s : State) (x : Ctx) : (s.setMe x).hubSeal = s.hubSeal := rfl
@[simp] theorem State.setMe_saved (s : State) (x : Ctx) : (s.setMe x).saved = s.saved := rfl
@[simp] theorem State.setMe_trail (s : State) (x : Ctx) : (s.setMe x).trail = s.trail := rfl
@[simp] theorem State.setMe_watches (s : State) (x : Ctx) : (s.setMe x).watches = s.watches := rfl
@[simp] theorem State.setMe_tick (s : State) (x : Ctx) : (s.setMe x).tick = s.tick := rfl
@[simp] theorem State.setMe_free (s : State) (x : Ctx) : (s.setMe x).free = s.free := rfl
@[simp] theorem State.setMe_agenda (s : State) (x : Ctx) : (s.setMe x).agenda = s.agenda := rfl
@[simp] theorem State.setMe_fsq (s : State) (x : Ctx) : (s.setMe x).fsq = s.fsq := rfl
@[simp] theorem State.setMe_fcx (s : State) (x : Ctx) : (s.setMe x).fcx = s.fcx := rfl
@[simp] theorem State.setMe_lastRead (s : State) (x : Ctx) : (s.setMe x).lastRead = s.lastRead := rfl

/-! ## modMe -/

@[simp] theorem State.modMe_now (s : State) (f : Ctx → Ctx) : (s.modMe f).now = s.now := rfl
@[simp] theorem State.modMe_power (s : State) (f : Ctx → Ctx) : (s.modMe f).power = s.power := rfl
@[simp] theorem State.modMe_mchk (s : State) (f : Ctx → Ctx) : (s.modMe f).mchk = s.mchk := rfl
@[simp] theorem State.modMe_mem (s : State) (f : Ctx → Ctx) : (s.modMe f).mem = s.mem := rfl
@[simp] theorem State.modMe_bad (s : State) (f : Ctx → Ctx) : (s.modMe f).bad = s.bad := rfl
@[simp] theorem State.modMe_wear (s : State) (f : Ctx → Ctx) : (s.modMe f).wear = s.wear := rfl
@[simp] theorem State.modMe_ptbr (s : State) (f : Ctx → Ctx) : (s.modMe f).ptbr = s.ptbr := rfl
@[simp] theorem State.modMe_root (s : State) (f : Ctx → Ctx) : (s.modMe f).root = s.root := rfl
@[simp] theorem State.modMe_bcast (s : State) (f : Ctx → Ctx) : (s.modMe f).bcast = s.bcast := rfl
@[simp] theorem State.modMe_bseq (s : State) (f : Ctx → Ctx) : (s.modMe f).bseq = s.bseq := rfl
@[simp] theorem State.modMe_localF (s : State) (f : Ctx → Ctx) : (s.modMe f).localF = s.localF := rfl
@[simp] theorem State.modMe_edges (s : State) (f : Ctx → Ctx) : (s.modMe f).edges = s.edges := rfl
@[simp] theorem State.modMe_regions (s : State) (f : Ctx → Ctx) : (s.modMe f).regions = s.regions := rfl
@[simp] theorem State.modMe_notes (s : State) (f : Ctx → Ctx) : (s.modMe f).notes = s.notes := rfl
@[simp] theorem State.modMe_residences (s : State) (f : Ctx → Ctx) : (s.modMe f).residences = s.residences := rfl
@[simp] theorem State.modMe_maps (s : State) (f : Ctx → Ctx) : (s.modMe f).maps = s.maps := rfl
@[simp] theorem State.modMe_blks (s : State) (f : Ctx → Ctx) : (s.modMe f).blks = s.blks := rfl
@[simp] theorem State.modMe_blkGen (s : State) (f : Ctx → Ctx) : (s.modMe f).blkGen = s.blkGen := rfl
@[simp] theorem State.modMe_dieTlb (s : State) (f : Ctx → Ctx) : (s.modMe f).dieTlb = s.dieTlb := rfl
@[simp] theorem State.modMe_walkCache (s : State) (f : Ctx → Ctx) : (s.modMe f).walkCache = s.walkCache := rfl
@[simp] theorem State.modMe_bulk (s : State) (f : Ctx → Ctx) : (s.modMe f).bulk = s.bulk := rfl
@[simp] theorem State.modMe_bulkFreed (s : State) (f : Ctx → Ctx) : (s.modMe f).bulkFreed = s.bulkFreed := rfl
@[simp] theorem State.modMe_patchLevel (s : State) (f : Ctx → Ctx) : (s.modMe f).patchLevel = s.patchLevel := rfl
@[simp] theorem State.modMe_patchFloor (s : State) (f : Ctx → Ctx) : (s.modMe f).patchFloor = s.patchFloor := rfl
@[simp] theorem State.modMe_patchSlot (s : State) (f : Ctx → Ctx) : (s.modMe f).patchSlot = s.patchSlot := rfl
@[simp] theorem State.modMe_patchStore (s : State) (f : Ctx → Ctx) : (s.modMe f).patchStore = s.patchStore := rfl
@[simp] theorem State.modMe_keySlots (s : State) (f : Ctx → Ctx) : (s.modMe f).keySlots = s.keySlots := rfl
@[simp] theorem State.modMe_modn (s : State) (f : Ctx → Ctx) : (s.modMe f).modn = s.modn := rfl
@[simp] theorem State.modMe_peers (s : State) (f : Ctx → Ctx) : (s.modMe f).peers = s.peers := rfl
@[simp] theorem State.modMe_lup (s : State) (f : Ctx → Ctx) : (s.modMe f).lup = s.lup := rfl
@[simp] theorem State.modMe_lanes (s : State) (f : Ctx → Ctx) : (s.modMe f).lanes = s.lanes := rfl
@[simp] theorem State.modMe_winBase (s : State) (f : Ctx → Ctx) : (s.modMe f).winBase = s.winBase := rfl
@[simp] theorem State.modMe_wflt (s : State) (f : Ctx → Ctx) : (s.modMe f).wflt = s.wflt := rfl
@[simp] theorem State.modMe_qps (s : State) (f : Ctx → Ctx) : (s.modMe f).qps = s.qps := rfl
@[simp] theorem State.modMe_hostMem (s : State) (f : Ctx → Ctx) : (s.modMe f).hostMem = s.hostMem := rfl
@[simp] theorem State.modMe_cur (s : State) (f : Ctx → Ctx) : (s.modMe f).cur = s.cur := rfl
@[simp] theorem State.modMe_heads (s : State) (f : Ctx → Ctx) : (s.modMe f).heads = s.heads := rfl
@[simp] theorem State.modMe_unloads (s : State) (f : Ctx → Ctx) : (s.modMe f).unloads = s.unloads := rfl
@[simp] theorem State.modMe_round (s : State) (f : Ctx → Ctx) : (s.modMe f).round = s.round := rfl
@[simp] theorem State.modMe_installs (s : State) (f : Ctx → Ctx) : (s.modMe f).installs = s.installs := rfl
@[simp] theorem State.modMe_invs (s : State) (f : Ctx → Ctx) : (s.modMe f).invs = s.invs := rfl
@[simp] theorem State.modMe_closedInvs (s : State) (f : Ctx → Ctx) : (s.modMe f).closedInvs = s.closedInvs := rfl
@[simp] theorem State.modMe_nextInv (s : State) (f : Ctx → Ctx) : (s.modMe f).nextInv = s.nextInv := rfl
@[simp] theorem State.modMe_nextTask (s : State) (f : Ctx → Ctx) : (s.modMe f).nextTask = s.nextTask := rfl
@[simp] theorem State.modMe_notifies (s : State) (f : Ctx → Ctx) : (s.modMe f).notifies = s.notifies := rfl
@[simp] theorem State.modMe_reduces (s : State) (f : Ctx → Ctx) : (s.modMe f).reduces = s.reduces := rfl
@[simp] theorem State.modMe_held (s : State) (f : Ctx → Ctx) : (s.modMe f).held = s.held := rfl
@[simp] theorem State.modMe_msix (s : State) (f : Ctx → Ctx) : (s.modMe f).msix = s.msix := rfl
@[simp] theorem State.modMe_intervals (s : State) (f : Ctx → Ctx) : (s.modMe f).intervals = s.intervals := rfl
@[simp] theorem State.modMe_brownStart (s : State) (f : Ctx → Ctx) : (s.modMe f).brownStart = s.brownStart := rfl
@[simp] theorem State.modMe_offStart (s : State) (f : Ctx → Ctx) : (s.modMe f).offStart = s.offStart := rfl
@[simp] theorem State.modMe_persistGen (s : State) (f : Ctx → Ctx) : (s.modMe f).persistGen = s.persistGen := rfl
@[simp] theorem State.modMe_hubSeal (s : State) (f : Ctx → Ctx) : (s.modMe f).hubSeal = s.hubSeal := rfl
@[simp] theorem State.modMe_saved (s : State) (f : Ctx → Ctx) : (s.modMe f).saved = s.saved := rfl
@[simp] theorem State.modMe_trail (s : State) (f : Ctx → Ctx) : (s.modMe f).trail = s.trail := rfl
@[simp] theorem State.modMe_watches (s : State) (f : Ctx → Ctx) : (s.modMe f).watches = s.watches := rfl
@[simp] theorem State.modMe_tick (s : State) (f : Ctx → Ctx) : (s.modMe f).tick = s.tick := rfl
@[simp] theorem State.modMe_free (s : State) (f : Ctx → Ctx) : (s.modMe f).free = s.free := rfl
@[simp] theorem State.modMe_agenda (s : State) (f : Ctx → Ctx) : (s.modMe f).agenda = s.agenda := rfl
@[simp] theorem State.modMe_fsq (s : State) (f : Ctx → Ctx) : (s.modMe f).fsq = s.fsq := rfl
@[simp] theorem State.modMe_fcx (s : State) (f : Ctx → Ctx) : (s.modMe f).fcx = s.fcx := rfl
@[simp] theorem State.modMe_lastRead (s : State) (f : Ctx → Ctx) : (s.modMe f).lastRead = s.lastRead := rfl

/-! ## wS -/

@[simp] theorem State.wS_now (s : State) (r : Reg) (v : Word) : (s.wS r v).now = s.now := rfl
@[simp] theorem State.wS_power (s : State) (r : Reg) (v : Word) : (s.wS r v).power = s.power := rfl
@[simp] theorem State.wS_mchk (s : State) (r : Reg) (v : Word) : (s.wS r v).mchk = s.mchk := rfl
@[simp] theorem State.wS_mem (s : State) (r : Reg) (v : Word) : (s.wS r v).mem = s.mem := rfl
@[simp] theorem State.wS_bad (s : State) (r : Reg) (v : Word) : (s.wS r v).bad = s.bad := rfl
@[simp] theorem State.wS_wear (s : State) (r : Reg) (v : Word) : (s.wS r v).wear = s.wear := rfl
@[simp] theorem State.wS_ptbr (s : State) (r : Reg) (v : Word) : (s.wS r v).ptbr = s.ptbr := rfl
@[simp] theorem State.wS_root (s : State) (r : Reg) (v : Word) : (s.wS r v).root = s.root := rfl
@[simp] theorem State.wS_bcast (s : State) (r : Reg) (v : Word) : (s.wS r v).bcast = s.bcast := rfl
@[simp] theorem State.wS_bseq (s : State) (r : Reg) (v : Word) : (s.wS r v).bseq = s.bseq := rfl
@[simp] theorem State.wS_localF (s : State) (r : Reg) (v : Word) : (s.wS r v).localF = s.localF := rfl
@[simp] theorem State.wS_edges (s : State) (r : Reg) (v : Word) : (s.wS r v).edges = s.edges := rfl
@[simp] theorem State.wS_regions (s : State) (r : Reg) (v : Word) : (s.wS r v).regions = s.regions := rfl
@[simp] theorem State.wS_notes (s : State) (r : Reg) (v : Word) : (s.wS r v).notes = s.notes := rfl
@[simp] theorem State.wS_residences (s : State) (r : Reg) (v : Word) : (s.wS r v).residences = s.residences := rfl
@[simp] theorem State.wS_maps (s : State) (r : Reg) (v : Word) : (s.wS r v).maps = s.maps := rfl
@[simp] theorem State.wS_blks (s : State) (r : Reg) (v : Word) : (s.wS r v).blks = s.blks := rfl
@[simp] theorem State.wS_blkGen (s : State) (r : Reg) (v : Word) : (s.wS r v).blkGen = s.blkGen := rfl
@[simp] theorem State.wS_dieTlb (s : State) (r : Reg) (v : Word) : (s.wS r v).dieTlb = s.dieTlb := rfl
@[simp] theorem State.wS_walkCache (s : State) (r : Reg) (v : Word) : (s.wS r v).walkCache = s.walkCache := rfl
@[simp] theorem State.wS_bulk (s : State) (r : Reg) (v : Word) : (s.wS r v).bulk = s.bulk := rfl
@[simp] theorem State.wS_bulkFreed (s : State) (r : Reg) (v : Word) : (s.wS r v).bulkFreed = s.bulkFreed := rfl
@[simp] theorem State.wS_patchLevel (s : State) (r : Reg) (v : Word) : (s.wS r v).patchLevel = s.patchLevel := rfl
@[simp] theorem State.wS_patchFloor (s : State) (r : Reg) (v : Word) : (s.wS r v).patchFloor = s.patchFloor := rfl
@[simp] theorem State.wS_patchSlot (s : State) (r : Reg) (v : Word) : (s.wS r v).patchSlot = s.patchSlot := rfl
@[simp] theorem State.wS_patchStore (s : State) (r : Reg) (v : Word) : (s.wS r v).patchStore = s.patchStore := rfl
@[simp] theorem State.wS_keySlots (s : State) (r : Reg) (v : Word) : (s.wS r v).keySlots = s.keySlots := rfl
@[simp] theorem State.wS_modn (s : State) (r : Reg) (v : Word) : (s.wS r v).modn = s.modn := rfl
@[simp] theorem State.wS_peers (s : State) (r : Reg) (v : Word) : (s.wS r v).peers = s.peers := rfl
@[simp] theorem State.wS_lup (s : State) (r : Reg) (v : Word) : (s.wS r v).lup = s.lup := rfl
@[simp] theorem State.wS_lanes (s : State) (r : Reg) (v : Word) : (s.wS r v).lanes = s.lanes := rfl
@[simp] theorem State.wS_winBase (s : State) (r : Reg) (v : Word) : (s.wS r v).winBase = s.winBase := rfl
@[simp] theorem State.wS_wflt (s : State) (r : Reg) (v : Word) : (s.wS r v).wflt = s.wflt := rfl
@[simp] theorem State.wS_qps (s : State) (r : Reg) (v : Word) : (s.wS r v).qps = s.qps := rfl
@[simp] theorem State.wS_hostMem (s : State) (r : Reg) (v : Word) : (s.wS r v).hostMem = s.hostMem := rfl
@[simp] theorem State.wS_cur (s : State) (r : Reg) (v : Word) : (s.wS r v).cur = s.cur := rfl
@[simp] theorem State.wS_heads (s : State) (r : Reg) (v : Word) : (s.wS r v).heads = s.heads := rfl
@[simp] theorem State.wS_unloads (s : State) (r : Reg) (v : Word) : (s.wS r v).unloads = s.unloads := rfl
@[simp] theorem State.wS_round (s : State) (r : Reg) (v : Word) : (s.wS r v).round = s.round := rfl
@[simp] theorem State.wS_installs (s : State) (r : Reg) (v : Word) : (s.wS r v).installs = s.installs := rfl
@[simp] theorem State.wS_invs (s : State) (r : Reg) (v : Word) : (s.wS r v).invs = s.invs := rfl
@[simp] theorem State.wS_closedInvs (s : State) (r : Reg) (v : Word) : (s.wS r v).closedInvs = s.closedInvs := rfl
@[simp] theorem State.wS_nextInv (s : State) (r : Reg) (v : Word) : (s.wS r v).nextInv = s.nextInv := rfl
@[simp] theorem State.wS_nextTask (s : State) (r : Reg) (v : Word) : (s.wS r v).nextTask = s.nextTask := rfl
@[simp] theorem State.wS_notifies (s : State) (r : Reg) (v : Word) : (s.wS r v).notifies = s.notifies := rfl
@[simp] theorem State.wS_reduces (s : State) (r : Reg) (v : Word) : (s.wS r v).reduces = s.reduces := rfl
@[simp] theorem State.wS_held (s : State) (r : Reg) (v : Word) : (s.wS r v).held = s.held := rfl
@[simp] theorem State.wS_msix (s : State) (r : Reg) (v : Word) : (s.wS r v).msix = s.msix := rfl
@[simp] theorem State.wS_intervals (s : State) (r : Reg) (v : Word) : (s.wS r v).intervals = s.intervals := rfl
@[simp] theorem State.wS_brownStart (s : State) (r : Reg) (v : Word) : (s.wS r v).brownStart = s.brownStart := rfl
@[simp] theorem State.wS_offStart (s : State) (r : Reg) (v : Word) : (s.wS r v).offStart = s.offStart := rfl
@[simp] theorem State.wS_persistGen (s : State) (r : Reg) (v : Word) : (s.wS r v).persistGen = s.persistGen := rfl
@[simp] theorem State.wS_hubSeal (s : State) (r : Reg) (v : Word) : (s.wS r v).hubSeal = s.hubSeal := rfl
@[simp] theorem State.wS_saved (s : State) (r : Reg) (v : Word) : (s.wS r v).saved = s.saved := rfl
@[simp] theorem State.wS_trail (s : State) (r : Reg) (v : Word) : (s.wS r v).trail = s.trail := rfl
@[simp] theorem State.wS_watches (s : State) (r : Reg) (v : Word) : (s.wS r v).watches = s.watches := rfl
@[simp] theorem State.wS_tick (s : State) (r : Reg) (v : Word) : (s.wS r v).tick = s.tick := rfl
@[simp] theorem State.wS_free (s : State) (r : Reg) (v : Word) : (s.wS r v).free = s.free := rfl
@[simp] theorem State.wS_agenda (s : State) (r : Reg) (v : Word) : (s.wS r v).agenda = s.agenda := rfl
@[simp] theorem State.wS_fsq (s : State) (r : Reg) (v : Word) : (s.wS r v).fsq = s.fsq := rfl
@[simp] theorem State.wS_fcx (s : State) (r : Reg) (v : Word) : (s.wS r v).fcx = s.fcx := rfl
@[simp] theorem State.wS_lastRead (s : State) (r : Reg) (v : Word) : (s.wS r v).lastRead = s.lastRead := rfl

/-! ## wP -/

@[simp] theorem State.wP_now (s : State) (r : Pr) (v : Bool) : (s.wP r v).now = s.now := rfl
@[simp] theorem State.wP_power (s : State) (r : Pr) (v : Bool) : (s.wP r v).power = s.power := rfl
@[simp] theorem State.wP_mchk (s : State) (r : Pr) (v : Bool) : (s.wP r v).mchk = s.mchk := rfl
@[simp] theorem State.wP_mem (s : State) (r : Pr) (v : Bool) : (s.wP r v).mem = s.mem := rfl
@[simp] theorem State.wP_bad (s : State) (r : Pr) (v : Bool) : (s.wP r v).bad = s.bad := rfl
@[simp] theorem State.wP_wear (s : State) (r : Pr) (v : Bool) : (s.wP r v).wear = s.wear := rfl
@[simp] theorem State.wP_ptbr (s : State) (r : Pr) (v : Bool) : (s.wP r v).ptbr = s.ptbr := rfl
@[simp] theorem State.wP_root (s : State) (r : Pr) (v : Bool) : (s.wP r v).root = s.root := rfl
@[simp] theorem State.wP_bcast (s : State) (r : Pr) (v : Bool) : (s.wP r v).bcast = s.bcast := rfl
@[simp] theorem State.wP_bseq (s : State) (r : Pr) (v : Bool) : (s.wP r v).bseq = s.bseq := rfl
@[simp] theorem State.wP_localF (s : State) (r : Pr) (v : Bool) : (s.wP r v).localF = s.localF := rfl
@[simp] theorem State.wP_edges (s : State) (r : Pr) (v : Bool) : (s.wP r v).edges = s.edges := rfl
@[simp] theorem State.wP_regions (s : State) (r : Pr) (v : Bool) : (s.wP r v).regions = s.regions := rfl
@[simp] theorem State.wP_notes (s : State) (r : Pr) (v : Bool) : (s.wP r v).notes = s.notes := rfl
@[simp] theorem State.wP_residences (s : State) (r : Pr) (v : Bool) : (s.wP r v).residences = s.residences := rfl
@[simp] theorem State.wP_maps (s : State) (r : Pr) (v : Bool) : (s.wP r v).maps = s.maps := rfl
@[simp] theorem State.wP_blks (s : State) (r : Pr) (v : Bool) : (s.wP r v).blks = s.blks := rfl
@[simp] theorem State.wP_blkGen (s : State) (r : Pr) (v : Bool) : (s.wP r v).blkGen = s.blkGen := rfl
@[simp] theorem State.wP_dieTlb (s : State) (r : Pr) (v : Bool) : (s.wP r v).dieTlb = s.dieTlb := rfl
@[simp] theorem State.wP_walkCache (s : State) (r : Pr) (v : Bool) : (s.wP r v).walkCache = s.walkCache := rfl
@[simp] theorem State.wP_bulk (s : State) (r : Pr) (v : Bool) : (s.wP r v).bulk = s.bulk := rfl
@[simp] theorem State.wP_bulkFreed (s : State) (r : Pr) (v : Bool) : (s.wP r v).bulkFreed = s.bulkFreed := rfl
@[simp] theorem State.wP_patchLevel (s : State) (r : Pr) (v : Bool) : (s.wP r v).patchLevel = s.patchLevel := rfl
@[simp] theorem State.wP_patchFloor (s : State) (r : Pr) (v : Bool) : (s.wP r v).patchFloor = s.patchFloor := rfl
@[simp] theorem State.wP_patchSlot (s : State) (r : Pr) (v : Bool) : (s.wP r v).patchSlot = s.patchSlot := rfl
@[simp] theorem State.wP_patchStore (s : State) (r : Pr) (v : Bool) : (s.wP r v).patchStore = s.patchStore := rfl
@[simp] theorem State.wP_keySlots (s : State) (r : Pr) (v : Bool) : (s.wP r v).keySlots = s.keySlots := rfl
@[simp] theorem State.wP_modn (s : State) (r : Pr) (v : Bool) : (s.wP r v).modn = s.modn := rfl
@[simp] theorem State.wP_peers (s : State) (r : Pr) (v : Bool) : (s.wP r v).peers = s.peers := rfl
@[simp] theorem State.wP_lup (s : State) (r : Pr) (v : Bool) : (s.wP r v).lup = s.lup := rfl
@[simp] theorem State.wP_lanes (s : State) (r : Pr) (v : Bool) : (s.wP r v).lanes = s.lanes := rfl
@[simp] theorem State.wP_winBase (s : State) (r : Pr) (v : Bool) : (s.wP r v).winBase = s.winBase := rfl
@[simp] theorem State.wP_wflt (s : State) (r : Pr) (v : Bool) : (s.wP r v).wflt = s.wflt := rfl
@[simp] theorem State.wP_qps (s : State) (r : Pr) (v : Bool) : (s.wP r v).qps = s.qps := rfl
@[simp] theorem State.wP_hostMem (s : State) (r : Pr) (v : Bool) : (s.wP r v).hostMem = s.hostMem := rfl
@[simp] theorem State.wP_cur (s : State) (r : Pr) (v : Bool) : (s.wP r v).cur = s.cur := rfl
@[simp] theorem State.wP_heads (s : State) (r : Pr) (v : Bool) : (s.wP r v).heads = s.heads := rfl
@[simp] theorem State.wP_unloads (s : State) (r : Pr) (v : Bool) : (s.wP r v).unloads = s.unloads := rfl
@[simp] theorem State.wP_round (s : State) (r : Pr) (v : Bool) : (s.wP r v).round = s.round := rfl
@[simp] theorem State.wP_installs (s : State) (r : Pr) (v : Bool) : (s.wP r v).installs = s.installs := rfl
@[simp] theorem State.wP_invs (s : State) (r : Pr) (v : Bool) : (s.wP r v).invs = s.invs := rfl
@[simp] theorem State.wP_closedInvs (s : State) (r : Pr) (v : Bool) : (s.wP r v).closedInvs = s.closedInvs := rfl
@[simp] theorem State.wP_nextInv (s : State) (r : Pr) (v : Bool) : (s.wP r v).nextInv = s.nextInv := rfl
@[simp] theorem State.wP_nextTask (s : State) (r : Pr) (v : Bool) : (s.wP r v).nextTask = s.nextTask := rfl
@[simp] theorem State.wP_notifies (s : State) (r : Pr) (v : Bool) : (s.wP r v).notifies = s.notifies := rfl
@[simp] theorem State.wP_reduces (s : State) (r : Pr) (v : Bool) : (s.wP r v).reduces = s.reduces := rfl
@[simp] theorem State.wP_held (s : State) (r : Pr) (v : Bool) : (s.wP r v).held = s.held := rfl
@[simp] theorem State.wP_msix (s : State) (r : Pr) (v : Bool) : (s.wP r v).msix = s.msix := rfl
@[simp] theorem State.wP_intervals (s : State) (r : Pr) (v : Bool) : (s.wP r v).intervals = s.intervals := rfl
@[simp] theorem State.wP_brownStart (s : State) (r : Pr) (v : Bool) : (s.wP r v).brownStart = s.brownStart := rfl
@[simp] theorem State.wP_offStart (s : State) (r : Pr) (v : Bool) : (s.wP r v).offStart = s.offStart := rfl
@[simp] theorem State.wP_persistGen (s : State) (r : Pr) (v : Bool) : (s.wP r v).persistGen = s.persistGen := rfl
@[simp] theorem State.wP_hubSeal (s : State) (r : Pr) (v : Bool) : (s.wP r v).hubSeal = s.hubSeal := rfl
@[simp] theorem State.wP_saved (s : State) (r : Pr) (v : Bool) : (s.wP r v).saved = s.saved := rfl
@[simp] theorem State.wP_trail (s : State) (r : Pr) (v : Bool) : (s.wP r v).trail = s.trail := rfl
@[simp] theorem State.wP_watches (s : State) (r : Pr) (v : Bool) : (s.wP r v).watches = s.watches := rfl
@[simp] theorem State.wP_tick (s : State) (r : Pr) (v : Bool) : (s.wP r v).tick = s.tick := rfl
@[simp] theorem State.wP_free (s : State) (r : Pr) (v : Bool) : (s.wP r v).free = s.free := rfl
@[simp] theorem State.wP_agenda (s : State) (r : Pr) (v : Bool) : (s.wP r v).agenda = s.agenda := rfl
@[simp] theorem State.wP_fsq (s : State) (r : Pr) (v : Bool) : (s.wP r v).fsq = s.fsq := rfl
@[simp] theorem State.wP_fcx (s : State) (r : Pr) (v : Bool) : (s.wP r v).fcx = s.fcx := rfl
@[simp] theorem State.wP_lastRead (s : State) (r : Pr) (v : Bool) : (s.wP r v).lastRead = s.lastRead := rfl

/-! ## wT -/

@[simp] theorem State.wT_now (s : State) (r : Tm) (v : Word) : (s.wT r v).now = s.now := rfl
@[simp] theorem State.wT_power (s : State) (r : Tm) (v : Word) : (s.wT r v).power = s.power := rfl
@[simp] theorem State.wT_mchk (s : State) (r : Tm) (v : Word) : (s.wT r v).mchk = s.mchk := rfl
@[simp] theorem State.wT_mem (s : State) (r : Tm) (v : Word) : (s.wT r v).mem = s.mem := rfl
@[simp] theorem State.wT_bad (s : State) (r : Tm) (v : Word) : (s.wT r v).bad = s.bad := rfl
@[simp] theorem State.wT_wear (s : State) (r : Tm) (v : Word) : (s.wT r v).wear = s.wear := rfl
@[simp] theorem State.wT_ptbr (s : State) (r : Tm) (v : Word) : (s.wT r v).ptbr = s.ptbr := rfl
@[simp] theorem State.wT_root (s : State) (r : Tm) (v : Word) : (s.wT r v).root = s.root := rfl
@[simp] theorem State.wT_bcast (s : State) (r : Tm) (v : Word) : (s.wT r v).bcast = s.bcast := rfl
@[simp] theorem State.wT_bseq (s : State) (r : Tm) (v : Word) : (s.wT r v).bseq = s.bseq := rfl
@[simp] theorem State.wT_localF (s : State) (r : Tm) (v : Word) : (s.wT r v).localF = s.localF := rfl
@[simp] theorem State.wT_edges (s : State) (r : Tm) (v : Word) : (s.wT r v).edges = s.edges := rfl
@[simp] theorem State.wT_regions (s : State) (r : Tm) (v : Word) : (s.wT r v).regions = s.regions := rfl
@[simp] theorem State.wT_notes (s : State) (r : Tm) (v : Word) : (s.wT r v).notes = s.notes := rfl
@[simp] theorem State.wT_residences (s : State) (r : Tm) (v : Word) : (s.wT r v).residences = s.residences := rfl
@[simp] theorem State.wT_maps (s : State) (r : Tm) (v : Word) : (s.wT r v).maps = s.maps := rfl
@[simp] theorem State.wT_blks (s : State) (r : Tm) (v : Word) : (s.wT r v).blks = s.blks := rfl
@[simp] theorem State.wT_blkGen (s : State) (r : Tm) (v : Word) : (s.wT r v).blkGen = s.blkGen := rfl
@[simp] theorem State.wT_dieTlb (s : State) (r : Tm) (v : Word) : (s.wT r v).dieTlb = s.dieTlb := rfl
@[simp] theorem State.wT_walkCache (s : State) (r : Tm) (v : Word) : (s.wT r v).walkCache = s.walkCache := rfl
@[simp] theorem State.wT_bulk (s : State) (r : Tm) (v : Word) : (s.wT r v).bulk = s.bulk := rfl
@[simp] theorem State.wT_bulkFreed (s : State) (r : Tm) (v : Word) : (s.wT r v).bulkFreed = s.bulkFreed := rfl
@[simp] theorem State.wT_patchLevel (s : State) (r : Tm) (v : Word) : (s.wT r v).patchLevel = s.patchLevel := rfl
@[simp] theorem State.wT_patchFloor (s : State) (r : Tm) (v : Word) : (s.wT r v).patchFloor = s.patchFloor := rfl
@[simp] theorem State.wT_patchSlot (s : State) (r : Tm) (v : Word) : (s.wT r v).patchSlot = s.patchSlot := rfl
@[simp] theorem State.wT_patchStore (s : State) (r : Tm) (v : Word) : (s.wT r v).patchStore = s.patchStore := rfl
@[simp] theorem State.wT_keySlots (s : State) (r : Tm) (v : Word) : (s.wT r v).keySlots = s.keySlots := rfl
@[simp] theorem State.wT_modn (s : State) (r : Tm) (v : Word) : (s.wT r v).modn = s.modn := rfl
@[simp] theorem State.wT_peers (s : State) (r : Tm) (v : Word) : (s.wT r v).peers = s.peers := rfl
@[simp] theorem State.wT_lup (s : State) (r : Tm) (v : Word) : (s.wT r v).lup = s.lup := rfl
@[simp] theorem State.wT_lanes (s : State) (r : Tm) (v : Word) : (s.wT r v).lanes = s.lanes := rfl
@[simp] theorem State.wT_winBase (s : State) (r : Tm) (v : Word) : (s.wT r v).winBase = s.winBase := rfl
@[simp] theorem State.wT_wflt (s : State) (r : Tm) (v : Word) : (s.wT r v).wflt = s.wflt := rfl
@[simp] theorem State.wT_qps (s : State) (r : Tm) (v : Word) : (s.wT r v).qps = s.qps := rfl
@[simp] theorem State.wT_hostMem (s : State) (r : Tm) (v : Word) : (s.wT r v).hostMem = s.hostMem := rfl
@[simp] theorem State.wT_cur (s : State) (r : Tm) (v : Word) : (s.wT r v).cur = s.cur := rfl
@[simp] theorem State.wT_heads (s : State) (r : Tm) (v : Word) : (s.wT r v).heads = s.heads := rfl
@[simp] theorem State.wT_unloads (s : State) (r : Tm) (v : Word) : (s.wT r v).unloads = s.unloads := rfl
@[simp] theorem State.wT_round (s : State) (r : Tm) (v : Word) : (s.wT r v).round = s.round := rfl
@[simp] theorem State.wT_installs (s : State) (r : Tm) (v : Word) : (s.wT r v).installs = s.installs := rfl
@[simp] theorem State.wT_invs (s : State) (r : Tm) (v : Word) : (s.wT r v).invs = s.invs := rfl
@[simp] theorem State.wT_closedInvs (s : State) (r : Tm) (v : Word) : (s.wT r v).closedInvs = s.closedInvs := rfl
@[simp] theorem State.wT_nextInv (s : State) (r : Tm) (v : Word) : (s.wT r v).nextInv = s.nextInv := rfl
@[simp] theorem State.wT_nextTask (s : State) (r : Tm) (v : Word) : (s.wT r v).nextTask = s.nextTask := rfl
@[simp] theorem State.wT_notifies (s : State) (r : Tm) (v : Word) : (s.wT r v).notifies = s.notifies := rfl
@[simp] theorem State.wT_reduces (s : State) (r : Tm) (v : Word) : (s.wT r v).reduces = s.reduces := rfl
@[simp] theorem State.wT_held (s : State) (r : Tm) (v : Word) : (s.wT r v).held = s.held := rfl
@[simp] theorem State.wT_msix (s : State) (r : Tm) (v : Word) : (s.wT r v).msix = s.msix := rfl
@[simp] theorem State.wT_intervals (s : State) (r : Tm) (v : Word) : (s.wT r v).intervals = s.intervals := rfl
@[simp] theorem State.wT_brownStart (s : State) (r : Tm) (v : Word) : (s.wT r v).brownStart = s.brownStart := rfl
@[simp] theorem State.wT_offStart (s : State) (r : Tm) (v : Word) : (s.wT r v).offStart = s.offStart := rfl
@[simp] theorem State.wT_persistGen (s : State) (r : Tm) (v : Word) : (s.wT r v).persistGen = s.persistGen := rfl
@[simp] theorem State.wT_hubSeal (s : State) (r : Tm) (v : Word) : (s.wT r v).hubSeal = s.hubSeal := rfl
@[simp] theorem State.wT_saved (s : State) (r : Tm) (v : Word) : (s.wT r v).saved = s.saved := rfl
@[simp] theorem State.wT_trail (s : State) (r : Tm) (v : Word) : (s.wT r v).trail = s.trail := rfl
@[simp] theorem State.wT_watches (s : State) (r : Tm) (v : Word) : (s.wT r v).watches = s.watches := rfl
@[simp] theorem State.wT_tick (s : State) (r : Tm) (v : Word) : (s.wT r v).tick = s.tick := rfl
@[simp] theorem State.wT_free (s : State) (r : Tm) (v : Word) : (s.wT r v).free = s.free := rfl
@[simp] theorem State.wT_agenda (s : State) (r : Tm) (v : Word) : (s.wT r v).agenda = s.agenda := rfl
@[simp] theorem State.wT_fsq (s : State) (r : Tm) (v : Word) : (s.wT r v).fsq = s.fsq := rfl
@[simp] theorem State.wT_fcx (s : State) (r : Tm) (v : Word) : (s.wT r v).fcx = s.fcx := rfl
@[simp] theorem State.wT_lastRead (s : State) (r : Tm) (v : Word) : (s.wT r v).lastRead = s.lastRead := rfl

/-! ## retire -/

@[simp] theorem State.retire_now (s : State) : (s.retire).now = s.now := rfl
@[simp] theorem State.retire_power (s : State) : (s.retire).power = s.power := rfl
@[simp] theorem State.retire_mchk (s : State) : (s.retire).mchk = s.mchk := rfl
@[simp] theorem State.retire_mem (s : State) : (s.retire).mem = s.mem := rfl
@[simp] theorem State.retire_bad (s : State) : (s.retire).bad = s.bad := rfl
@[simp] theorem State.retire_wear (s : State) : (s.retire).wear = s.wear := rfl
@[simp] theorem State.retire_ptbr (s : State) : (s.retire).ptbr = s.ptbr := rfl
@[simp] theorem State.retire_root (s : State) : (s.retire).root = s.root := rfl
@[simp] theorem State.retire_bcast (s : State) : (s.retire).bcast = s.bcast := rfl
@[simp] theorem State.retire_bseq (s : State) : (s.retire).bseq = s.bseq := rfl
@[simp] theorem State.retire_localF (s : State) : (s.retire).localF = s.localF := rfl
@[simp] theorem State.retire_edges (s : State) : (s.retire).edges = s.edges := rfl
@[simp] theorem State.retire_regions (s : State) : (s.retire).regions = s.regions := rfl
@[simp] theorem State.retire_notes (s : State) : (s.retire).notes = s.notes := rfl
@[simp] theorem State.retire_residences (s : State) : (s.retire).residences = s.residences := rfl
@[simp] theorem State.retire_maps (s : State) : (s.retire).maps = s.maps := rfl
@[simp] theorem State.retire_blks (s : State) : (s.retire).blks = s.blks := rfl
@[simp] theorem State.retire_blkGen (s : State) : (s.retire).blkGen = s.blkGen := rfl
@[simp] theorem State.retire_dieTlb (s : State) : (s.retire).dieTlb = s.dieTlb := rfl
@[simp] theorem State.retire_walkCache (s : State) : (s.retire).walkCache = s.walkCache := rfl
@[simp] theorem State.retire_bulk (s : State) : (s.retire).bulk = s.bulk := rfl
@[simp] theorem State.retire_bulkFreed (s : State) : (s.retire).bulkFreed = s.bulkFreed := rfl
@[simp] theorem State.retire_patchLevel (s : State) : (s.retire).patchLevel = s.patchLevel := rfl
@[simp] theorem State.retire_patchFloor (s : State) : (s.retire).patchFloor = s.patchFloor := rfl
@[simp] theorem State.retire_patchSlot (s : State) : (s.retire).patchSlot = s.patchSlot := rfl
@[simp] theorem State.retire_patchStore (s : State) : (s.retire).patchStore = s.patchStore := rfl
@[simp] theorem State.retire_keySlots (s : State) : (s.retire).keySlots = s.keySlots := rfl
@[simp] theorem State.retire_modn (s : State) : (s.retire).modn = s.modn := rfl
@[simp] theorem State.retire_peers (s : State) : (s.retire).peers = s.peers := rfl
@[simp] theorem State.retire_lup (s : State) : (s.retire).lup = s.lup := rfl
@[simp] theorem State.retire_lanes (s : State) : (s.retire).lanes = s.lanes := rfl
@[simp] theorem State.retire_winBase (s : State) : (s.retire).winBase = s.winBase := rfl
@[simp] theorem State.retire_wflt (s : State) : (s.retire).wflt = s.wflt := rfl
@[simp] theorem State.retire_qps (s : State) : (s.retire).qps = s.qps := rfl
@[simp] theorem State.retire_hostMem (s : State) : (s.retire).hostMem = s.hostMem := rfl
@[simp] theorem State.retire_cur (s : State) : (s.retire).cur = s.cur := rfl
@[simp] theorem State.retire_heads (s : State) : (s.retire).heads = s.heads := rfl
@[simp] theorem State.retire_unloads (s : State) : (s.retire).unloads = s.unloads := rfl
@[simp] theorem State.retire_round (s : State) : (s.retire).round = s.round := rfl
@[simp] theorem State.retire_installs (s : State) : (s.retire).installs = s.installs := rfl
@[simp] theorem State.retire_invs (s : State) : (s.retire).invs = s.invs := rfl
@[simp] theorem State.retire_closedInvs (s : State) : (s.retire).closedInvs = s.closedInvs := rfl
@[simp] theorem State.retire_nextInv (s : State) : (s.retire).nextInv = s.nextInv := rfl
@[simp] theorem State.retire_nextTask (s : State) : (s.retire).nextTask = s.nextTask := rfl
@[simp] theorem State.retire_notifies (s : State) : (s.retire).notifies = s.notifies := rfl
@[simp] theorem State.retire_reduces (s : State) : (s.retire).reduces = s.reduces := rfl
@[simp] theorem State.retire_held (s : State) : (s.retire).held = s.held := rfl
@[simp] theorem State.retire_msix (s : State) : (s.retire).msix = s.msix := rfl
@[simp] theorem State.retire_intervals (s : State) : (s.retire).intervals = s.intervals := rfl
@[simp] theorem State.retire_brownStart (s : State) : (s.retire).brownStart = s.brownStart := rfl
@[simp] theorem State.retire_offStart (s : State) : (s.retire).offStart = s.offStart := rfl
@[simp] theorem State.retire_persistGen (s : State) : (s.retire).persistGen = s.persistGen := rfl
@[simp] theorem State.retire_hubSeal (s : State) : (s.retire).hubSeal = s.hubSeal := rfl
@[simp] theorem State.retire_saved (s : State) : (s.retire).saved = s.saved := rfl
@[simp] theorem State.retire_trail (s : State) : (s.retire).trail = s.trail := rfl
@[simp] theorem State.retire_watches (s : State) : (s.retire).watches = s.watches := rfl
@[simp] theorem State.retire_tick (s : State) : (s.retire).tick = s.tick := rfl
@[simp] theorem State.retire_free (s : State) : (s.retire).free = s.free := rfl
@[simp] theorem State.retire_agenda (s : State) : (s.retire).agenda = s.agenda := rfl
@[simp] theorem State.retire_fsq (s : State) : (s.retire).fsq = s.fsq := rfl
@[simp] theorem State.retire_fcx (s : State) : (s.retire).fcx = s.fcx := rfl
@[simp] theorem State.retire_lastRead (s : State) : (s.retire).lastRead = s.lastRead := rfl

@[simp] theorem State.bump_now (s : State) : s.bump.now = s.now := rfl
@[simp] theorem State.bump_power (s : State) : s.bump.power = s.power := rfl
@[simp] theorem State.bump_mchk (s : State) : s.bump.mchk = s.mchk := rfl
@[simp] theorem State.bump_mem (s : State) : s.bump.mem = s.mem := rfl
@[simp] theorem State.bump_bad (s : State) : s.bump.bad = s.bad := rfl
@[simp] theorem State.bump_wear (s : State) : s.bump.wear = s.wear := rfl
@[simp] theorem State.bump_ptbr (s : State) : s.bump.ptbr = s.ptbr := rfl
@[simp] theorem State.bump_root (s : State) : s.bump.root = s.root := rfl
@[simp] theorem State.bump_bcast (s : State) : s.bump.bcast = s.bcast := rfl
@[simp] theorem State.bump_bseq (s : State) : s.bump.bseq = s.bseq := rfl
@[simp] theorem State.bump_localF (s : State) : s.bump.localF = s.localF := rfl
@[simp] theorem State.bump_edges (s : State) : s.bump.edges = s.edges := rfl
@[simp] theorem State.bump_regions (s : State) : s.bump.regions = s.regions := rfl
@[simp] theorem State.bump_notes (s : State) : s.bump.notes = s.notes := rfl
@[simp] theorem State.bump_residences (s : State) : s.bump.residences = s.residences := rfl
@[simp] theorem State.bump_maps (s : State) : s.bump.maps = s.maps := rfl
@[simp] theorem State.bump_blks (s : State) : s.bump.blks = s.blks := rfl
@[simp] theorem State.bump_blkGen (s : State) : s.bump.blkGen = s.blkGen := rfl
@[simp] theorem State.bump_dieTlb (s : State) : s.bump.dieTlb = s.dieTlb := rfl
@[simp] theorem State.bump_walkCache (s : State) : s.bump.walkCache = s.walkCache := rfl
@[simp] theorem State.bump_bulk (s : State) : s.bump.bulk = s.bulk := rfl
@[simp] theorem State.bump_bulkFreed (s : State) : s.bump.bulkFreed = s.bulkFreed := rfl
@[simp] theorem State.bump_patchLevel (s : State) : s.bump.patchLevel = s.patchLevel := rfl
@[simp] theorem State.bump_patchFloor (s : State) : s.bump.patchFloor = s.patchFloor := rfl
@[simp] theorem State.bump_patchSlot (s : State) : s.bump.patchSlot = s.patchSlot := rfl
@[simp] theorem State.bump_patchStore (s : State) : s.bump.patchStore = s.patchStore := rfl
@[simp] theorem State.bump_keySlots (s : State) : s.bump.keySlots = s.keySlots := rfl
@[simp] theorem State.bump_modn (s : State) : s.bump.modn = s.modn := rfl
@[simp] theorem State.bump_peers (s : State) : s.bump.peers = s.peers := rfl
@[simp] theorem State.bump_lup (s : State) : s.bump.lup = s.lup := rfl
@[simp] theorem State.bump_lanes (s : State) : s.bump.lanes = s.lanes := rfl
@[simp] theorem State.bump_winBase (s : State) : s.bump.winBase = s.winBase := rfl
@[simp] theorem State.bump_wflt (s : State) : s.bump.wflt = s.wflt := rfl
@[simp] theorem State.bump_qps (s : State) : s.bump.qps = s.qps := rfl
@[simp] theorem State.bump_hostMem (s : State) : s.bump.hostMem = s.hostMem := rfl
@[simp] theorem State.bump_cur (s : State) : s.bump.cur = s.cur := rfl
@[simp] theorem State.bump_heads (s : State) : s.bump.heads = s.heads := rfl
@[simp] theorem State.bump_unloads (s : State) : s.bump.unloads = s.unloads := rfl
@[simp] theorem State.bump_round (s : State) : s.bump.round = s.round := rfl
@[simp] theorem State.bump_installs (s : State) : s.bump.installs = s.installs := rfl
@[simp] theorem State.bump_invs (s : State) : s.bump.invs = s.invs := rfl
@[simp] theorem State.bump_closedInvs (s : State) : s.bump.closedInvs = s.closedInvs := rfl
@[simp] theorem State.bump_nextInv (s : State) : s.bump.nextInv = s.nextInv := rfl
@[simp] theorem State.bump_nextTask (s : State) : s.bump.nextTask = s.nextTask := rfl
@[simp] theorem State.bump_notifies (s : State) : s.bump.notifies = s.notifies := rfl
@[simp] theorem State.bump_reduces (s : State) : s.bump.reduces = s.reduces := rfl
@[simp] theorem State.bump_held (s : State) : s.bump.held = s.held := rfl
@[simp] theorem State.bump_msix (s : State) : s.bump.msix = s.msix := rfl
@[simp] theorem State.bump_intervals (s : State) : s.bump.intervals = s.intervals := rfl
@[simp] theorem State.bump_brownStart (s : State) : s.bump.brownStart = s.brownStart := rfl
@[simp] theorem State.bump_offStart (s : State) : s.bump.offStart = s.offStart := rfl
@[simp] theorem State.bump_persistGen (s : State) : s.bump.persistGen = s.persistGen := rfl
@[simp] theorem State.bump_hubSeal (s : State) : s.bump.hubSeal = s.hubSeal := rfl
@[simp] theorem State.bump_saved (s : State) : s.bump.saved = s.saved := rfl
@[simp] theorem State.bump_trail (s : State) : s.bump.trail = s.trail := rfl
@[simp] theorem State.bump_watches (s : State) : s.bump.watches = s.watches := rfl
@[simp] theorem State.bump_squares (s : State) : s.bump.squares = s.squares := rfl
@[simp] theorem State.bump_tick (s : State) : s.bump.tick = s.tick := rfl
@[simp] theorem State.bump_agenda (s : State) : s.bump.agenda = s.agenda := rfl
@[simp] theorem State.bump_fsq (s : State) : s.bump.fsq = s.fsq := rfl
@[simp] theorem State.bump_fcx (s : State) : s.bump.fcx = s.fcx := rfl
@[simp] theorem State.bump_lastRead (s : State) : s.bump.lastRead = s.lastRead := rfl


end Sys2Proof.Machine
end

