-- ==== Sys2Proof/Laws/Parts.lean ====
section
/-! SUPPORT. Reading back a part of the state that an update wrote, or another one. -/

namespace Sys2Proof.Machine

/-! ## Vectors -/

theorem vset_same {α : Type} {n : Nat} (v : Vector α n) (i : Fin n) (x : α) : (vset v i x)[i] = x := by
  simp [vset]

/-- The simp normal form of `vset_same`: an index of type Fin stands as its value. -/
@[simp] theorem vset_same_val {α : Type} {n : Nat} (v : Vector α n) (i : Fin n) (x : α) : (vset v i x)[i.val] = x := by
  simp [vset]

theorem vset_other {α : Type} {n : Nat} (v : Vector α n) (i j : Fin n) (x : α) (h : j ≠ i) : (vset v i x)[j] = v[j] := by
  have : i.val ≠ j.val := fun e => h (Fin.ext e.symm)
  simp [vset, this]

theorem vset_get {α : Type} {n : Nat} (v : Vector α n) (i j : Fin n) (x : α) : (vset v i x)[j] = if j = i then x else v[j] := by
  by_cases h : j = i
  · subst h; simp
  · rw [if_neg h]; exact vset_other _ _ _ _ h

@[simp] theorem vset_vset {α : Type} {n : Nat} (v : Vector α n) (i : Fin n) (x y : α) : vset (vset v i x) i y = vset v i y := by
  simp [vset]

@[simp] theorem vset_self {α : Type} {n : Nat} (v : Vector α n) (i : Fin n) : vset v i v[i.val] = v := by
  simp [vset]

/-! ## Squares -/

@[simp] theorem State.sq_setSq (s : State) (q : Sq) (x : Square) : (s.setSq q x).sq q = x := by
  simp [State.sq, State.setSq]

theorem State.sq_setSq_ne (s : State) (q p : Sq) (x : Square) (h : p ≠ q) : (s.setSq q x).sq p = s.sq p := by
  simp only [State.sq, State.setSq]; exact vset_other _ _ _ _ h

@[simp] theorem State.setSq_setSq (s : State) (q : Sq) (x y : Square) : (s.setSq q x).setSq q y = s.setSq q y := by
  simp [State.setSq]

@[simp] theorem State.setSq_self (s : State) (q : Sq) : s.setSq q (s.sq q) = s := by
  simp [State.setSq, State.sq]

@[simp] theorem State.sq_modSq (s : State) (q : Sq) (f : Square → Square) : (s.modSq q f).sq q = f (s.sq q) := by
  simp [State.modSq]

theorem State.sq_modSq_ne (s : State) (q p : Sq) (f : Square → Square) (h : p ≠ q) : (s.modSq q f).sq p = s.sq p :=
  State.sq_setSq_ne _ _ _ _ h

@[simp] theorem State.modSq_modSq (s : State) (q : Sq) (f g : Square → Square) :
    (s.modSq q f).modSq q g = s.modSq q (fun x => g (f x)) := by
  simp [State.modSq]

/-! ## Contexts -/

@[simp] theorem State.ctx_setCtx (s : State) (q : Sq) (c : Cx) (x : Ctx) : (s.setCtx q c x).ctx q c = x := by
  simp [State.ctx, State.setCtx]

theorem State.ctx_setCtx_ne (s : State) (q : Sq) (c d : Cx) (x : Ctx) (h : d ≠ c) : (s.setCtx q c x).ctx q d = s.ctx q d := by
  simp only [State.ctx, State.setCtx, State.sq_setSq]; exact vset_other _ _ _ _ h

theorem State.ctx_setCtx_sq (s : State) (q p : Sq) (c d : Cx) (x : Ctx) (h : p ≠ q) : (s.setCtx q c x).ctx p d = s.ctx p d := by
  simp [State.ctx, State.setCtx, State.sq_setSq_ne _ _ _ _ h]

@[simp] theorem State.setCtx_setCtx (s : State) (q : Sq) (c : Cx) (x y : Ctx) : (s.setCtx q c x).setCtx q c y = s.setCtx q c y := by
  simp [State.setCtx]

@[simp] theorem State.setCtx_self (s : State) (q : Sq) (c : Cx) : s.setCtx q c (s.ctx q c) = s := by
  have h : vset (s.sq q).ctxs c (s.ctx q c) = (s.sq q).ctxs := by simp [State.ctx]
  rw [State.setCtx, h]
  exact s.setSq_self q

@[simp] theorem State.ctx_modCtx (s : State) (q : Sq) (c : Cx) (f : Ctx → Ctx) : (s.modCtx q c f).ctx q c = f (s.ctx q c) := by
  simp [State.modCtx]

theorem State.ctx_modCtx_ne (s : State) (q : Sq) (c d : Cx) (f : Ctx → Ctx) (h : d ≠ c) : (s.modCtx q c f).ctx q d = s.ctx q d :=
  State.ctx_setCtx_ne _ _ _ _ _ h

theorem State.ctx_modCtx_sq (s : State) (q p : Sq) (c d : Cx) (f : Ctx → Ctx) (h : p ≠ q) : (s.modCtx q c f).ctx p d = s.ctx p d :=
  State.ctx_setCtx_sq _ _ _ _ _ _ h

@[simp] theorem State.modCtx_modCtx (s : State) (q : Sq) (c : Cx) (f g : Ctx → Ctx) :
    (s.modCtx q c f).modCtx q c g = s.modCtx q c (fun x => g (f x)) := by
  simp [State.modCtx]

/-- What a context update leaves of its square: all but the contexts. -/
theorem State.sq_setCtx (s : State) (q : Sq) (c : Cx) (x : Ctx) :
    (s.setCtx q c x).sq q = { s.sq q with ctxs := vset (s.sq q).ctxs c x } := by
  simp [State.setCtx]

theorem State.sq_setCtx_ne (s : State) (q p : Sq) (c : Cx) (x : Ctx) (h : p ≠ q) : (s.setCtx q c x).sq p = s.sq p := by
  simp [State.setCtx, State.sq_setSq_ne _ _ _ _ h]

/-! ## Vector cores -/

@[simp] theorem State.core_setCore (s : State) (q : Sq) (v : Vc) (x : VCore) : (s.setCore q v x).core q v = x := by
  simp [State.core, State.setCore]

theorem State.core_setCore_ne (s : State) (q : Sq) (v w : Vc) (x : VCore) (h : w ≠ v) : (s.setCore q v x).core q w = s.core q w := by
  simp only [State.core, State.setCore, State.sq_setSq]; exact vset_other _ _ _ _ h

@[simp] theorem State.core_modCore (s : State) (q : Sq) (v : Vc) (f : VCore → VCore) : (s.modCore q v f).core q v = f (s.core q v) := by
  simp [State.modCore]

theorem State.core_modCore_ne (s : State) (q : Sq) (v w : Vc) (f : VCore → VCore) (h : w ≠ v) :
    (s.modCore q v f).core q w = s.core q w :=
  State.core_setCore_ne _ _ _ _ _ h

@[simp] theorem State.core_modCtx (s : State) (q p : Sq) (c : Cx) (v : Vc) (f : Ctx → Ctx) :
    (s.modCtx q c f).core p v = s.core p v := by
  by_cases h : p = q
  · subst h; simp [State.core, State.modCtx, State.sq_setCtx]
  · simp [State.core, State.modCtx, State.sq_setCtx_ne _ _ _ _ _ h]

@[simp] theorem State.ctx_modCore (s : State) (q p : Sq) (c : Cx) (v : Vc) (f : VCore → VCore) :
    (s.modCore q v f).ctx p c = s.ctx p c := by
  by_cases h : p = q
  · subst h; simp [State.ctx, State.modCore, State.setCore]
  · simp [State.ctx, State.modCore, State.setCore, State.sq_setSq_ne _ _ _ _ h]

/-! ## The issuing context -/

@[simp] theorem State.me_setMe (s : State) (x : Ctx) : (s.setMe x).me = x := by
  simp [State.me, State.setMe, State.ctx, State.setCtx, State.sq, State.setSq]

@[simp] theorem State.setMe_setMe (s : State) (x y : Ctx) : (s.setMe x).setMe y = s.setMe y := by
  simp [State.setMe, State.setCtx, State.sq, State.setSq]

@[simp] theorem State.setMe_me (s : State) : s.setMe s.me = s := by
  simp [State.setMe, State.me]

@[simp] theorem State.me_modMe (s : State) (f : Ctx → Ctx) : (s.modMe f).me = f s.me := by
  simp [State.modMe]

@[simp] theorem State.modMe_modMe (s : State) (f g : Ctx → Ctx) : (s.modMe f).modMe g = s.modMe (fun x => g (f x)) := by
  simp [State.modMe]

@[simp] theorem State.ctx_setMe (s : State) (x : Ctx) : (s.setMe x).ctx s.fsq s.fcx = x := State.me_setMe s x

@[simp] theorem State.isF_setMe (s : State) (x : Ctx) : (s.setMe x).isF = s.isF := rfl
@[simp] theorem State.isF_modMe (s : State) (f : Ctx → Ctx) : (s.modMe f).isF = s.isF := rfl
@[simp] theorem State.rd_modMe (s : State) (f : Ctx → Ctx) (a : Nat) : (s.modMe f).rd a = s.rd a := rfl
@[simp] theorem State.rd_modSq (s : State) (q : Sq) (f : Square → Square) (a : Nat) : (s.modSq q f).rd a = s.rd a := rfl
@[simp] theorem State.rd_modCtx (s : State) (q : Sq) (c : Cx) (f : Ctx → Ctx) (a : Nat) : (s.modCtx q c f).rd a = s.rd a := rfl

/-! ## Registers (02 R29) -/

@[simp] theorem Ctx.rs_setS (x : Ctx) (r : Reg) (v : Word) (h : r ≠ 0) : (x.setS r v).rs_ r = v := by
  simp [Ctx.rs_, Ctx.setS, h]

theorem Ctx.rs_setS_ne (x : Ctx) (r t : Reg) (v : Word) (h : t ≠ r) : (x.setS r v).rs_ t = x.rs_ t := by
  by_cases h0 : r = 0
  · simp [Ctx.setS, h0]
  · by_cases ht : t = 0
    · simp [Ctx.rs_, ht]
    · simp only [Ctx.rs_, Ctx.setS, h0, ht, if_false]; exact vset_other _ _ _ _ h

@[simp] theorem Ctx.setS_zero (x : Ctx) (v : Word) : x.setS 0 v = x := rfl
@[simp] theorem Ctx.rs_zero (x : Ctx) : x.rs_ 0 = 0 := rfl
@[simp] theorem Ctx.setP_zero (x : Ctx) (v : Bool) : x.setP 0 v = x := rfl
@[simp] theorem Ctx.rp_zero (x : Ctx) : x.rp 0 = true := rfl

@[simp] theorem Ctx.rp_setP (x : Ctx) (r : Pr) (v : Bool) (h : r ≠ 0) : (x.setP r v).rp r = v := by
  simp [Ctx.rp, Ctx.setP, h]

theorem Ctx.rp_setP_ne (x : Ctx) (r t : Pr) (v : Bool) (h : t ≠ r) : (x.setP r v).rp t = x.rp t := by
  by_cases h0 : r = 0
  · simp [Ctx.setP, h0]
  · by_cases ht : t = 0
    · simp [Ctx.rp, ht]
    · simp only [Ctx.rp, Ctx.setP, h0, ht, if_false]; exact vset_other _ _ _ _ h

@[simp] theorem Ctx.advance_rs (x : Ctx) (r : Reg) : x.advance.rs_ r = x.rs_ r := rfl
@[simp] theorem Ctx.advance_rp (x : Ctx) (r : Pr) : x.advance.rp r = x.rp r := rfl
@[simp] theorem Ctx.advance_q0 (x : Ctx) : x.advance.q0 = x.q1 := rfl
@[simp] theorem Ctx.advance_q1 (x : Ctx) : x.advance.q1 = x.q2 := rfl
@[simp] theorem Ctx.advance_q2 (x : Ctx) : x.advance.q2 = ⟨x.q2.pc + 4, false⟩ := rfl

theorem State.rs_wS (s : State) (r : Reg) (v : Word) (h : r ≠ 0) : (s.wS r v).rs r = v := by
  simp [State.rs, State.wS, h]

theorem State.rs_wS_ne (s : State) (r t : Reg) (v : Word) (h : t ≠ r) : (s.wS r v).rs t = s.rs t := by
  simp [State.rs, State.wS, Ctx.rs_setS_ne _ _ _ _ h]

/-- A write to s0 is discarded. -/
@[simp] theorem State.wS_zero (s : State) (v : Word) : s.wS 0 v = s := by
  simp [State.wS, State.modMe]

/-- A write to p0 is discarded. -/
@[simp] theorem State.wP_zero (s : State) (v : Bool) : s.wP 0 v = s := by
  simp [State.wP, State.modMe]

end Sys2Proof.Machine
end

