-- ==== Sys2Proof/Laws/Keeps.lean ====
section
/-! SUPPORT. What the shared operations leave alone: the root of the page tables, memory or its canonical form, and what a translation and a precise
fault may change. -/

namespace Sys2Proof.Machine

/-! ## The root stays, and memory stays canonical -/

/-- From `s` to `t` the root of the page tables stays, and canonical memory stays canonical. -/
def Keeps (s t : State) : Prop := t.ptbr = s.ptbr ∧ (Memory.wf s.mem = true → Memory.wf t.mem = true)

theorem Keeps.refl (s : State) : Keeps s s := ⟨rfl, id⟩

theorem Keeps.trans {s t u : State} (h : Keeps s t) (g : Keeps t u) : Keeps s u := ⟨g.1.trans h.1, fun w => g.2 (h.2 w)⟩

/-- An operation that touches neither memory nor the root. -/
theorem Keeps.of_eq {s t : State} (hp : t.ptbr = s.ptbr) (hm : t.mem = s.mem) : Keeps s t := ⟨hp, fun h => by rwa [hm]⟩

/-- What keeps both keeps the invariant. -/
theorem Keeps.inv {s t : State} (h : Keeps s t) (i : s.Inv) : t.Inv := ⟨h.2 i.1, by rw [h.1]; exact i.2⟩

/-- A fold of operations that each keep both. -/
theorem Keeps.foldl {α : Type} (f : State → α → State) (hf : ∀ s a, Keeps s (f s a)) : ∀ (l : List α) (s : State), Keeps s (l.foldl f s)
  | [], s => Keeps.refl s
  | a :: l, s => (hf s a).trans (Keeps.foldl f hf l (f s a))

/-- A fold that may stop. -/
theorem Keeps.foldlM {α ε : Type} (f : State → α → Except ε State) (hf : ∀ s a t, f s a = .ok t → Keeps s t) :
    ∀ (l : List α) (s t : State), l.foldlM f s = .ok t → Keeps s t
  | [], s, t, h => by simp only [List.foldlM_nil, pure, Except.pure, Except.ok.injEq] at h; subst h; exact Keeps.refl s
  | a :: l, s, t, h => by
    simp only [List.foldlM_cons, bind, Except.bind] at h
    split at h
    · cases h
    · next u hu => exact (hf s a u hu).trans (Keeps.foldlM f hf l u t h)

/-! ## Updates of squares and contexts -/

@[simp] theorem State.mem_setSq (s : State) (q : Sq) (x : Square) : (s.setSq q x).mem = s.mem := rfl
@[simp] theorem State.ptbr_setSq (s : State) (q : Sq) (x : Square) : (s.setSq q x).ptbr = s.ptbr := rfl
@[simp] theorem State.mem_modSq (s : State) (q : Sq) (f : Square → Square) : (s.modSq q f).mem = s.mem := rfl
@[simp] theorem State.ptbr_modSq (s : State) (q : Sq) (f : Square → Square) : (s.modSq q f).ptbr = s.ptbr := rfl
@[simp] theorem State.mem_modCtx (s : State) (q : Sq) (c : Cx) (f : Ctx → Ctx) : (s.modCtx q c f).mem = s.mem := rfl
@[simp] theorem State.ptbr_modCtx (s : State) (q : Sq) (c : Cx) (f : Ctx → Ctx) : (s.modCtx q c f).ptbr = s.ptbr := rfl
@[simp] theorem State.mem_setCtx (s : State) (q : Sq) (c : Cx) (x : Ctx) : (s.setCtx q c x).mem = s.mem := rfl
@[simp] theorem State.ptbr_setCtx (s : State) (q : Sq) (c : Cx) (x : Ctx) : (s.setCtx q c x).ptbr = s.ptbr := rfl
@[simp] theorem State.mem_modCore (s : State) (q : Sq) (v : Vc) (f : VCore → VCore) : (s.modCore q v f).mem = s.mem := rfl
@[simp] theorem State.ptbr_modCore (s : State) (q : Sq) (v : Vc) (f : VCore → VCore) : (s.modCore q v f).ptbr = s.ptbr := rfl
@[simp] theorem State.mem_modArr (s : State) (q : Sq) (f : Arr → Arr) : (s.modArr q f).mem = s.mem := rfl
@[simp] theorem State.ptbr_modArr (s : State) (q : Sq) (f : Arr → Arr) : (s.modArr q f).ptbr = s.ptbr := rfl
@[simp] theorem State.mem_modMe (s : State) (f : Ctx → Ctx) : (s.modMe f).mem = s.mem := rfl
@[simp] theorem State.ptbr_modMe (s : State) (f : Ctx → Ctx) : (s.modMe f).ptbr = s.ptbr := rfl
@[simp] theorem State.mem_wS (s : State) (r : Reg) (v : Word) : (s.wS r v).mem = s.mem := rfl
@[simp] theorem State.ptbr_wS (s : State) (r : Reg) (v : Word) : (s.wS r v).ptbr = s.ptbr := rfl
@[simp] theorem State.mem_wP (s : State) (r : Pr) (v : Bool) : (s.wP r v).mem = s.mem := rfl
@[simp] theorem State.ptbr_wP (s : State) (r : Pr) (v : Bool) : (s.wP r v).ptbr = s.ptbr := rfl
@[simp] theorem State.mem_wT (s : State) (r : Tm) (v : Word) : (s.wT r v).mem = s.mem := rfl
@[simp] theorem State.ptbr_wT (s : State) (r : Tm) (v : Word) : (s.wT r v).ptbr = s.ptbr := rfl
@[simp] theorem State.mem_retire (s : State) : s.retire.mem = s.mem := rfl
@[simp] theorem State.ptbr_retire (s : State) : s.retire.ptbr = s.ptbr := rfl
@[simp] theorem State.mem_bump (s : State) : s.bump.mem = s.mem := rfl
@[simp] theorem State.ptbr_bump (s : State) : s.bump.ptbr = s.ptbr := rfl

/-! ## Completions, the machine check and the end of a task -/

theorem State.postList_same : ∀ (l k : List Comp) (s : State), (s.postList l k).mem = s.mem ∧ (s.postList l k).ptbr = s.ptbr ∧
    (s.postList l k).squares = s.squares
  | [], _, _ => ⟨rfl, rfl, rfl⟩
  | c :: t, k, s => by
    simp only [State.postList]
    split
    · exact State.postList_same t _ s
    · exact State.postList_same t k (s.postOne c)

theorem State.postHeld_same (s : State) : s.postHeld.mem = s.mem ∧ s.postHeld.ptbr = s.ptbr ∧ s.postHeld.squares = s.squares := by
  unfold State.postHeld
  split
  · exact State.postList_same _ _ s
  · exact ⟨rfl, rfl, rfl⟩

/-- A completion changes no memory of the module, not the root and no square. -/
theorem State.complete_same (s : State) (c : Comp) : (s.complete c).mem = s.mem ∧ (s.complete c).ptbr = s.ptbr ∧ (s.complete c).squares = s.squares :=
  State.postHeld_same _

theorem State.machineCheck_same (s : State) (q : Sq) : (s.machineCheck q).mem = s.mem ∧ (s.machineCheck q).ptbr = s.ptbr :=
  ⟨(State.postHeld_same _).1, (State.postHeld_same _).2.1⟩

theorem State.endTask_same (s : State) (q : Sq) (c : Cx) (k : Nat) : (s.endTask q c k).mem = s.mem ∧ (s.endTask q c k).ptbr = s.ptbr := ⟨rfl, rfl⟩

/-- The two endings of a trap, from any state. -/
theorem State.trapEnd_same (s : State) (q : Sq) (c : Cx) (k : Nat) (b : Bool) (x : Ctx) :
    (if b = true then s.setCtx q c x else s.endTask q c k).mem = s.mem ∧ (if b = true then s.setCtx q c x else s.endTask q c k).ptbr = s.ptbr := by
  cases b
  · exact s.endTask_same q c k
  · exact ⟨rfl, rfl⟩

theorem State.trapEnter_same (s : State) (q : Sq) (c : Cx) (w l k : Nat) : (s.trapEnter q c w l k).mem = s.mem ∧ (s.trapEnter q c w l k).ptbr = s.ptbr := by
  unfold State.trapEnter
  generalize hu : s.modCtx q c (fun x => { x.saveResume (causeWord w l k) with blocked := none }) = u
  have hm : u.mem = s.mem := by rw [← hu, State.mem_modCtx]
  have hp : u.ptbr = s.ptbr := by rw [← hu, State.ptbr_modCtx]
  have e := u.trapEnd_same q c k ((u.ctx q c).en && !(u.ctx q c).inh)
    ({ u.ctx q c with thnd := (u.ctx q c).thnd ||| 2 }.start (epcOf (u.ctx q c).thnd))
  exact ⟨e.1.trans hm, e.2.trans hp⟩

/-- A precise fault always answers a next state, with memory and the root as before. -/
theorem State.trap_next (s : State) (k : Nat) : ∃ t : State, s.trap k = .next t ∧ t.mem = s.mem ∧ t.ptbr = s.ptbr := by
  unfold State.trap State.trapSwc
  split
  · exact ⟨_, rfl, State.machineCheck_same s s.fsq⟩
  · exact ⟨_, rfl, State.trapEnter_same s s.fsq s.fcx 0 0 k⟩

theorem State.trapBad_next (s : State) (w : Word) (k : Nat) : ∃ t : State, s.trapBad w k = .next t ∧ t.mem = s.mem ∧ t.ptbr = s.ptbr := by
  unfold State.trapBad
  split
  · exact ⟨_, rfl, State.machineCheck_same s s.fsq⟩
  · exact (s.modMe (fun x => { x with badw := w })).trap_next k

/-- An instruction that waits answers a next state that differs in its wait alone. -/
theorem State.block_next (s : State) (i : Instr) : ∃ b : Blocked, s.block i = .next (s.modMe (fun x => { x with blocked := some b })) ∧ b.instr = i :=
  ⟨_, rfl, by cases s.me.blocked <;> rfl⟩

/-! ## Translation -/

/-- A use of a translation changes the square's TLB, and by a branch the die's TLB and walk cache, alone. -/
theorem State.tlbUse_eq (s : State) (q : Sq) (e : TlbEnt) : ∃ (w : Vector (List WalkSb) 4) (d : Vector (List TlbEnt) 4),
    s.tlbUse q e = ({ s with walkCache := w, dieTlb := d } : State).modSq q (fun x => { x with tlb := tlbTouch 512 e x.tlb }) := by
  unfold State.tlbUse
  simp only
  repeat' split
  all_goals exact ⟨_, _, rfl⟩

/-- A translation that succeeds answers a place, and changes nothing but the TLBs and the walk cache it used. -/
theorem State.translate_ok {s t : State} {q : Sq} {w : Option Nat} {n : Need} {va pa : Nat} (h : s.translate q w n va = .ok (pa, t)) :
    va < 2 ^ 48 ∧ ∃ e, s.findXl q va = .ok e ∧ pa = e.pa va ∧ t = s.tlbUse q e := by
  unfold State.translate at h
  split at h
  · cases h
  · next hv =>
    split at h
    · cases h
    · next e he =>
      split at h
      · cases h
      · split at h
        · cases h
        · repeat' split at h
          all_goals first
            | (exfalso; simp at h; done)
            | (simp only [Except.ok.injEq, Prod.mk.injEq] at h
               exact ⟨by omega, e, he, h.1.symm, h.2.symm⟩)

theorem State.translate_same {s t : State} {q : Sq} {w : Option Nat} {n : Need} {va pa : Nat} (h : s.translate q w n va = .ok (pa, t)) :
    t.mem = s.mem ∧ t.ptbr = s.ptbr ∧ t.bad = s.bad ∧ t.fsq = s.fsq ∧ t.fcx = s.fcx ∧ (∀ c : Cx, t.ctx q c = s.ctx q c) := by
  obtain ⟨-, e, -, -, rfl⟩ := State.translate_ok h
  obtain ⟨w, d, hu⟩ := s.tlbUse_eq q e
  rw [hu]
  refine ⟨rfl, rfl, rfl, rfl, rfl, fun c => ?_⟩
  show ((({ s with walkCache := w, dieTlb := d } : State).modSq q (fun x => { x with tlb := tlbTouch 512 e x.tlb })).sq q).ctxs[c] = _
  rw [State.sq_modSq]; rfl

/-! ## Memory and the data cache -/

theorem State.writeHome_keeps (s : State) (a : Nat) (bs : List Byte) : Keeps s (s.writeHome a bs) := ⟨rfl, s.writeHome_wf a bs⟩
theorem State.zeroBytes_keeps (s : State) (a n : Nat) : Keeps s (s.zeroBytes a n) := ⟨rfl, s.zeroBytes_wf a n⟩
theorem State.modSq_keeps (s : State) (q : Sq) (f : Square → Square) : Keeps s (s.modSq q f) := Keeps.of_eq rfl rfl
theorem State.modCtx_keeps (s : State) (q : Sq) (c : Cx) (f : Ctx → Ctx) : Keeps s (s.modCtx q c f) := Keeps.of_eq rfl rfl
theorem State.modMe_keeps (s : State) (f : Ctx → Ctx) : Keeps s (s.modMe f) := Keeps.of_eq rfl rfl
theorem State.bump_keeps (s : State) : Keeps s s.bump := Keeps.of_eq rfl rfl
theorem State.blkTouch_keeps (s : State) (a n : Nat) : Keeps s (s.blkTouch a n) := Keeps.of_eq rfl rfl
theorem State.complete_keeps (s : State) (c : Comp) : Keeps s (s.complete c) := Keeps.of_eq (s.complete_same c).2.1 (s.complete_same c).1
theorem State.shootdown_keeps (s : State) (t : TlbiArg) (d : Bool) : Keeps s (s.shootdown t d) := by
  unfold State.shootdown
  simp only
  split <;> exact Keeps.of_eq rfl rfl

theorem State.writeBlock_keeps {s t : State} {q : Sq} {o : Nat} {bs : List Byte} (h : s.writeBlock q o bs = .ok t) : Keeps s t := by
  unfold State.writeBlock at h
  simp only at h
  split at h
  · cases h
  · split at h
    · cases h
    · next x _ =>
      cases h
      have hs : Keeps s ({ s with squares := vset s.squares q x } : State) := Keeps.of_eq rfl rfl
      exact hs.trans (State.writeHome_keeps _ _ _)

theorem State.writeStore_keeps {s t : State} {q : Sq} {o : Nat} {bs : List Byte} (h : s.writeStore q o bs = .ok t) : Keeps s t :=
  Keeps.foldlM _ (fun _ _ _ h => State.writeBlock_keeps h) _ s t h

theorem State.writeRuns_keeps (s : State) (l : List (Nat × Byte)) : Keeps s (s.writeRuns l) :=
  Keeps.foldl (fun (s : State) (r : Nat × List Byte) => s.writeHome r.1 r.2) (fun s r => s.writeHome_keeps r.1 r.2) (runsOf l) s

theorem State.writeSector_keeps (s : State) (pa : Nat) (ds : List (Nat × Byte)) : Keeps s (s.writeSector pa ds) := s.writeRuns_keeps _

theorem State.writeLine_keeps (s : State) (q : Sq) (l : DLine) : Keeps s (s.writeLine q l) := by
  unfold State.writeLine
  split
  · exact Keeps.refl s
  · split
    · exact Keeps.refl s
    · next e _ =>
      obtain ⟨w, d, hu⟩ := s.tlbUse_eq q e
      have hk : Keeps s (if e.m then s else s.tlbUse q e) := by
        split
        · exact Keeps.refl s
        · rw [hu]; exact Keeps.of_eq rfl rfl
      exact (hk.trans (State.writeSector_keeps _ _ _)).trans (State.writeSector_keeps _ _ _)

theorem State.writeBack_keeps (s : State) (q : Sq) (p : DLine → Bool) : Keeps s (s.writeBack q p) :=
  (Keeps.foldl _ (fun s l => s.writeLine_keeps q l) _ s).trans (State.modSq_keeps _ _ _)

theorem State.evictLine_keeps (s : State) (q : Sq) (tag : Nat) : Keeps s (s.evictLine q tag) := by
  unfold State.evictLine
  split
  · exact Keeps.refl s
  · exact (s.writeLine_keeps q _).trans (State.modSq_keeps _ _ _)

theorem State.fillLine_keeps (s : State) (q : Sq) (tag pa : Nat) : Keeps s (s.fillLine q tag pa) := by
  unfold State.fillLine
  split
  · exact Keeps.refl s
  · split
    · exact (s.evictLine_keeps q _).trans ((State.blkTouch_keeps _ _ _).trans ((State.modSq_keeps _ _ _).trans (State.bump_keeps _)))
    · exact (State.blkTouch_keeps _ _ _).trans ((State.modSq_keeps _ _ _).trans (State.bump_keeps _))

theorem State.putLine_keeps (s : State) (q : Sq) (c : Cx) (va : Nat) (bs : List Byte) : Keeps s (s.putLine q c va bs) := Keeps.of_eq rfl rfl

theorem State.translate_keeps {s t : State} {q : Sq} {w : Option Nat} {n : Need} {va pa : Nat} (h : s.translate q w n va = .ok (pa, t)) : Keeps s t :=
  Keeps.of_eq (State.translate_same h).2.1 (State.translate_same h).1

theorem State.trap_keeps {s t : State} {k : Nat} (h : s.trap k = .next t) : Keeps s t := by
  obtain ⟨u, hu, hm, hp⟩ := s.trap_next k
  rw [hu] at h; cases h; exact Keeps.of_eq hp hm

theorem State.trapBad_keeps {s t : State} {w : Word} {k : Nat} (h : s.trapBad w k = .next t) : Keeps s t := by
  obtain ⟨u, hu, hm, hp⟩ := s.trapBad_next w k
  rw [hu] at h; cases h; exact Keeps.of_eq hp hm

theorem State.block_keeps {s t : State} {i : Instr} (h : s.block i = .next t) : Keeps s t := by
  obtain ⟨b, hb, -⟩ := s.block_next i
  rw [hb] at h; cases h; exact Keeps.of_eq rfl rfl

end Sys2Proof.Machine
end

