-- ==== Sys2Proof/Laws/PerInstr.lean ====
section
/-! SUPPORT. What is shown of every instruction, one lemma per constructor: the value of its word, where it has one, is below 2^32. -/

namespace Sys2Proof.Laws.Encoding

/-- The word of an instruction is a 32-bit word (02 R28). -/
def Statement (i : Instr) : Prop := ∀ w, encodeNat i = some w → w < 2 ^ 32

theorem add : ∀ x0 x1 x2, Statement (.add x0 x1 x2) := by
  intro x0 x1 x2 w h; have h := Option.some.inj h; omega
theorem sub : ∀ x0 x1 x2, Statement (.sub x0 x1 x2) := by
  intro x0 x1 x2 w h; have h := Option.some.inj h; omega
theorem and : ∀ x0 x1 x2, Statement (.and x0 x1 x2) := by
  intro x0 x1 x2 w h; have h := Option.some.inj h; omega
theorem or : ∀ x0 x1 x2, Statement (.or x0 x1 x2) := by
  intro x0 x1 x2 w h; have h := Option.some.inj h; omega
theorem xor : ∀ x0 x1 x2, Statement (.xor x0 x1 x2) := by
  intro x0 x1 x2 w h; have h := Option.some.inj h; omega
theorem andn : ∀ x0 x1 x2, Statement (.andn x0 x1 x2) := by
  intro x0 x1 x2 w h; have h := Option.some.inj h; omega
theorem shl : ∀ x0 x1 x2, Statement (.shl x0 x1 x2) := by
  intro x0 x1 x2 w h; have h := Option.some.inj h; omega
theorem shr : ∀ x0 x1 x2, Statement (.shr x0 x1 x2) := by
  intro x0 x1 x2 w h; have h := Option.some.inj h; omega
theorem sra : ∀ x0 x1 x2, Statement (.sra x0 x1 x2) := by
  intro x0 x1 x2 w h; have h := Option.some.inj h; omega
theorem ror : ∀ x0 x1 x2, Statement (.ror x0 x1 x2) := by
  intro x0 x1 x2 w h; have h := Option.some.inj h; omega
theorem shli : ∀ x0 x1 x2, Statement (.shli x0 x1 x2) := by
  intro x0 x1 x2 w h; have h := Option.some.inj h; omega
theorem shri : ∀ x0 x1 x2, Statement (.shri x0 x1 x2) := by
  intro x0 x1 x2 w h; have h := Option.some.inj h; omega
theorem srai : ∀ x0 x1 x2, Statement (.srai x0 x1 x2) := by
  intro x0 x1 x2 w h; have h := Option.some.inj h; omega
theorem rori : ∀ x0 x1 x2, Statement (.rori x0 x1 x2) := by
  intro x0 x1 x2 w h; have h := Option.some.inj h; omega
theorem mul : ∀ x0 x1 x2, Statement (.mul x0 x1 x2) := by
  intro x0 x1 x2 w h; have h := Option.some.inj h; omega
theorem mulh : ∀ x0 x1 x2, Statement (.mulh x0 x1 x2) := by
  intro x0 x1 x2 w h; have h := Option.some.inj h; omega
theorem mulhu : ∀ x0 x1 x2, Statement (.mulhu x0 x1 x2) := by
  intro x0 x1 x2 w h; have h := Option.some.inj h; omega
theorem div : ∀ x0 x1 x2, Statement (.div x0 x1 x2) := by
  intro x0 x1 x2 w h; have h := Option.some.inj h; omega
theorem divu : ∀ x0 x1 x2, Statement (.divu x0 x1 x2) := by
  intro x0 x1 x2 w h; have h := Option.some.inj h; omega
theorem rem : ∀ x0 x1 x2, Statement (.rem x0 x1 x2) := by
  intro x0 x1 x2 w h; have h := Option.some.inj h; omega
theorem remu : ∀ x0 x1 x2, Statement (.remu x0 x1 x2) := by
  intro x0 x1 x2 w h; have h := Option.some.inj h; omega
theorem min : ∀ x0 x1 x2, Statement (.min x0 x1 x2) := by
  intro x0 x1 x2 w h; have h := Option.some.inj h; omega
theorem max : ∀ x0 x1 x2, Statement (.max x0 x1 x2) := by
  intro x0 x1 x2 w h; have h := Option.some.inj h; omega
theorem minu : ∀ x0 x1 x2, Statement (.minu x0 x1 x2) := by
  intro x0 x1 x2 w h; have h := Option.some.inj h; omega
theorem maxu : ∀ x0 x1 x2, Statement (.maxu x0 x1 x2) := by
  intro x0 x1 x2 w h; have h := Option.some.inj h; omega
theorem slt : ∀ x0 x1 x2, Statement (.slt x0 x1 x2) := by
  intro x0 x1 x2 w h; have h := Option.some.inj h; omega
theorem sltu : ∀ x0 x1 x2, Statement (.sltu x0 x1 x2) := by
  intro x0 x1 x2 w h; have h := Option.some.inj h; omega
theorem sext : ∀ x0 x1 x2, Statement (.sext x0 x1 x2) := by
  intro x0 x1 x2 w h; have h := Option.some.inj h; omega
theorem clz : ∀ x0 x1, Statement (.clz x0 x1) := by
  intro x0 x1 w h; have h := Option.some.inj h; omega
theorem popc : ∀ x0 x1, Statement (.popc x0 x1) := by
  intro x0 x1 w h; have h := Option.some.inj h; omega
theorem adds : ∀ x0 x1 x2, Statement (.adds x0 x1 x2) := by
  intro x0 x1 x2 w h; have h := Option.some.inj h; omega
theorem addi : ∀ x0 x1 x2, Statement (.addi x0 x1 x2) := by
  intro x0 x1 x2 w h; have h := Option.some.inj h; omega
theorem andi : ∀ x0 x1 x2, Statement (.andi x0 x1 x2) := by
  intro x0 x1 x2 w h; have h := Option.some.inj h; omega
theorem ori : ∀ x0 x1 x2, Statement (.ori x0 x1 x2) := by
  intro x0 x1 x2 w h; have h := Option.some.inj h; omega
theorem xori : ∀ x0 x1 x2, Statement (.xori x0 x1 x2) := by
  intro x0 x1 x2 w h; have h := Option.some.inj h; omega
theorem movi : ∀ x0 x1, Statement (.movi x0 x1) := by
  intro x0 x1 w h; have h := Option.some.inj h; omega
theorem movhi : ∀ x0 x1 x2, Statement (.movhi x0 x1 x2) := by
  intro x0 x1 x2 w h; have h := Option.some.inj h; omega
theorem slti : ∀ x0 x1 x2, Statement (.slti x0 x1 x2) := by
  intro x0 x1 x2 w h; have h := Option.some.inj h; omega
theorem cmpEq : ∀ x0 x1 x2, Statement (.cmpEq x0 x1 x2) := by
  intro x0 x1 x2 w h; have h := Option.some.inj h; omega
theorem cmpNe : ∀ x0 x1 x2, Statement (.cmpNe x0 x1 x2) := by
  intro x0 x1 x2 w h; have h := Option.some.inj h; omega
theorem cmpLt : ∀ x0 x1 x2, Statement (.cmpLt x0 x1 x2) := by
  intro x0 x1 x2 w h; have h := Option.some.inj h; omega
theorem cmpLe : ∀ x0 x1 x2, Statement (.cmpLe x0 x1 x2) := by
  intro x0 x1 x2 w h; have h := Option.some.inj h; omega
theorem cmpLtu : ∀ x0 x1 x2, Statement (.cmpLtu x0 x1 x2) := by
  intro x0 x1 x2 w h; have h := Option.some.inj h; omega
theorem cmpLeu : ∀ x0 x1 x2, Statement (.cmpLeu x0 x1 x2) := by
  intro x0 x1 x2 w h; have h := Option.some.inj h; omega
theorem pand : ∀ x0 x1 x2, Statement (.pand x0 x1 x2) := by
  intro x0 x1 x2 w h; have h := Option.some.inj h; omega
theorem por : ∀ x0 x1 x2, Statement (.por x0 x1 x2) := by
  intro x0 x1 x2 w h; have h := Option.some.inj h; omega
theorem pxor : ∀ x0 x1 x2, Statement (.pxor x0 x1 x2) := by
  intro x0 x1 x2 w h; have h := Option.some.inj h; omega
theorem pandn : ∀ x0 x1 x2, Statement (.pandn x0 x1 x2) := by
  intro x0 x1 x2 w h; have h := Option.some.inj h; omega
theorem pmov : ∀ x0 x1, Statement (.pmov x0 x1) := by
  intro x0 x1 w h; have h := Option.some.inj h; omega
theorem ptos : ∀ x0 x1, Statement (.ptos x0 x1) := by
  intro x0 x1 w h; have h := Option.some.inj h; omega
theorem cmpiEq : ∀ x0 x1 x2, Statement (.cmpiEq x0 x1 x2) := by
  intro x0 x1 x2 w h; have h := Option.some.inj h; omega
theorem cmpiLt : ∀ x0 x1 x2, Statement (.cmpiLt x0 x1 x2) := by
  intro x0 x1 x2 w h; have h := Option.some.inj h; omega
theorem cmpiLtu : ∀ x0 x1 x2, Statement (.cmpiLtu x0 x1 x2) := by
  intro x0 x1 x2 w h; have h := Option.some.inj h; omega
theorem sel : ∀ x0 x1 x2 x3, Statement (.sel x0 x1 x2 x3) := by
  intro x0 x1 x2 x3 w h; have h := Option.some.inj h; omega
theorem ldB : ∀ x0 x1 x2 x3, Statement (.ldB x0 x1 x2 x3) := by
  intro x0 x1 x2 x3 w h; have h := Option.some.inj h; omega
theorem ldH : ∀ x0 x1 x2 x3, Statement (.ldH x0 x1 x2 x3) := by
  intro x0 x1 x2 x3 w h; have h := Option.some.inj h; omega
theorem ldW : ∀ x0 x1 x2 x3, Statement (.ldW x0 x1 x2 x3) := by
  intro x0 x1 x2 x3 w h; have h := Option.some.inj h; omega
theorem ldD : ∀ x0 x1 x2 x3, Statement (.ldD x0 x1 x2 x3) := by
  intro x0 x1 x2 x3 w h; have h := Option.some.inj h; omega
theorem stW : ∀ x0 x1 x2 x3, Statement (.stW x0 x1 x2 x3) := by
  intro x0 x1 x2 x3 w h; have h := Option.some.inj h; omega
theorem stD : ∀ x0 x1 x2 x3, Statement (.stD x0 x1 x2 x3) := by
  intro x0 x1 x2 x3 w h; have h := Option.some.inj h; omega
theorem stx : ∀ x0 x1 x2 x3 x4, Statement (.stx x0 x1 x2 x3 x4) := by
  intro x0 x1 x2 x3 x4 w h; have h := Option.some.inj h; omega
theorem swap : ∀ x0 x1 x2 x3 x4, Statement (.swap x0 x1 x2 x3 x4) := by
  intro x0 x1 x2 x3 x4 w h; have := x4.toNat_lt; have h := Option.some.inj h; omega
theorem cas : ∀ x0 x1 x2 x3 x4, Statement (.cas x0 x1 x2 x3 x4) := by
  intro x0 x1 x2 x3 x4 w h; have := x4.toNat_lt; have h := Option.some.inj h; omega
theorem aadd : ∀ x0 x1 x2 x3 x4, Statement (.aadd x0 x1 x2 x3 x4) := by
  intro x0 x1 x2 x3 x4 w h; have := x4.toNat_lt; have h := Option.some.inj h; omega
theorem aand : ∀ x0 x1 x2 x3 x4, Statement (.aand x0 x1 x2 x3 x4) := by
  intro x0 x1 x2 x3 x4 w h; have := x4.toNat_lt; have h := Option.some.inj h; omega
theorem aor : ∀ x0 x1 x2 x3 x4, Statement (.aor x0 x1 x2 x3 x4) := by
  intro x0 x1 x2 x3 x4 w h; have := x4.toNat_lt; have h := Option.some.inj h; omega
theorem axor : ∀ x0 x1 x2 x3 x4, Statement (.axor x0 x1 x2 x3 x4) := by
  intro x0 x1 x2 x3 x4 w h; have := x4.toNat_lt; have h := Option.some.inj h; omega
theorem amin : ∀ x0 x1 x2 x3 x4, Statement (.amin x0 x1 x2 x3 x4) := by
  intro x0 x1 x2 x3 x4 w h; have := x4.toNat_lt; have h := Option.some.inj h; omega
theorem amax : ∀ x0 x1 x2 x3 x4, Statement (.amax x0 x1 x2 x3 x4) := by
  intro x0 x1 x2 x3 x4 w h; have := x4.toNat_lt; have h := Option.some.inj h; omega
theorem aminu : ∀ x0 x1 x2 x3 x4, Statement (.aminu x0 x1 x2 x3 x4) := by
  intro x0 x1 x2 x3 x4 w h; have := x4.toNat_lt; have h := Option.some.inj h; omega
theorem amaxu : ∀ x0 x1 x2 x3 x4, Statement (.amaxu x0 x1 x2 x3 x4) := by
  intro x0 x1 x2 x3 x4 w h; have := x4.toNat_lt; have h := Option.some.inj h; omega
theorem acq : ∀ x0 x1 x2, Statement (.acq x0 x1 x2) := by
  intro x0 x1 x2 w h; have := x2.toNat_lt; have h := Option.some.inj h; omega
theorem rel : ∀ x0 x1, Statement (.rel x0 x1) := by
  intro x0 x1 w h; have := x1.toNat_lt; have h := Option.some.inj h; omega
theorem mon : ∀ x0, Statement (.mon x0) := by
  intro x0 w h; have h := Option.some.inj h; omega
theorem mwait : ∀ x0 x1, Statement (.mwait x0 x1) := by
  intro x0 x1 w h; have h := Option.some.inj h; omega
theorem xfence : ∀ x0 x1, Statement (.xfence x0 x1) := by
  intro x0 x1 w h; have h := Option.some.inj h; omega
theorem br : ∀ x0 x1 x2, Statement (.br x0 x1 x2) := by
  intro x0 x1 x2 w h; have := x1.toNat_lt; have h := Option.some.inj h; omega
theorem brN : ∀ x0 x1 x2, Statement (.brN x0 x1 x2) := by
  intro x0 x1 x2 w h; have := x1.toNat_lt; have h := Option.some.inj h; omega
theorem call : ∀ x0, Statement (.call x0) := by
  intro x0 w h; have h := Option.some.inj h; omega
theorem jr : ∀ x0, Statement (.jr x0) := by
  intro x0 w h; have h := Option.some.inj h; omega
theorem jrN : ∀ x0, Statement (.jrN x0) := by
  intro x0 w h; have h := Option.some.inj h; omega
theorem jrl : ∀ x0 x1, Statement (.jrl x0 x1) := by
  intro x0 x1 w h; have h := Option.some.inj h; omega
theorem jrlN : ∀ x0 x1, Statement (.jrlN x0 x1) := by
  intro x0 x1 w h; have h := Option.some.inj h; omega
theorem yield : Statement (.yield) := by
  intro w h; have h := Option.some.inj h; omega
theorem exit : Statement (.exit) := by
  intro w h; have h := Option.some.inj h; omega
theorem spawn : ∀ x0, Statement (.spawn x0) := by
  intro x0 w h; have h := Option.some.inj h; omega
theorem tmHold : ∀ x0 x1 x2, Statement (.tmHold x0 x1 x2) := by
  intro x0 x1 x2 w h; have h := Option.some.inj h; omega
theorem tmDrop : ∀ x0 x1 x2, Statement (.tmDrop x0 x1 x2) := by
  intro x0 x1 x2 w h; have h := Option.some.inj h; omega
theorem tmMove : ∀ x0 x1 x2 x3, Statement (.tmMove x0 x1 x2 x3) := by
  intro x0 x1 x2 x3 w h; have h := Option.some.inj h; omega
theorem tmBar : ∀ x0 x1, Statement (.tmBar x0 x1) := by
  intro x0 x1 w h; have h := Option.some.inj h; omega
theorem tmWaitf : ∀ x0 x1, Statement (.tmWaitf x0 x1) := by
  intro x0 x1 w h; have h := Option.some.inj h; omega
theorem tmFront : ∀ x0 x1, Statement (.tmFront x0 x1) := by
  intro x0 x1 w h; have h := Option.some.inj h; omega
theorem tmMtt : ∀ x0 x1, Statement (.tmMtt x0 x1) := by
  intro x0 x1 w h; have h := Option.some.inj h; omega
theorem tmMft : ∀ x0 x1, Statement (.tmMft x0 x1) := by
  intro x0 x1 w h; have h := Option.some.inj h; omega
theorem tmEdge : ∀ x0 x1 x2 x3, Statement (.tmEdge x0 x1 x2 x3) := by
  intro x0 x1 x2 x3 w h; have h := Option.some.inj h; omega
theorem tmAddc : ∀ x0 x1 x2, Statement (.tmAddc x0 x1 x2) := by
  intro x0 x1 x2 w h; have h := Option.some.inj h; omega
theorem emit : ∀ x0 x1, Statement (.emit x0 x1) := by
  intro x0 x1 w h; have h := Option.some.inj h; omega
theorem emitP : ∀ x0 x1 x2 x3 x4, Statement (.emitP x0 x1 x2 x3 x4) := by
  intro x0 x1 x2 x3 x4 w h; have h := Option.some.inj h; omega
theorem emitBc : ∀ x0 x1, Statement (.emitBc x0 x1) := by
  intro x0 x1 w h; have h := Option.some.inj h; omega
theorem eqWait : ∀ x0 x1, Statement (.eqWait x0 x1) := by
  intro x0 x1 w h; have h := Option.some.inj h; omega
theorem eqStat : ∀ x0 x1, Statement (.eqStat x0 x1) := by
  intro x0 x1 w h; have h := Option.some.inj h; omega
theorem cpPut : ∀ x0 x1, Statement (.cpPut x0 x1) := by
  intro x0 x1 w h; have h := Option.some.inj h; omega
theorem cpGet : ∀ x0 x1, Statement (.cpGet x0 x1) := by
  intro x0 x1 w h; have h := Option.some.inj h; omega
theorem cpPuts : ∀ x0 x1, Statement (.cpPuts x0 x1) := by
  intro x0 x1 w h; have h := Option.some.inj h; omega
theorem cpMcast : ∀ x0 x1, Statement (.cpMcast x0 x1) := by
  intro x0 x1 w h; have h := Option.some.inj h; omega
theorem cpGather : ∀ x0 x1, Statement (.cpGather x0 x1) := by
  intro x0 x1 w h; have h := Option.some.inj h; omega
theorem cpMig : ∀ x0 x1, Statement (.cpMig x0 x1) := by
  intro x0 x1 w h; have h := Option.some.inj h; omega
theorem hWait : ∀ x0 x1, Statement (.hWait x0 x1) := by
  intro x0 x1 w h; have h := Option.some.inj h; omega
theorem hStat : ∀ x0 x1, Statement (.hStat x0 x1) := by
  intro x0 x1 w h; have h := Option.some.inj h; omega
theorem hFree : ∀ x0, Statement (.hFree x0) := by
  intro x0 w h; have h := Option.some.inj h; omega
theorem hBind : ∀ x0 x1, Statement (.hBind x0 x1) := by
  intro x0 x1 w h; have h := Option.some.inj h; omega
theorem hKeep : ∀ x0, Statement (.hKeep x0) := by
  intro x0 w h; have h := Option.some.inj h; omega
theorem hDisc : ∀ x0, Statement (.hDisc x0) := by
  intro x0 w h; have h := Option.some.inj h; omega
theorem blkLd : ∀ x0 x1 x2, Statement (.blkLd x0 x1 x2) := by
  intro x0 x1 x2 w h; have h := Option.some.inj h; omega
theorem blkEvict : ∀ x0, Statement (.blkEvict x0) := by
  intro x0 w h; have h := Option.some.inj h; omega
theorem blkWait : ∀ x0 x1, Statement (.blkWait x0 x1) := by
  intro x0 x1 w h; have h := Option.some.inj h; omega
theorem waitC : ∀ x0 x1 x2 x3, Statement (.waitC x0 x1 x2 x3) := by
  intro x0 x1 x2 x3 w h; have h := Option.some.inj h; omega
theorem rgnDecl : ∀ x0 x1, Statement (.rgnDecl x0 x1) := by
  intro x0 x1 w h; have h := Option.some.inj h; omega
theorem rgnBind : ∀ x0 x1, Statement (.rgnBind x0 x1) := by
  intro x0 x1 w h; have h := Option.some.inj h; omega
theorem fmtSet : ∀ x0 x1, Statement (.fmtSet x0 x1) := by
  intro x0 x1 w h; have h := Option.some.inj h; omega
theorem fmtGet : ∀ x0 x1, Statement (.fmtGet x0 x1) := by
  intro x0 x1 w h; have h := Option.some.inj h; omega
theorem prefI : ∀ x0 x1 x2, Statement (.prefI x0 x1 x2) := by
  intro x0 x1 x2 w h; have h := Option.some.inj h; omega
theorem prefD : ∀ x0 x1 x2, Statement (.prefD x0 x1 x2) := by
  intro x0 x1 x2 w h; have h := Option.some.inj h; omega
theorem prefM : ∀ x0 x1 x2, Statement (.prefM x0 x1 x2) := by
  intro x0 x1 x2 w h; have h := Option.some.inj h; omega
theorem demoteD : ∀ x0 x1 x2, Statement (.demoteD x0 x1 x2) := by
  intro x0 x1 x2 w h; have h := Option.some.inj h; omega
theorem reservedHint : ∀ x0 x1 x2 x3, Statement (.reservedHint x0 x1 x2 x3) := by
  intro x0 x1 x2 x3 w h; have h := Option.some.inj h; omega
theorem mjOpen : ∀ x0, Statement (.mjOpen x0) := by
  intro x0 w h; have h := Option.some.inj h; omega
theorem mjWr : ∀ x0 x1, Statement (.mjWr x0 x1) := by
  intro x0 x1 w h; have h := Option.some.inj h; omega
theorem mjCommit : ∀ x0, Statement (.mjCommit x0) := by
  intro x0 w h; have h := Option.some.inj h; omega
theorem mjAbort : Statement (.mjAbort) := by
  intro w h; have h := Option.some.inj h; omega
theorem mjStat : ∀ x0 x1, Statement (.mjStat x0 x1) := by
  intro x0 x1 w h; have h := Option.some.inj h; omega
theorem psSafe : ∀ x0, Statement (.psSafe x0) := by
  intro x0 w h; have h := Option.some.inj h; omega
theorem psWake : ∀ x0 x1, Statement (.psWake x0 x1) := by
  intro x0 x1 w h; have h := Option.some.inj h; omega
theorem psNap : ∀ x0, Statement (.psNap x0) := by
  intro x0 w h; have h := Option.some.inj h; omega
theorem psDoze : ∀ x0, Statement (.psDoze x0) := by
  intro x0 w h; have h := Option.some.inj h; omega
theorem rdtime : ∀ x0, Statement (.rdtime x0) := by
  intro x0 w h; have h := Option.some.inj h; omega
theorem rdcyc : ∀ x0, Statement (.rdcyc x0) := by
  intro x0 w h; have h := Option.some.inj h; omega
theorem mfs : ∀ x0 x1, Statement (.mfs x0 x1) := by
  intro x0 x1 w h; have h := Option.some.inj h; omega
theorem mts : ∀ x0 x1, Statement (.mts x0 x1) := by
  intro x0 x1 w h; have h := Option.some.inj h; omega
theorem trap : ∀ x0, Statement (.trap x0) := by
  intro x0 w h; have h := Option.some.inj h; omega
theorem rfe : Statement (.rfe) := by
  intro w h; have h := Option.some.inj h; omega
theorem ctxStart : ∀ x0, Statement (.ctxStart x0) := by
  intro x0 w h; have h := Option.some.inj h; omega
theorem ctxSave : ∀ x0 x1, Statement (.ctxSave x0 x1) := by
  intro x0 x1 w h; have h := Option.some.inj h; omega
theorem ctxRestore : ∀ x0 x1, Statement (.ctxRestore x0 x1) := by
  intro x0 x1 w h; have h := Option.some.inj h; omega
theorem ctxEnd : ∀ x0 x1, Statement (.ctxEnd x0 x1) := by
  intro x0 x1 w h; have h := Option.some.inj h; omega
theorem mtrl : ∀ x0 x1, Statement (.mtrl x0 x1) := by
  intro x0 x1 w h; have h := Option.some.inj h; omega
theorem tlbi : ∀ x0, Statement (.tlbi x0) := by
  intro x0 w h; exact absurd h nofun
theorem bundleIssue : ∀ x0 x1, Statement (.bundleIssue x0 x1) := by
  intro x0 x1 w h; exact absurd h nofun
theorem bundleRetire : ∀ x0 x1, Statement (.bundleRetire x0 x1) := by
  intro x0 x1 w h; exact absurd h nofun
theorem unitResultDelivery : ∀ x0 x1 x2, Statement (.unitResultDelivery x0 x1 x2) := by
  intro x0 x1 x2 w h; exact absurd h nofun
theorem streamLoadLand : ∀ x0 x1, Statement (.streamLoadLand x0 x1) := by
  intro x0 x1 w h; exact absurd h nofun
theorem queuedGeneratorFetch : ∀ x0 x1 x2, Statement (.queuedGeneratorFetch x0 x1 x2) := by
  intro x0 x1 x2 w h; exact absurd h nofun
theorem loopReplay : ∀ x0 x1, Statement (.loopReplay x0 x1) := by
  intro x0 x1 w h; exact absurd h nofun
theorem vcoreStall : ∀ x0 x1, Statement (.vcoreStall x0 x1) := by
  intro x0 x1 w h; exact absurd h nofun
theorem bundleFaultDelivery : ∀ x0 x1, Statement (.bundleFaultDelivery x0 x1) := by
  intro x0 x1 w h; exact absurd h nofun
theorem emitStall : ∀ x0 x1, Statement (.emitStall x0 x1) := by
  intro x0 x1 w h; exact absurd h nofun
theorem blockedInstructionResume : ∀ x0 x1, Statement (.blockedInstructionResume x0 x1) := by
  intro x0 x1 w h; exact absurd h nofun
theorem mwaitWake : ∀ x0 x1, Statement (.mwaitWake x0 x1) := by
  intro x0 x1 w h; exact absurd h nofun
theorem mwaitTimeout : ∀ x0 x1, Statement (.mwaitTimeout x0 x1) := by
  intro x0 x1 w h; exact absurd h nofun
theorem loadValueDelivery : ∀ x0 x1, Statement (.loadValueDelivery x0 x1) := by
  intro x0 x1 w h; exact absurd h nofun
theorem icacheFillComplete : ∀ x0 x1, Statement (.icacheFillComplete x0 x1) := by
  intro x0 x1 w h; exact absurd h nofun
theorem blkFillComplete : ∀ x0 x1, Statement (.blkFillComplete x0 x1) := by
  intro x0 x1 w h; exact absurd h nofun
theorem contextBind : ∀ x0, Statement (.contextBind x0) := by
  intro x0 w h; exact absurd h nofun
theorem contextFree : ∀ x0 x1, Statement (.contextFree x0 x1) := by
  intro x0 x1 w h; exact absurd h nofun
theorem fcredCredit : ∀ x0, Statement (.fcredCredit x0) := by
  intro x0 w h; exact absurd h nofun
theorem firmwareInterrupt : ∀ x0 x1, Statement (.firmwareInterrupt x0 x1) := by
  intro x0 x1 w h; exact absurd h nofun
theorem firmwareServiceLimit : ∀ x0, Statement (.firmwareServiceLimit x0) := by
  intro x0 w h; exact absurd h nofun
theorem runOverrun : ∀ x0, Statement (.runOverrun x0) := by
  intro x0 w h; exact absurd h nofun
theorem specifierWrite : ∀ x0 x1 x2, Statement (.specifierWrite x0 x1 x2) := by
  intro x0 x1 x2 w h; exact absurd h nofun
theorem leaseRequest : ∀ x0 x1 x2, Statement (.leaseRequest x0 x1 x2) := by
  intro x0 x1 x2 w h; exact absurd h nofun
theorem leaseRelease : ∀ x0 x1 x2, Statement (.leaseRelease x0 x1 x2) := by
  intro x0 x1 x2 w h; exact absurd h nofun
theorem leaseClear : ∀ x0 x1 x2, Statement (.leaseClear x0 x1 x2) := by
  intro x0 x1 x2 w h; exact absurd h nofun
theorem leaseGrant : ∀ x0, Statement (.leaseGrant x0) := by
  intro x0 w h; exact absurd h nofun
theorem dpaMm : ∀ x0 x1 x2, Statement (.dpaMm x0 x1 x2) := by
  intro x0 x1 x2 w h; exact absurd h nofun
theorem dpaWld : ∀ x0 x1 x2, Statement (.dpaWld x0 x1 x2) := by
  intro x0 x1 x2 w h; exact absurd h nofun
theorem dpaZero : ∀ x0 x1 x2, Statement (.dpaZero x0 x1 x2) := by
  intro x0 x1 x2 w h; exact absurd h nofun
theorem dpaDrain : ∀ x0 x1 x2, Statement (.dpaDrain x0 x1 x2) := by
  intro x0 x1 x2 w h; exact absurd h nofun
theorem dpaAccld : ∀ x0 x1 x2, Statement (.dpaAccld x0 x1 x2) := by
  intro x0 x1 x2 w h; exact absurd h nofun
theorem dpaAccadd : ∀ x0 x1 x2, Statement (.dpaAccadd x0 x1 x2) := by
  intro x0 x1 x2 w h; exact absurd h nofun
theorem dpaCbld : ∀ x0 x1 x2, Statement (.dpaCbld x0 x1 x2) := by
  intro x0 x1 x2 w h; exact absurd h nofun
theorem dpaSync : ∀ x0 x1 x2, Statement (.dpaSync x0 x1 x2) := by
  intro x0 x1 x2 w h; exact absurd h nofun
theorem dpaDist : ∀ x0 x1 x2, Statement (.dpaDist x0 x1 x2) := by
  intro x0 x1 x2 w h; exact absurd h nofun
theorem dpaNear : ∀ x0 x1 x2, Statement (.dpaNear x0 x1 x2) := by
  intro x0 x1 x2 w h; exact absurd h nofun
theorem dpaCupd : ∀ x0 x1 x2, Statement (.dpaCupd x0 x1 x2) := by
  intro x0 x1 x2 w h; exact absurd h nofun
theorem dpaCdiv : ∀ x0 x1 x2, Statement (.dpaCdiv x0 x1 x2) := by
  intro x0 x1 x2 w h; exact absurd h nofun
theorem dpaCntr : ∀ x0 x1 x2, Statement (.dpaCntr x0 x1 x2) := by
  intro x0 x1 x2 w h; exact absurd h nofun
theorem dpaCmp24 : ∀ x0 x1 x2, Statement (.dpaCmp24 x0 x1 x2) := by
  intro x0 x1 x2 w h; exact absurd h nofun
theorem dpaCbenc : ∀ x0 x1 x2, Statement (.dpaCbenc x0 x1 x2) := by
  intro x0 x1 x2 w h; exact absurd h nofun
theorem arrayDeferredAccept : ∀ x0 x1, Statement (.arrayDeferredAccept x0 x1) := by
  intro x0 x1 w h; exact absurd h nofun
theorem arrayStall : ∀ x0 x1, Statement (.arrayStall x0 x1) := by
  intro x0 x1 w h; exact absurd h nofun
theorem arrayStepRetire : ∀ x0, Statement (.arrayStepRetire x0) := by
  intro x0 w h; exact absurd h nofun
theorem arrayCommandRetire : ∀ x0, Statement (.arrayCommandRetire x0) := by
  intro x0 w h; exact absurd h nofun
theorem copyStart : ∀ x0, Statement (.copyStart x0) := by
  intro x0 w h; exact absurd h nofun
theorem copyChunkRestart : ∀ x0, Statement (.copyChunkRestart x0) := by
  intro x0 w h; exact absurd h nofun
theorem copySignalApply : ∀ x0 x1, Statement (.copySignalApply x0 x1) := by
  intro x0 x1 w h; exact absurd h nofun
theorem copyComplete : ∀ x0, Statement (.copyComplete x0) := by
  intro x0 w h; exact absurd h nofun
theorem pageMigration : ∀ x0, Statement (.pageMigration x0) := by
  intro x0 w h; exact absurd h nofun
theorem countMessageApply : ∀ x0, Statement (.countMessageApply x0) := by
  intro x0 w h; exact absurd h nofun
theorem frontierBroadcast : ∀ x0, Statement (.frontierBroadcast x0) := by
  intro x0 w h; exact absurd h nofun
theorem frontierStall : ∀ x0 x1, Statement (.frontierStall x0 x1) := by
  intro x0 x1 w h; exact absurd h nofun
theorem lockStall : ∀ x0 x1, Statement (.lockStall x0 x1) := by
  intro x0 x1 w h; exact absurd h nofun
theorem copyStall : ∀ x0 x1, Statement (.copyStall x0 x1) := by
  intro x0 x1 w h; exact absurd h nofun
theorem commitEntryArrival : ∀ x0 x1, Statement (.commitEntryArrival x0 x1) := by
  intro x0 x1 w h; exact absurd h nofun
theorem plainCommit : ∀ x0, Statement (.plainCommit x0) := by
  intro x0 w h; exact absurd h nofun
theorem napEntry : ∀ x0, Statement (.napEntry x0) := by
  intro x0 w h; exact absurd h nofun
theorem squareWake : ∀ x0, Statement (.squareWake x0) := by
  intro x0 w h; exact absurd h nofun
theorem droopAlarm : ∀ x0, Statement (.droopAlarm x0) := by
  intro x0 w h; exact absurd h nofun
theorem droopWindowEnd : ∀ x0 x1, Statement (.droopWindowEnd x0 x1) := by
  intro x0 x1 w h; exact absurd h nofun
theorem brownEntry : Statement (.brownEntry) := by
  intro w h; exact absurd h nofun
theorem brownExit : Statement (.brownExit) := by
  intro w h; exact absurd h nofun
theorem powerFailWarning : ∀ x0 x1, Statement (.powerFailWarning x0 x1) := by
  intro x0 x1 w h; exact absurd h nofun
theorem holdupExhausted : Statement (.holdupExhausted) := by
  intro w h; exact absurd h nofun
theorem resumption : Statement (.resumption) := by
  intro w h; exact absurd h nofun
theorem coldStart : Statement (.coldStart) := by
  intro w h; exact absurd h nofun
theorem mresetGo : Statement (.mresetGo) := by
  intro w h; exact absurd h nofun
theorem sqtDoorbell : ∀ x0 x1, Statement (.sqtDoorbell x0 x1) := by
  intro x0 x1 w h; exact absurd h nofun
theorem cqhWrite : ∀ x0 x1, Statement (.cqhWrite x0 x1) := by
  intro x0 x1 w h; exact absurd h nofun
theorem hostRegisterWrite : ∀ x0 x1, Statement (.hostRegisterWrite x0 x1) := by
  intro x0 x1 w h; exact absurd h nofun
theorem hostWindowRead : ∀ x0 x1, Statement (.hostWindowRead x0 x1) := by
  intro x0 x1 w h; exact absurd h nofun
theorem hostWindowWrite : ∀ x0 x1, Statement (.hostWindowWrite x0 x1) := by
  intro x0 x1 w h; exact absurd h nofun
theorem commandTake : Statement (.commandTake) := by
  intro w h; exact absurd h nofun
theorem load : ∀ x0, Statement (.load x0) := by
  intro x0 w h; exact absurd h nofun
theorem loadInstallComplete : ∀ x0, Statement (.loadInstallComplete x0) := by
  intro x0 w h; exact absurd h nofun
theorem unload : Statement (.unload) := by
  intro w h; exact absurd h nofun
theorem invoke : Statement (.invoke) := by
  intro w h; exact absurd h nofun
theorem acceptTokenRelease : ∀ x0, Statement (.acceptTokenRelease x0) := by
  intro x0 w h; exact absurd h nofun
theorem invokeCompletion : ∀ x0, Statement (.invokeCompletion x0) := by
  intro x0 w h; exact absurd h nofun
theorem updateImage : ∀ x0, Statement (.updateImage x0) := by
  intro x0 w h; exact absurd h nofun
theorem updateMap : ∀ x0, Statement (.updateMap x0) := by
  intro x0 w h; exact absurd h nofun
theorem updatePatch : Statement (.updatePatch) := by
  intro w h; exact absurd h nofun
theorem queryIdent : Statement (.queryIdent) := by
  intro w h; exact absurd h nofun
theorem queryResidence : Statement (.queryResidence) := by
  intro w h; exact absurd h nofun
theorem queryBound : Statement (.queryBound) := by
  intro w h; exact absurd h nofun
theorem queryAttest : Statement (.queryAttest) := by
  intro w h; exact absurd h nofun
theorem signalNotify : Statement (.signalNotify) := by
  intro w h; exact absurd h nofun
theorem notifyFire : ∀ x0, Statement (.notifyFire x0) := by
  intro x0 w h; exact absurd h nofun
theorem signalReduce : Statement (.signalReduce) := by
  intro w h; exact absurd h nofun
theorem reduceCombine : ∀ x0 x1, Statement (.reduceCombine x0 x1) := by
  intro x0 x1 w h; exact absurd h nofun
theorem peerLost : ∀ x0 x1, Statement (.peerLost x0 x1) := by
  intro x0 x1 w h; exact absurd h nofun
theorem laneFailure : Statement (.laneFailure) := by
  intro w h; exact absurd h nofun
theorem linkRestore : Statement (.linkRestore) := by
  intro w h; exact absurd h nofun
theorem vfuIadd : ∀ x0 x1 x2 x3, Statement (.vfuIadd x0 x1 x2 x3) := by
  intro x0 x1 x2 x3 w h; exact absurd h nofun
theorem vfuIsub : ∀ x0 x1 x2 x3, Statement (.vfuIsub x0 x1 x2 x3) := by
  intro x0 x1 x2 x3 w h; exact absurd h nofun
theorem vfuImul : ∀ x0 x1 x2 x3, Statement (.vfuImul x0 x1 x2 x3) := by
  intro x0 x1 x2 x3 w h; exact absurd h nofun
theorem vfuImad : ∀ x0 x1 x2 x3, Statement (.vfuImad x0 x1 x2 x3) := by
  intro x0 x1 x2 x3 w h; exact absurd h nofun
theorem vfuIadds : ∀ x0 x1 x2 x3, Statement (.vfuIadds x0 x1 x2 x3) := by
  intro x0 x1 x2 x3 w h; exact absurd h nofun
theorem vfuIsubs : ∀ x0 x1 x2 x3, Statement (.vfuIsubs x0 x1 x2 x3) := by
  intro x0 x1 x2 x3 w h; exact absurd h nofun
theorem vfuImin : ∀ x0 x1 x2 x3, Statement (.vfuImin x0 x1 x2 x3) := by
  intro x0 x1 x2 x3 w h; exact absurd h nofun
theorem vfuImax : ∀ x0 x1 x2 x3, Statement (.vfuImax x0 x1 x2 x3) := by
  intro x0 x1 x2 x3 w h; exact absurd h nofun
theorem vfuIminu : ∀ x0 x1 x2 x3, Statement (.vfuIminu x0 x1 x2 x3) := by
  intro x0 x1 x2 x3 w h; exact absurd h nofun
theorem vfuImaxu : ∀ x0 x1 x2 x3, Statement (.vfuImaxu x0 x1 x2 x3) := by
  intro x0 x1 x2 x3 w h; exact absurd h nofun
theorem vfuAnd : ∀ x0 x1 x2 x3, Statement (.vfuAnd x0 x1 x2 x3) := by
  intro x0 x1 x2 x3 w h; exact absurd h nofun
theorem vfuOr : ∀ x0 x1 x2 x3, Statement (.vfuOr x0 x1 x2 x3) := by
  intro x0 x1 x2 x3 w h; exact absurd h nofun
theorem vfuXor : ∀ x0 x1 x2 x3, Statement (.vfuXor x0 x1 x2 x3) := by
  intro x0 x1 x2 x3 w h; exact absurd h nofun
theorem vfuShl : ∀ x0 x1 x2 x3, Statement (.vfuShl x0 x1 x2 x3) := by
  intro x0 x1 x2 x3 w h; exact absurd h nofun
theorem vfuShr : ∀ x0 x1 x2 x3, Statement (.vfuShr x0 x1 x2 x3) := by
  intro x0 x1 x2 x3 w h; exact absurd h nofun
theorem vfuSra : ∀ x0 x1 x2 x3, Statement (.vfuSra x0 x1 x2 x3) := by
  intro x0 x1 x2 x3 w h; exact absurd h nofun
theorem vfuIabs : ∀ x0 x1 x2 x3, Statement (.vfuIabs x0 x1 x2 x3) := by
  intro x0 x1 x2 x3 w h; exact absurd h nofun
theorem vfuIaddH : ∀ x0 x1 x2 x3, Statement (.vfuIaddH x0 x1 x2 x3) := by
  intro x0 x1 x2 x3 w h; exact absurd h nofun
theorem vfuIaddB : ∀ x0 x1 x2 x3, Statement (.vfuIaddB x0 x1 x2 x3) := by
  intro x0 x1 x2 x3 w h; exact absurd h nofun
theorem vfuIaddsB : ∀ x0 x1 x2 x3, Statement (.vfuIaddsB x0 x1 x2 x3) := by
  intro x0 x1 x2 x3 w h; exact absurd h nofun
theorem vfuIdot4 : ∀ x0 x1 x2 x3, Statement (.vfuIdot4 x0 x1 x2 x3) := by
  intro x0 x1 x2 x3 w h; exact absurd h nofun
theorem vfuFadd : ∀ x0 x1 x2 x3, Statement (.vfuFadd x0 x1 x2 x3) := by
  intro x0 x1 x2 x3 w h; exact absurd h nofun
theorem vfuFsub : ∀ x0 x1 x2 x3, Statement (.vfuFsub x0 x1 x2 x3) := by
  intro x0 x1 x2 x3 w h; exact absurd h nofun
theorem vfuFmul : ∀ x0 x1 x2 x3, Statement (.vfuFmul x0 x1 x2 x3) := by
  intro x0 x1 x2 x3 w h; exact absurd h nofun
theorem vfuFma : ∀ x0 x1 x2 x3, Statement (.vfuFma x0 x1 x2 x3) := by
  intro x0 x1 x2 x3 w h; exact absurd h nofun
theorem vfuFmin : ∀ x0 x1 x2 x3, Statement (.vfuFmin x0 x1 x2 x3) := by
  intro x0 x1 x2 x3 w h; exact absurd h nofun
theorem vfuFmax : ∀ x0 x1 x2 x3, Statement (.vfuFmax x0 x1 x2 x3) := by
  intro x0 x1 x2 x3 w h; exact absurd h nofun
theorem vfuFabs : ∀ x0 x1 x2 x3, Statement (.vfuFabs x0 x1 x2 x3) := by
  intro x0 x1 x2 x3 w h; exact absurd h nofun
theorem vfuFneg : ∀ x0 x1 x2 x3, Statement (.vfuFneg x0 x1 x2 x3) := by
  intro x0 x1 x2 x3 w h; exact absurd h nofun
theorem vfuFrcp : ∀ x0 x1 x2 x3, Statement (.vfuFrcp x0 x1 x2 x3) := by
  intro x0 x1 x2 x3 w h; exact absurd h nofun
theorem vfuFsqrt : ∀ x0 x1 x2 x3, Statement (.vfuFsqrt x0 x1 x2 x3) := by
  intro x0 x1 x2 x3 w h; exact absurd h nofun
theorem vfuFaddBf : ∀ x0 x1 x2 x3, Statement (.vfuFaddBf x0 x1 x2 x3) := by
  intro x0 x1 x2 x3 w h; exact absurd h nofun
theorem vfuFmulBf : ∀ x0 x1 x2 x3, Statement (.vfuFmulBf x0 x1 x2 x3) := by
  intro x0 x1 x2 x3 w h; exact absurd h nofun
theorem vfuFmaBf : ∀ x0 x1 x2 x3, Statement (.vfuFmaBf x0 x1 x2 x3) := by
  intro x0 x1 x2 x3 w h; exact absurd h nofun
theorem vfuFmaHf : ∀ x0 x1 x2 x3, Statement (.vfuFmaHf x0 x1 x2 x3) := by
  intro x0 x1 x2 x3 w h; exact absurd h nofun
theorem vfuFmaE4 : ∀ x0 x1 x2 x3, Statement (.vfuFmaE4 x0 x1 x2 x3) := by
  intro x0 x1 x2 x3 w h; exact absurd h nofun
theorem vfuFmaE5 : ∀ x0 x1 x2 x3, Statement (.vfuFmaE5 x0 x1 x2 x3) := by
  intro x0 x1 x2 x3 w h; exact absurd h nofun
theorem vfuCvtFI : ∀ x0 x1 x2 x3, Statement (.vfuCvtFI x0 x1 x2 x3) := by
  intro x0 x1 x2 x3 w h; exact absurd h nofun
theorem vfuCvtIF : ∀ x0 x1 x2 x3, Statement (.vfuCvtIF x0 x1 x2 x3) := by
  intro x0 x1 x2 x3 w h; exact absurd h nofun
theorem vfuCvtBfF : ∀ x0 x1 x2 x3, Statement (.vfuCvtBfF x0 x1 x2 x3) := by
  intro x0 x1 x2 x3 w h; exact absurd h nofun
theorem vfuCvtHfF : ∀ x0 x1 x2 x3, Statement (.vfuCvtHfF x0 x1 x2 x3) := by
  intro x0 x1 x2 x3 w h; exact absurd h nofun
theorem vfuCvtE4F : ∀ x0 x1 x2 x3, Statement (.vfuCvtE4F x0 x1 x2 x3) := by
  intro x0 x1 x2 x3 w h; exact absurd h nofun
theorem vfuCvtE5F : ∀ x0 x1 x2 x3, Statement (.vfuCvtE5F x0 x1 x2 x3) := by
  intro x0 x1 x2 x3 w h; exact absurd h nofun
theorem vfuCvtFBf : ∀ x0 x1 x2 x3, Statement (.vfuCvtFBf x0 x1 x2 x3) := by
  intro x0 x1 x2 x3 w h; exact absurd h nofun
theorem vfuCvtFHf : ∀ x0 x1 x2 x3, Statement (.vfuCvtFHf x0 x1 x2 x3) := by
  intro x0 x1 x2 x3 w h; exact absurd h nofun
theorem vfuCvtFE4 : ∀ x0 x1 x2 x3, Statement (.vfuCvtFE4 x0 x1 x2 x3) := by
  intro x0 x1 x2 x3 w h; exact absurd h nofun
theorem vfuCvtFE5 : ∀ x0 x1 x2 x3, Statement (.vfuCvtFE5 x0 x1 x2 x3) := by
  intro x0 x1 x2 x3 w h; exact absurd h nofun
theorem vfuCvtII8 : ∀ x0 x1 x2 x3, Statement (.vfuCvtII8 x0 x1 x2 x3) := by
  intro x0 x1 x2 x3 w h; exact absurd h nofun
theorem vfuCvtI8I : ∀ x0 x1 x2 x3, Statement (.vfuCvtI8I x0 x1 x2 x3) := by
  intro x0 x1 x2 x3 w h; exact absurd h nofun
theorem vfuQntE2 : ∀ x0 x1 x2 x3, Statement (.vfuQntE2 x0 x1 x2 x3) := by
  intro x0 x1 x2 x3 w h; exact absurd h nofun
theorem vfuDqntE2 : ∀ x0 x1 x2 x3, Statement (.vfuDqntE2 x0 x1 x2 x3) := by
  intro x0 x1 x2 x3 w h; exact absurd h nofun
theorem vfuIcmpEq : ∀ x0 x1 x2 x3, Statement (.vfuIcmpEq x0 x1 x2 x3) := by
  intro x0 x1 x2 x3 w h; exact absurd h nofun
theorem vfuIcmpLt : ∀ x0 x1 x2 x3, Statement (.vfuIcmpLt x0 x1 x2 x3) := by
  intro x0 x1 x2 x3 w h; exact absurd h nofun
theorem vfuIcmpLtu : ∀ x0 x1 x2 x3, Statement (.vfuIcmpLtu x0 x1 x2 x3) := by
  intro x0 x1 x2 x3 w h; exact absurd h nofun
theorem vfuFcmpEq : ∀ x0 x1 x2 x3, Statement (.vfuFcmpEq x0 x1 x2 x3) := by
  intro x0 x1 x2 x3 w h; exact absurd h nofun
theorem vfuFcmpLt : ∀ x0 x1 x2 x3, Statement (.vfuFcmpLt x0 x1 x2 x3) := by
  intro x0 x1 x2 x3 w h; exact absurd h nofun
theorem vfuFcmpLe : ∀ x0 x1 x2 x3, Statement (.vfuFcmpLe x0 x1 x2 x3) := by
  intro x0 x1 x2 x3 w h; exact absurd h nofun
theorem vfuFcmpUn : ∀ x0 x1 x2 x3, Statement (.vfuFcmpUn x0 x1 x2 x3) := by
  intro x0 x1 x2 x3 w h; exact absurd h nofun
theorem vfuVsel : ∀ x0 x1 x2 x3, Statement (.vfuVsel x0 x1 x2 x3) := by
  intro x0 x1 x2 x3 w h; exact absurd h nofun
theorem vfuPerm : ∀ x0 x1 x2 x3, Statement (.vfuPerm x0 x1 x2 x3) := by
  intro x0 x1 x2 x3 w h; exact absurd h nofun
theorem vfuRotl : ∀ x0 x1 x2 x3, Statement (.vfuRotl x0 x1 x2 x3) := by
  intro x0 x1 x2 x3 w h; exact absurd h nofun
theorem vfuBcast : ∀ x0 x1 x2 x3, Statement (.vfuBcast x0 x1 x2 x3) := by
  intro x0 x1 x2 x3 w h; exact absurd h nofun
theorem vfuRsumI : ∀ x0 x1 x2 x3, Statement (.vfuRsumI x0 x1 x2 x3) := by
  intro x0 x1 x2 x3 w h; exact absurd h nofun
theorem vfuRsumF : ∀ x0 x1 x2 x3, Statement (.vfuRsumF x0 x1 x2 x3) := by
  intro x0 x1 x2 x3 w h; exact absurd h nofun
theorem vfuRmaxF : ∀ x0 x1 x2 x3, Statement (.vfuRmaxF x0 x1 x2 x3) := by
  intro x0 x1 x2 x3 w h; exact absurd h nofun
theorem vfuRminF : ∀ x0 x1 x2 x3, Statement (.vfuRminF x0 x1 x2 x3) := by
  intro x0 x1 x2 x3 w h; exact absurd h nofun
theorem vfuRmaxI : ∀ x0 x1 x2 x3, Statement (.vfuRmaxI x0 x1 x2 x3) := by
  intro x0 x1 x2 x3 w h; exact absurd h nofun
theorem vfuArgmaxF : ∀ x0 x1 x2 x3, Statement (.vfuArgmaxF x0 x1 x2 x3) := by
  intro x0 x1 x2 x3 w h; exact absurd h nofun
theorem kfAdd : ∀ x0 x1 x2, Statement (.kfAdd x0 x1 x2) := by
  intro x0 x1 x2 w h; exact absurd h nofun
theorem kfSub : ∀ x0 x1 x2, Statement (.kfSub x0 x1 x2) := by
  intro x0 x1 x2 w h; exact absurd h nofun
theorem kfMul : ∀ x0 x1 x2, Statement (.kfMul x0 x1 x2) := by
  intro x0 x1 x2 w h; exact absurd h nofun
theorem kfMad : ∀ x0 x1 x2, Statement (.kfMad x0 x1 x2) := by
  intro x0 x1 x2 w h; exact absurd h nofun
theorem kfAnd : ∀ x0 x1 x2, Statement (.kfAnd x0 x1 x2) := by
  intro x0 x1 x2 w h; exact absurd h nofun
theorem kfOr : ∀ x0 x1 x2, Statement (.kfOr x0 x1 x2) := by
  intro x0 x1 x2 w h; exact absurd h nofun
theorem kfXor : ∀ x0 x1 x2, Statement (.kfXor x0 x1 x2) := by
  intro x0 x1 x2 w h; exact absurd h nofun
theorem kfAndn : ∀ x0 x1 x2, Statement (.kfAndn x0 x1 x2) := by
  intro x0 x1 x2 w h; exact absurd h nofun
theorem kfShl : ∀ x0 x1 x2, Statement (.kfShl x0 x1 x2) := by
  intro x0 x1 x2 w h; exact absurd h nofun
theorem kfShr : ∀ x0 x1 x2, Statement (.kfShr x0 x1 x2) := by
  intro x0 x1 x2 w h; exact absurd h nofun
theorem kfSra : ∀ x0 x1 x2, Statement (.kfSra x0 x1 x2) := by
  intro x0 x1 x2 w h; exact absurd h nofun
theorem kfMin : ∀ x0 x1 x2, Statement (.kfMin x0 x1 x2) := by
  intro x0 x1 x2 w h; exact absurd h nofun
theorem kfMax : ∀ x0 x1 x2, Statement (.kfMax x0 x1 x2) := by
  intro x0 x1 x2 w h; exact absurd h nofun
theorem kfMinu : ∀ x0 x1 x2, Statement (.kfMinu x0 x1 x2) := by
  intro x0 x1 x2 w h; exact absurd h nofun
theorem kfMaxu : ∀ x0 x1 x2, Statement (.kfMaxu x0 x1 x2) := by
  intro x0 x1 x2 w h; exact absurd h nofun
theorem kfPopc : ∀ x0 x1 x2, Statement (.kfPopc x0 x1 x2) := by
  intro x0 x1 x2 w h; exact absurd h nofun
theorem kfClz : ∀ x0 x1 x2, Statement (.kfClz x0 x1 x2) := by
  intro x0 x1 x2 w h; exact absurd h nofun
theorem kfSel : ∀ x0 x1 x2, Statement (.kfSel x0 x1 x2) := by
  intro x0 x1 x2 w h; exact absurd h nofun
theorem kfCmpEq : ∀ x0 x1 x2, Statement (.kfCmpEq x0 x1 x2) := by
  intro x0 x1 x2 w h; exact absurd h nofun
theorem kfCmpLt : ∀ x0 x1 x2, Statement (.kfCmpLt x0 x1 x2) := by
  intro x0 x1 x2 w h; exact absurd h nofun
theorem kfCmpLtu : ∀ x0 x1 x2, Statement (.kfCmpLtu x0 x1 x2) := by
  intro x0 x1 x2 w h; exact absurd h nofun
theorem kfLea : ∀ x0 x1 x2, Statement (.kfLea x0 x1 x2) := by
  intro x0 x1 x2 w h; exact absurd h nofun
theorem ctlLoop : ∀ x0 x1, Statement (.ctlLoop x0 x1) := by
  intro x0 x1 w h; exact absurd h nofun
theorem ctlVfence : ∀ x0 x1, Statement (.ctlVfence x0 x1) := by
  intro x0 x1 w h; exact absurd h nofun
theorem ctlRmode : ∀ x0 x1, Statement (.ctlRmode x0 x1) := by
  intro x0 x1 w h; exact absurd h nofun
theorem ctlCond : ∀ x0 x1, Statement (.ctlCond x0 x1) := by
  intro x0 x1 w h; exact absurd h nofun
theorem ctlQstat : ∀ x0 x1, Statement (.ctlQstat x0 x1) := by
  intro x0 x1 w h; exact absurd h nofun
theorem ctlMfirst : ∀ x0 x1, Statement (.ctlMfirst x0 x1) := by
  intro x0 x1 w h; exact absurd h nofun
theorem memGbase : ∀ x0 x1, Statement (.memGbase x0 x1) := by
  intro x0 x1 w h; exact absurd h nofun
theorem memGlev : ∀ x0 x1, Statement (.memGlev x0 x1) := by
  intro x0 x1 w h; exact absurd h nofun
theorem memGcfg : ∀ x0 x1, Statement (.memGcfg x0 x1) := by
  intro x0 x1 w h; exact absurd h nofun
theorem memGrst : ∀ x0 x1, Statement (.memGrst x0 x1) := by
  intro x0 x1 w h; exact absurd h nofun
theorem memGpos : ∀ x0 x1, Statement (.memGpos x0 x1) := by
  intro x0 x1 w h; exact absurd h nofun
theorem storePerformed : ∀ x0 x1, Statement (.storePerformed x0 x1) := by
  intro x0 x1 w h; exact absurd h nofun
theorem uncorrectableError : ∀ x0, Statement (.uncorrectableError x0) := by
  intro x0 w h; exact absurd h nofun
theorem updateInstallComplete : ∀ x0, Statement (.updateInstallComplete x0) := by
  intro x0 w h; exact absurd h nofun
theorem wfltClear : Statement (.wfltClear) := by
  intro w h; exact absurd h nofun
theorem qctlWrite : ∀ x0 x1, Statement (.qctlWrite x0 x1) := by
  intro x0 x1 w h; exact absurd h nofun
theorem peerDomainConfig : ∀ x0 x1, Statement (.peerDomainConfig x0 x1) := by
  intro x0 x1 w h; exact absurd h nofun
theorem imageKeySlotWrite : ∀ x0 x1, Statement (.imageKeySlotWrite x0 x1) := by
  intro x0 x1 w h; exact absurd h nofun

end Sys2Proof.Laws.Encoding
end

