-- ==== Sys2Proof/Tests/Slice0.lean ====
section
/-! SUPPORT. Small tests: the refusals of WellFormed, words of the spec's encodings, and states that meet the hypotheses of the statements. -/

namespace Sys2Proof.Machine

set_option Elab.async false

/-! ## WellFormed refuses an ill-formed term for each check (02 R30, R34 to R36) -/

theorem test_wf_xfence_from : (Instr.xfence 0 1).wf = false := by decide
theorem test_wf_xfence_to : (Instr.xfence 1 0).wf = false := by decide
theorem test_wf_emit_bc : (Instr.emitBc 3 0).wf = false := by decide
theorem test_wf_mfs : (Instr.mfs 1 0x009).wf = false := by decide
theorem test_wf_mts : (Instr.mts 1 0x305).wf = false := by decide
theorem test_wf_hint : (Instr.reservedHint 3 0 0 0).wf = false := by decide

/-! ## States for the witnesses -/

/-- Square 0 runs context 0, and `f` is applied to the square. -/
def bedSq (f : Square → Square) : State := State.reset.modSq 0 (fun x => f { x with power := .run, active := some 0 })
/-- The same with `f` applied to the context, which is the issuing one. -/
def bed (f : Ctx → Ctx) : State := (bedSq id).modMe (fun x => f { x with st := .active })
/-- s1 and s2 hold `x` and `y`. -/
def bed2 (x y : Word) : State := bed (fun c => (c.setS 1 x).setS 2 y)
/-- The same with context F issuing. -/
def bedF (x y : Word) : State := ({ bedSq id with fcx := 8 } : State).modMe (fun c => (c.setS 1 x).setS 2 y)
/-- Page tables that map the first 64 KiB of space 0 onto HBM4 at 0x10000, with every right. -/
def bedPages (s : State) : State :=
  { s with ptbr := 0x1000, mem := [(0x1001, 0x20), (0x1007, 0x80), (0x2001, 0x30), (0x2007, 0x80), (0x3001, 0x40), (0x3007, 0x80),
      (0x4001, 0x07), (0x4002, 0x01), (0x4007, 0x82)] }
/-- Whether a computation answers with what `p` says. -/
def okAnd {ε α : Type} (e : Except ε α) (p : α → Bool) : Bool := match e with
  | .ok x => p x
  | .error _ => false
/-- Whether the issuing context's access to `va` translates to a place and a state of which `p` holds. -/
def after (s : State) (n : Need) (va : Nat) (p : Nat → State → Bool) : Bool :=
  okAnd (s.translate s.fsq (s.me.who s.fcx) n va) (fun x => p x.1 x.2)
/-- Whether the issuing context's access to `va` fails with a cause, and whether it waits. -/
def causes (s : State) (n : Need) (va : Nat) : Bool := match s.translate s.fsq (s.me.who s.fcx) n va with
  | .error (.cause _) => true
  | _ => false
def stalls (s : State) (n : Need) (va : Nat) : Bool := match s.translate s.fsq (s.me.who s.fcx) n va with
  | .error .stall => true
  | _ => false
/-- Whether an outcome is a next state of which `p` holds. -/
def nextAnd (o : Out) (p : State → Bool) : Bool := match o with
  | .next t => p t
  | _ => false
/-- Doublewords put into the private area of the issuing context. -/
def put (s : State) (a : Nat) (l : List Nat) : State := s.writeHome (privAddr s.fsq.val s.fcx.val a) (l.flatMap (natLE 8 ·))
/-- A region of the square store's first bytes, and one of space 0. -/
def rgn (sp : Nat) (start len : Nat) (plain : Bool) : Region :=
  { space := sp, start := start, len := len, sync := 3, pool := 0, cls := 512, plain := plain, owner := .inv 0 }

/-! ## A state that meets the hypotheses of each statement -/

theorem witness_DividesNeverTrap : (bed2 7 0).rs 2 = 0 ∧
    (let s := bed2 0x8000000000000000 0xFFFFFFFFFFFFFFFF; s.rs 1 = 0x8000000000000000 ∧ s.rs 2 = 0xFFFFFFFFFFFFFFFF) ∧
    (let s := bed2 7 2; s.rs 2 ≠ 0 ∧ ¬(s.rs 1 = 0x8000000000000000 ∧ s.rs 2 = 0xFFFFFFFFFFFFFFFF)) := by decide +kernel

theorem witness_ControlFlowInstructions : (bed2 0x1000 0).rs 1 % 4 = 0 ∧ (bed2 0x1001 0).rs 1 % 4 ≠ 0 := by decide +kernel

theorem witness_TrapsAndMachineChecks :
    (let s := bed (fun x => { x with thnd := 0x1001 }); s.fcx ≠ 8 ∧ s.me.thnd.getLsbD 0 = true ∧ s.me.thnd.getLsbD 1 = false) ∧
    (let s := bed (fun x => { x with thnd := 0x1003 }); s.fcx ≠ 8 ∧ s.me.thnd.getLsbD 1 = true) ∧ (bedF 0 0).fcx = 8 := by decide +kernel

theorem witness_IllegalAndPrivilegedWords : decodeBytes [0, 0, 0, 0xFC] = some (.error .opcode, []) ∧
    decodeBytes [0x3F, 0x10, 0x61, 0] = some (.error .function, []) ∧ decodeBytes [0x41, 0x10, 0x61, 0] = some (.error .field, []) ∧ (bed2 0 0).fcx ≠ 8 := by
  decide +kernel

/-- Context F with TSEL naming context 2, which is READY and held. -/
def bedSel : State := ((bedF 0x123456789ABCDEF7 2).modSq 0 (fun x => { x with tsel := 16 + 2 })).modCtx 0 2 (fun x => { x with st := .ready, hold := true })

theorem witness_SpecialRegisters : (bed2 0 0).fcx ≠ 8 ∧
    (let s := bedSel; s.fcx = 8 ∧ (s.sq s.fsq).tsel = BitVec.ofNat 64 (16 + (2 : Fin 8).val) ∧
      (s.ctx s.fsq (tileCx 2)).st = .ready ∧ (s.ctx s.fsq (tileCx 2)).hold = true ∧ (s.rs 1).getLsbD 3 = false) ∧
    (let s := bedF 8 0; s.fcx = 8 ∧ (s.sq s.fsq).tsel.getLsbD 4 = false ∧ (s.rs 1).getLsbD 3 = true) := by decide +kernel

/-- The line of the first 64 bytes from 0x100, with bytes stored in it. -/
def bedLine (s : State) : State := (s.fillLine 0 4 0x10100).putLine 0 0 0x100 [1, 2, 3, 4, 5, 6, 7, 8]
/-- A posted store of eight bytes at 0x100. -/
def bedPosted (s : State) : State := s.modMe (fun x => { x with posted := [⟨0x100, 0x10100, [1, 2, 3, 4, 5, 6, 7, 8], 0⟩] })

theorem witness_Loads :
    (let s := bed2 0x7DBFF8 0x3FF8
     (s.rs 1).toNat < 0x7DC000 ∧ s.isBad (storeAddr s.fsq.val ((s.rs 1).toNat / 512 * 512)) 512 = false ∧ (s.rs 1).toNat % 8 = 0 ∧
       (s.rs 2).toNat < 0x4000 ∧ (s.rs 2).toNat % 8 = 0 ∧ s.isBad (privAddr s.fsq.val s.fcx.val (s.rs 2).toNat) 8 = false ∧
       s.isBad (storeAddr s.fsq.val (s.rs 1).toNat) 8 = false) ∧
    after (bedLine (bedPages (bed2 0x100 0))) { r := true } 0x100 (fun _ t =>
      match (t.sq 0).line (0x100 / 64) with
      | some l => (List.range 8).all (fun k => l.good (0x100 % 64 + k))
      | none => false) = true ∧
    after (bedPosted (bedPages (bed2 0x100 0))) { r := true } 0x100 (fun pa t =>
      ((t.sq 0).line (0x100 / 64)).isNone && (List.range 8).all (fun k => (t.ownByte 0 0 (pa + k)).isSome)) = true ∧
    after (bedPages (bed2 0x100 0)) { r := true } 0x100 (fun pa t =>
      ((t.sq 0).line (0x100 / 64)).isNone && (t.ownByte 0 0 pa).isNone && !t.isBad pa 8 && decide ((t.sq 0).outLoads 0 < 4095)) = true := by
  decide +kernel

theorem witness_Stores :
    (let s := bed2 0x3FF8 0x3FFF; (s.rs 1).toNat % 8 = 0 ∧ (s.rs 1).toNat < 0x4000 ∧ (s.rs 2).toNat % 1 = 0 ∧ (s.rs 2).toNat < 0x4000) ∧
    after (bedPages (bed2 0x100 0)) { w := true } 0x100 (fun _ t => (t.plainAt 0 0x100).isNone && decide ((t.sq 0).outStores 0 < 4095)) = true ∧
    (let s := bed2 0x7DBFF8 7
     (s.rs 1).toNat % 8 = 0 ∧ (s.rs 1).toNat < 0x7DC000 ∧ s.plainAt 1 (s.rs 1) = none ∧ s.me.loads = [] ∧
       okAnd ((s.performLoads 0 0).writeStore 0 0x7DBFF8 (natLE 8 7)) (fun _ => true) = true) ∧
    (let s := { bed2 0x200 7 with bad := [unitBase (storeAddr 0 0x200)] }
     s.plainAt 1 (s.rs 1) = none ∧ okAnd ((s.performLoads 0 0).writeStore 0 0x200 (natLE 4 7)) (fun _ => true) = false) := by decide +kernel

/-- A token of scope 3 at time 7, and plain-shared regions of scope 3 in spaces 0 and 1. -/
def bedPlain (log : List LogEnt) (toks : List Tok) : State :=
  { (bedPages (bed2 0x110 0x7DBFFE)).modSq 0 (fun x => { x with tokens := toks, log := log }) with
    regions := [(0, some (rgn 0 0x100 0x100 true)), (5, some (rgn 1 0x7DBE00 0x200 true))] }
/-- A log entry of the doubleword at 0x10110 with stamp 7. -/
def bedLog (n : Nat) : List LogEnt :=
  List.replicate n ⟨0x10110, some 0x110, 0xF0, 0xAA00000000000000, 3, 7, 0, 0, false, none, 0, false, Vector.replicate 8 0⟩

theorem witness_PlainStores :
    (∀ x ∈ [(bedPlain [] [⟨3, 7, .ctx 0, 1⟩], some (7 : Word)), (bedPlain (bedLog 1) [⟨3, 7, .ctx 0, 1⟩], some 7), (bedPlain [] [], none)],
      after x.1 { w := true } 0x110 (fun pa t => decide (pa % 8 = 0) && decide (t.plainAt 0 0x110 = some (rgn 0 0x100 0x100 true)) &&
        decide ((t.sq 0).leastHeld (.ctx 0) 3 = x.2)) = true) ∧
    (let s := bedPlain [] [⟨3, 7, .ctx 0, 1⟩]
     (s.rs 2).toNat % 2 = 0 ∧ (s.rs 2).toNat < 0x7DC000 ∧ s.plainAt 1 (s.rs 2) = some (rgn 1 0x7DBE00 0x200 true) ∧ s.fcx ≠ 8 ∧
       (s.sq 0).leastHeld (.ctx 0) (Fin.ofNat 8 (bits (rgn 1 0x7DBE00 0x200 true).sync 0 3)) = some 7) ∧
    (let s := { bedPlain [] [] with fcx := 8 }; s.plainAt 1 0x7DBFF8 = some (rgn 1 0x7DBE00 0x200 true)) ∧
    (let s := bedPlain (bedLog 2048) [⟨3, 7, .ctx 0, 1⟩]; 2048 ≤ (s.sq 0).log.length ∧ ∀ e ∈ (s.sq 0).log, e.addr ≠ storeAddr 0 0x7DBFF8) ∧
    (let s := { bedPlain (bedLog 1) [] with localF := Vector.replicate 8 7 }
     (s.sq 0).log[0]? = (bedLog 1)[0]? ∧ (∀ r : Sq, ∀ x ∈ (s.sq r).log, s.passed x = false) ∧ s.localF[(3 : Fin 8)] ≤ 7) ∧
    (let s := { bedPlain (bedLog 1) [] with localF := Vector.replicate 8 8 }
     (∀ r : Sq, ∀ x ∈ (s.sq r).log, s.passed x = false) ∧ (7 : Word) < s.localF[(3 : Fin 8)] ∧ 0x10110 < 2 ^ 48) := by decide +kernel

theorem witness_AccessChecksInOrder :
    (bed2 1 0).fcx ≠ 8 ∧ ((bed2 1 0).rs 1).toNat % 2 ≠ 0 ∧
    (let n := ((bed2 0x7DC000 0).rs 1).toNat; n % 8 = 0 ∧ 0x7DC000 ≤ n) ∧ (let n := ((bed2 0x4000 0).rs 1).toNat; n % 8 = 0 ∧ 0x4000 ≤ n) ∧
    (let n := ((bed2 0x1000000000000 0).rs 1).toNat; n % 8 = 0 ∧ 2 ^ 48 ≤ n) ∧ (bedF 0x10000 0).fcx = 8 ∧
    (let n := ((bedF 0x10000 0).rs 1).toNat; n % 8 = 0 ∧ 0x10000 ≤ n) := by decide +kernel
/-- Context F in its management window: what loads, stores and atomics of space 3 ask. -/
theorem witness_Loads_window : let s := bedF 0xFFF8 5
    s.fcx = 8 ∧ (s.rs 1).toNat % 8 = 0 ∧ (s.rs 1).toNat < 0x10000 ∧ s.isBad (windowAddr s.fsq.val (s.rs 1).toNat) 8 = false ∧ s.me.loads = [] := by
  decide +kernel
/-- What F stores in its window, it loads. -/
theorem test_window : nextAnd (exec (.stD 2 1 3 0) (bedF 0xFFF8 5)) (fun t => nextAnd (exec (.ldD 4 1 3 0) t) (fun u => (u.rs 4).toNat == 5)) = true := by
  decide +kernel
/-- An address that is not mapped, and one whose page is being migrated. -/
def bedHole : State := bedPages (bed2 0x20000 0)
def bedMoving : State := (bedPages (bed2 0x100 0)).writeHome 0x4007 [0x92]
theorem witness_AccessChecksInOrder_translation :
    (causes bedHole { r := true } 0x20000 && causes bedHole { w := true } 0x20000 && causes bedHole { r := true, w := true } 0x20000 &&
      stalls bedMoving { r := true } 0x100 && stalls bedMoving { w := true } 0x100 && stalls bedMoving { r := true, w := true } 0x100) = true := by
  decide +kernel
/-- The same pages with the unit of 0x10100 in error, and a square store and a private area with an error. -/
def bedBad (x : Word) : State :=
  { bedPages (bed2 x 0) with bad := [unitBase 0x10100, unitBase (storeAddr 0 0x200), unitBase (privAddr 0 0 0x80)] }
theorem witness_AccessChecksInOrder_errors :
    after (bedPlain [] []) { r := true, w := true } 0x110 (fun _ t => (t.plainAt 0 0x110).isSome && t.inPlain 0 0x110) = true ∧
    (let s := bedPlain [] []; (s.plainAt 1 0x7DBFF8).isSome = true ∧ s.inPlain 1 0x7DBFF8 = true) ∧
    (let s := bedBad 0x200; s.plainAt 1 0x200 = none ∧ s.blockBad 0 (0x200 / 512) = true ∧ s.inPlain 1 0x200 = false) ∧
    (let s := bedBad 0x80; s.plainAt 2 0x80 = none ∧ s.isBad (privAddr 0 0 0x80) 8 = true) ∧
    after (bedBad 0x100) { r := true, w := true } 0x100 (fun pa t => (t.plainAt 0 0x100).isNone && !t.inPlain 0 0x100 && t.isBad pa 8) = true ∧
    after (bedBad 0x100) { r := true } 0x100 (fun pa t => ((t.sq 0).line (0x100 / 64)).isNone && (t.ownByte 0 0 pa).isNone && t.isBad pa 8) = true ∧
    after ((bedBad 0x100).fillLine 0 4 0x10100) { r := true } 0x100 (fun pa t =>
      (t.ownByte 0 0 pa).isNone && ((t.sq 0).line (0x100 / 64)).any (fun l => !l.good 0)) = true := by decide +kernel

/-- A block of random words in a region whose blocks have 64 bytes and no slots. -/
def bedRaw : State :=
  ({ bed2 0x200 5 with regions := [(7, some { rgn 1 0 0x400 false with cls := 64 })] }).writeHome (storeAddr 0 0x200)
    ((List.range 16).flatMap (fun i => natLE 4 (i * 0x9E3779B1)))
theorem witness_Atomics :
    (let s := bed2 0x3FF8 5; (s.rs 1).toNat % 8 = 0 ∧ (s.rs 1).toNat < 0x4000 ∧ s.isBad (privAddr s.fsq.val s.fcx.val (s.rs 1).toNat) 8 = false ∧
      s.me.loads = []) ∧
    (let s := bed2 0x7DBFFC 5
     (s.rs 1).toNat % 4 = 0 ∧ (s.rs 1).toNat < 0x7DC000 ∧ s.plainAt 1 (s.rs 1) = none ∧ s.blockBad s.fsq ((s.rs 1).toNat / 512) = false ∧
       okAnd ((s.performLoads 0 0).writeStore 0 0x7DBFFC (natLE 4 5)) (fun _ => true) = true) ∧
    ((bedPlain [] []).plainAt 1 0x7DBFF8).isSome = true ∧
    after (bedPages (bed2 0x108 5)) { r := true, w := true } 0x108 (fun pa t =>
      (t.plainAt 0 0x108).isNone && !t.isBad pa 8 && decide ((t.sq 0).outLoads 0 < 4095) && ((t.sq 0).line (0x108 / 64)).isNone) = true ∧
    after (bedPlain [] []) { r := true, w := true } 0x110 (fun _ t => (t.plainAt 0 0x110).isSome) = true := by decide +kernel

theorem witness_Atomics_noPlace : ((bedRaw.plainAt 1 0x200).isNone && !bedRaw.blockBad 0 1 &&
    !okAnd ((bedRaw.performLoads 0 0).writeStore 0 0x200 (natLE 8 5)) (fun _ => true)) = true := by decide +kernel

/-! ## Words of the spec: the printed words, and one word of every encoded instruction from Tables 2-1 to 2-4 -/

theorem test_words_int : ∀ e ∈ ([
    (0x00611040, .add 3 1 2), (0x00611080, .sub 3 1 2), (0x006110C0, .and 3 1 2), (0x00611100, .or 3 1 2), (0x00611140, .xor 3 1 2),
    (0x00611180, .andn 3 1 2), (0x006111C0, .shl 3 1 2), (0x00611200, .shr 3 1 2), (0x00611240, .sra 3 1 2), (0x00611280, .ror 3 1 2),
    (0x03FE02FF, .shli 31 30 63), (0x03FE033F, .shri 31 30 63), (0x03FE037F, .srai 31 30 63), (0x03FE03BF, .rori 31 30 63)] : List (BitVec 32 × Instr)), decode e.1 = .ok e.2 := by decide +kernel
theorem test_words_int2 : ∀ e ∈ ([
    (0x0229FBC0, .mul 17 9 31), (0x0229FC00, .mulh 17 9 31), (0x0229FC40, .mulhu 17 9 31), (0x0229FC80, .div 17 9 31), (0x0229FCC0, .divu 17 9 31),
    (0x0229FD00, .rem 17 9 31), (0x0229FD40, .remu 17 9 31), (0x0229FD80, .min 17 9 31), (0x0229FDC0, .max 17 9 31), (0x0229FE00, .minu 17 9 31),
    (0x0229FE40, .maxu 17 9 31), (0x0229FE80, .slt 17 9 31), (0x0229FEC0, .sltu 17 9 31), (0x0085071F, .sext 4 5 31), (0x00850740, .clz 4 5),
    (0x00850780, .popc 4 5), (0x008537C0, .adds 4 5 6)] : List (BitVec 32 × Instr)), decode e.1 = .ok e.2 := by decide +kernel
theorem test_words_imm : ∀ e ∈ ([
    (0x04858001, .addi 4 5 0x8001), (0x08858001, .andi 4 5 0x8001), (0x0C858001, .ori 4 5 0x8001), (0x10858001, .xori 4 5 0x8001),
    (0x14808001, .movi 4 0x8001), (0x18838001, .movhi 4 3 0x8001), (0x1C858001, .slti 4 5 0x8001)] : List (BitVec 32 × Instr)), decode e.1 = .ok e.2 := by decide +kernel
theorem test_words_pred : ∀ e ∈ ([
    (0x20E42800, .cmpEq 7 4 5), (0x20E42840, .cmpNe 7 4 5), (0x20E42880, .cmpLt 7 4 5), (0x20E428C0, .cmpLe 7 4 5), (0x20E42900, .cmpLtu 7 4 5),
    (0x20E42940, .cmpLeu 7 4 5), (0x20E62A00, .pand 7 6 5), (0x20E62A40, .por 7 6 5), (0x20E62A80, .pxor 7 6 5), (0x20E62AC0, .pandn 7 6 5),
    (0x20E60300, .pmov 7 6), (0x23E60340, .ptos 31 6), (0x24FFFFFE, .cmpiEq 7 31 0xFFFE), (0x28FFFFFE, .cmpiLt 7 31 0xFFFE),
    (0x2CFFFFFE, .cmpiLtu 7 31 0xFFFE), (0x30853007, .sel 4 5 6 7)] : List (BitVec 32 × Instr)), decode e.1 = .ok e.2 := by decide +kernel
theorem test_words_mem : ∀ e ∈ ([
    (0x40A6BFFE, .ldB 5 6 2 0x3FFE), (0x44A6BFFE, .ldH 5 6 2 0x3FFE), (0x48A6BFFE, .ldW 5 6 2 0x3FFE), (0x4CA6BFFE, .ldD 5 6 2 0x3FFE),
    (0x50A6BFFE, .stW 5 6 2 0x3FFE), (0x54A6BFFE, .stD 5 6 2 0x3FFE), (0x58A63834, .stx 5 6 7 3 1), (0x58A6385C, .swap 5 6 7 1 true),
    (0x58A6389C, .cas 5 6 7 1 true), (0x58A638DC, .aadd 5 6 7 1 true), (0x58A6391C, .aand 5 6 7 1 true), (0x58A6395C, .aor 5 6 7 1 true),
    (0x58A6399C, .axor 5 6 7 1 true), (0x58A639DC, .amin 5 6 7 1 true), (0x58A63A1C, .amax 5 6 7 1 true), (0x58A63A5C, .aminu 5 6 7 1 true),
    (0x58A63A9C, .amaxu 5 6 7 1 true), (0x58A63868, .swap 5 6 7 2 false)] : List (BitVec 32 × Instr)), decode e.1 = .ok e.2 := by decide +kernel
theorem test_words_sync : ∀ e ∈ ([
    (0x58A602CC, .acq 5 6 false), (0x5806031C, .rel 6 true), (0x58060340, .mon 6), (0x58A60380, .mwait 5 6), (0x5C000074, .xfence 3 0x14)] : List (BitVec 32 × Instr)), decode e.1 = .ok e.2 := by decide +kernel
theorem test_words_flow : ∀ e ∈ ([
    (0x60A00040, .br 1 true 0x40), (0x615FFFFD, .brN 2 false 0x1FFFFD), (0x64300001, .call 0x100001), (0x68090000, .jr 9), (0x68090002, .jrN 9),
    (0x69090001, .jrl 8 9), (0x69090003, .jrlN 8 9), (0x6C000000, .yield), (0x6C000040, .exit), (0x6C090080, .spawn 9)] : List (BitVec 32 × Instr)), decode e.1 = .ok e.2 := by decide +kernel
theorem test_words_time : ∀ e ∈ ([
    (0x70034838, .tmHold 3 9 7), (0x70034878, .tmDrop 3 9 7), (0x702348B8, .tmMove 1 3 9 7), (0x700300F8, .tmBar 3 7), (0x70030138, .tmWaitf 3 7),
    (0x71200178, .tmFront 9 7), (0x70690180, .tmMtt 3 9), (0x712301C0, .tmMft 9 3), (0x70237A38, .tmEdge 1 3 15 7), (0x7462FFFF, .tmAddc 3 2 0xFFFF)] : List (BitVec 32 × Instr)), decode e.1 = .ok e.2 := by decide +kernel
theorem test_words_emit : ∀ e ∈ ([
    (0x83880000, .emit 3 17), (0x868A47C0, .emitP 2 17 9 7 3), (0x8888000A, .emitBc 17 0xA), (0x8D000040, .eqWait 1 64), (0x91880000, .eqStat 1 17)] : List (BitVec 32 × Instr)), decode e.1 = .ok e.2 := by decide +kernel
theorem test_words_copy : ∀ e ∈ ([
    (0xA0650000, .cpPut 3 5), (0xA0650040, .cpGet 3 5), (0xA0650080, .cpPuts 3 5), (0xA06500C0, .cpMcast 3 5), (0xA0650100, .cpGather 3 5),
    (0xA0650140, .cpMig 3 5), (0xA4090004, .hWait 9 4), (0xA5090040, .hStat 8 9), (0xA4090080, .hFree 9), (0xA40940C0, .hBind 9 8),
    (0xA4090100, .hKeep 9), (0xA4090140, .hDisc 9), (0xA9242800, .blkLd 9 4 5), (0xA8040040, .blkEvict 4), (0xA9240080, .blkWait 9 4),
    (0xAC001234, .waitC 1 2 3 4), (0xB1240000, .rgnDecl 9 4), (0xB0042840, .rgnBind 4 5), (0xB4042800, .fmtSet 4 5), (0xB5240040, .fmtGet 9 4)] : List (BitVec 32 × Instr)), decode e.1 = .ok e.2 := by decide +kernel
theorem test_words_sys : ∀ e ∈ ([
    (0xBC066001, .prefI 6 1 0x2001), (0xBC266001, .prefD 6 1 0x2001), (0xBC466001, .prefM 6 1 0x2001), (0xBC666001, .demoteD 6 1 0x2001),
    (0xBFE66001, .reservedHint 31 6 1 0x2001), (0xC1200000, .mjOpen 9), (0xC0094040, .mjWr 9 8), (0xC1200080, .mjCommit 9), (0xC00000C0, .mjAbort),
    (0xC1280100, .mjStat 9 8), (0xC4090000, .psSafe 9), (0xC5280040, .psWake 9 8), (0xC5200080, .psNap 9), (0xC52000C0, .psDoze 9),
    (0xC9400000, .rdtime 10), (0xC9400040, .rdcyc 10), (0xD0A00103, .mfs 5 0x103), (0xD0051301, .mts 5 0x301), (0xD0002FFF, .trap 0xFFF),
    (0xD0003000, .rfe), (0xD4090000, .ctxStart 9), (0xD5091000, .ctxSave 8 9), (0xD5092000, .ctxRestore 8 9), (0xD5093000, .ctxEnd 8 9),
    (0xD409400F, .mtrl 9 15)] : List (BitVec 32 × Instr)), decode e.1 = .ok e.2 := by decide +kernel
/-- Words that the spec prints (02 Table 2-4, 05 to 16). -/
theorem test_words_printed : ∀ e ∈ ([
    (0x00611040, .add 3 1 2), (0x0484FFFF, .addi 4 4 0xFFFF), (0x617FFFFD, .brN 2 true 0x1FFFFD), (0x48A64002, .ldW 5 6 1 2), (0x04000000, .addi 0 0 0),
    (0x14400000, .movi 2 0), (0x58E8489C, .cas 7 8 9 1 true), (0xD0A00103, .mfs 5 0x103), (0xC9400000, .rdtime 10), (0x58A602CC, .acq 5 6 false),
    (0x5806031C, .rel 6 true), (0xB1240000, .rgnDecl 9 4), (0xB0042840, .rgnBind 4 5), (0xA9242800, .blkLd 9 4 5), (0xA8040040, .blkEvict 4),
    (0xA9240080, .blkWait 9 4), (0xA0650080, .cpPuts 3 5), (0xB4042800, .fmtSet 4 5), (0xB5240040, .fmtGet 9 4), (0xD0003000, .rfe),
    (0xAC00FFF0, .waitC 15 15 15 0), (0xAC00FF03, .waitC 15 15 0 3)] : List (BitVec 32 × Instr)), decode e.1 = .ok e.2 := by decide +kernel
theorem test_words_illegal : decode 0x00000000 = .error .function ∧ decode 0xFC000000 = .error .opcode ∧ decode 0x0061103F = .error .function ∧
    decode 0x00611041 = .error .field := by decide +kernel

/-! ## Single steps, with results worked from the rules -/

theorem test_add_wraps : nextAnd (exec (.add 3 1 2) (bed2 0xFFFFFFFFFFFFFFFF 2)) (fun t => (t.rs 3).toNat == 1) = true := by decide +kernel
theorem test_s0_discards : nextAnd (exec (.add 0 1 2) (bed2 5 7)) (fun t => (t.rs 0).toNat == 0) = true := by decide +kernel
/-- 05 R105: adds saturates at the largest signed number. -/
theorem test_adds_saturates : nextAnd (exec (.adds 3 1 2) (bed2 0x7FFFFFFFFFFFFFFF 1)) (fun t => (t.rs 3).toNat == 0x7FFFFFFFFFFFFFFF) = true := by decide +kernel
theorem test_sra_sign : nextAnd (exec (.srai 3 1 63) (bed2 0x8000000000000000 0)) (fun t => (t.rs 3).toNat == 0xFFFFFFFFFFFFFFFF) = true := by decide +kernel
theorem test_movhi : nextAnd (exec (.movhi 1 3 0xABCD) (bed2 0x1111222233334444 0)) (fun t => (t.rs 1).toNat == 0xABCD222233334444) = true := by decide +kernel
/-- 05 R123, R124: the low byte stored is the byte loaded, zero-extended. -/
theorem test_store_load : nextAnd (exec (.stx 2 1 0 2 0) (bed2 0x3FFF 0x1FF))
    (fun t => nextAnd (exec (.ldB 4 1 2 0) t) (fun u => (u.rs 4).toNat == 0xFF)) = true := by decide +kernel
/-- 08 R174: the eight bits a byte-wise sum keeps stay in their element. -/
theorem test_lane_bytes : (lane4 (fun j => el 8 (0xFF01FF02 : Lane) j + el 8 (0x01010101 : Lane) j)).toNat = 0x00020003 := by decide +kernel
/-- 04 R74: one in each format that has it. -/
theorem test_ones : (fp32.convert 0 (fp32.value 0x3F800000)).1 = 0x3F800000 ∧ (bf16.convert 0 (fp32.value 0x3F800000)).1 = 0x3F80 ∧
    (fp16.convert 0 (fp32.value 0x3F800000)).1 = 0x3C00 ∧ (e5m2.convert 0 (fp32.value 0x3F800000)).1 = 0x3C ∧
    (e4m3.convert 0 (fp32.value 0x3F800000)).1 = 0x38 ∧ (e2m1.convert 0 (fp32.value 0x3F800000)).1 = 0x2 := by decide +kernel
/-- A half added to an odd last bit rounds to even: 1 + 2^-24 is 1, and 1 + 3 * 2^-24 is 1 + 2^-22. -/
theorem test_ties_to_even : (fp32.add 0 0x3F800000 0x33800000).1 = 0x3F800000 ∧ (fp32.add 0 0x3F800001 0x33800000).1 = 0x3F800002 := by decide +kernel

/-- tm0 to tm3 hold `t`; edge 5 of scope 2 is `m` with its addends. -/
def bedTm (t : Word) (m : Nat) : State :=
  { (bed2 0xFFFFFFFFFFFFFFFF 3).modMe (fun x => { x with tm := Vector.replicate 4 t }) with edges := [(2 * 16 + 5, some ⟨m, #v[3, 0, 7, 1], 1⟩)] }

theorem witness_TimeArithmetic :
    (let s := bedTm 0x1234FFFF00005555 0x45
     let c := fun (w : Word) (j : Nat) => w.toNat / 2 ^ (16 * j) % 65536
     s.rs 1 = 0xFFFFFFFFFFFFFFFF ∧ s.rs 2 ≠ 0xFFFFFFFFFFFFFFFF ∧ c (s.rt 1) 2 + 1 > 0xFFFF ∧ c (s.rt 1) 1 + 0xFFFF ≤ 0xFFFF ∧
       (∀ j : Fin 4, c 0x1234FFFFFFFF0000 j.val = if j < 1 then 0 else if j = 1 then c (s.rt 1) j.val + 0xFFFF else c (s.rt 1) j.val)) ∧
    (let s := bedTm 0xFFFFFFFFFFFFFFFE 0x45
     let c := fun (w : Word) (j : Nat) => w.toNat / 2 ^ (16 * j) % 65536
     c (s.rt 1) 0 + 1 ≤ 0xFFFF ∧
       (∀ j : Fin 4, c 0xFFFFFFFFFFFFFFFF j.val = if j < 0 then 0 else if j = 0 then c (s.rt 1) j.val + 1 else c (s.rt 1) j.val)) ∧
    (bedTm 5 0x45).edge 2 6 = none ∧ (match (bedTm 5 0x45).edge 2 5 with
      | some g => (g.apply ((bedTm 5 0x45).rt 0)).isSome && (g.apply 0xFFFFFFFFFFFFFFFF).isNone
      | none => false) = true := by decide +kernel

theorem witness_EdgesApply :
    (bedTm 5 0x45).fcx ≠ 8 ∧ (bedTm 5 0x45).edge 2 6 = none ∧
    (∀ x ∈ [(0x55, (0xFFFEFFF8FFFFFFFC : Word), false), (0x55, 0xFFFEFFF9FFFFFFFC, true), (0x6A, 0x1234FF0F00005555, true)],
      let s := bedTm x.2.1 x.1
      let g : Edge := ⟨x.1, #v[3, 0, 7, 1], 1⟩
      let c := fun (i : Fin 4) => (s.rt 1).toNat / 2 ^ (16 * i.val) % 65536
      let mode := fun (i : Nat) => g.modes / 4 ^ i % 4
      let carry := fun (i : Fin 4) => if i.val ≠ 0 ∧ mode (i.val - 1) = 2 then 1 else 0
      let v := fun (i : Fin 4) => if mode i.val = 1 then c i + carry i + g.k[i] else if mode i.val = 2 then 0 else c i + carry i
      s.edge 2 5 = some g ∧ (∀ i : Fin 4, mode i.val ≠ 3) ∧ mode 3 ≠ 2 ∧
        ((∀ i : Fin 4, v i ≤ 0xFFFF) ↔ (x.2.2 = false ∨ x.1 = 0x6A))) ∧
    (let s := bedTm 0xFFFEFFF8FFFFFFFC 0x55
     let v := fun (i : Fin 4) => (s.rt 1).toNat / 2 ^ (16 * i.val) % 65536 + (#v[3, 0, 7, 1] : Vector Nat 4)[i]
     v 0 + v 1 * 2 ^ 16 + v 2 * 2 ^ 32 + v 3 * 2 ^ 48 = 2 ^ 64 - 1) := by decide +kernel

/-- tm0 is `t`, tm1 is `t'`, s1 is 2, s2 is 65,535, and the square holds the tokens. -/
def bedTok (l : List Tok) (t t' : Word) : State :=
  ((bed2 2 65535).modMe (fun x => { x with tm := #v[t, t', 0, 0] })).modSq 0 (fun x => { x with tokens := l })

theorem witness_TokenInstructions :
    (let s := bedTok [⟨3, 7, .ctx 0, 5⟩] 7 9
     let x := s.sq 0
     (s.rs 1).toNat = 2 ∧ x.streamRoom 1 = true ∧ x.holdsBy (.ctx 0) 3 (s.rt 0) = true ∧ x.held (.ctx 0) 3 (s.rt 0) + 2 ≤ 65535 ∧
       x.tokRoom (.ctx 0) 3 (s.rt 0) = true ∧ 2 ≤ x.held (.ctx 0) 3 (s.rt 0) ∧ s.dropReady 0 0 3 (s.rt 0) = true ∧ s.rt 0 < s.rt 1 ∧
       x.held (.ctx 0) 3 (s.rt 1) + 2 ≤ 65535 ∧ x.tokRoom (.ctx 0) 3 (s.rt 1) = true) ∧
    (let s := bedTok [⟨3, 7, .ctx 0, 65535⟩] 7 7; (s.rs 2).toNat = 65535 ∧ 65535 ≤ (s.sq 0).held (.ctx 0) 3 (s.rt 0) ∧ s.rt 0 = s.rt 1 ∧
      s.dropReady 0 0 3 (s.rt 0) = true) ∧
    (let s := (bedTok [] 9 7).wS 1 0; (s.rs 1).toNat = 0 ∧ (s.sq 0).holdsBy (.ctx 0) 3 (s.rt 0) = false ∧ (s.sq 0).held (.ctx 0) 3 (s.rt 0) = 0 ∧
      s.rt 1 < s.rt 0) ∧ 65535 < (((bedTok [] 7 9).wS 1 65536).rs 1).toNat ∧ (bedTok [] 7 9).rt 0 ≤ (bedTok [] 7 9).rt 1 := by decide +kernel

/-- The same with every frontier at `f`. -/
def bedFront (l : List Tok) (t f : Word) : State := { bedTok l t 9 with localF := Vector.replicate 8 f }
/-- A context with a load in flight. -/
def bedLoad : State := (bed2 1 2).modMe (fun x => { x with loads := [⟨3, 8, 0, 0, [], none, 0⟩] })

theorem witness_Waits_bar :
    (let s := bedFront [⟨3, 7, .ctx 0, 5⟩] 7 7
     (s.sq 0).held (.ctx 0) 3 7 = 5 ∧ (s.sq 0).held (.ctx 0) 3 (s.rt 0 + 1) + 5 ≤ 65535 ∧ s.dropReady 0 0 3 7 = true ∧ (s.sq 0).streamRoom 1 = true) ∧
    (let s := (bedFront [⟨3, 7, .ctx 0, 5⟩] 7 7).modSq 0 (fun x => { x with log := bedLog 1 }); s.dropReady 0 0 3 7 = false) ∧
    (let s := (bedFront [⟨3, 7, .ctx 0, 5⟩] 7 7).modSq 0 (fun x => { x with stream := List.replicate 32 (.accept 1) }); (s.sq 0).streamRoom 1 = false) ∧
    (let s := bedFront [⟨3, 7, .ctx 0, 5⟩, ⟨3, 8, .ctx 0, 65531⟩] 7 7
     (s.rt 0).toNat + 1 < 2 ^ 64 - 1 ∧ (s.sq 0).held (.ctx 0) 3 7 = 5 ∧ 65535 < (s.sq 0).held (.ctx 0) 3 (s.rt 0 + 1) + 5) ∧
    (let s := (bedFront [⟨3, 8, .ctx 0, 5⟩] 7 7).modMe (fun x => { x with blocked := some ⟨.tmBar 0 3, 100, 200, false⟩ })
     s.me.waits = true ∧ (s.sq 0).held (.ctx 0) 3 (s.rt 0 + 1) ≠ 0) := by decide +kernel
theorem witness_Waits :
    (bedFront [⟨3, 7, .ctx 0, 5⟩] 7 7).deadlock 3 7 = true ∧
    (let s := bedFront [⟨3, 8, .ctx 0, 5⟩] 7 8
     s.deadlock 3 (s.rt 0) = false ∧ s.rt 0 < s.localF[(3 : Fin 8)] ∧ (s.rt 0).toNat + 1 < 2 ^ 64 - 1 ∧ (s.sq 0).held (.ctx 0) 3 (s.rt 0) = 0 ∧
       (s.sq 0).held (.ctx 0) 3 (s.rt 0 + 1) ≠ 0) ∧
    (let s := bedFront [] 7 7; s.deadlock 3 (s.rt 0) = false ∧ ¬(s.rt 0 < s.localF[(3 : Fin 8)])) ∧
    (let s := bedFront [] 0xFFFFFFFFFFFFFFFD 0; (s.rt 0).toNat + 1 < 2 ^ 64 - 1 ∧ (s.sq 0).held (.ctx 0) 3 (s.rt 0) = 0 ∧
      (s.sq 0).held (.ctx 0) 3 (s.rt 0 + 1) = 0) ∧ 2 ^ 64 - 1 ≤ ((bedFront [] 0xFFFFFFFFFFFFFFFE 0).rt 0).toNat + 1 ∧
    (let s := bedLoad; (s.sq 0).outLoads 0 = 1 ∧ (s.sq 0).outStores 0 = 0 ∧ s.outCopies 0 0 = 0 ∧ (s.sq 0).outArray 0 = 0 ∧
      s.me.loads ≠ [] ∧ (s.sq 0).vBusy 0 = false ∧ (s.sq 0).copyQ = []) := by decide +kernel

/-- A lock word of the square store, and one of space 0. -/
def bedLock (w : Word) : State := (bed2 0x108 5).writeHome (storeAddr 0 0x108) (natLE 8 w.toNat)
def bedLock0 (w : Word) : State := (bedPages (bed2 0x108 5)).writeHome 0x10108 (natLE 8 w.toNat)
/-- The hypotheses of the local lock clauses at lock word `w`, and of the global ones. -/
def lockOk (w : Nat) : Bool := let s := bedLock (BitVec.ofNat 64 w)
  (s.rs 1).toNat == 0x108 && !s.inPlain 1 0x108 && !s.blockBad 0 (0x108 / 512) && !s.isBad (storeAddr 0 0x108) 8 &&
    s.me.loads.isEmpty && s.me.posted.isEmpty && (BitVec.ofNat 64 (s.rdN (storeAddr 0 0x108) 8)).toNat == w
def lock0Ok (w : Nat) : Bool := after (bedLock0 (BitVec.ofNat 64 w)) { r := true, w := true } 0x108 (fun pa t =>
  !t.inPlain 0 0x108 && !t.isBad pa 8 && t.me.loads.isEmpty && t.me.posted.isEmpty &&
    (BitVec.ofNat 64 ((t.flushLine 0 0x108).rdN pa 8)).toNat == w)

theorem witness_Locks_free : lockOk 77 = true ∧ okAnd ((bedLock 77).writeStore 0 0x108 (natLE 8 (2 ^ 63 + 77))) (fun _ => true) = true := by decide +kernel
theorem witness_Locks_held : lockOk 0x8001FFFFFFFFFFFF = true := by decide +kernel
theorem witness_Locks_mine : lockOk 0x8000FFFFFFFFFFFF = true ∧
    okAnd ((bedLock 0x8000FFFFFFFFFFFF).writeStore 0 0x108 (natLE 8 0)) (fun _ => true) = true := by decide +kernel
theorem witness_Locks_global : lock0Ok 77 = true := by decide +kernel
theorem witness_Locks_globalHeld : lock0Ok 0x8001FFFFFFFFFFFF = true := by decide +kernel

/-- The watch list, and s1. -/
def bedWatch (ws : List Watch) (r : Word) : State := { bedPages (bed2 r 5) with watches := ws, now := 1000 }

theorem witness_WatchesAndMwait :
    after (bedWatch [] 0x117) { r := true } 0x117 (fun _ _ => true) = true ∧
    (let s := bedWatch [] 0; s.me.blocked = none ∧ s.watchOf 0 0 = none) ∧
    (∀ x ∈ [(true, false), (false, false), (false, true)], (bedWatch [⟨0, 0x100, 0x808, 0, 5, x.1, x.2⟩] 0).watchOf 0 0 =
      some ⟨0, 0x100, 0x808, 0, 5, x.1, x.2⟩) ∧
    ((bedWatch [] 0).rs 1).toNat = 0 ∧ (let s := bedWatch [⟨0, 0x100, 0x808, 0, 5, false, false⟩] 1; 0 < (s.rs 1).toNat ∧ s.higherReady 0 0 = false) := by
  decide +kernel

/-- Context 0 waits in `i` since 100, and the time is `n`. -/
def waitIn (i : Instr) (n : Nat) (s : State) : State := { s.modMe (fun x => { x with blocked := some ⟨i, 100, 200, false⟩ }) with now := n }
def bedWait (i : Instr) (n : Nat) : State := waitIn i n (bed2 0x108 5)
/-- A record of priority 3. -/
def bedRec : LRec := ⟨0, 0, ⟨0x3000000000000000, 0, 0, 0, #v[0, 0, 0, 0]⟩, 0, 0, 0, false⟩
/-- Its context is due to take a record. -/
def bedDue (i : Instr) : State := (bedWait i 1000100).modMe (fun x => { x with records := [default] })
/-- Every context of square 0 is in use, a record of priority 3 waits, and residence 0 is PRESENT with a RUNMAX of 0. -/
def bedLate : State :=
  { bedSq (fun x => { x with ctxs := x.ctxs.map (fun c => { c with st := .ready }), launchQ := [bedRec] }) with residences := [(0, some default)] }

theorem witness_BlockedInstructions :
    (bed2 0 0).me.blocked = none ∧
    (∀ i ∈ [Instr.waitC 0 0 0 0, .tmWaitf 0 0, .acq 3 1 true, .emit 3 1],
      let s := bedWait i 1000100
      (s.ctx 0 0).blocked = some ⟨i, 100, 200, false⟩ ∧ s.issues 0 0 = true ∧ s.recordDue 0 0 = false) ∧
    (let s := bedDue (.waitC 0 0 0 0); (s.ctx 0 0).blocked = some ⟨.waitC 0 0 0 0, 100, 200, false⟩ ∧ s.issues 0 0 = true ∧ s.recordDue 0 0 = true) ∧
    bits ((bedWait (.tmWaitf 0 0) 0).ctx 0 0).fwdt 0 32 = 100000 ∧ 100 + 100000 * 1000 ≤ (bedWait (.tmWaitf 0 0) 100000100).now ∧
    (bedWait (.emit 3 1) 0).now < 100 + 1000000 ∧
    (let s := bedLate
     (s.sq 0).active = some 0 ∧ (s.residence (s.ctx 0 (tileCx 0)).res).isSome = true ∧ (∃ e ∈ (s.sq 0).launchQ, e.words.pri = 3) ∧
       (∀ i : Fin 8, (s.ctx 0 (tileCx i)).st ≠ .free) ∧ (s.ctx 0 (tileCx 0)).pri < 3 ∧ (s.sq 0).service = none ∧ (s.ctx 0 (tileCx 0)).runStart + 0 ≤ s.now ∧
       s.committing 0 (tileCx 0) = false) ∧
    (let s := bed2 0 0; (s.sq 0).active = some 0 ∧ ∃ i : Fin 8, (s.ctx 0 (tileCx i)).st = .free) := by decide +kernel

/-- A bundle of the given moves, the others NOP, and one move. -/
def bun (l : List Nat) : BitVec 192 := BitVec.ofNat 192 ((List.range 8).foldl (fun n k => n + l.getD k 0xC00000 * 2 ^ (24 * k)) 0)
def mv (kind dom g src dst : Nat) : Nat := kind * 2 ^ 22 + dom * 2 ^ 21 + g * 2 ^ 18 + src * 2 ^ 9 + dst
/-- The template `w` at 0x100, whose address s1 holds; s2 holds `p`. -/
def bedTemp (w : BitVec 192) (p : Word) : State := (bedPages (bed2 0x100 p)).writeHome 0x10100 (natLE 24 w.toNat)
/-- Whether the template is read as `w`, and `p` holds of the state the read leaves. -/
def tempAnd (s : State) (w : BitVec 192) (p : State → Bool) : Bool :=
  decide ((s.rs 1).toNat % 8 = 0) && okAnd (s.readTemplate (s.rs 1).toNat) (fun x => x.1.toNat == w.toNat && p x.2)
/-- A legal template, one with an illegal move, and one whose moves conflict. -/
def goodT : BitVec 192 := bun [mv 0 1 0 3 5]
def badT : BitVec 192 := bun [0xC00000, mv 0 0 0 3 5]
def twiceT : BitVec 192 := bun [mv 1 0 0 3 0x12, mv 1 0 0 3 0x12]

/-- The template of an EMIT that has waited in the state, and what holds after it is read. -/
def waitTemp (f : State → State) (p : State → Bool) : Bool :=
  let s := waitIn (.emit 3 1) 1000100 (f (bedTemp goodT 3))
  okAnd ((s.focus 0 0).readTemplate ((s.ctx 0 0).rs_ 1).toNat) (fun x => x.1.toNat == goodT.toNat && p x.2) && !s.recordDue 0 0 && s.issues 0 0 &&
    decide ((s.core 0 3).progress + 1000000 ≤ s.now)
theorem witness_BlockedInstructions_emit :
    waitTemp (·.modCore 0 3 (fun x => { x with eq := List.replicate 64 default }))
      (fun t => decide (64 ≤ (t.core 0 3).eq.length)) = true ∧
    waitTemp id (fun t => !t.foreign 0 3 0 && decide ((t.core 0 3).eq.length < 64) && t.countsFit { w := goodT, ctx := 0, seq := 0, gwa := 0 } 1) = true ∧
    (let s := bedWait (.emit 3 1) 1000100; okAnd ((s.focus 0 0).readTemplate ((s.ctx 0 0).rs_ 1).toNat) (fun _ => true) = false) := by decide +kernel
theorem witness_Emission_sent : tempAnd (bedTemp goodT 3) goodT (fun t => (firstIllegal goodT).isNone && (firstConflict goodT).isNone &&
    (List.finRange 4).all (fun c => !t.foreign 0 c 0 && decide ((t.core 0 c).eq.length < 64)) && (bedTemp goodT 3).me.records.isEmpty &&
    t.countsFit { w := goodT, ctx := 0, seq := 0, gwa := 0 } 4) = true ∧
    (match patch goodT 0 0 3 with
      | some x => (firstIllegal x).isNone && (firstConflict x).isNone
      | none => false) = true := by decide +kernel
theorem witness_Emission_refused : tempAnd (bedTemp goodT 512) goodT (fun _ => (patch goodT 0 0 512).isNone) = true ∧
    tempAnd (bedTemp badT 3) badT (fun _ => (firstIllegal badT).isSome) = true ∧
    tempAnd (bedTemp twiceT 3) twiceT (fun _ => (firstIllegal twiceT).isNone && (firstConflict twiceT).isSome) = true := by decide +kernel
theorem witness_Emission_full : ((bed2 0x104 0).rs 1).toNat % 8 ≠ 0 ∧
    tempAnd ((bedTemp goodT 3).modCore 0 2 (fun x => { x with claim := some 3 })) goodT (fun t => t.foreign 0 2 0) = true ∧
    tempAnd ((bedTemp goodT 3).modCore 0 2 (fun x => { x with eq := List.replicate 64 default })) goodT
      (fun t => !t.foreign 0 2 0 && decide (64 ≤ (t.core 0 2).eq.length)) = true := by decide +kernel

/-- Core 2, claimed by context 0, whose handle 5 is `y`; s1 names the handle and s2 holds `w`. -/
def bedHnd (y : Hnd) (w : Word) : State := (bed2 0x85 w).modCore 0 2 (fun x => { x with claim := some 0, handles := vset x.handles 5 y })
def hndOf (sp : Nat) (st : HSt) : Hnd := ⟨sp, 3, 0x1000, st, 2, true, 0x0E4⟩
/-- The descriptor HBIND takes. -/
def bindW (sp len base full : Nat) : Word := BitVec.ofNat 64 (sp * 2 ^ 62 + len * 2 ^ 48 + base * 2 ^ 9 + full)

theorem witness_QueuesAndHandles :
    (let x := (bed2 0 0).core 0 2; x.eq = [] ∧ x.issued = [] ∧ x.eq.length + 64 ≤ 64) ∧
    (let x := ((bed2 0 0).modCore 0 2 (fun x => { x with eq := List.replicate 64 default })).core 0 2; ¬x.eq.length + 1 ≤ 64) ∧
    (let s := bedHnd (hndOf 1 .full) 0
     s.fcx = tileCx 0 ∧ (s.core s.fsq 2).claim = some 0 ∧ s.rs 1 = BitVec.ofNat 64 ((2 : Vc).val * 64 + (5 : Fin 64).val) ∧
       s.hnd s.fsq 2 5 = hndOf 1 .full ∧ s.rs 2 = 0) ∧
    (hndOf 1 .full).st.num = 2 ∧ (hndOf 1 .error).st.num = 4 ∧ (hndOf 0 .free).sp = 0 ∧ (hndOf 1 .free).sp ≠ 0 ∧ (hndOf 3 .filling).st = .filling ∧
    (∀ x ∈ [((1, 0, 0x3EDF, 1) : Nat × Nat × Nat × Nat), (2, 3, 0x3FC, 0), (3, 0x3FFF, 2 ^ 39 - 0x4000, 1)],
      1 ≤ x.1 ∧ x.1 ≤ 3 ∧ x.2.1 < 2 ^ 14 ∧ x.2.2.1 < 2 ^ 39 ∧
        x.2.2.1 * 512 + (x.2.1 + 1) * 512 ≤ (if x.1 = 1 then 0x7DC000 else if x.1 = 2 then 0x80000 else 2 ^ 48)) ∧
    (bedHnd (hndOf 0 .free) (bindW 3 0x3FFF (2 ^ 39 - 0x4000) 1)).rs 2 = bindW 3 0x3FFF (2 ^ 39 - 0x4000) 1 := by decide +kernel
/-- Whether context 0 of `s`, which waits in `i`, issues and has no record. -/
def waitOk (i : Instr) (s : State) (p : State → Bool) : Bool :=
  let s := waitIn i 1000 s
  decide ((s.ctx 0 0).blocked = some ⟨i, 100, 200, false⟩) && s.issues 0 0 && !s.recordDue 0 0 && p s
theorem witness_BlockedInstructions_resume :
    waitOk (.waitC 0 0 0 0) (bed2 0 0) (fun s => let x := s.sq 0
      x.outLoads 0 == 0 && x.outStores 0 == 0 && s.outCopies 0 0 == 0 && x.outArray 0 == 0) = true ∧
    waitOk (.tmWaitf 0 3) (bedFront [] 7 8) (fun s => decide ((s.focus 0 0).rt 0 < s.localF[(3 : Fin 8)])) = true ∧
    waitOk (.eqWait 2 0) (bed2 0 0) (fun s => (s.core 0 2).eq.isEmpty && (s.core 0 2).issued.isEmpty) = true ∧
    waitOk (.eqWait 2 64) (bed2 0 0) (fun s => decide ((s.core 0 2).eq.length + 64 ≤ 64)) = true ∧
    waitOk (.mwait 3 1) (bedWatch [⟨0, 0x100, 0x808, 0, 5, true, true⟩] 0) (fun s => (s.watchOf 0 0).any (·.fired)) = true ∧
    waitOk (.hWait 1 2) (bedHnd (hndOf 1 .full) 0) (fun s => decide ((s.core 0 2).claim = some 0) && (s.ctx 0 0).rs_ 1 == 0x85 &&
      (s.hnd 0 2 5).sp != 0 && (s.hnd 0 2 5).st.num == 2) = true ∧
    waitOk (.acq 3 1 true) (bedLock 77) (fun s => (s.ctx 0 0).rs_ 1 == 0x108 && !s.inPlain 1 0x108 && !s.blockBad 0 0 && !s.isBad (storeAddr 0 0x108) 8 &&
      (s.ctx 0 0).loads.isEmpty && (s.ctx 0 0).posted.isEmpty && s.rdN (storeAddr 0 0x108) 8 == 77 && !(s.focus 0 0).lockHeld 1 true &&
      okAnd ((s.focus 0 0).writeStore 0 0x108 (natLE 8 (2 ^ 63 + 77))) (fun _ => true)) = true ∧
    waitOk (.acq 3 1 true) (bedLock 0x8001FFFFFFFFFFFF) (fun s => (s.focus 0 0).lockHeld 1 true) = true := by decide +kernel

/-- A region descriptor at 0x40 of the private area, and its region. -/
def bedRgn : State := put (bed2 0x40 0) 0x40 [0x1000, 0x400, 0xC000000000000003, 0x108]
def rgnOf : Region := { space := 0, start := 0x1000, len := 0x400, sync := 0xC000000000000003, pool := 0, cls := 512, plain := true, owner := .inv 0 }

theorem witness_FormatsAndRegions :
    (let s := (bed2 0x25 14).modCore 0 2 (fun x => { x with claim := some 0 })
     s.fcx = tileCx 0 ∧ (s.core s.fsq 2).claim = some 0 ∧ s.rs 1 = BitVec.ofNat 64 ((2 : Vc).val * 16 + (5 : Fin 16).val) ∧
       (s.core s.fsq 2).eq = [] ∧ (s.core s.fsq 2).issued = [] ∧ s.copyBank s.fsq 2 5 = false ∧
       (s.acore s.fsq 2).cur = none ∧ (s.acore s.fsq 2).nxt = none) ∧
    (let s := bedRgn
     (s.rs 1).toNat = 0x40 ∧ s.isBad (privAddr s.fsq.val s.fcx.val 0x40) 32 = false ∧
       s.regionOf (s.privWord 0x40) (s.privWord 0x48) (s.privWord 0x50) (s.privWord 0x58) (.inv (s.me.inv.getD 0)) = some rgnOf ∧
       (∀ t ∈ s.regionList, rgnOf.meets t = false) ∧ mget none s.regions 1023 = none ∧ mget none s.regions 0x40 = none) := by decide +kernel
theorem witness_FormatsAndRegions_bind :
    (let r := { rgnOf with sync := 0, plain := false }
     let s := { bedRgn with regions := [(0x40, some r)] }
     mget none s.regions 0x40 = some r ∧ r.owner = .inv (s.me.inv.getD 0) ∧ s.syncOk (s.rs 2) r.plain = true ∧ r.sync = 0 ∧ (∀ q : Sq, (s.sq q).log = [])) := by
  decide +kernel
theorem witness_FormatsAndRegions_traps :
    64 ≤ ((bed2 64 0).rs 1).toNat ∧
    (let s := (bed2 0x25 7).modCore 0 2 (fun x => { x with claim := some 3 })
     (s.rs 2).toNat ≤ 8 ∧ (s.core s.fsq 2).claim = some 3 ∧ s.fcx ≠ tileCx 3 ∧ (encode (.fmtSet 1 2)).isSome = true) ∧
    (let s := (bed2 0x25 7).modCore 0 2 (fun x => { x with claim := some 0, eq := [default] }); ∃ e ∈ (s.core s.fsq 2).eq, e.ctx = s.fcx) ∧
    (let s := put (bed2 0x40 0) 0x40 [2 ^ 62, 0x400, 0xC000000000000003, 0x108]
     (s.rs 1).toNat % 32 = 0 ∧ (s.rs 1).toNat + 32 ≤ 0x4000 ∧ s.isBad (privAddr s.fsq.val s.fcx.val 0x40) 32 = false ∧ bits (s.privWord 0x40) 62 2 ≠ 0) ∧
    (let s := { bedRgn with regions := [(5, some rgnOf)] }; ∃ t ∈ s.regionList, rgnOf.meets t = true) := by decide +kernel
/-- An own region whose synchronisation word is `w`, the lock words at 0x108 of the square store and of space 0 holding `x`. -/
def bedBindOf (w : Word) (x : Nat) : State :=
  let s := ((bedPages (bed2 0x40 0)).writeHome (storeAddr 0 0x108) (natLE 8 x)).writeHome 0x10108 (natLE 8 x)
  { s with regions := [(0x40, some { rgnOf with sync := w, plain := false })] }
theorem witness_FormatsAndRegions_binds :
    (let s := bedBindOf 0xC000000000000003 0; let r := { rgnOf with sync := 0xC000000000000003, plain := false }
     mget none s.regions 0x40 = some r ∧ r.owner = .inv (s.me.inv.getD 0) ∧ s.syncOk (s.rs 2) r.plain = true ∧ bits r.sync 62 2 = 3) ∧
    (let s := (bedBindOf 0xC000000000000003 0).modSq 4 (fun x => { x with log := [{ (default : LogEnt) with va := some 0x13FF }] })
     ∃ e ∈ (s.sq 4).log, ∃ v ∈ [0x13FF], e.va = some v ∧ rgnOf.start ≤ v ∧ v < rgnOf.start + rgnOf.len) ∧
    (∀ x ∈ [(0, false), (2 ^ 63, true)], let s := bedBindOf 0x8000000000000108 x.1
     bits 0x8000000000000108 62 2 = 2 ∧ s.blockBad s.fsq (0x108 / 512) = false ∧ (BitVec.ofNat 64 (s.rdN (storeAddr 0 0x108) 8)).getLsbD 63 = x.2) ∧
    (∀ x ∈ [(0, false), (2 ^ 63, true)], after (bedBindOf 0x4000000000000108 x.1) { r := true } 0x108 (fun pa t =>
       !t.isBad pa 8 && (BitVec.ofNat 64 (t.rdN pa 8)).getLsbD 63 == x.2) = true) ∧
    after { bedBindOf 0x4000000000000108 0 with bad := [unitBase 0x10108] } { r := true } 0x108 (fun pa t => t.isBad pa 8) = true ∧
    causes (bedBindOf 0x4000000000020000 0) { r := true } 0x20000 = true ∧ stalls bedMoving { r := true } 0x108 = true := by decide +kernel
/-- A key that a list of `some`s lists reads as one. -/
theorem mget_some_of_listed {α : Type} : ∀ (l : List (Nat × Option α)) (a : Nat), (∃ r, (a, r) ∈ l) → (∀ e ∈ l, e.2.isSome = true) →
    (mget none l a).isSome = true
  | [], _, ⟨_, h⟩, _ => by simp at h
  | (k, v) :: t, a, ⟨r, h⟩, hs => by
    simp only [mget]
    split
    · exact hs (k, v) (by simp)
    · next hk => exact mget_some_of_listed t a ⟨r, by simpa [Ne.symm hk] using h⟩ (fun e he => hs e (by simp [he]))
theorem witness_FormatsAndRegions_full (m : Nat) (h : m < 1024) :
    (mget none ((List.range 1024).map (fun k => (k, some { rgnOf with space := 1, start := k }))) m).isSome = true :=
  mget_some_of_listed _ m ⟨_, List.mem_map.2 ⟨m, List.mem_range.2 h, rfl⟩⟩ (by simp)

/-- 128 lines from 0xE080 cross the page; the pages fail to translate from 0x20000 on; a handle's upper bits and bits [13] are zero. -/
theorem witness_CacheBlocksAndHints_refused :
    65536 < 0xE080 % 65536 + 64 * 128 ∧ after (bedPages (bed2 0xE080 64)) { r := true } 0xE080 (fun _ t => okAnd (t.findXl 0 0xE080) (fun e => !e.big)) = true ∧
    causes (bedPages (bed2 0x20000 64)) { r := true } 0x20000 = true ∧ 2 ^ 32 ≤ ((bed2 0x100000005 0).rs 1).toNat ∧ 2 ^ 13 ≤ ((bed2 0x2000 0).rs 1).toNat % 2 ^ 14 ∧
    after (bedPages (bed2 0x100 0)) { x := true } 0x100 (fun _ _ => true) = true := by decide +kernel
theorem witness_CacheBlocksAndHints :
    okAnd ((bedPages (bed2 0xE000 64)).findXl 0 0xE000) (fun e => !e.big) = true ∧
    after (bedPages (bed2 0xE000 64)) { r := true } 0xE000 (fun _ _ => true) = true ∧ 0xE000 % 65536 + 64 * 128 ≤ 65536 ∧
    ((bed2 0xE000 64).rs 1).toNat = 0xE000 ∧ ((bed2 0xE000 64).rs 2).toNat = 64 ∧ 64 < ((bed2 0xE000 65).rs 2).toNat ∧ ((bed2 0xE001 64).rs 1).toNat % 128 ≠ 0 ∧
    (∀ f ∈ [true, false], let x : Blk := ⟨1, 5, 7, 0, 3, some (0, 0), f⟩
      let s := { bed2 x.handle 0 with blks := [x] }
      (s.rs 1).toNat < 2 ^ 32 ∧ (s.rs 1).toNat % 2 ^ 14 < 2 ^ 13 ∧ (s.blkOf (s.rs 1)).isSome = true) ∧ (bed2 0 0).blkOf ((bed2 0 0).rs 1) = none := by decide +kernel

/-- A copy descriptor at 0x40 of the private area, where context 0 claims cores 1 and 2; s1 is 0x40. -/
def bedCopy (l : List Nat) : State :=
  ((put (bed2 0x40 0) 0x40 l).modCore 0 1 (fun x => { x with claim := some 0 })).modCore 0 2 (fun x => { x with claim := some 0 })
/-- The places of scratchpad `v` from `o`, and of handle `h` of core `v`. -/
def padW (v o : Nat) : Nat := 2 * 2 ^ 60 + v * 2 ^ 50 + o
def hndW (v h : Nat) : Nat := 3 * 2 ^ 60 + v * 2 ^ 50 + h
/-- Whether a copy of form `n` passes its checks with `total` bytes and its handles are ready. -/
def copyOk (s : State) (n total : Nat) : Bool :=
  let y := (s.descAt 0x40).1
  (s.rs 1).toNat == 0x40 && !s.isBad (privAddr s.fsq.val s.fcx.val 0x40) 64 && okAnd (s.copyCheck y (s.descAt 0x40).2 n) (· == total) &&
    (y.handles n).all (fun e => (s.hnd s.fsq e.1 e.2.1).st == (if e.2.2 then .free else .full) && !s.cmdAwaits s.fsq e.1 e.2.1 e.2.2) &&
    decide ((s.sq s.fsq).copyQ.length < 32) && decide (s.outCopies s.fsq s.fcx < 4095)

theorem witness_CopyInstructions_cpPut : copyOk (bedCopy [padW 1 0x100, padW 2 0x200, 64, 0, 0, 0, 0, 0]) 0 64 = true := by decide +kernel
theorem witness_CopyInstructions_cpGet : copyOk (bedCopy [padW 1 0x100, padW 2 0x7FFC0, 64, 0, 0, 0, 0, 0]) 1 64 = true := by decide +kernel
theorem witness_CopyInstructions_cpPuts : copyOk (bedCopy [padW 1 0x100, padW 2 0x200, 64, 0x140, 7, 0, 0, 0]) 2 64 = true := by decide +kernel
theorem witness_CopyInstructions_cpMcast : copyOk (bedCopy [padW 1 0x100, padW 0 0x200, 64 + 6 * 2 ^ 44, 0, 0, 0, 0, 0]) 3 64 = true := by decide +kernel
theorem witness_CopyInstructions_cpGather : copyOk (bedCopy [padW 0 0x100, padW 2 0x200, 64 + 6 * 2 ^ 44, 0, 0, 0, 0, 0]) 4 128 = true := by decide +kernel
theorem witness_CopyInstructions_waits :
    (let s := (bedCopy [hndW 1 5, padW 2 0x200, 64, 0, 0, 0, 0, 0]).modCore 0 1 (fun x => { x with handles := vset x.handles 5 ⟨2, 3, 0x1000, .free, 0, true, 0⟩ })
     okAnd (s.copyCheck (s.descAt 0x40).1 (s.descAt 0x40).2 0) (· == 64) && (s.hnd 0 1 5).st == .free) = true := by decide +kernel
theorem witness_CopyInstructions_refused :
    (let s := bedCopy [padW 1 0x100, padW 2 0x200, 33, 0, 0, 0, 0, 0]
     match s.copyCheck (s.descAt 0x40).1 (s.descAt 0x40).2 0 with
       | .error c => c == 0x0E6
       | .ok _ => false) = true ∧ (bed2 0x41 0).rs 1 % 64 ≠ 0 ∧
    (let s := put (bed2 0x40 0) 0x40 [padW 1 0x100, padW 2 0x200, 64, 0, 0, 0, 0, 0]
     let s := s.modCore 0 2 (fun x => { x with claim := some 3 })
     match s.copyCheck (s.descAt 0x40).1 (s.descAt 0x40).2 0 with
       | .error c => c == 0x084
       | .ok _ => false) = true := by decide +kernel
/-- A migration descriptor of page 0 in context F. -/
def bedMig : State := put (bedPages (bedF 0x40 0)) 0x40 [0, 1, 0, 0, 0, 0, 0, 0]
/-- What the walk of address 0 says of the leaf. -/
def leafAnd (s : State) (p : Nat → Word → Bool → Bool) : Bool := okAnd (s.walk 0) (fun x => p x.1 x.2.1 x.2.2)
theorem witness_CopyInstructions_cpMig :
    (let s := bedMig; let y := (s.descAt 0x40).1
     s.fcx = 8 ∧ (s.rs 1).toNat = 0x40 ∧ s.isBad (privAddr s.fsq.val s.fcx.val 0x40) 64 = false ∧ placeOf y.src = some (.glob 0) ∧ y.w2 = 0 ∧
       y.sig = 0 ∧ y.w4 = 0 ∧ y.time = 0 ∧ y.rect = 0 ∧ (s.descAt 0x40).2 = 0 ∧ y.dst.toNat < 2) ∧
    leafAnd bedMig (fun _ w _ => migratable w && (bedMig.bulkOf (homeDie (pteAddr w))).isSome) = true ∧ bedMig.outCopies 0 8 < 4095 := by decide +kernel
theorem witness_CopyInstructions_pinned :
    leafAnd (bedMig.writeHome 0x4001 [0x0F]) (fun _ w _ => migratable w) = false ∧ (bed2 0 0).fcx ≠ 8 ∧
    leafAnd bedMig (fun _ w _ => migratable w &&
      (({ bedMig with bulk := Vector.replicate 16 (List.replicate 64 default) } : State).bulkOf (homeDie (pteAddr w))).isNone) = true := by
  decide +kernel

/-- A copy of 64 bytes from scratchpad 1 to scratchpad 2. -/
def copyOf : Copy :=
  { (default : Copy) with op := 0, d := ⟨word (padW 1 0x100), word (padW 2 0x200), 64, 0, 0, 0, 0⟩, total := 64, started := true, ticket := 9,
                          halted := none, err := none, pos := 0, dest := 0, core := none, tok := false, signalled := [] }
def bedRun (y : Copy) : State := (bed2 0 0).modSq 0 (fun x => { x with copyQ := [y] })

theorem witness_CopiesRun_chunk :
    (let s := bedRun copyOf
     (s.sq 0).copyQ = [copyOf] ∧ copyOf.sq = 0 ∧ copyOf.d.sig = 0 ∧ copyOf.d.sources copyOf.op.val = [.pad 1 0x100] ∧
       copyOf.d.dests copyOf.op.val = [.pad 2 0x200] ∧ copyOf.d.len = 64 ∧ s.isBad (spadAddr 0 1 0x100) 64 = false ∧ (s.sq 0).crqHeld = none) ∧
    (bedRun copyOf).convOf 0 copyOf.ctx copyOf.d.senc (.pad 1 0x100) (.pad 2 0x200) = .same ∧
    (let y := { copyOf with pos := 32 }; y.d.len ≤ y.pos + 32 ∧ y.pos % 32 = 0 ∧ y.pos < 64) ∧
    (let y := { copyOf with started := false }
     ((bedRun y).sq 0).crqHeld = none ∧ ((bedRun y).performAll 0 y.ctx).convOf 0 y.ctx y.d.senc (.pad 1 0x100) (.pad 2 0x200) = .same ∧
       ((bedRun y).performAll 0 y.ctx).isBad (spadAddr 0 1 0x100) 32 = false) ∧
    (((bedRun copyOf).modSq 0 (fun x => { x with crqHeld := some (1, 5) })).sq 0).crqHeld ≠ none := by decide +kernel
/-- A copy into space 0, halted in its second sector. -/
def copyHalted : Copy := { copyOf with d := { copyOf.d with dst := 0x0FF0 }, pos := 32, halted := some 0 }
theorem witness_CopiesRun_restart :
    copyHalted.d.dests copyHalted.op.val = [.glob 0x0FF0] ∧ copyHalted.d.handles copyHalted.op.val = [] ∧
    okAnd ((bedPages (bedRun copyHalted)).translate 0 copyHalted.who { w := true } (0x0FF0 + 32)) (fun _ => true) = true ∧
    copyHalted.who = (bed2 0 0).me.who 0 ∧ stalls ((bedPages (bedRun copyHalted)).writeHome 0x4007 [0x92]) { w := true } (0x0FF0 + 32) = true ∧
    causes (bedRun copyHalted) { w := true } (0x0FF0 + 32) = true := by decide +kernel
/-- The same with a signal counter of space 0 and its destination written. -/
def copySig : Copy := { copyOf with d := { copyOf.d with sig := 0x108, w4 := 5 }, dest := 1 }
theorem witness_CopiesRun_signal :
    copySig.d.sig ≠ 0 ∧ placeOf copySig.d.sig = some (.glob 0x108) ∧ 0 < copySig.dest ∧ 0 ∉ copySig.signalled ∧
    okAnd ((bedPages (bedRun copySig)).translate 0 copySig.who { r := true, w := true } 0x108) (fun x => !x.2.isBad x.1 8) = true := by decide +kernel
theorem witness_CopiesRun_token :
    (let y := { copySig with tok := true }; y.count == 1 && ((bedRun y).sq 0).streamRoom 1) = true := by decide +kernel
/-- Context F waits with a migration since 5. -/
def bedMigWait : State := { bedMig.modMe (fun x => { x with blocked := some ⟨.cpMig 3 1, 5, 6, false⟩ }) with now := 1000005 }
theorem witness_CopiesRun_migStall :
    ((bedMigWait.ctx 0 8).blocked == some ⟨.cpMig 3 1, 5, 6, false⟩ && leafAnd (bedMigWait.focus 0 8) (fun _ _ _ => true) &&
      bits ((bedMigWait.focus 0 8).descAt ((bedMigWait.focus 0 8).rs 1).toNat).1.src 0 48 == 0 && bedMigWait.bulkFreed.toList.all (· == 0)) = true ∧
    bedMigWait.now = 1000005 := by decide +kernel
theorem witness_CopiesRun_complete :
    (let y := { copyOf with dest := 1 }; y.written = true ∧ y.d.sig = 0 ∧ y.tok = false ∧ y.d.handles y.op.val = [] ∧ y.core = none) ∧
    (let y := { copyOf with dest := 1, core := some 1 }; y.written = true ∧ (((bedRun y).core 0 1).crq.length < 32) ∧
      32 ≤ (((bedRun y).modCore 0 1 (fun x => { x with crq := List.replicate 32 0 })).core 0 1).crq.length) ∧
    (let s := { (bed2 0 0).modMe (fun x => { x with blocked := some ⟨.cpPut 1 2, 5, 6, false⟩ }) with now := 1000005 }
     (s.ctx 0 0).blocked = some ⟨.cpPut 1 2, 5, 6, false⟩ ∧ 5 + 1000000 ≤ s.now ∧ (s.sq 0).copyFreed + 1000000 ≤ s.now) := by decide +kernel

/-- A migration of page 0 to `tier`, at engine 2. -/
def migOf (started : Bool) (tier : Word) : Copy := { copyOf with d := { copyOf.d with src := 0, dst := tier }, started := started, frame := 0x080000000000 }
def bedBulk (y : Copy) : State := { bedPages (bed2 0 0) with bulk := vset State.reset.bulk 2 [y] }

theorem witness_MigrationsMovePages :
    (bedBulk (migOf false 1)).bulk[(2 : Fin 16)] = [migOf false 1] ∧ (migOf false 1).dest = 0 ∧ tierOf 0x10000 = .hbm ∧
    leafAnd ((bedBulk (migOf false 1)).writeHome 0x4007 [0xC2]) (fun _ w _ => w.getLsbD 62) = true ∧
    leafAnd ((bedBulk (migOf false 1)).writeHome 0x4007 [0x92]) (fun _ w _ => !w.getLsbD 62 && w.getLsbD 60) = true ∧
    leafAnd (bedBulk (migOf false 1)) (fun _ w big => migratable w && decide (tierOf (pteAddr w) = .hbm) && !big) = true ∧
    leafAnd ((bedBulk (migOf false 1)).writeHome 0x4001 [0x0F]) (fun _ w _ => migratable w) = false := by decide +kernel
/-- The free choice of a frame (log 7) may be one that suits. -/
theorem witness_MigrationsMovePages_frame (h : Config.frame (bedBulk (migOf false 1)).free = 0x080000000000) :
    (bedBulk (migOf false 1)).newFrame false .lpddr = some 0x080000000000 := by
  unfold State.newFrame; rw [h]; decide +kernel
theorem witness_MigrationsMovePages_moved :
    (let s := bedBulk (migOf true 1)
     s.frameFree 0x080000000000 65536 = true ∧ Memory.wf s.mem = true ∧
       0x080000000000 % 4096 = 0 ∧ 0x080000000000 < 2 ^ 48 ∧
       leafAnd s (fun ea w big => !big && decide (ea + 8 ≤ 0x080000000000) && decide (pteAddr w + 65536 ≤ 0x080000000000)) = true) ∧
    (let s := { bedBulk (migOf true 1) with maps := [⟨0x90000, false, 0x080000000000, 0, false, true, true, false, false⟩] }; s.frameFree 0x080000000000 65536 = false) ∧
    ({ migOf true 1 with dest := 1 } : Copy).dest ≠ 0 := by decide +kernel

theorem witness_RunsEndAndSpawn_ends :
    (bed2 0 0).fcx = tileCx 0 ∧ ((bed2 0 0).sq 0).bundlesOf 0 = false ∧ (bed2 0 0).me.records = [] ∧
    (∀ (v : Vc) (h : Fin 64), ((bed2 0 0).core 0 v).handles[h].partly = false) ∧
    (((bed2 0 0).modCore 0 3 (fun x => { x with issued := [default] })).sq 0).bundlesOf 0 = true := by decide +kernel
/-- A record at 0x40 with the base time `t` and pool word `n`, and a token of scope 0 at 3. -/
def bedSpawn (t n : Nat) (q : List LRec) : State :=
  (put (bed2 0x40 0) 0x40 [0, t, n, 0, 0x3000100000000, 0, 0, 0]).modSq 0 (fun x => { x with tokens := [⟨0, 3, .ctx 0, 1⟩], launchQ := q })
def spawnFit (s : State) : Bool := let w := s.readRecord 0x40
  w.wellFormed && w.res == s.me.res && w.scope == s.me.scope && w.pri ≤ s.me.pri && w.rect == 0 && w.tend == 0 && (List.finRange 4).all (fun l => !w.isVar l) && w.mode == 0
theorem witness_RunsEndAndSpawn_spawn :
    (let s := bedSpawn 5 0 []
     s.me.inv = none ∧ (s.rs 1).toNat = 0x40 ∧ s.isBad (privAddr s.fsq.val s.fcx.val 0x40) 64 = false ∧ spawnFit s = true ∧
       (s.sq 0).holdsBy s.owner (s.readRecord 0x40).scope (s.readRecord 0x40).tbase = true ∧ s.placeFree 0 0 = true ∧ (s.sq 0).stream.length < 32) := by decide +kernel
theorem witness_RunsEndAndSpawn_refused :
    (let s := bedSpawn 2 0 []; spawnFit s = true ∧ (s.sq 0).holdsBy s.owner (s.readRecord 0x40).scope (s.readRecord 0x40).tbase = false) ∧
    spawnFit (bedSpawn 5 5 []) = false ∧
    (let s := bedSpawn 5 0 ((List.range 12).map (fun k => { (default : LRec) with place := k })); ∀ k < 12, s.placeFree 0 k = false) := by decide +kernel

/-- The record of an invocation's task, of priority 3; s1 is 0x40. -/
def bedTimed (tend : Word) (n : Nat) : State :=
  { (bedSpawn 5 0 []).modMe (fun x => { x with pri := 3, inv := some 7 }) with
    mem := [], residences := [(0, some { (default : Residence) with sched := natLE 8 n ++ List.replicate 200 0 })],
    invs := [{ (default : Inv) with id := 7, words := ⟨0, 0, tend, 0, #v[0, 0, 0, 0]⟩ }] }
def bedTimed3 (tend : Word) (n : Nat) : State := put (bedTimed tend n) 0x40 [3 * 2 ^ 60, 3, 0, 0, 0x3000100000000, 0, 0, 0]
theorem witness_RunsEndAndSpawn_timed :
    (let s := bedTimed3 0xFFFF 1000; let w := s.readRecord 0x40
     s.me.pri = 3 ∧ (bedSpawn 5 0 []).me.pri ≠ 3 ∧ w.pri = 3 ∧ w.wellFormed = true ∧ w.pri ≤ s.me.pri ∧ (s.me.inv.bind s.invOf).isSome = true ∧ w.timeOf w.lastTile ≤ (0xFFFF : Word) ∧ w.total ≤ 1000 ∧
       (s.residence w.res).map (·.spb) = some 1000 ∧ (s.sq 0).holdsBy s.owner w.scope w.tbase = true ∧ s.placeFree 0 0 = true ∧ (s.sq 0).streamRoom 1 = true) ∧
    (let s := bedTimed3 0xFFFF 0; (s.residence 0).map (·.spb) = some 0 ∧ 0 < (s.readRecord 0x40).total) ∧
    (let s := bedTimed3 2 1000; let w := s.readRecord 0x40; (2 : Word) < w.timeOf w.lastTile) := by decide +kernel
theorem witness_RunsEndAndSpawn_bounds :
    ((bed2 0x41 0).rs 1).toNat % 64 ≠ 0 ∧ 0x4000 < ((bed2 0x4000 0).rs 1).toNat + 64 ∧ ((bed2 0x4000 0).rs 1).toNat % 64 = 0 ∧
    (let s := (bedSpawn 5 0 []).modSq 0 (fun x => { x with tokens := List.replicate 64 ⟨0, 3, .ctx 0, 1⟩ })
     spawnFit s = true ∧ (s.sq 0).holdsBy s.owner (s.readRecord 0x40).scope (s.readRecord 0x40).tbase = true ∧ 64 ≤ (s.sq 0).tokens.length ∧ s.placeFree 0 0 = true) ∧
    (let s := (bed2 0 0).modMe (fun x => { x with records := [default] }); (s.sq 0).bundlesOf 0 = false ∧ s.me.records ≠ []) ∧ (bedF 0 0).fcx = 8 := by
  decide +kernel

/-- Square 0's journal, and page tables that map the first 64 KiB of space 0 onto its MRAM; s1 is 0x100. -/
def bedJrn (st : JSt) (half : Nat) (es : List (Nat × Word)) : State :=
  { (bed2 0x100 0x77).modSq 0 (fun x => { x with journal := { Journal.reset with st := st, half := half, entries := es } }) with
    ptbr := 0x1000, mem := [(0x1001, 0x20), (0x1007, 0x80), (0x2001, 0x30), (0x2007, 0x80), (0x3001, 0x40), (0x3007, 0x80), (0x4001, 0x01), (0x4005, 0x04), (0x4007, 0x82)] }
/-- Whether s1's address is home to a word of square 0's MRAM outside its journal, and `p` holds of it. -/
def mramAnd (s : State) (p : Nat → Bool) : Bool :=
  after s { r := true } 0x100 (fun pa _ => decide (mramBase 0 ≤ pa) && decide (pa + 8 ≤ mramBase 0 + 0x7300000) && p pa)

theorem witness_JournalAndPowerInstructions_open :
    (let s := bedJrn .closed 0 []; (s.journal 0).st = .closed ∧ s.halfWorn 0 0 = false ∧ mramAnd s (fun _ => true) = true) ∧
    (let s := { bedJrn .closed 0 [] with wear := [((mramBase 0 + 0x7300000) / 4096, 1000000000)] }; s.halfWorn 0 0 = true) ∧
    (let s := bedJrn .opened 0 []; (s.journal 0).st = .opened ∧ (s.journal 0).owner = s.fcx ∧ s.fcx ≠ 3) := by decide +kernel
/-- Three entries of the journal, two of one address. -/
def jrnOf : List (Nat × Word) := [(mramBase 0 + 8, 7), (mramBase 0 + 16, 8), (mramBase 0 + 8, 9)]
theorem witness_JournalAndPowerInstructions_write :
    (let s := bedJrn .opened 0 jrnOf
     (s.journal 0).st = .opened ∧ (s.journal 0).owner = s.fcx ∧ (s.journal 0).entries.length < 32512 ∧ (∀ e ∈ (s.journal 0).entries, e.1 % 8 = 0) ∧
       mramAnd s (fun pa => decide (mget 0 s.wear (pa / 4096) < 1000000000)) = true) ∧
    (let s := { bedJrn .opened 0 jrnOf with wear := [(mramBase 0 / 4096, 1000000000)] }
     mramAnd s (fun pa => decide (1000000000 ≤ mget 0 s.wear (pa / 4096))) = true) := by decide +kernel
theorem witness_JournalAndPowerInstructions_places :
    ((bed2 0x101 0).rs 1).toNat % 8 ≠ 0 ∧ causes (bedJrn .opened 0 []) { r := true } 0x20000 = true ∧ stalls bedMoving { r := true } 0x100 = true ∧
    after (bedPages (bedJrn .opened 0 [])) { r := true } 0x100 (fun pa _ => decide (pa < mramBase 0)) = true := by decide +kernel
/-- A page that holds no journal, in the squares' homes; the state of an MJ.COMMIT after its record. -/
def bedCommit (st : JSt) (copies : Nat) (good : Bool) (applied : Nat) : State :=
  ((bedJrn st 0 jrnOf).modSq 0 (fun x => { x with journal := { x.journal with copies := copies, good := good, applied := applied } })).modMe
    (fun x => { x with blocked := some ⟨.mjCommit 3, 100, 200, false⟩ })
theorem witness_JournalAndPowerInstructions_commit :
    (let s := bedCommit .opened 1 false 0; (s.journal 0).st = .opened ∧ (s.journal 0).owner = s.fcx ∧ (s.journal 0).copies < 2) ∧
    (∀ g ∈ [true, false], let s := bedCommit .opened 2 g 0; 2 ≤ (s.journal 0).copies ∧ (s.journal 0).good = g) ∧
    (∀ n ∈ [2, 3], let s := bedCommit .committing 2 true n
      (s.journal 0).st = .committing ∧ (s.journal 0).owner = s.fcx ∧ s.me.waits = true ∧ 2 ≤ (s.journal 0).copies ∧
        (if n = 2 then (s.journal 0).entries[(s.journal 0).applied]? = some (mramBase 0 + 8, 9) else (s.journal 0).entries.length ≤ (s.journal 0).applied)) := by
  decide +kernel
theorem witness_JournalAndPowerInstructions_full (l : List (Nat × Word)) : ((bedJrn .opened 0 l).journal 0).entries = l := rfl
theorem witness_JournalAndPowerInstructions_power :
    ((bed2 1 2).fcx ≠ 8 ∧ ((bed2 1 2).rs 1).toNat < 2 ∧ 2 ≤ ((bed2 1 2).rs 2).toNat) ∧ (bedF 0 0).fcx = 8 ∧
    rectOnMesh 0x010002FF = false ∧ rectOnMesh 0x01000202 = true ∧ (let s := { bed2 0 0 with fcx := 8 }; s.restful 0 = false ∧ s.dozeOk 0 = false) ∧
    (let s := (bedF 0 0).modSq 0 (fun x => { x with active := none })
     s.restful 0 = true ∧ (s.sq 0).timed = false ∧ s.dozeOk 0 = true) := by decide +kernel

/-- Context F, with context 2 in a state, held and of task 77, and page tables that map the first 4 MiB of space 0 onto two large pages; s1 is `w`. -/
def bedFw (st : CtxSt) (hold : Bool) (w : Word) : State :=
  { (bedF w 0).modCtx 0 2 (fun x => { x with st := st, hold := hold, task := 77 }) with
    ptbr := 0x1000, mem := [(0x1001, 0x20), (0x1007, 0x80), (0x2001, 0x30), (0x2007, 0x80), (0x3001, 0x07), (0x3002, 0x20), (0x3007, 0x81),
      (0x3009, 0x07), (0x300A, 0x40), (0x300F, 0x81)] }

theorem witness_FirmwareInstructions_start :
    (let s := bedFw .ready true 2
     s.fcx = 8 ∧ s.rs 1 = BitVec.ofNat 64 (2 : Fin 8).val ∧ (s.ctx s.fsq (tileCx 2)).st = .ready ∧ (s.ctx s.fsq (tileCx 2)).hold = true ∧
       s.committing 0 2 = false ∧ ¬((s.sq s.fsq).journal.st = .opened ∧ (s.sq s.fsq).journal.owner = 2) ∧
       okAnd (s.areaOk 0 (s.rs 3).toNat) (fun _ => true) = true ∧ s.savePoint 0 2 = true ∧ s.saveBad 0 2 = false ∧
       ({ s with bad := [unitBase (privAddr 0 2 0x100)] } : State).saveBad 0 2 = true) ∧ 8 ≤ ((bedFw .ready true 8).rs 1).toNat ∧
    (let s := (bedFw .ready true 2).modCtx 0 2 (fun x => { x with loads := [default] }); s.savePoint 0 2 = false) ∧
    (match (bedFw .ready true 2).areaOk 0 0x800000 with
      | .error (.cause _) => true
      | _ => false) = true ∧
    (let s := (bedFw .ready true 2).modSq 0 (fun x => { x with journal := { Journal.reset with st := .opened, owner := 2 } })
     (s.sq 0).journal.st = .opened ∧ (s.sq 0).journal.owner = 2 ∧ s.committing 0 2 = false) ∧
    (let s := (bedFw .ready true 2).modSq 0 (fun x => { x with journal := { Journal.reset with st := .committing, owner := 2, copies := 2 } })
     s.committing 0 2 = true) ∧
    (let s := bedFw .free false 2
     (match s.areaSeen 0 0 with
      | some u => readSegs (u.imageRead 0 0) 0x20000 0 0 0 (((u.imageRead 0 0 0 1).getD []).headD 0).toNat == none
      | none => false) = true) ∧
    (let s : State := { bedFw .free false 2 with mem := ((bedFw .free false 2).mem.map (fun p => if p.1 = 0x300F then (0x300F, 0x91) else p)) }
     (s.areaSeen 0 0x200000).isNone = true) := by decide +kernel
theorem witness_FirmwareInstructions_end :
    (let s := bedFw .ready true 0x60002; s.rs 1 = BitVec.ofNat 64 (6 * 2 ^ 16 + (2 : Fin 8).val) ∧ assigned 6 = true ∧ 6 < 2 ^ 9 ∧
      (s.ctx 0 (tileCx 2)).st = .ready) ∧ ((bedFw .free false 0x60002).ctx 0 (tileCx 2)).st = .free := by decide +kernel

theorem witness_VectorPermutationsAndReductions :
    ((List.finRange 64).filter (fun j => ((bed2 0 0).lanesOf 0 2 none).getLsbD j.val)).length = 64 ∧
    (let s := (bed2 0 0).modCore 0 2 (fun x => { x with oa := x.oa.map (fun _ => Vector.replicate 64 0x7FC00000) })
     ∀ j : Fin 64, (fp32.value ((s.core 0 2).oa[(1 : Fin 4)][j]).toNat).isNan = true) ∧
    (let s := bed2 0 0
     ∀ j : Fin 64, (fp32.value ((s.core 0 2).oa[(1 : Fin 4)][j]).toNat).isNan = false ∧
       ((s.core 0 2).oa[(1 : Fin 4)][j]).toInt ≤ ((s.core 0 2).oa[(1 : Fin 4)][(0 : Fin 64)]).toInt ∧ (fp32.value ((s.core 0 2).oa[(1 : Fin 4)][(0 : Fin 64)]).toNat).lt (fp32.value ((s.core 0 2).oa[(1 : Fin 4)][j]).toNat) = false) ∧
    (let s := (bed2 0 0).modCore 0 2 (fun x => { x with m := x.m.map (fun _ => 0) }); s.lanesOf 0 2 (some 3) = 0) := by decide +kernel

/-- An entry of context 0, and an issued bundle. -/
def entOf (w : BitVec 192) : Entry := ⟨w, 0, 7, 0x100⟩
/-- Core 2, claimed by context 0. -/
def bedCore (f : VCore → VCore) : State := (bed2 0 0).modCore 0 2 (fun x => f { x with claim := some 0, nextId := 9 })
/-- The same with a bundle issued, and operands of the control and the memory unit. -/
def bedArgs (a b ma mb mc : Word) : State :=
  bedCore (fun x => { x with issued := [⟨8, entOf (bun []), false⟩], sa := #v[0, 0, ma, a], sb := #v[0, 0, mb, b], sc := #v[0, 0, mc, 0] })

theorem witness_ScalarAndControlUnits :
    (let x := (bedArgs 65536 63 0 0 0).core 0 2
     x.issued.getLast? = some ⟨8, entOf (bun []), false⟩ ∧ 1 ≤ x.sa[(3 : Fin 4)].toNat ∧ x.sa[(3 : Fin 4)].toNat ≤ 65536 ∧ x.sb[(3 : Fin 4)].toNat < 64) ∧
    (let x := (bedArgs 65537 64 0 8 0).core 0 2; 65536 < x.sa[(3 : Fin 4)].toNat ∧ 64 ≤ x.sb[(3 : Fin 4)].toNat ∧ 8 ≤ x.sb[(2 : Fin 4)].toNat) ∧
    (let x := (bedArgs 0 0 7 31 65536).core 0 2
     x.sa[(3 : Fin 4)] = 0 ∧ x.sb[(2 : Fin 4)] = BitVec.ofNat 64 ((3 : Fin 4).val * 8 + (7 : Fin 8).val) ∧ x.sc[(2 : Fin 4)].toNat = 65536 ∧
       x.sa[(2 : Fin 4)] = BitVec.ofNat 64 (7 : Fin 8).val) ∧
    (let x := (bedArgs 0 0 0 7 1).core 0 2; x.sb[(2 : Fin 4)] = BitVec.ofNat 64 (7 : Fin 8).val ∧ x.cfgOk 7 x.sa[(2 : Fin 4)] = true) := by decide +kernel

/-- The queue of core 2 holds `w` and an empty bundle. -/
def bedQ (w : BitVec 192) (f : VCore → VCore) : State := bedCore (fun x => f { x with eq := [entOf w, entOf (bun [])] })
/-- A move between two registers of vector unit 0's file, and one from the queue of generator results. -/
def moveT : BitVec 192 := bun [mv 0 0 0 3 5]
def fromQT : BitVec 192 := bun [mv 0 1 0 0x32 5]

theorem witness_BundlesIssue :
    (let s := bedQ moveT id; let x := s.core 0 2
     x.loop = none ∧ x.eq = [entOf moveT, entOf (bun [])] ∧ x.fresh = false ∧ s.bundleWaits 0 2 (entOf moveT) = false ∧
       okAnd (s.issueCheck 0 2 (entOf moveT)) (fun _ => true) = true ∧ s.portWaits 0 2 (entOf moveT) = false ∧ s.now < x.headSince + 1000000) ∧
    (match (entOf moveT).moves with
      | [(k, m)] => k == 0 && m.kind == 0 && m.src == 3 && m.dst == 5
      | _ => false) = true ∧
    (let s := { bedQ moveT id with now := 1000000 }; (s.core 0 2).headSince + 1000000 ≤ s.now) := by decide +kernel
/-- A stream copy into handle 5, which is FULL. -/
def streamT : BitVec 192 := bun [0xC00000, 0xC00000, 0xC00000, 0xC00000, 0xC00000, 0xC00000, mv 0 0 0 0x103 0x45]
theorem witness_BundlesIssue_port :
    (let s := bedQ streamT (fun x => { x with handles := vset x.handles 5 ⟨2, 3, 0x1000, .full, 0, true, 0⟩ })
     s.portWaits 0 2 (entOf streamT) && okAnd (s.issueCheck 0 2 (entOf streamT)) (fun _ => true) && !s.bundleWaits 0 2 (entOf streamT)) = true := by
  decide +kernel
theorem witness_BundlesIssue_faults :
    (let s := bedQ fromQT (fun x => { x with mrq := [.bad 0x44] })
     s.bundleWaits 0 2 (entOf fromQT) = false ∧ okAnd (s.issueCheck 0 2 (entOf fromQT)) (fun _ => true) = false) ∧
    (let s := bedQ fromQT id; s.bundleWaits 0 2 (entOf fromQT) = true) := by decide +kernel

theorem witness_BundlesIssue_moves : ((bedQ moveT id).core 0 2).arq = [] ∧ ((bedQ moveT id).sq 0).crqHeld = none := by decide +kernel
/-- A loop run of core 2 with entries of body, and a LOOP entry. -/
def loopOf (n it next cnt : Nat) (body : List Entry) : LoopRun := ⟨1, cnt, n, body, it, next, entOf (bun []), 3⟩
def loopT : BitVec 192 := bun [0xC00000, 0xC00000, 0xC00000, 0xC00000, 0xC00000, 0xC00000, 0xC00000, mv 0 0 0 3 0x100]
def bedLoop (w : BitVec 192) (l : LoopRun) : State := bedQ w (fun x => { x with loop := some l })

theorem witness_LoopsReplay :
    (let l := loopOf 2 0 0 3 [entOf moveT]; let s := bedLoop moveT l; let x := s.core 0 2; let e := entOf moveT
     x.loop = some l ∧ l.body.length < l.n ∧ some e.ctx = x.claim.map tileCx ∧ e.isLoop = false ∧ x.fresh = false ∧ s.bundleWaits 0 2 e = false ∧
       okAnd (s.issueCheck 0 2 e) (fun _ => true) = true ∧ s.portWaits 0 2 e = false) ∧ (entOf loopT).isLoop = true ∧
    (let l := loopOf 2 1 1 3 [entOf moveT, entOf (bun [])]; let s := bedLoop moveT l
     l.n ≤ l.body.length ∧ l.body[l.next]? = some (entOf (bun [])) ∧ l.n ≤ l.next + 1 ∧ l.it + 1 < l.count ∧ s.bundleWaits 0 2 (entOf (bun [])) = false ∧
       okAnd (s.issueCheck 0 2 (entOf (bun []))) (fun _ => true) = true ∧ s.portWaits 0 2 (entOf (bun [])) = false) ∧
    (let l := loopOf 2 2 0 3 [entOf fromQT, entOf (bun [])]; (bedLoop moveT l).bundleWaits 0 2 (entOf fromQT) = true ∧ l.body[l.next]? = some (entOf fromQT)) := by
  decide +kernel

/-- A result of unit `u`, and an access of 64 lanes of space `sp`. -/
def pendOf (u : Slot) (f : Option (BitVec 64)) : Pend := ⟨8, u, Vector.replicate 64 77, 99, f, 2⟩
def sideOf (sp b : Nat) : VSide := ⟨sp, (List.range 64).map (b + 4 * ·), false, none, none, false⟩
def accOf (sp : Nat) (load : Bool) : VAcc :=
  ⟨8, entOf moveT, 0xF0F0F0F0F0F0F0F1, if load then some (sideOf sp 0x100) else none, if load then none else some (sideOf sp 0x100),
   if load then some (2, 5) else none, Vector.replicate 64 5, true⟩
/-- Core 2 with a result, an issued bundle and an access on its way. -/
def bedPend (p : Pend) (a : VAcc) : State := bedPages (bedCore (fun x => { x with pend := [p], issued := [⟨8, entOf moveT, false⟩], vpath := [a] }))

theorem witness_BundleResultsArrive_units :
    (let s := bedPend (pendOf 3 (some 0xFF)) (accOf 1 true); (s.core 0 2).pend = [pendOf 3 (some 0xFF)] ∧ (pendOf 3 (some 0xFF)).unit.val = (3 : Fin 4).val ∧
      (s.core 0 2).retirable ⟨8, entOf moveT, false⟩ = false) ∧ (pendOf 7 none).unit.val = (3 : Fin 4).val + 4 ∧
    ((bedCore (fun x => { x with issued := [⟨8, entOf moveT, false⟩] })).core 0 2).retirable ⟨8, entOf moveT, false⟩ = true := by decide +kernel
/-- Two bundles, of which the younger has nothing outstanding. -/
theorem witness_BundleResultsArrive_younger :
    (let j : Issued := ⟨8, entOf moveT, false⟩; let i : Issued := ⟨9, entOf moveT, false⟩
     let x := (bedCore (fun x => { x with pend := [pendOf 3 none], issued := [j, i] })).core 0 2
     x.issued = [j] ++ i :: [] ∧ x.retirable j = false ∧ x.retirable i = true ∧ j.id ≠ i.id) ∧
    (let x := (bedPend (pendOf 3 none) (accOf 1 true)).core 0 2; ∀ j ∈ x.issued, x.retirable j = false) ∧
    (match (bedMoving.modCore 0 2 (fun x => { x with claim := some 0 })).readSide 0 2 0 (sideOf 0 0x100) with
      | .error .stall => true
      | _ => false) = true := by decide +kernel
theorem witness_BundleResultsArrive_paths :
    (let s := bedPend (pendOf 2 none) (accOf 0 true)
     (s.core 0 2).vpath = [accOf 0 true] ∧ (accOf 0 true).from_ = some (sideOf 0 0x100) ∧ (sideOf 0 0x100).hnd = none ∧
       (accOf 0 true).to_ = none ∧ (accOf 0 true).dst = some (2, 5) ∧ okAnd (s.readSide 0 2 0 (sideOf 0 0x100)) (fun _ => true) = true) ∧
    (accOf 2 false).from_ = none ∧ (accOf 2 false).dst = none ∧ (accOf 2 false).to_ = some (sideOf 2 0x100) := by decide +kernel
/-- A queued generator of the scratchpad. -/
def bedGen : State := bedCore (fun x => { x with gens := vset x.gens 0 { x.gens[(0 : Fin 8)] with
  configured := true, fetching := true, cfg := 0x8, base := 0x100, cnt := #v[3, 2, 1, 1], stride := #v[0x10, 0x20, 0, 0], pos := 5 } })
theorem witness_BundleResultsArrive_generator :
    (let s := bedPages bedGen; let x := s.core 0 2; let g := x.gens[(0 : Fin 8)]
     g.fetching = true ∧ g.queued = true ∧ x.mrq.length < 8 ∧ x.vpath = [] ∧ g.pos < g.total ∧
       okAnd (x.genSide 0 g.pos) (fun z => okAnd (s.readSide 0 2 (s.coreCtx 0 2) z) (fun _ => true)) = true) := by decide +kernel

/-- A load of eight bytes in flight with its second byte known. -/
def flightOf (v : Option Word) (po : Nat) : LoadFlight := ⟨3, 8, 0x108, 0, [none, some 0x55, none, none, none, none, none, none], v, po⟩
def postOf (po : Nat) : Posted := ⟨0x120, 0x10120, [1, 2, 3], po⟩
def bedFly (l : LoadFlight) (p : Posted) : State := (bedPages (bed2 1 2)).modMe (fun x => { x with loads := [l], posted := [p] })

theorem witness_AccessesComplete :
    (let s := (bedFly (flightOf none 5) (postOf 4)).fillLine 0 4 0x10100; ((s.sq 0).line ((flightOf none 5).va / 64)).isSome = true ∧
      (s.ctx 0 0).loads = [flightOf none 5] ∧ (s.ctx 0 0).posted = [postOf 4]) ∧
    (∀ k ∈ [flightOf none 5], k.value.isSome = true ∨ (postOf 4).po < k.po) ∧ (∃ k ∈ [flightOf none 4], k.value = none ∧ k.po ≤ (postOf 4).po) ∧
    (flightOf (some 7) 4).value = some 7 ∧ (postOf 4).va % 64 + (postOf 4).bytes.length ≤ 64 ∧
    (let s := bedFly (flightOf none 5) (postOf 4)
     ((s.sq 0).line ((flightOf none 5).va / 64)).isNone = true ∧ s.victimTag 0 = none ∧ (flightOf none 5).va % 64 + (flightOf none 5).size ≤ 64) ∧
    (let f : IFill := ⟨0x80, List.replicate 128 7, true, [0, 2]⟩
     let s := (bed2 1 2).modSq 0 (fun x => { x with ifills := [f], icache := vset x.icache (icSet 0x4000) [{ (default : IWay) with tag := superblock 0x4000 }] })
     (s.sq 0).ifills = [f] ∧ f.bad = true ∧ ((s.sq 0).icache[icSet (f.line * 128)]).any (fun w => w.tag == superblock (f.line * 128)) = true) ∧
    (let f : IFill := ⟨0x80, List.replicate 128 7, false, []⟩
     let s := (bed2 1 2).modSq 0 (fun x => { x with ifills := [f], icache := vset x.icache (icSet 0x4000) [{ (default : IWay) with tag := superblock 0x4000 }] })
     (s.sq 0).ifills = [f] ∧ ((s.sq 0).icache[icSet (f.line * 128)]).any (fun w => w.tag == superblock (f.line * 128)) = true) := by decide +kernel

/-- A record of residence 3 with tile `n` next, in a square whose contexts are free. -/
def lwOf : LWords := ⟨word (2 ^ 60 + 5 * 2 ^ 57 + 2 ^ 55 + 3 * 2 ^ 40 + 0x101), 0x5, 0xFFFF, 0, #v[word (3 * 2 ^ 48 + 7 * 2 ^ 32 + 2 ^ 17), word (2 * 2 ^ 48 + 2 ^ 32 + 2 ^ 20), 0, 0]⟩
def lrOf (n : Nat) : LRec := ⟨1, 0, lwOf, 9, 0, n, true⟩
def bedBind (n : Nat) : State :=
  { bedSq (fun x => { x with launchQ := [lrOf n] }) with residences := [(3, some { (default : Residence) with num := 3, entry := 0x40000 })] }

theorem witness_ContextsAreBoundAndFreed_bind :
    (let s := bedBind 11
     ((s.sq 0).nextRecord).isSome = true ∧ (s.sq 0).freeCtx = some 0 ∧ (s.pending 0 (lrOf 11)).length = 1 ∧ (s.residence lwOf.res).isSome = true ∧
       (s.sq 0).tokens.length ≤ 62 ∧ (s.sq 0).stream.length < 32) ∧ ((bedBind 5).pending 0 (lrOf 5)).length = 7 := by decide +kernel
theorem witness_ContextsAreBoundAndFreed_free :
    (let s := ((bed2 1 2).modMe (fun x => { x with st := .ending, endCause := some 0 })).modSq 0 (fun x => { x with tokens := [⟨3, 7, .ctx 0, 5⟩] })
     (s.ctx 0 (tileCx 0)).st = .ending ∧ s.drained 0 (tileCx 0) = true ∧ (s.sq 0).owed.length + 1 ≤ 32 - (s.sq 0).stream.length) ∧
    ((bed2 1 2).ctx 0 (tileCx 0)).st ≠ .ending ∧
    (let s := ((bed2 1 2).modMe (fun x => { x with st := .ending, endCause := some 0 })).modSq 0
       (fun x => { x with tokens := List.replicate 33 ⟨3, 7, .ctx 0, 5⟩ })
     s.drained 0 (tileCx 0) = true ∧ 32 - (s.sq 0).stream.length < (s.sq 0).owed.length + (s.sq 0).tokens.length) := by decide +kernel

/-- A task that ran to its EXIT with its core's array in ERROR. -/
theorem witness_ContextsAreBoundAndFreed_engine :
    (let s := (((bed2 1 2).modMe (fun x => { x with st := .ending, inv := some 7 })).modCore 0 2 (fun x => { x with claim := some 0 })).modACore 0 2
       (fun a => { a with err := some 0x0C1 })
     (s.ctx 0 0).endCause = none ∧ s.engineCause 0 0 = some 0x0C1 ∧ (s.ctx 0 0).inv = some 7 ∧ s.drained 0 0 = true) := by decide +kernel

def brOf : BRec := ⟨0x44, 1, 2, 7, 0x123456, 3, 1, 0, 9⟩
/-- Context `c` with two records. -/
def bedBr (c : Cx) (thnd : Word) : State := (bed2 1 2).modCtx 0 c (fun x => { x with records := [brOf, brOf], thnd := thnd })
/-- Context 0 waits in an MWAIT since 200 with its limit in s1, at time 1000. -/
def bedMw (lim : Word) (fired : Bool) : State :=
  { (bed2 lim 2).modMe (fun x => { x with blocked := some ⟨.mwait 3 1, 100, 200, false⟩ }) with now := 1000, watches := [⟨0, 0x100, 0x808, 0, 5, fired, false⟩] }

theorem witness_RecordsAndWakesAreDelivered_first :
    (∀ f ∈ [true, false], let s := (bedMw 800 f).modMe (fun x => { x with records := [brOf] })
      s.recordDue 0 0 = true ∧ (s.watchOf 0 0).map (·.fired) = some f ∧ mwaitLimit ((s.ctx 0 0).rs_ 1) ≤ s.now - 200) ∧
    (bedMw 800 false).recordDue 0 0 = false ∧ (bedBr 0 0).committing 0 0 = false ∧ (bedBr 8 0).committing 0 8 = false ∧
    (let s := (bedBr 0 0).modSq 0 (fun x => { x with journal := { Journal.reset with st := .committing, owner := 0, copies := 2 } })
     s.committing 0 0 = true) := by decide +kernel
theorem witness_RecordsAndWakesAreDelivered :
    (let s := bedBr 0 0; (s.ctx 0 0).records = [brOf, brOf] ∧ brOf.lvl = 1 ∧ (s.sq 0).active.map tileCx = some 0 ∧ (s.ctx 0 0).inh = false ∧ (s.sq 0).service = none) ∧
    ((bedBr 8 0).ctx 0 8).records = [brOf, brOf] ∧ ((bed2 1 2).ctx 0 0).records = [] ∧
    ((bedBr 0 3).ctx 0 0).inh = true ∧
    (let s := bedMw 800 false; (s.ctx 0 0).blocked = some ⟨.mwait 3 1, 100, 200, false⟩ ∧ (s.watchOf 0 0).isSome = true ∧
      mwaitLimit ((s.ctx 0 0).rs_ 1) ≤ s.now - 200) ∧
    (let s := bedMw 801 false; s.now - 200 < mwaitLimit ((s.ctx 0 0).rs_ 1) ∧ s.higherReady 0 0 = false) ∧
    (let s := (bedMw 801 false).modCtx 0 3 (fun x => { x with st := .ready, pri := 1 }); s.higherReady 0 0 = true) ∧
    ((bedMw 0 true).watchOf 0 0).map (·.fired) = some true ∧ ({ bedMw 0 true with watches := [] } : State).watchOf 0 0 = none := by decide +kernel

/-- Context 0 waits since 200 at time `n`, with `k` of firmware's credits; and in a service after `k` instructions. -/
def bedInt (n k : Nat) : State := { (bedMw 801 false).modSq 0 (fun x => { x with fcred := k, fcycles := k }) with now := n }
def bedSvc (k : Nat) : State := { (bed2 1 2).modSq 0 (fun x => { x with service := some (0, k) }) with fcx := 8 }

theorem witness_FirmwareInterruptsAndReturns :
    (let s := bedInt 2200 16
     (s.ctx 0 0).blocked = some ⟨.mwait 3 1, 100, 200, false⟩ ∧ (s.sq 0).active = some 0 ∧ (s.ctx 0 0).inh = false ∧ (s.sq 0).service = none ∧
       200 + 2000 ≤ s.now ∧ 16 ≤ (s.sq 0).fcred ∧ 16 ≤ (s.sq 0).fcycles ∧ (s.ctx 0 8).waits = false ∧ s.committing 0 0 = false) ∧
    (let s := (bedInt 2200 16).modCtx 0 8 (fun x => { x with blocked := some ⟨.eqWait 0 0, 5, 5, false⟩ }); (s.ctx 0 8).waits = true) ∧
    (let s := bedInt 2199 15; s.now < 200 + 2000 ∧ (s.sq 0).fcred < 16 ∧ (s.sq 0).fcycles < 16) ∧
    ((bedSvc 15).sq 0).service = some (0, 15) ∧ ((bedSvc 16).sq 0).service = some (0, 16) ∧ (bedSvc 16).fsq = 0 ∧ (bedSvc 16).fcx = 8 ∧
    (bedF 0 0).fcx = 8 ∧ ((bedF 0 0).sq (bedF 0 0).fsq).service = none := by decide +kernel

/-- The array of square 0 held by core `h`, with its buffers, and core 2 as `f` has it. -/
def bedArr (h : Option Vc) (b0 b1 : Option Cx) (f : ACore → ACore) : State :=
  ((bedCore id).modArr 0 (fun a => { a with holder := h, bufs := #v[b0, b1] })).modACore 0 2 f

theorem witness_ArrayPortsAndLease :
    ((bedArr none none none id).acore 0 2).spq.length < 4 ∧ 4 ≤ ((bedArr none none none (fun a => { a with spq := [1, 2, 3, 4] })).acore 0 2).spq.length ∧
    leaseOk 0x000C = true ∧ leaseOk 0xFFFF = false ∧ (bedArr none (some 0) none id).coreCtx 0 2 = 0 ∧
    (let arr := (bedArr none (some 0) none id).arr 0
     (∃ b : Fin 2, arr.bufs[b] = some 0) ∧ (∃ b : Fin 2, (BitVec.ofNat 2 (0x000C / 4)).getLsbD b.val = true ∧ arr.bufs[b] ≠ some 0) ∧
       (∀ b : Fin 2, (BitVec.ofNat 2 (0x0004 / 4)).getLsbD b.val = true → arr.bufs[b] = some 0)) ∧
    (let s := bedArr (some 1) (some 0) (some 0) id; (s.arr 0).holder ≠ some 2 ∧ (s.acore 0 2).req = none ∧ s.suspended 0 2 = false) ∧
    (let s := bedArr none none none (fun a => { a with req := some ⟨16, 0, 1⟩ }); (s.arr 0).holder = none ∧ s.nextHolder 0 = some 2) ∧
    (bedArr none none none id).nextHolder 0 = none ∧
    (let s := bedArr (some 2) (some 0) none (fun a => { a with cur := some { (default : ACmd) with accepted := true } })
     (s.arr 0).holder = some 2 ∧ (s.acore 0 2).accepted ≠ []) ∧
    (let r : AReq := ⟨16, 0, 1⟩; let s := bedArr none (some 3) none (fun a => { a with cur := some { (default : ACmd) with accepted := true, steps := 1 }, req := some r })
     (s.arr 0).holder = none ∧ (s.acore 0 2).req = some r ∧ r.buf.getLsbD (0 : Fin 2).val = true ∧ (s.arr 0).bufs[(0 : Fin 2)] ≠ none ∧
       (s.arr 0).bufs[(0 : Fin 2)] ≠ some (s.coreCtx 0 2)) := by decide +kernel

/-- The operations, and specifiers that each takes. -/
def opsOf : List (Nat × List Word) :=
  [(0x00, [32, 32]), (0x01, [536870944]), (0x03, []), (0x04, [32]), (0x05, [117440544]), (0x06, []), (0x07, [83886112]), (0x08, []), (0x10, [32, 32]),
   (0x11, [32, 96, 120590368]), (0x12, [32, 120586272]), (0x13, [32, 544]), (0x14, [117440544]), (0x15, [50331680, 956301344]), (0x16, [83886112, 201326688])]
theorem witness_ArrayCommandsAreAccepted :
    (∀ e ∈ opsOf, let x := BitVec.ofNat 64 (e.1 * 2 ^ 58); let w := cword x
      w.op = e.1 ∧ cmdLegal x = true ∧ (match opRoles e.1 with
        | some r => r.length == e.2.length && (r.zip e.2).all (fun p => specLegal w p.1 p.2) && pairLegal w e.2 && !overlaps w (r.zip e.2)
        | none => false) = true) ∧
    (let s := bedArr (some 2) none none id; let a := s.acore 0 2
     a.nxt = none ∧ a.err = none ∧ a.hreg = [] ∧ s.overAcmd 0 (s.coreCtx 0 2) = false ∧ (s.arr 0).holder = some 2) ∧
    (let s := { (bedArr (some 2) none none id).modMe (fun x => { x with pri := 3 }) with residences := [(0, some default)] }
     s.overAcmd 0 (s.coreCtx 0 2) = true) := by decide +kernel
theorem witness_ArrayCommandsAreAccepted_refused :
    cmdLegal 0x8000 = false ∧ specLegal (cword 0) .a 0xFFFFFFFFFF = false ∧
    (let s := bedArr (some 1) none none id; (s.arr 0).holder ≠ some 2 ∧ (s.acore 0 2).req = none ∧ s.suspended 0 2 = false) ∧
    (∃ y : ACmd, y.accepted = false ∧ y.word = 5 ∧ y.since = 0 ∧ ((bedArr none none none (fun a => { a with nxt := some y })).acore 0 2).nxt = some y) := by
  refine ⟨by decide +kernel, by decide +kernel, by decide +kernel, ?_⟩
  exact ⟨{ (default : ACmd) with accepted := false, word := 5, since := 0 }, by decide +kernel⟩
theorem witness_ArrayCommandsAreAccepted_stall : ∀ v ∈ [true, false],
    (let y : ACmd := { (default : ACmd) with accepted := false, word := 5, since := 0, void := v }
     let s := { bedArr none none none (fun a => { a with nxt := some y }) with now := 1000000 }
     (s.acore 0 2).nxt = some y ∧ y.accepted = false ∧ y.void = v ∧ y.since + 1000000 ≤ s.now) := by decide +kernel

/-- An accepted command of operation `op` with `n` steps retired. -/
def cmdOf (op n : Nat) (l : List Word) : ACmd :=
  { (default : ACmd) with word := BitVec.ofNat 64 (op * 2 ^ 58), seq := 9, specs := l, steps := n, accepted := true, void := false, inTerm := false, ctx := 0, id := 3, handles := [] }
def bedCmd (m : ACmd) (b : Option Cx) : State := bedArr (some 2) b b (fun a => { a with cur := some m })
theorem witness_ArrayStepsRetire :
    (∀ op ∈ [0x03, 0x06, 0x08], let m := cmdOf op 0 []; let s := bedCmd m (some 0)
      (s.arr 0).holder = some 2 ∧ (s.acore 0 2).cur = some m ∧ m.steps < (cword m.word).nsteps ∧ s.vpathBefore 0 2 m.id = false ∧
        (∀ b ∈ (cword m.word).bufs, (s.arr 0).bufs[b] = some m.ctx) ∧
        okAnd (s.stepEffect 0 2 m) (fun x => !(x.1.takeHnds 0 2 m).otherGrantable 0 2) = true ∧ s.saving 0 m.ctx = false) := by decide +kernel
theorem witness_ArrayStepsRetire_ends :
    (let m := cmdOf 0x03 1 []; let s := bedCmd m (some 0); let a := s.acore 0 2
     (cword m.word).nsteps ≤ m.steps ∧ (cword m.word).op ≠ 0x11 ∧ m.handles = [] ∧ a.nxt = none ∧ a.rel = none ∧
       (∀ z : Vc, ((s.acore 0 z).cur.all (fun k => !k.void)) = true) ∧ m.inTerm = false ∧ (s.core 0 2).arq.length < 32 ∧ a.hreg = []) ∧
    (let m := cmdOf 0x03 0 []; let s := bedCmd m none; ∃ b ∈ (cword m.word).bufs, (s.arr 0).bufs[b] ≠ some m.ctx) := by decide +kernel

theorem witness_ArrayNumbersAreExact : ∀ f ∈ [fp32, bf16, fp16, e5m2, e4m3, e2m1], ∀ c ∈ [0, 1, 2 ^ (f.width - 1) + 1],
    c < 2 ^ f.width ∧ c ≠ 8 ∧ (f.value c).isNan = false := by decide +kernel

/-- Context 2 held, with s1 set; its image for the module of number 5 in the area at 0; and the same with context 2 FREE. -/
def bedSave : State := (bedFw .ready true 2).modCtx 0 2 (fun x => x.setS 1 7)
def saveAnd (f : Nat → Bool) (p : State → Bool) : Bool :=
  okAnd (bedSave.writeArea 0 49 0 (imageBytes 2 0 5 ((bedSave.saveKinds 0 2).filter (fun e => f e.1)))) p
/-- The identity of the module is free (log 8): its number may be 5. -/
theorem witness_FirmwareInstructions_save : saveAnd (fun _ => true) (fun _ => true) = true := by decide +kernel
set_option maxRecDepth 1000000 in
/-- The private area, 16 KiB of zeros, is left out of this image for the kernel's sake. -/
theorem witness_FirmwareInstructions_restore : saveAnd (· != 2) (fun t =>
    let s := t.modCtx 0 2 (fun _ => Ctx.reset)
    (s.ctx 0 (tileCx 2)).st == .free && (match s.areaSeen 0 0 with
      | some u =>
        let rd := u.imageRead 0 0
        let seen := u.areaTouch 0 0 (segsEnd rd 0x20000 0)
        match readSegs rd 0x20000 0 0 0 (((rd 0 1).getD []).headD 0).toNat with
        | some l => match seen.decodeImage 0 2 l with
          | some m => m.module == 5 && seen.restoreRoom 0 m
          | none => false
        | none => false
      | none => false)) = true := by decide +kernel
theorem witness_BundleResultsArrive_store :
    okAnd ((bedPend (pendOf 2 none) (accOf 2 false)).writeSide 0 2 0 (sideOf 2 0x100) (accOf 2 false).data (accOf 2 false).gm) (fun _ => true) = true := by decide +kernel

/-- An invocation; and square 0's stream, with four of them, one total and two broadcasts. -/
def invOf (id : Nat) (tok : Bool) (wt : List Sq) (tend : Word) : Inv :=
  { (default : Inv) with id := id, token := tok, waiting := wt, words := ⟨word (5 * 2 ^ 57), 5, tend, 0, #v[0, 0, 0, 0]⟩, unposted := [], q := 3, tag := 8 }
def bedCounts (ms : List Msg) : State :=
  { (bed2 0 0).modSq 0 (fun x => { x with stream := ms }) with
    root := [(rootKey 3 5, 2)], invs := [invOf 1 true [0, 4] 9, invOf 3 true [] 9, invOf 4 false [] 9], bcast := [⟨2, 7, 1⟩, ⟨3, 8, 5⟩] }

theorem witness_CountsAndBroadcasts :
    (let s := bedCounts [.count 3 [(7, 1), (5, -1), (5, -1), (0xFFFFFFFFFFFFFFFF, 1)], .accept 1]
     (s.sq 0).stream = [.count 3 [(7, 1), (5, -1), (5, -1), (0xFFFFFFFFFFFFFFFF, 1)], .accept 1] ∧ (s.bcast.find? (fun c => c.scope == 3)).isSome = true ∧
       s.bcast.find? (fun c => c.scope == 4) = none ∧
       s.invs.find? (fun j => j.id == 3) = some (invOf 3 true [] 9) ∧ s.invs.find? (fun j => j.id == 4) = some (invOf 4 false [] 9)) ∧
    ((bedCounts [.accept 1]).sq 0).stream = [.accept 1] ∧ ((bedCounts []).sq 0).stream = [] ∧ (∀ j ∈ (bedCounts []).invs, j.unposted = []) := by decide +kernel

/-- Square 0 without an active context, as `f` has it, in a state of the package. -/
def bedPow (f : Square → Square) (p : PkgPower) : State :=
  { (bedSq id).modSq 0 (fun x => f { x with active := none }) with power := p, now := 5000, brownStart := some 1000, offStart := some 3 }

theorem witness_PowerStates :
    (let s := bedPow (fun x => { x with cyc := 64 }) .run
     (s.sq 0).power = .run ∧ (s.modCtx 0 8 (fun x => { x with blocked := some ⟨.eqWait 0 0, 0, 0, false⟩ })).idle 0 = true ∧ s.idle 0 = false ∧ (s.sq 0).timed = false ∧ (s.sq 0).idleSince + 64 ≤ (s.sq 0).cyc ∧ (s.sq 0).droop = none) ∧
    (let s := bedPow (fun x => { x with cyc := 63 }) .run; (s.sq 0).cyc < (s.sq 0).idleSince + 64) ∧
    (let x := (bedPow (fun x => { x with power := .nap, waking := true, droop := some 3, cyc := 73, drth := 0x10000 }) .run).sq 0
     x.power ≠ .run ∧ x.waking = true ∧ x.droop = some 3 ∧ 3 + 70 ≤ x.cyc ∧ x.drth.getLsbD 16 = true) ∧
    (let s := { bedPow (fun x => { x with power := .nap, waking := false, droop := some 3, cyc := 72, drth := 0 }) .run with watches := [⟨0, 0x100, 0x808, 0, 5, true, false⟩] }
     (s.sq 0).power = .nap ∧ s.napEvent 0 = true ∧ (s.sq 0).cyc < 3 + 70 ∧ (s.sq 0).drth.getLsbD 16 = false) ∧
    (bedPow id .brown).brownStart = some 1000 ∧ (bedPow id .sealed).power = .sealed ∧ (bedPow id .off).hubValid = false ∧
    ({ bedPow id .off with hubSeal := Seal.write 0 true } : State).hubValid = true := by decide +kernel

/-- Queue pair 3, enabled, with rings of sixteen entries. -/
def qpOf : Qp := { Qp.reset with sqb := 0x8000, cqb := 0x9000, sql := 4, cql := 4, en := true, ien := true, sqt := 2 }
def bedHost (f : State → State) : State := f { bedPages (bed2 0 0) with qps := vset State.reset.qps 3 qpOf, peers := [1, 3, 5], modn := 2, lup := true }
/-- Whether an access of the host answers with its pieces, or with the cause `c`. -/
def hubOk (s : State) (va m : Nat) : Bool := okAnd (s.hubPieces m va m) (fun l => (l.map (fun p => p.2)).sum == m && l.all (fun p => !s.isBad p.1 p.2))
def hubErr (s : State) (va m : Nat) : Bool := match s.hubPieces m va m with
  | .error (.cause _) => true
  | _ => false

theorem witness_HostAdapter :
    (let s := bedHost id
     s.held = [] ∧ (s.qps[(3 : Fin 16)]).en = true ∧ (s.qps[(2 : Fin 16)]).en = false ∧ hubOk s 0x13E 70 = true ∧ hubErr s 0x20000 8 = true ∧ s.wflt.v = false ∧
       s.winBase.toNat * 2 ^ 36 + 0x13E = 0x13E ∧ (5 : Fin 8) ∈ s.peers ∧ (4 : Fin 8) ∉ s.peers ∧ s.lup = true ∧
       isStored 0x100 = true ∧ unitBase 0x100 ∉ s.bad ∧ isStored (2 ^ 47 + 2 ^ 46) = false) ∧
    (bedHost (fun s => { s with wflt := { s.wflt with v := true } })).wflt.v = true ∧ (bedHost (fun s => { s with lup := false })).lup = false := by decide +kernel

/-- A command of queue pair 3, and its entry in the submission ring with its buffer. -/
def cmdW (l : List Nat) : Vector Word 8 := Vector.ofFn (fun i => word (l.getD i.val 0))
def cmdWith (l : List Nat) (b : List Byte) : Cmd := ⟨3, cmdW l, b⟩
def bedTake (l : List Nat) (buf : List Byte) : State :=
  bedHost (fun s => { s with hostMem := memPut (memPut s.hostMem 0x8000 (l.flatMap (natLE 8 ·))) 0x20000 buf })

theorem witness_CommandsAndCompletions_posts :
    (let s := bedHost id; s.lup = true ∧ s.held = [] ∧ (s.qps[(3 : Fin 16)]).room = true) ∧
    (let s := bedHost (fun s => { s with qps := vset s.qps 3 { qpOf with ctail := 15, cqh := 0 } }); (s.qps[(3 : Fin 16)]).room = false) ∧
    (let s := bedHost (fun s => { s with qps := vset s.qps 3 { qpOf with ctail := 15, cqh := 0 }, held := [⟨3, 0x1234, 5, 6, 7⟩] })
     (∃ h ∈ s.held, h.q = 3) ∧ (∀ h ∈ s.held, (s.qps[h.q]).room = false)) := by decide +kernel
/-- The words of a ring entry as the command's. -/
def entryOf (s : State) : Vector Word 8 := Vector.ofFn (fun i => word (leNat (s.hostB (0x8000 + 8 * i.val) 8)))
theorem witness_CommandsAndCompletions_takes :
    (let s := bedTake [5 * 2 ^ 56] []
     s.cur = none ∧ s.turn = some 3 ∧ s.accepted < 4096 ∧ s.heads[(3 : Fin 16)] = none ∧ entryBad (entryOf s) = false ∧
       okAnd ({ s with round := 4 }.snapshot (entryOf s)) (fun b => b.isEmpty && (entryOf s)[2] == 0) = true) ∧
    entryBad (entryOf (bedTake [0] [])) = true := by decide +kernel
/-- With the link down only heads that wait are examined. -/
theorem witness_CommandsAndCompletions_down :
    (let s := { bedTake [5 * 2 ^ 56] [] with lup := false }; s.lup = false ∧ (∀ n : Fin 16, s.heads[n] = none)) ∧
    (let s := { bedTake [5 * 2 ^ 56] [] with lup := false, heads := vset State.reset.heads 3 (some (cmdWith [5 * 2 ^ 56] [])) }
     s.cur = none ∧ s.turn = some 3 ∧ (s.heads[(3 : Fin 16)]).isSome = true) := by decide +kernel
theorem witness_CommandsAndCompletions_full (n : Nat) (h : 4096 ≤ n) (s : State) :
    ({ s with notifies := List.replicate n default } : State).full = true := by
  simp only [State.full, State.accepted, List.length_replicate, decide_eq_true_eq]
  omega
theorem witness_CommandsAndCompletions_stops :
    (bedHost (fun s => { s with installs := [.patch 3 5 7 [8]] })).admissionStopped = true ∧ (bedHost id).admissionStopped = false ∧
    (∀ n ∈ [2 ^ 56, 3 * 2 ^ 56], let s := { bedTake [n, 0x20000, 296, 0, 0, 0, 5, 0] [] with power := .brown }
      entryBad (entryOf s) = false ∧ s.turn = some 3) := by decide +kernel
theorem witness_CommandsAndCompletions_crc :
    (let s := bedTake [4 * 2 ^ 56 + 2 ^ 48, 0x20000, 32, 0, 0, 0, 5, 0] (natLE 32 7)
     entryBad (entryOf s) = false ∧ (entryOf s)[2] ≠ 0 ∧ okAnd ({ s with round := 4 }.snapshot (entryOf s)) (fun b => crc32c b != (entryOf s)[6].setWidth 32) = true) := by
  decide +kernel

/-- A command under examination. -/
def bedExam (c : Cmd) (f : State → State) : State := bedHost (fun s => f { s with cur := some 3, heads := vset s.heads 3 (some c), now := 5000 })
def examAnd (t k : Nat) (c : Cmd) : Bool := (bedExam c id).exam t k == some c

theorem witness_QueriesAndSignals_queries :
    examAnd 5 0 (cmdWith [5 * 2 ^ 56] []) = true ∧ examAnd 5 0 (cmdWith [5 * 2 ^ 56, 0, 0, 0, 0x30000, 5389] []) = true ∧
    examAnd 5 1 (cmdWith [5 * 2 ^ 56 + 2 ^ 48] []) = true ∧ examAnd 5 3 (cmdWith [5 * 2 ^ 56 + 3 * 2 ^ 48, 0, 0, 0, 0x30000] (natLE 32 7)) = true := by decide +kernel
theorem witness_QueriesAndSignals_signals :
    examAnd 6 0 (cmdWith [6 * 2 ^ 56 + 5 * 2 ^ 36 + 77, 0, 0, 70, 0x108, 9] []) = true ∧
    okAnd ((bedHost id).swapPlace 0x108) (fun _ => true) = true ∧ okAnd ((bedHost id).swapPlace 0x20108) (fun _ => true) = false ∧
    (let s := bedHost (fun s => { s with notifies := [⟨3, 5, 2, 70, 0x108, 1⟩], localF := vset s.localF 2 71 })
     s.notifies[0]? = some ⟨3, 5, 2, 70, 0x108, 1⟩ ∧ (70 : Word) < s.localF[(2 : Fin 8)]) ∧
    examAnd 6 1 (cmdWith [6 * 2 ^ 56 + 2 ^ 48, 0, 0, 0, 0x100, 9] (natLE 8 (2 * 2 ^ 48) ++ natLE 8 (3 * 2 ^ 32) ++ natLE 12 6)) = true ∧
    headOk (word (2 * 2 ^ 48)) (word (3 * 2 ^ 32)) 28 = true ∧ headOk (word (2 * 2 ^ 48)) (word (3 * 2 ^ 32)) 29 = false := by decide +kernel
theorem witness_QueriesAndSignals_fails :
    (match (bedHost id).swapPlace 0x20108 with
      | .error (.cause _) => true
      | _ => false) = true ∧
    (match (bedHost id).hubWrite 0x20100 (natLE 12 5) with
      | .error (.cause _) => true
      | _ => false) = true := by decide +kernel
theorem witness_QueriesAndSignals_combines :
    (let r : Reduce := ⟨3, 5, 6, word (2 * 2 ^ 48), 7, [1, 2, 3], 0x100⟩
     let s := bedHost (fun s => { s with reduces := [r] })
     let os : List (Fin 8 × Word × Word × List Lane) := [(3, r.head, r.head1, [4, 5, 6])]
     s.reduces[0]? = some r ∧ (∀ o ∈ os, o.1 ∈ s.peers) ∧ os.length + 1 = bits r.head 48 8 ∧
       okAnd ({ s with reduces := [] }.hubWrite 0x100 ((reduceAll false [r.elems, [4, 5, 6]]).flatMap (fun (x : Lane) => natLE 4 x.toNat))) (fun _ => true) = true) := by
  decide +kernel

/-- An INVOKE of residence 3, whose scheduled priority is `pri` and whose deadline is `dl`. -/
def invokeOf (dl : Nat) : Cmd := cmdWith [3 * 2 ^ 56 + 3 * 2 ^ 40 + 99, 0, 0, dl] (([5 * 2 ^ 32, 0, 0, 100] ++ List.replicate 33 0).flatMap (natLE 8 ·))
def resOf (pri : Nat) : Residence :=
  { (default : Residence) with num := 3, entry := 0x40000, sched := [2 ^ 48, 1000, pri * 2 ^ 60 + 0x102, 0, 0, 0, 3 * 2 ^ 48 + 2 ^ 32, 0, 0, 0, 100, 20, 30, 40, 50, 60, 70, 80].flatMap (natLE 8 ·) }
def bedInvoke (pri dl : Nat) (f : State → State) : State := bedExam (invokeOf dl) (fun s => f { s with residences := [(3, some (resOf pri))] })
/-- An UNLOAD of residence 3. -/
def unloadOf (force : Nat) : Cmd := cmdWith [2 * 2 ^ 56 + 3 * 2 ^ 40 + force * 2 ^ 39 + 99] []
/-- Whether the checks of an INVOKE answer with what satisfies `p`. -/
def checksAnd (pri dl : Nat) (f : State → State) (p : State → Checked → Bool) : Bool :=
  let s := bedInvoke pri dl f
  s.exam 3 0 == some (invokeOf dl) && !s.invokeHeld (invokeOf dl).res && !s.behindUnload (invokeOf dl) && (match s.invChecks (invokeOf dl) with
    | .ok x => x.rec_.pri == pri && p s x
    | .error _ => false)

theorem witness_InvocationsAreAdmitted_accepted :
    checksAnd 1 0 id (fun s x => (s.reserve x.rec_.rect).isSome) = true ∧
    checksAnd 3 100000000 id (fun s x => (s.reserve x.rec_.rect).isSome && decide (s.now + s.backlog x.rec_.rect + x.bound ≤ 100000000)) = true := by decide +kernel
theorem witness_InvocationsAreAdmitted_refused :
    checksAnd 3 4999 id (fun s x => (s.reserve x.rec_.rect).isSome && decide (4999 < s.now + s.backlog x.rec_.rect + x.bound)) = true ∧
    checksAnd 3 100000000 (fun s => s.modSq 1 (fun x => { x with launchQ := (List.range 16).map (fun k => { (default : LRec) with place := k }) }))
      (fun s x => (s.reserve x.rec_.rect).isNone) = true ∧
    (let s := bedInvoke 1 5 id; okAnd (s.invChecks (invokeOf 5)) (fun _ => true) = false) := by decide +kernel
theorem witness_InvocationsAreAdmitted_held :
    (bedInvoke 1 5 (fun s => { s with installs := [.image 3 5 3 [] [] []] })).invokeHeld (invokeOf 5).res = true ∧
    (let s := bedInvoke 1 5 (fun s => { s with unloads := [5], heads := vset s.heads 5 (some { unloadOf 1 with q := 5 }) })
     s.behindUnload (invokeOf 5) = true ∧ s.unloading 3 = true) ∧
    (let i := { invOf 7 false [] 9 with ended := [⟨5, 4, 0, 0x12D⟩] }
     (bedHost id).endsReported i = true ∧ ((bedHost id).modSq 4 (fun x => { x with owed := [.accept 1] })).endsReported i = false) := by decide +kernel
theorem witness_InvocationsAreAdmitted_completes :
    (let s := bedHost (fun s => { s with invs := [invOf 7 false [] 9, invOf 8 false [3] 9], localF := Vector.replicate 8 10 })
     s.invs.find? (fun j => j.id == 7) = some (invOf 7 false [] 9) ∧ (invOf 7 false [] 9).words.tend < s.localF[(invOf 7 false [] 9).words.scope] ∧
       s.invs.find? (fun j => j.id == 8) = some (invOf 8 false [3] 9)) := by decide +kernel

/-! ## Images (03 R66 to R71) -/

def secB (name kind align size off : Nat) : List Byte := natLE 4 name ++ natLE 2 kind ++ natLE 1 align ++ natLE 1 0 ++ natLE 8 size ++ natLE 8 off ++ natLE 8 0
def symB (sec value size : Nat) : List Byte := natLE 4 0 ++ natLE 2 sec ++ natLE 2 0 ++ natLE 8 value ++ natLE 8 size
def relB (off kind sym add : Nat) : List Byte := natLE 8 off ++ natLE 2 0 ++ natLE 2 kind ++ natLE 4 sym ++ natLE 8 add
def schedB (pri : Nat) : List Byte :=
  [2 ^ 48, 1000, pri * 2 ^ 60 + 0x102, 0, 0, 0, 3 * 2 ^ 48 + 2 ^ 32, 0, 0, 0, 100, 20, 30, 40, 50, 60, 70, 80].flatMap (natLE 8 ·)
/-- An image of a code or data section and a schedule, with one relocation of kind `kind`, to be loaded, and one to update with; both end in the
string table, padding and the room of the signatures. -/
def loadImage (kind : Nat) : List Byte :=
  natLE 4 0x4F474E ++ natLE 2 1 ++ natLE 2 1 ++ natLE 2 9 ++ natLE 2 2 ++ natLE 4 3 ++ natLE 4 1 ++ natLE 4 8 ++ natLE 8 64 ++ natLE 8 128 ++ natLE 8 200 ++
    natLE 8 400 ++ natLE 8 224 ++ secB 0 0 4 16 232 ++ secB 1 5 3 144 248 ++ symB 0xFFF2 4 1 ++ symB 0 4 8 ++ symB 0xFFF1 0x070302 0 ++ relB 8 kind 1 5 ++
    List.replicate 8 65 ++ natLE 8 0x1111 ++ natLE 8 0x2222 ++ schedB 1 ++ List.replicate 3381 0
def updImage (sec : Nat) : List Byte :=
  natLE 4 0x4F474E ++ natLE 2 1 ++ natLE 2 1 ++ natLE 2 9 ++ natLE 2 2 ++ natLE 4 2 ++ natLE 4 1 ++ natLE 4 8 ++ natLE 8 64 ++ natLE 8 128 ++ natLE 8 176 ++
    natLE 8 400 ++ natLE 8 200 ++ secB 0 sec 4 16 208 ++ secB 1 5 3 144 224 ++ symB 0 4 8 ++ symB 0xFFF1 0x070302 0 ++ relB 8 1 0 5 ++
    List.replicate 8 65 ++ natLE 8 0x1111 ++ natLE 8 0x2222 ++ schedB 2 ++ List.replicate 3405 0
/-- A LOAD of residence 3 under examination. -/
def loadOf (b : List Byte) : Cmd := cmdWith [2 ^ 56 + 3 * 2 ^ 40 + 99, 0, b.length, 0] b
def bedImg (c : Cmd) (f : State → State) : State := bedExam c (fun s => f { s with keySlots := vset s.keySlots 2 (some 5) })

theorem witness_Residences_signatures : (bedImg (loadOf []) (fun s => { s with keySlots := Vector.replicate 8 none })).imageSigned (loadImage 1) = false ∧
    parseImage [] = none := by decide +kernel
/-- Whether signatures verify is free (log 8): they may. -/
theorem witness_Residences_signed (h : ∀ ml k m g, Config.signatureOk ml k m g = true) : (bedImg (loadOf (loadImage 1)) id).imageSigned (loadImage 1) = true := by
  have e : (bedImg (loadOf (loadImage 1)) id).keySlots = vset State.reset.keySlots 2 (some 5) := rfl
  have l : decide (le (loadImage 1) 48 8 + 3373 ≤ (loadImage 1).length) = true := by decide +kernel
  simp only [State.imageSigned, e, l, h]
  decide +kernel
/-- The placement of the sections, and the frames of their pages and their shadows. -/
def placeOf1 : Placement := ⟨[0x100000, 0x200000, mramBase 0, mramBase 1], [0x10000, 0x30000]⟩
def imgAnd (b : List Byte) (p : Image0 → Bool) : Bool := match parseImage b with
  | some m => p m
  | none => false
theorem witness_Residences_load :
    imgAnd (loadImage 1) (fun m => let s := bedImg (loadOf (loadImage 1)) id; let placed := List.zip m.secs placeOf1.vas; let maps := secMaps 3 placed placeOf1.frames
      let nums := m.rangeNums []
      !s.admissionStopped && !s.behindUnload (loadOf []) && m.ok true && !s.taken 3 && placeOf1.vas.length == m.secs.length &&
        s.placementFits placed placeOf1.frames (fun _ => false) &&
        placeRanges m nums placed maps == some [] && s.edgesFit (edgesOf (schedOf m.secs)) && s.pinsFit maps &&
        s.regionsFit (regionPlaces m (schedOf (m.staged placeOf1.vas nums)) 3) &&
        (match m.relocate placeOf1.vas nums with
          | some secs => (s.imageRegions m (schedOf secs) 3).isSome && s.boundsFit { resOf 1 with sched := schedOf secs }
          | none => false)) = true := by decide +kernel
/-- An image with a region in its schedule, whose lock word lies in space 0 at 0x9000. -/
def regImage : List Byte :=
  natLE 4 0x4F474E ++ natLE 2 1 ++ natLE 2 1 ++ natLE 2 9 ++ natLE 2 2 ++ natLE 4 4 ++ natLE 4 1 ++ natLE 4 8 ++ natLE 8 64 ++ natLE 8 128 ++ natLE 8 224 ++
    natLE 8 464 ++ natLE 8 248 ++ secB 0 0 4 16 256 ++ secB 1 5 3 192 272 ++ symB 0xFFF2 4 1 ++ symB 0 4 8 ++ symB 0xFFF1 0x070302 0 ++ symB 0xFFF0 160 32 ++
    relB 8 1 1 5 ++ List.replicate 8 65 ++ natLE 8 0x1111 ++ natLE 8 0x2222 ++ schedB 1 ++
    [0, 0, 0x1000, 0x400, 2 ^ 62 + 0x9000, 8].flatMap (natLE 8 ·) ++ List.replicate 3373 0
theorem witness_Residences_regions :
    imgAnd regImage (fun m =>
      let s := bedImg (loadOf regImage) (fun s => { s with regions := [(1, some (rgn 0 0x9000 0x200 true))] })
      m.ok true && (match m.relocate placeOf1.vas (m.rangeNums []) with
        | some secs => (s.imageRegions m (schedOf secs) 3).isNone && ((bedImg (loadOf regImage) id).imageRegions m (schedOf secs) 3).isSome &&
          !({ s with residences := [(4, some { (default : Residence) with sched := natLE 16 (2 ^ 127) })] } : State).boundsFit { resOf 1 with sched := schedOf secs } &&
          !({ s with regions := [(1, some (rgn 0 0x1200 0x200 false))] } : State).regionsFit (regionPlaces m (schedOf (m.staged placeOf1.vas (m.rangeNums []))) 3)
        | none => false)) = true := by decide +kernel
theorem witness_Residences_exam : (bedImg (loadOf (loadImage 1)) id).exam 1 0 = some (loadOf (loadImage 1)) ∧
    (bedImg (loadOf []) (fun s => { s with installs := [.patch 3 5 7 [8]] })).admissionStopped = true := by decide +kernel
theorem witness_Residences_refused :
    imgAnd (loadImage 4) (fun m => m.ok true && (m.relocate placeOf1.vas (m.rangeNums [])).isNone) = true ∧ imgAnd (updImage 0) (fun m => !m.ok true) = true ∧
    (bedImg (loadOf []) (fun s => { s with residences := [(3, some (resOf 1))] })).taken 3 = true := by decide +kernel
/-- The residence that the image makes, its pages, and a state in which it is PRESENT. -/
def resLoaded : Residence :=
  { resOf 1 with num := 3, secs := [⟨0, 0x10000, 16, [], [mramBase 0]⟩, ⟨5, 0x30000, 144, [], [mramBase 1]⟩] }
def mapsLoaded : List Mapping := [⟨0x10000, false, 0x100000, 3, true, false, true, false, false⟩, ⟨0x30000, false, 0x200000, 3, false, false, true, false, false⟩]
def bedLoaded (c : Cmd) (f : State → State) : State := bedImg c (fun s => f { s with residences := [(3, some resLoaded)], maps := mapsLoaded })
theorem witness_Residences_install :
    (let s := bedImg (loadOf []) (fun s => { s with installs := [.load 3 5 resLoaded mapsLoaded [rgn 0 0x1000 0x400 true]] })
     s.installs[0]? = some (.load 3 5 resLoaded mapsLoaded [rgn 0 0x1000 0x400 true]) ∧
       s.journalsFree (Install.frames (.load 3 5 resLoaded mapsLoaded [rgn 0 0x1000 0x400 true])) = true ∧ s.regionList = [] ∧
       (({ s with installs := [] } : State).program resLoaded.secs mapsLoaded).1 = none) := by decide +kernel
/-- A section whose shadow has a worn page. -/
def secWorn : Sec := ⟨0, 0x10000, 8, [1, 2, 3], [mramBase 0]⟩
theorem witness_Residences_worn :
    (({ bedImg (loadOf []) id with wear := [(mramBase 0 / 4096, wornAt)] } : State).program [secWorn] mapsLoaded).1.isSome = true := by decide +kernel
theorem witness_Residences_unload :
    (let s := bedLoaded (unloadOf 1) id
     s.exam 2 0 = some (unloadOf 1) ∧ s.behindUnload (unloadOf 1) = false ∧ (unloadOf 1).res = 3 ∧ s.residence 3 = some resLoaded ∧ resLoaded.num = 3 ∧ (unloadOf 1).w[0].getLsbD 39 = true ∧
       (unloadOf 0).w[0].getLsbD 39 = false ∧ s.referenced 3 = false ∧ s.contextsOf 3 = 0 ∧ s.invs = []) ∧
    (let s := (bedLoaded (unloadOf 1) id).modMe (fun x => { x with res := 3 })
     (s.ctx 0 (tileCx 0)).st ≠ .free ∧ (s.ctx 0 (tileCx 0)).res = 3 ∧ (s.ctx 0 (tileCx 0)).endCause = none ∧ s.committing 0 (tileCx 0) = false) ∧
    (bedLoaded (unloadOf 1) (fun s => { s with unloads := [5], heads := vset s.heads 5 (some { unloadOf 1 with q := 5 }) })).behindUnload (unloadOf 1) = true ∧
    (let s := (bedLoaded (unloadOf 0) id).modMe (fun x => { x with res := 3 }); s.referenced 3 = true) ∧ (bedExam (unloadOf 0) id).residence 3 = none := by decide +kernel
/-- An invocation of residence 3, posted to square 4 alone, which waits for squares 4 and 5. -/
def invGone (b : Bool) (ws : List Sq) (e : List TaskEnd) : Inv := { invOf 7 true ws 9 with res := 3, begun := b, ended := e }
theorem witness_Residences_force :
    (let s := bedLoaded (unloadOf 1) (fun s => { s with lup := false, invs := [invGone true [] [⟨5, 4, 0, 0x12D⟩]] })
     s.exam 2 0 = some (unloadOf 1) ∧ s.contextsOf 3 = 0 ∧ (∀ q : Sq, (s.sq q).launchQ = []) ∧ s.lup = false ∧
       (∀ j ∈ s.invs, j.res = 3 ∧ s.endsReported j = true ∧ j.halt.waiting = []) ∧ (invGone true [] [⟨5, 4, 0, 0x12D⟩]).ended ≠ []) ∧
    ({ invGone true [4, 5] [] with unposted := [(5, 0)] } : Inv).halt.waiting = [4] ∧ (invGone false [] []).ended = [] ∧ (invGone false [] []).begun = false := by
  decide +kernel
/-- The example of FIPS 180-4 for SHA-384: the digest of "abc". -/
theorem test_sha384_abc : sha384 [0x61, 0x62, 0x63] =
    (natLE 48 0xcb00753f45a35e8bb5a03d699ac65007272c32ab0eded1631a8b605a43ff5bed8086072ba1e7cc2358baeca134c825a7).reverse := by decide +kernel

/-- Commands of UPDATE. -/
def updOf (k : Nat) (b : List Byte) : Cmd := cmdWith [4 * 2 ^ 56 + k * 2 ^ 48 + 3 * 2 ^ 40 + 99, 0, b.length, 0] b
theorem witness_UpdatesCommit_image :
    imgAnd (updImage 1) (fun m =>
      let s := bedLoaded (updOf 0 (updImage 1)) id
      let r := resLoaded
      let p : Placement := ⟨[0x300000, 0x400000, mramBase 0 + 0x10000, mramBase 1 + 0x10000], [0x50000, 0x60000]⟩
      let vas := updateVas (s.merged r).secs m.secs p.vas
      let nums := m.rangeNums (s.merged r).ranges
      let placed := List.zip m.secs vas
      let olds := r.secs ++ (s.updatesOf 3).flatMap Install.secs
      let own := fun (k : Mapping) => (s.mapsOf r.secs ++ (s.updatesOf 3).flatMap Install.maps).contains k &&
        placed.any (fun e => olds.any (fun y => y.kind == e.1.kind && y.va == e.2 && y.owns k))
      m.ok false && !s.referenced 3 && s.placementFits placed p.frames own && placeRanges m nums placed (secMaps 3 placed p.frames) == some [] &&
        !s.admissionStopped && !s.behindUnload (updOf 0 []) && s.pinsFit (secMaps 3 placed p.frames) && (match m.relocate vas nums with
          | some secs => s.boundsFit ((s.merged r).merge (secsOf secs vas (shadowsOf p m.secs)) [])
          | none => false)) = true ∧
    imgAnd (updImage 0) (fun m => m.ok false && m.code) = true := by decide +kernel
theorem witness_UpdatesCommit_exam : (bedLoaded (updOf 0 (updImage 1)) id).exam 4 0 = some (updOf 0 (updImage 1)) := by decide +kernel
theorem witness_UpdatesCommit_install :
    (let i : Install := .image 3 5 3 resLoaded.secs [] mapsLoaded
     let s := bedLoaded (updOf 0 []) (fun s => { s with installs := [i, .image 3 6 3 [] [] []] })
     s.installs[0]? = some i ∧ s.residence 3 = some resLoaded ∧ resLoaded.num = 3 ∧ s.invs = [] ∧ s.unloading 3 = false ∧
       s.journalsFree (Install.frames i) = true ∧ (s.updatesOf 3).head? = s.installs[0]? ∧ (s.updatesOf 3).head? ≠ s.installs[1]? ∧
       (s.program resLoaded.secs mapsLoaded).1 = none) ∧
    (bedLoaded (unloadOf 1) (fun s => { s with unloads := [3] })).unloading 3 = true := by decide +kernel
/-- A patch package of level `l`. -/
def patchB (l : Nat) : List Byte := natLE 2 9 ++ natLE 1 1 ++ [0] ++ natLE 2 l ++ [0, 0] ++ natLE 8 8 ++ List.replicate 3381 9
theorem witness_UpdatesCommit_patch :
    (let s := bedImg (updOf 2 (patchB 5)) (fun s => { s with patchLevel := 4, patchFloor := 4 })
     s.exam 4 2 = some (updOf 2 (patchB 5)) ∧ 16 + le (patchB 5) 8 8 + 3373 ≤ (patchB 5).length ∧ le (patchB 5) 0 2 = 9 ∧ le (patchB 5) 2 1 = 1 ∧
       s.admissionStopped = false ∧ s.patchLevel.toNat < le (patchB 5) 4 2 ∧ s.patchFloor.toNat < le (patchB 5) 4 2 ∧
       le (patchB 4) 4 2 ≤ s.patchLevel.toNat) ∧
    (∀ n ∈ [1, 2], let s := bedImg (updOf 2 []) (fun s => { s with installs := List.replicate n (.patch 3 5 7 [8]), notifies := [], reduces := [], invs := [] })
     s.installs[0]? = some (.patch 3 5 7 [8]) ∧ s.installs.length = n ∧ s.notifies = [] ∧ s.reduces = [] ∧ s.invs = []) := by decide +kernel
/-- MAP records. -/
def mapB (base size w2 : Nat) : List Byte := natLE 8 base ++ natLE 8 size ++ natLE 8 w2 ++ natLE 8 0
theorem witness_UpdatesCommit_map :
    (let b := mapB 0x700000 0x20000 0x70
     let s := bedImg (updOf 1 b) id
     let recs := mapRecs b
     let pages := recs.flatMap (fun e => e.pages.map (fun va => (e, va)))
     let need := pages.filter (fun e => s.needsFrame e.1 e.2)
     let l := List.zip [0x70000, 0x80000] need
     s.exam 4 1 = some (updOf 1 b) ∧ recs.length = 1 ∧ (∀ e ∈ recs, s.mapBad e = false) ∧ need.length = 2 ∧ s.pinRoom .hbm 0 = true ∧ s.pinRoom .lpddr 0 = true ∧
       l.Pairwise (fun a b => a.1 + pageSize a.2.1.big ≤ b.1 ∨ b.1 + pageSize b.2.1.big ≤ a.1) ∧
       (∀ e ∈ l, s.frameSuits e.1 e.2.1.big e.2.1.toTier = true) ∧ s.maps = []) ∧
    (∃ e ∈ mapRecs (mapB 0x700000 0x20001 0x70), (bedHost id).mapBad e = true) := by decide +kernel

/-! ## Steps, words and the invariant -/

/-- ADD s3, s1, s2 in the next step, and what the statement asks of the state in which it issues. -/
def bedStep : State := State.reset.withFetchWord 32 0x00611040
def readyOf (m : State) : Bool :=
  m.me.records.isEmpty && !m.me.q0.nul && !m.exceeds 1 m.me.instrs && (match m.fetch m.fsq m.fcx m.me.q0.pc.toNat with
    | .word bs u => bs == wordBytes 0x00611040 && !formDenied u.isF (.add 3 1 2) && !u.me.hazard (.add 3 1 2) && !u.heldBack (.add 3 1 2)
    | _ => false)
/-- The state in which what an occurrence brings happens. -/
def stepAt (s : State) : Occ × State := let x := s.nextOcc; (x.1, (x.2.passTime x.1).noteIdle x.1.what)
theorem witness_StepRunsTheDecodedInstruction_active :
    (let x := stepAt bedStep; let p := x.2
     x.1.what = .issue 0 ∧ p.coreRuns 0 = true ∧ (p.sq 0).service = none ∧ (p.ctx 0 8).waits = false ∧ (p.sq 0).active = some 0 ∧
       (p.ctx 0 (tileCx 0)).waits = false ∧ readyOf (p.focus 0 (tileCx 0)) = true) ∧ decodeBytes (wordBytes 0x00611040) = some (.ok (.add 3 1 2), []) := by decide +kernel
theorem witness_StepRunsTheDecodedInstruction_chosen :
    (let s := (bedStep.modCtx 0 0 (fun x => { x with st := .ready, hold := false })).modSq 0 (fun x => { x with active := none })
     let p := (stepAt s).2
     (p.sq 0).active = none ∧ (p.sq 0).choose = some 0 ∧ readyOf ((p.activate 0 0).focus 0 (tileCx 0)) = true) := by decide +kernel
/-- The same for context F in its share. -/
def bedStepF : State := State.reset.placeWord 8 (wordBytes 0x00611040)
theorem witness_StepRunsTheDecodedInstruction_firmware :
    (let x := stepAt bedStepF; let p := x.2
     x.1.what = .issueF 0 ∧ p.coreRuns 0 = true ∧ (p.ctx 0 8).waits = false ∧ (p.sq 0).service = none ∧ (p.sq 0).active = none ∧
       (∀ k : Fin 8, (p.sq 0).runnable k = false) ∧ readyOf (p.focus 0 8) = true) ∧
    (let s := bedStepF.modSq 0 (fun x => { x with active := some 2 }); let p := (stepAt s).2
     (p.sq 0).active ≠ none ∧ (p.sq 0).fburst ≠ 0 ∧ (p.sq 0).fcred ≠ 0 ∧ readyOf (p.focus 0 8) = true) := by decide +kernel
theorem witness_StepRunsTheDecodedInstruction_service :
    (let s := bedStepF.modSq 0 (fun x => { x with active := some 2, service := some (2, 15) }); let p := (stepAt s).2
     (p.sq 0).service = some (2, 15) ∧ (15 : Nat) < 16 ∧ readyOf (p.focus 0 8) = true) := by decide +kernel
/-- A privileged word in a tile context, which check 4 refuses, and a record that a handler keeps waiting. -/
theorem witness_StepRunsTheDecodedInstruction_denied : formDenied false (.psNap 3) = true ∧
    (let m := (bed2 0 0).modMe (fun x => { x with records := [default], thnd := 3 }); m.isF = false ∧ m.me.inh = true) := by decide +kernel
theorem witness_StepRunsTheDecodedInstruction_event :
    (let s := { State.reset with agenda := [{ ns := 7, cycles := 1, what := .event .wfltClear }] }; let x := stepAt s; let p := x.2
     x.1.what = .event .wfltClear ∧ p.allows (scene .wfltClear) = true ∧ p.admits .wfltClear = true) ∧
    (let s := { State.reset with agenda := [{ ns := 7, cycles := 1, what := .event .linkRestore }], power := .off }; let x := stepAt s; let p := x.2
     x.1.what = .event .linkRestore ∧ p.allows (scene .linkRestore) = false) := by decide +kernel

theorem witness_DecodingInvertsEncoding : (Instr.addi 4 4 0xFFFF).wf = true ∧ encode (.addi 4 4 0xFFFF) = some 0x0484FFFF ∧
    decode 0x0484FFFF = .ok (.addi 4 4 0xFFFF) := by decide +kernel
theorem witness_FrameOfRegisterInstructions : nextAnd (exec (.add 3 1 2) (bed2 5 7)) (fun t => (t.rs 3).toNat == 12) = true := by decide +kernel
theorem witness_StepsKeepTheInvariant : bedStep.Inv ∧ nextAnd (step bedStep) (fun _ => true) = true :=
  ⟨⟨by decide +kernel, by decide +kernel⟩, by decide +kernel⟩
theorem witness_OnlyFirmwareMovesTheRoot : (bedF 0x5000 0).fcx = 8 ∧
    nextAnd (exec (.mts 1 0x301) (bedF 0x5000 0)) (fun t => t.ptbr != (bedF 0x5000 0).ptbr) = true := by decide +kernel
theorem witness_OnlyFirmwareMovesTheRoot_cold :
    ∀ x ∈ [(Instr.coldStart, PkgPower.off), (.resumption, .off), (.mresetGo, .run), (.hostRegisterWrite 0x8 1, .run)],
      nextAnd (exec x.1 { bedPow id x.2 with ptbr := 0x5000 }) (fun t => t.ptbr == 0) = true := by decide +kernel

end Sys2Proof.Machine
end

/-! PROOFS. What each part of the state holds after a cold start (00 R7), and the reset values of the spec's tables. -/

section

namespace Sys2Proof.Machine

/-! ## The parts of `State.reset` -/

@[simp] theorem State.reset_sq (q : Sq) : State.reset.sq q = Square.reset := by
  simp [State.sq, State.reset]

@[simp] theorem State.reset_ctx (q : Sq) (c : Cx) : State.reset.ctx q c = Ctx.reset := by
  simp [State.ctx, Square.reset]

@[simp] theorem State.reset_core (q : Sq) (v : Vc) : State.reset.core q v = VCore.reset := by
  simp [State.core, Square.reset]

@[simp] theorem State.reset_qps (n : Fin 16) : State.reset.qps[n] = Qp.reset := by
  simp [State.reset]

/-- 11 R263: every square starts with ⊤ as the frontier last received of every scope. -/
@[simp] theorem State.reset_localF (n : Fin 8) : State.reset.localF[n] = top := by
  simp [State.reset, top]

/-- 11 R262: a root table that lists no time leaves every scope at ⊤. -/
theorem State.frontier_of_root_nil (s : State) (n : Fin 8) (h : s.root = []) : s.frontier n = top := by
  simp [State.frontier, h]

@[simp] theorem State.reset_frontier (n : Fin 8) : State.reset.frontier n = top :=
  State.frontier_of_root_nil State.reset n rfl

/-! ## Reset values -/

/-- Settles O53: square by square, context by context and core by core from the parts of the reset state; the registers of the package are fields of
`State.reset`. -/
theorem resetValues : Obligations.ResetValues := by
  unfold Obligations.ResetValues
  refine ⟨fun q => ?square, rfl, rfl, fun n => ?frontiers, rfl, rfl, rfl, fun n => ?queuePairs, rfl⟩
  case square =>
    rw [State.reset_sq]
    refine ⟨rfl, rfl, rfl, rfl, rfl, rfl, fun c => ?context, fun v => ?core⟩
    case context =>
      rw [State.reset_ctx]
      exact ⟨rfl, rfl, rfl, rfl, rfl, rfl, rfl, rfl, rfl, rfl, rfl, rfl, rfl, rfl⟩
    case core =>
      rw [State.reset_core]
      exact ⟨rfl, rfl⟩
  case frontiers =>
    rw [State.reset_localF, State.reset_frontier]
    exact ⟨rfl, rfl⟩
  case queuePairs =>
    rw [State.reset_qps]
    exact ⟨rfl, rfl, rfl, rfl⟩

end Sys2Proof.Machine

end

/-! PROOFS. Words and instructions (02 R28 to R41): the fields of each instruction's word, read by the decoder and placed by the encoder. -/

section

namespace Sys2Proof.Laws.Words

/-! ## Words as fields -/

/-- The value of a word whose fields, from bit 0 up, have these widths and values. -/
def pack : List (Nat × Nat) → Nat
  | [] => 0
  | (n, v) :: t => v + 2 ^ n * pack t

/-- Whether `w` shows, from bit `lo` up, fields of these widths and values, and zeros above them. -/
def Shows (w : Nat) : Nat → List (Nat × Nat) → Prop
  | lo, [] => w / 2 ^ lo = 0
  | lo, (n, v) :: t => fld w lo n = v ∧ Shows w (lo + n) t

theorem div_eq_fld_add (w lo n : Nat) : w / 2 ^ lo = fld w lo n + 2 ^ n * (w / 2 ^ (lo + n)) := by
  rw [fld, Nat.pow_add, ← Nat.div_div_eq_div_mul, Nat.mod_add_div]

theorem pack_of_shows {w : Nat} : ∀ {l : List (Nat × Nat)} {lo : Nat}, Shows w lo l → w / 2 ^ lo = pack l
  | [], _, h => h
  | (n, v) :: t, lo, h => by
    rw [div_eq_fld_add w lo n, h.1, pack_of_shows h.2, pack]

/-- A word is packed from values that fit their fields, and reading each field gives its value back. -/
theorem shows_of_pack {w : Nat} : ∀ {l : List (Nat × Nat)} {lo : Nat}, (∀ p ∈ l, p.2 < 2 ^ p.1) → w / 2 ^ lo = pack l → Shows w lo l
  | [], _, _, h => h
  | (n, v) :: t, lo, hb, h => by
    have hv : v < 2 ^ n := hb (n, v) List.mem_cons_self
    rw [pack] at h
    refine ⟨?_, shows_of_pack (fun p hp => hb p (List.mem_cons_of_mem _ hp)) ?_⟩
    · rw [fld, h, Nat.add_mul_mod_self_left, Nat.mod_eq_of_lt hv]
    · rw [Nat.pow_add, ← Nat.div_div_eq_div_mul, h, Nat.add_mul_div_left _ _ (Nat.two_pow_pos n), Nat.div_eq_of_lt hv, Nat.zero_add]

/-- A packed word is no longer than its fields. -/
theorem pack_lt : ∀ {l : List (Nat × Nat)}, (∀ p ∈ l, p.2 < 2 ^ p.1) → pack l < 2 ^ (l.map (·.1)).sum
  | [], _ => Nat.one_pos
  | (n, v) :: t, hb => by
    have hv : v < 2 ^ n := hb (n, v) List.mem_cons_self
    have ht : pack t < 2 ^ (t.map (·.1)).sum := pack_lt fun p hp => hb p (List.mem_cons_of_mem _ hp)
    calc v + 2 ^ n * pack t < 2 ^ n * (pack t + 1) := by rw [Nat.mul_add_one]; omega
      _ ≤ 2 ^ n * 2 ^ (t.map (·.1)).sum := Nat.mul_le_mul_left _ ht
      _ = 2 ^ (((n, v) :: t).map (·.1)).sum := by rw [← Nat.pow_add, List.map_cons, List.sum_cons]

/-! ## The fields of each word (02 R29 to R36, Tables 2-1 and 2-3) -/

/-- Three registers, an operation and the low six bits. -/
def fieldsR (op fn d a b z : Nat) : List (Nat × Nat) := [(6, z), (5, fn), (5, b), (5, a), (5, d), (6, op)]
/-- A destination, an operation and nothing else. -/
def fieldsD (op fn d : Nat) : List (Nat × Nat) := [(6, 0), (5, fn), (10, 0), (5, d), (6, op)]
/-- Two registers and a 16-bit immediate. -/
def fieldsI (op d a i : Nat) : List (Nat × Nat) := [(16, i), (5, a), (5, d), (6, op)]
/-- A predicate, a register and a 16-bit immediate. -/
def fieldsPI (op p a i : Nat) : List (Nat × Nat) := [(16, i), (5, a), (3, p), (2, 0), (6, op)]
/-- A register, a base register, a space and a 14-bit offset. -/
def fieldsM (op d b s o : Nat) : List (Nat × Nat) := [(14, o), (2, s), (5, b), (5, d), (6, op)]
/-- A predicate from two registers. -/
def fieldsP (fn p a b : Nat) : List (Nat × Nat) := [(6, 0), (5, fn), (5, b), (5, a), (3, p), (2, 0), (6, 0x08)]
/-- A predicate from two predicates. -/
def fieldsPP (fn d a b : Nat) : List (Nat × Nat) := [(6, 0), (5, fn), (3, b), (2, 0), (3, a), (2, 0), (3, d), (2, 0), (6, 0x08)]
/-- An atomic: three registers, a space and a size. -/
def fieldsA (fn d a b s z : Nat) : List (Nat × Nat) := [(2, 0), (1, z), (1, 1), (2, s), (5, fn), (5, b), (5, a), (5, d), (6, 0x16)]
/-- A jump through a register. -/
def fieldsJ (k d a : Nat) : List (Nat × Nat) := [(2, k), (14, 0), (5, a), (5, d), (6, 0x1A)]
/-- A time register, a register and a scope. -/
def fieldsT (fn a b n : Nat) : List (Nat × Nat) := [(3, 0), (3, n), (5, fn), (5, b), (2, a), (8, 0), (6, 0x1C)]
/-- An operation on a context. -/
def fieldsC (fn d a : Nat) : List (Nat × Nat) := [(12, 0), (4, fn), (5, a), (5, d), (6, 0x35)]

open Instr in
/-- The fields of the word of an instruction that has one. -/
def fields : Instr → Option (List (Nat × Nat))
  | add d a b => some (fieldsR 0x00 1 d a b 0)
  | sub d a b => some (fieldsR 0x00 2 d a b 0)
  | .and d a b => some (fieldsR 0x00 3 d a b 0)
  | .or d a b => some (fieldsR 0x00 4 d a b 0)
  | .xor d a b => some (fieldsR 0x00 5 d a b 0)
  | andn d a b => some (fieldsR 0x00 6 d a b 0)
  | shl d a b => some (fieldsR 0x00 7 d a b 0)
  | shr d a b => some (fieldsR 0x00 8 d a b 0)
  | sra d a b => some (fieldsR 0x00 9 d a b 0)
  | ror d a b => some (fieldsR 0x00 10 d a b 0)
  | shli d a h => some (fieldsR 0x00 11 d a 0 h)
  | shri d a h => some (fieldsR 0x00 12 d a 0 h)
  | srai d a h => some (fieldsR 0x00 13 d a 0 h)
  | rori d a h => some (fieldsR 0x00 14 d a 0 h)
  | mul d a b => some (fieldsR 0x00 15 d a b 0)
  | mulh d a b => some (fieldsR 0x00 16 d a b 0)
  | mulhu d a b => some (fieldsR 0x00 17 d a b 0)
  | div d a b => some (fieldsR 0x00 18 d a b 0)
  | divu d a b => some (fieldsR 0x00 19 d a b 0)
  | rem d a b => some (fieldsR 0x00 20 d a b 0)
  | remu d a b => some (fieldsR 0x00 21 d a b 0)
  | .min d a b => some (fieldsR 0x00 22 d a b 0)
  | .max d a b => some (fieldsR 0x00 23 d a b 0)
  | minu d a b => some (fieldsR 0x00 24 d a b 0)
  | maxu d a b => some (fieldsR 0x00 25 d a b 0)
  | slt d a b => some (fieldsR 0x00 26 d a b 0)
  | sltu d a b => some (fieldsR 0x00 27 d a b 0)
  | sext d a n => some (fieldsR 0x00 28 d a 0 n)
  | clz d a => some (fieldsR 0x00 29 d a 0 0)
  | popc d a => some (fieldsR 0x00 30 d a 0 0)
  | adds d a b => some (fieldsR 0x00 31 d a b 0)
  | addi d a i => some (fieldsI 0x01 d a i.toNat)
  | andi d a i => some (fieldsI 0x02 d a i.toNat)
  | ori d a i => some (fieldsI 0x03 d a i.toNat)
  | xori d a i => some (fieldsI 0x04 d a i.toNat)
  | movi d i => some (fieldsI 0x05 d 0 i.toNat)
  | movhi d k i => some [(16, i.toNat), (2, k), (3, 0), (5, d), (6, 0x06)]
  | slti d a i => some (fieldsI 0x07 d a i.toNat)
  | cmpEq p a b => some (fieldsP 0 p a b)
  | cmpNe p a b => some (fieldsP 1 p a b)
  | cmpLt p a b => some (fieldsP 2 p a b)
  | cmpLe p a b => some (fieldsP 3 p a b)
  | cmpLtu p a b => some (fieldsP 4 p a b)
  | cmpLeu p a b => some (fieldsP 5 p a b)
  | pand d a b => some (fieldsPP 8 d a b)
  | por d a b => some (fieldsPP 9 d a b)
  | pxor d a b => some (fieldsPP 10 d a b)
  | pandn d a b => some (fieldsPP 11 d a b)
  | pmov d a => some [(6, 0), (5, 12), (5, 0), (3, a), (2, 0), (3, d), (2, 0), (6, 0x08)]
  | ptos d a => some [(6, 0), (5, 13), (5, 0), (3, a), (2, 0), (5, d), (6, 0x08)]
  | cmpiEq p a i => some (fieldsPI 0x09 p a i.toNat)
  | cmpiLt p a i => some (fieldsPI 0x0A p a i.toNat)
  | cmpiLtu p a i => some (fieldsPI 0x0B p a i.toNat)
  | sel d a b p => some [(3, p), (8, 0), (5, b), (5, a), (5, d), (6, 0x0C)]
  | ldB d b s o => some (fieldsM 0x10 d b s o.toNat)
  | ldH d b s o => some (fieldsM 0x11 d b s o.toNat)
  | ldW d b s o => some (fieldsM 0x12 d b s o.toNat)
  | ldD d b s o => some (fieldsM 0x13 d b s o.toNat)
  | stW d b s o => some (fieldsM 0x14 d b s o.toNat)
  | stD d b s o => some (fieldsM 0x15 d b s o.toNat)
  | stx d a b s z => some [(2, 0), (2, z), (2, s), (5, 0), (5, b), (5, a), (5, d), (6, 0x16)]
  | swap d a b s z => some (fieldsA 1 d a b s z.toNat)
  | cas d a b s z => some (fieldsA 2 d a b s z.toNat)
  | aadd d a b s z => some (fieldsA 3 d a b s z.toNat)
  | aand d a b s z => some (fieldsA 4 d a b s z.toNat)
  | aor d a b s z => some (fieldsA 5 d a b s z.toNat)
  | axor d a b s z => some (fieldsA 6 d a b s z.toNat)
  | amin d a b s z => some (fieldsA 7 d a b s z.toNat)
  | amax d a b s z => some (fieldsA 8 d a b s z.toNat)
  | aminu d a b s z => some (fieldsA 9 d a b s z.toNat)
  | amaxu d a b s z => some (fieldsA 10 d a b s z.toNat)
  | acq d a s => some [(4, 12), (1, s.toNat), (1, 0), (5, 11), (5, 0), (5, a), (5, d), (6, 0x16)]
  | rel a s => some [(4, 12), (1, s.toNat), (1, 0), (5, 12), (5, 0), (5, a), (5, 0), (6, 0x16)]
  | mon a => some (fieldsR 0x16 13 0 a 0 0)
  | mwait d a => some (fieldsR 0x16 14 d a 0 0)
  | xfence f t => some [(5, t.toNat), (5, f.toNat), (16, 0), (6, 0x17)]
  | br p s o => some [(21, o.toNat), (1, s.toNat), (1, false.toNat), (3, p), (6, 0x18)]
  | brN p s o => some [(21, o.toNat), (1, s.toNat), (1, true.toNat), (3, p), (6, 0x18)]
  | call o => some [(21, o.toNat), (5, 1), (6, 0x19)]
  | jr a => some (fieldsJ 0 0 a)
  | jrl d a => some (fieldsJ 1 d a)
  | jrN a => some (fieldsJ 2 0 a)
  | jrlN d a => some (fieldsJ 3 d a)
  | yield => some [(6, 0), (5, 0), (15, 0), (6, 0x1B)]
  | exit => some [(6, 0), (5, 1), (15, 0), (6, 0x1B)]
  | spawn a => some (fieldsR 0x1B 2 0 a 0 0)
  | tmHold a b n => some (fieldsT 0 a b n)
  | tmDrop a b n => some (fieldsT 1 a b n)
  | tmMove d a b n => some [(3, 0), (3, n), (5, 2), (5, b), (2, a), (3, 0), (2, d), (3, 0), (6, 0x1C)]
  | tmBar a n => some (fieldsT 3 a 0 n)
  | tmWaitf a n => some (fieldsT 4 a 0 n)
  | tmFront d n => some [(3, 0), (3, n), (5, 5), (10, 0), (5, d), (6, 0x1C)]
  | tmMtt d a => some [(6, 0), (5, 6), (5, 0), (5, a), (2, d), (3, 0), (6, 0x1C)]
  | tmMft d a => some [(6, 0), (5, 7), (5, 0), (2, a), (3, 0), (5, d), (6, 0x1C)]
  | tmEdge d a e n => some [(3, 0), (3, n), (5, 8), (4, e), (1, 0), (2, a), (3, 0), (2, d), (3, 0), (6, 0x1C)]
  | tmAddc d i k => some [(16, k.toNat), (2, i), (3, 0), (2, d), (3, 0), (6, 0x1D)]
  | emit v a => some [(19, 0), (5, a), (2, v), (6, 0x20)]
  | emitP v a b k f => some [(6, 0), (2, f), (3, k), (3, 0), (5, b), (5, a), (2, v), (6, 0x21)]
  | emitBc a m => some [(4, m.toNat), (15, 0), (5, a), (2, 0), (6, 0x22)]
  | eqWait v n => some [(11, n), (13, 0), (2, v), (6, 0x23)]
  | eqStat v d => some [(19, 0), (5, d), (2, v), (6, 0x24)]
  | cpPut d a => some (fieldsR 0x28 0 d a 0 0)
  | cpGet d a => some (fieldsR 0x28 1 d a 0 0)
  | cpPuts d a => some (fieldsR 0x28 2 d a 0 0)
  | cpMcast d a => some (fieldsR 0x28 3 d a 0 0)
  | cpGather d a => some (fieldsR 0x28 4 d a 0 0)
  | cpMig d a => some (fieldsR 0x28 5 d a 0 0)
  | hWait a s => some [(3, s), (3, 0), (5, 0), (5, 0), (5, a), (5, 0), (6, 0x29)]
  | hStat d a => some (fieldsR 0x29 1 d a 0 0)
  | hFree a => some (fieldsR 0x29 2 0 a 0 0)
  | hBind a b => some (fieldsR 0x29 3 0 a b 0)
  | hKeep a => some (fieldsR 0x29 4 0 a 0 0)
  | hDisc a => some (fieldsR 0x29 5 0 a 0 0)
  | blkLd d a b => some (fieldsR 0x2A 0 d a b 0)
  | blkEvict a => some (fieldsR 0x2A 1 0 a 0 0)
  | blkWait d a => some (fieldsR 0x2A 2 d a 0 0)
  | waitC r c s l => some [(4, l), (4, s), (4, c), (4, r), (10, 0), (6, 0x2B)]
  | rgnDecl d a => some (fieldsR 0x2C 0 d a 0 0)
  | rgnBind a b => some (fieldsR 0x2C 1 0 a b 0)
  | fmtSet a b => some (fieldsR 0x2D 0 0 a b 0)
  | fmtGet d a => some (fieldsR 0x2D 1 d a 0 0)
  | prefI b s o => some (fieldsM 0x2F 0 b s o.toNat)
  | prefD b s o => some (fieldsM 0x2F 1 b s o.toNat)
  | prefM b s o => some (fieldsM 0x2F 2 b s o.toNat)
  | demoteD b s o => some (fieldsM 0x2F 3 b s o.toNat)
  | reservedHint k b s o => some (fieldsM 0x2F k b s o.toNat)
  | mjOpen d => some (fieldsD 0x30 0 d)
  | mjWr a b => some (fieldsR 0x30 1 0 a b 0)
  | mjCommit d => some (fieldsD 0x30 2 d)
  | mjAbort => some [(6, 0), (5, 3), (15, 0), (6, 0x30)]
  | mjStat d a => some (fieldsR 0x30 4 d a 0 0)
  | psSafe a => some (fieldsR 0x31 0 0 a 0 0)
  | psWake d a => some (fieldsR 0x31 1 d a 0 0)
  | psNap d => some (fieldsD 0x31 2 d)
  | psDoze d => some (fieldsD 0x31 3 d)
  | rdtime d => some (fieldsD 0x32 0 d)
  | rdcyc d => some (fieldsD 0x32 1 d)
  | mfs d r => some [(12, r.toNat), (4, 0), (5, 0), (5, d), (6, 0x34)]
  | mts a r => some [(12, r.toNat), (4, 1), (5, a), (5, 0), (6, 0x34)]
  | trap i => some [(12, i.toNat), (4, 2), (10, 0), (6, 0x34)]
  | rfe => some [(12, 0), (4, 3), (10, 0), (6, 0x34)]
  | ctxStart a => some (fieldsC 0 0 a)
  | ctxSave d a => some (fieldsC 1 d a)
  | ctxRestore d a => some (fieldsC 2 d a)
  | ctxEnd d a => some (fieldsC 3 d a)
  | mtrl a k => some [(4, k), (8, 0), (4, 4), (5, a), (5, 0), (6, 0x35)]
  | _ => none

/-- Every operand fits its field. -/
theorem fields_lt {i : Instr} {l : List (Nat × Nat)} (h : fields i = some l) : ∀ p ∈ l, p.2 < 2 ^ p.1 := by
  cases i <;> cases h <;>
    simp [fieldsR, fieldsI, fieldsM, fieldsP, fieldsPP, fieldsPI, fieldsA, fieldsT, fieldsJ, fieldsD, fieldsC, Bool.toNat_le] <;> omega

/-- The fields of a word take its 32 bits (02 R28). -/
theorem fields_sum {i : Instr} {l : List (Nat × Nat)} (h : fields i = some l) : (l.map (·.1)).sum = 32 := by
  cases i <;> cases h <;> rfl

/-! ## The encoder places the fields -/

theorem pack_fieldsR (op fn d a b z : Nat) :
    pack (fieldsR op fn d a b z) = op * 0x4000000 + fn * 0x40 + d * 0x200000 + a * 0x10000 + b * 0x800 + z := by
  simp only [fieldsR, pack]; omega
theorem pack_fieldsI (op d a i : Nat) :
    pack (fieldsI op d a i) = op * 0x4000000 + d * 0x200000 + a * 0x10000 + i := by
  simp only [fieldsI, pack]; omega
theorem pack_fieldsM (op d a s o : Nat) :
    pack (fieldsM op d a s o) = op * 0x4000000 + d * 0x200000 + a * 0x10000 + s * 0x4000 + o := by
  simp only [fieldsM, pack]; omega
theorem pack_fieldsA (fn d a b s z : Nat) :
    pack (fieldsA fn d a b s z) = 0x58000008 + fn * 0x40 + d * 0x200000 + a * 0x10000 + b * 0x800 + s * 0x10 + z * 4 := by
  simp only [fieldsA, pack]; omega
theorem pack_fieldsP (fn p a b : Nat) :
    pack (fieldsP fn p a b) = 0x20000000 + fn * 0x40 + p * 0x200000 + a * 0x10000 + b * 0x800 := by
  simp only [fieldsP, pack]; omega
theorem pack_fieldsPP (fn p a b : Nat) :
    pack (fieldsPP fn p a b) = 0x20000000 + fn * 0x40 + p * 0x200000 + a * 0x10000 + b * 0x800 := by
  simp only [fieldsPP, pack]; omega

/-- The encoder adds up each field at its place. -/
theorem encodeNat_of_fields {i : Instr} {l : List (Nat × Nat)} (h : fields i = some l) : encodeNat i = some (pack l) := by
  cases i <;> cases h <;> refine congrArg some ?_ <;>
    simp only [pack_fieldsR, pack_fieldsI, pack_fieldsM, pack_fieldsA, pack_fieldsP, pack_fieldsPP, fieldsPI, fieldsT, fieldsJ, fieldsD, fieldsC,
      pack, Bool.toNat_false, Bool.toNat_true] <;> omega

theorem fields_of_encodeNat {i : Instr} {w : Nat} (h : encodeNat i = some w) : ∃ l, fields i = some l ∧ w = pack l := by
  have hl : (fields i).isSome := by cases i <;> cases h <;> rfl
  obtain ⟨l, hl⟩ := Option.isSome_iff_exists.1 hl
  exact ⟨l, hl, Option.some.inj (h.symm.trans (encodeNat_of_fields hl))⟩

/-! ## The decoder reads the fields -/

/-! What an operand reader answers, said of the field it reads. -/

theorem fld_eq_reg {w lo : Nat} {r : Reg} : fld w lo 5 = r.val ↔ reg w lo = r := (Fin.ext_iff (a := reg w lo)).symm
theorem fld_eq_fin4 {w lo : Nat} {r : Fin 4} : fld w lo 2 = r.val ↔ fin 4 w lo = r := (Fin.ext_iff (a := fin 4 w lo)).symm
theorem fld_eq_fin8 {w lo : Nat} {r : Fin 8} : fld w lo 3 = r.val ↔ fin 8 w lo = r := (Fin.ext_iff (a := fin 8 w lo)).symm
theorem fld_eq_fin16 {w lo : Nat} {r : Fin 16} : fld w lo 4 = r.val ↔ fin 16 w lo = r := (Fin.ext_iff (a := fin 16 w lo)).symm
theorem fld_eq_fin64 {w lo : Nat} {r : Fin 64} : fld w lo 6 = r.val ↔ fin 64 w lo = r := (Fin.ext_iff (a := fin 64 w lo)).symm
theorem fld_eq_flag {w lo : Nat} {z : Bool} : fld w lo 1 = z.toNat ↔ flag w lo = z := by
  unfold flag fld
  rcases Nat.mod_two_eq_zero_or_one (w / 2 ^ lo) with h | h <;> cases z <;> simp [h]
theorem fld_eq_ofNat {w n : Nat} {i : BitVec n} : fld w 0 n = i.toNat ↔ BitVec.ofNat n w = i := by
  simp [fld, BitVec.toNat_eq]
theorem fld_eq_ofNat_div {w lo n : Nat} {i : BitVec n} : fld w lo n = i.toNat ↔ BitVec.ofNat n (w / 2 ^ lo) = i := by
  simp [fld, BitVec.toNat_eq]

/-! Table 2-2: the opcodes that have a table of operations of their own. -/

section Opcodes

variable {w : Nat}

theorem decodeNat_int (h : fld w 26 6 = 0x00) : decodeNat w = decInt w := by simp only [decodeNat, h]
theorem decodeNat_pred (h : fld w 26 6 = 0x08) : decodeNat w = decPred w := by simp only [decodeNat, h]
theorem decodeNat_memx (h : fld w 26 6 = 0x16) : decodeNat w = decMemx w := by simp only [decodeNat, h]
theorem decodeNat_jr (h : fld w 26 6 = 0x1A) : decodeNat w = decJr w := by simp only [decodeNat, h]
theorem decodeNat_runc (h : fld w 26 6 = 0x1B) : decodeNat w = decRunc w := by simp only [decodeNat, h]
theorem decodeNat_tm (h : fld w 26 6 = 0x1C) : decodeNat w = decTm w := by simp only [decodeNat, h]
theorem decodeNat_cp (h : fld w 26 6 = 0x28) : decodeNat w = decCp w := by simp only [decodeNat, h]
theorem decodeNat_h (h : fld w 26 6 = 0x29) : decodeNat w = decH w := by simp only [decodeNat, h]
theorem decodeNat_blk (h : fld w 26 6 = 0x2A) : decodeNat w = decBlk w := by simp only [decodeNat, h]
theorem decodeNat_rgn (h : fld w 26 6 = 0x2C) : decodeNat w = decRgn w := by simp only [decodeNat, h]
theorem decodeNat_fmt (h : fld w 26 6 = 0x2D) : decodeNat w = decFmt w := by simp only [decodeNat, h]
theorem decodeNat_hint (h : fld w 26 6 = 0x2F) : decodeNat w = .ok (decHint w) := by simp only [decodeNat, h]
theorem decodeNat_mj (h : fld w 26 6 = 0x30) : decodeNat w = decMj w := by simp only [decodeNat, h]
theorem decodeNat_pwr (h : fld w 26 6 = 0x31) : decodeNat w = decPwr w := by simp only [decodeNat, h]
theorem decodeNat_cnt (h : fld w 26 6 = 0x32) : decodeNat w = decCnt w := by simp only [decodeNat, h]
theorem decodeNat_sys (h : fld w 26 6 = 0x34) : decodeNat w = decSys w := by simp only [decodeNat, h]
theorem decodeNat_ctx (h : fld w 26 6 = 0x35) : decodeNat w = decCtx w := by simp only [decodeNat, h]

end Opcodes

theorem toNat_ne_zero {n : Nat} {i : BitVec n} (h : i ≠ 0) : i.toNat ≠ 0 := fun e => h (BitVec.eq_of_toNat_eq e)

theorem decodeNat_xfence {f t : BitVec 5} {w : Nat} (hi : (Instr.xfence f t).wf = true)
    (hw : Shows w 0 [(5, t.toNat), (5, f.toNat), (16, 0), (6, 0x17)]) : decodeNat w = .ok (.xfence f t) := by
  simp only [Shows, Nat.reduceAdd] at hw
  simp only [Instr.wf, Bool.and_eq_true, bne_iff_ne] at hi
  obtain ⟨ht, hf, hz, hop, -⟩ := hw
  have h0 : fld w 0 5 ≠ 0 := ht ▸ toNat_ne_zero hi.2
  have h5 : fld w 5 5 ≠ 0 := hf ▸ toNat_ne_zero hi.1
  rw [fld_eq_ofNat] at ht
  rw [fld_eq_ofNat_div] at hf
  simp only [decodeNat, okIf, hop, hz, ht, hf, bne_iff_ne.2 h0, bne_iff_ne.2 h5, beq_self_eq_true, Bool.and_self, if_true]

/-- 02 R40: a hint of a kind from 4 on is a reserved one. -/
theorem decodeNat_reservedHint {k : Fin 32} {b : Reg} {s : Fin 4} {o : BitVec 14} {w : Nat} (hi : (Instr.reservedHint k b s o).wf = true)
    (hw : Shows w 0 (fieldsM 0x2F k b s o.toNat)) : decodeNat w = .ok (.reservedHint k b s o) := by
  simp only [Shows, Nat.reduceAdd, fieldsM, fld_eq_fin4, fld_eq_ofNat] at hw
  obtain ⟨ho, hs, hb, hk, hop, -⟩ := hw
  have hk4 : 4 ≤ fld w 21 5 := hk ▸ of_decide_eq_true hi
  have hkind : decHint w = .reservedHint (fin 32 w 21) (reg w 16) (fin 4 w 14) (.ofNat 14 w) := by
    unfold decHint
    split
    case h_5 => rfl
    all_goals omega
  rw [fld_eq_reg] at hb hk
  rw [decodeNat_hint hop, hkind, ho, hs, hb]
  exact congrArg (fun k => Except.ok (Instr.reservedHint k b s o)) hk

/-- A word that shows the fields of a well-formed instruction passes checks 1 to 3 (02 R37) as that instruction. -/
theorem decodeNat_of_shows {i : Instr} {l : List (Nat × Nat)} {w : Nat} (hi : i.wf = true) (h : fields i = some l) (hw : Shows w 0 l) :
    decodeNat w = .ok i := by
  cases i
  case xfence f t => cases h; exact decodeNat_xfence hi hw
  case emitBc a m =>
    cases h
    simp only [Shows, Nat.reduceAdd, fld_eq_reg] at hw
    simp only [Instr.wf, bne_iff_ne] at hi
    obtain ⟨hm, hz, ha, hz', hop, -⟩ := hw
    have h0 : fld w 0 4 ≠ 0 := hm ▸ toNat_ne_zero hi
    rw [fld_eq_ofNat] at hm
    simp [decodeNat, okIf, hop, hz, hz', h0, ha, hm]
  case eqWait v n =>
    cases h
    simp only [Shows, Nat.reduceAdd, fld_eq_fin4] at hw
    obtain ⟨hn, hz, hv, hop, -⟩ := hw
    have hle : n.val ≤ 64 := by omega
    simp [decodeNat, okIf, hop, hz, hv, hn, hle]
  case hWait a s =>
    cases h
    simp only [Shows, Nat.reduceAdd, fld_eq_reg] at hw
    obtain ⟨hs, hz, hfn, hb, ha, hd, hop, -⟩ := hw
    simp [decodeNat_h hop, decH, okIf, hz, hfn, hb, ha, hd, hs]
  case jrlN d a =>
    cases h
    simp only [Shows, Nat.reduceAdd, fieldsJ, fld_eq_reg] at hw
    obtain ⟨hk, hz, ha, hd, hop, -⟩ := hw
    simp [decodeNat_jr hop, decJr, okIf, hk, hz, ha, hd]
  case mfs | mts =>
    cases h
    simp only [Shows, Nat.reduceAdd, fld_eq_reg, fld_eq_ofNat] at hw
    simp only [Instr.wf] at hi
    simp only [decodeNat_sys, decSys, okIf, hw, hi, beq_self_eq_true, Bool.and_self, if_true]
  case reservedHint k b s o => cases h; exact decodeNat_reservedHint hi hw
  case addi | andi | ori | xori | movi | movhi | slti | cmpiEq | cmpiLt | cmpiLtu | sel | ldB | ldH | ldW | ldD | stW | stD | br | brN | call | tmAddc |
      emit | emitP | eqStat | waitC =>
    cases h
    simp only [fieldsI, fieldsM, fieldsPI, Shows, Nat.reduceAdd,
      fld_eq_reg, fld_eq_fin8, fld_eq_fin4, fld_eq_fin16, fld_eq_flag, fld_eq_ofNat] at hw
    simp only [decodeNat, okIf, hw, beq_self_eq_true, Bool.and_self, if_true, Bool.false_eq_true, if_false]
  all_goals cases h <;>
    simp only [fieldsR, fieldsM, fieldsP, fieldsPP, fieldsA, fieldsT, fieldsJ, fieldsD, fieldsC, Shows, Nat.reduceAdd,
      fld_eq_reg, fld_eq_fin8, fld_eq_fin4, fld_eq_fin16, fld_eq_fin64, fld_eq_flag, fld_eq_ofNat] at hw <;>
    simp only [decodeNat_int, decodeNat_pred, decodeNat_memx, decodeNat_jr, decodeNat_runc, decodeNat_tm, decodeNat_cp, decodeNat_h,
      decodeNat_blk, decodeNat_rgn, decodeNat_fmt, decodeNat_hint, decodeNat_mj, decodeNat_pwr, decodeNat_cnt, decodeNat_sys, decodeNat_ctx,
      decInt, decPred, decMemx, decJr, decRunc, decTm, decCp, decH, decBlk, decRgn, decFmt, decHint, decMj, decPwr, decCnt, decSys, decCtx,
      okIf, hw, beq_self_eq_true, Bool.and_self, if_true]

/-! ## What the decoder answers -/

/-- Whatever a decoder answers is well formed, and its word shows its fields. -/
def Sound (w : Nat) (e : Except Illegal Instr) : Prop :=
  ∀ i, e = .ok i → i.wf = true ∧ ∃ l, fields i = some l ∧ Shows w 0 l

theorem Sound.error {w : Nat} {e : Illegal} : Sound w (.error e) := nofun

theorem Sound.ok {w : Nat} {i : Instr} {l : List (Nat × Nat)} (hi : i.wf = true) (hl : fields i = some l) (hw : Shows w 0 l) :
    Sound w (.ok i) := by
  rintro _ ⟨⟩; exact ⟨hi, l, hl, hw⟩

theorem Sound.okIf {w : Nat} {c : Bool} {i : Instr} {l : List (Nat × Nat)} (hl : fields i = some l)
    (h : c = true → i.wf = true ∧ Shows w 0 l) : Sound w (okIf c i) := by
  cases c
  · exact .error
  · exact .ok (h rfl).1 hl (h rfl).2

@[simp] theorem val_reg (w lo : Nat) : (reg w lo).val = fld w lo 5 := rfl
@[simp] theorem val_fin4 (w lo : Nat) : (fin 4 w lo).val = fld w lo 2 := rfl
@[simp] theorem val_fin8 (w lo : Nat) : (fin 8 w lo).val = fld w lo 3 := rfl
@[simp] theorem val_fin16 (w lo : Nat) : (fin 16 w lo).val = fld w lo 4 := rfl
@[simp] theorem val_fin32 (w lo : Nat) : (fin 32 w lo).val = fld w lo 5 := rfl
@[simp] theorem val_fin64 (w lo : Nat) : (fin 64 w lo).val = fld w lo 6 := rfl
@[simp] theorem toNat_flag (w lo : Nat) : (flag w lo).toNat = fld w lo 1 := (fld_eq_flag.2 rfl).symm

theorem fld_zero (w n : Nat) : fld w 0 n = w % 2 ^ n := by simp [fld]

section
variable {w : Nat} (hw : w / 2 ^ 32 = 0)
include hw

theorem decInt_sound (hop : fld w 26 6 = 0x00) : Sound w (decInt w) := by
  unfold decInt
  split
  case h_32 => exact .error
  all_goals
    refine .okIf rfl fun hc => ⟨rfl, ?_⟩
    simp_all [fieldsR, Shows]

theorem decPred_sound (hop : fld w 26 6 = 0x08) : Sound w (decPred w) := by
  unfold decPred
  split
  case h_13 => exact .error
  all_goals
    refine .okIf rfl fun hc => ⟨rfl, ?_⟩
    simp_all [fieldsP, fieldsPP, Shows]

theorem decMemx_sound (hop : fld w 26 6 = 0x16) : Sound w (decMemx w) := by
  unfold decMemx
  split
  case h_16 => exact .error
  all_goals
    refine .okIf rfl fun hc => ⟨rfl, ?_⟩
    simp_all [fieldsR, fieldsA, Shows]

theorem decJr_sound (hop : fld w 26 6 = 0x1A) : Sound w (decJr w) := by
  unfold decJr
  split
  case h_4 _ h0 h1 h2 =>
    have h3 : fld w 0 2 = 3 := by
      have : fld w 0 2 < 2 ^ 2 := Nat.mod_lt _ (by decide)
      simp only [imp_false] at h0 h1 h2
      omega
    refine .okIf rfl fun hc => ⟨rfl, ?_⟩
    simp_all [fieldsJ, Shows]
  all_goals
    refine .okIf rfl fun hc => ⟨rfl, ?_⟩
    simp_all [fieldsJ, Shows]

theorem decRunc_sound (hop : fld w 26 6 = 0x1B) : Sound w (decRunc w) := by
  unfold decRunc
  split
  case h_4 => exact .error
  all_goals
    refine .okIf rfl fun hc => ⟨rfl, ?_⟩
    simp_all [fieldsR, Shows]

theorem decTm_sound (hop : fld w 26 6 = 0x1C) : Sound w (decTm w) := by
  unfold decTm
  split
  case h_10 => exact .error
  all_goals
    refine .okIf rfl fun hc => ⟨rfl, ?_⟩
    simp_all [fieldsT, Shows]

theorem decCp_sound (hop : fld w 26 6 = 0x28) : Sound w (decCp w) := by
  unfold decCp
  split
  case h_7 => exact .error
  all_goals
    refine .okIf rfl fun hc => ⟨rfl, ?_⟩
    simp_all [fieldsR, Shows]

theorem decH_sound (hop : fld w 26 6 = 0x29) : Sound w (decH w) := by
  unfold decH
  split
  case h_7 => exact .error
  all_goals
    refine .okIf rfl fun hc => ⟨rfl, ?_⟩
    simp_all [fieldsR, Shows, Nat.mod_eq_of_lt]

theorem decBlk_sound (hop : fld w 26 6 = 0x2A) : Sound w (decBlk w) := by
  unfold decBlk
  split
  case h_4 => exact .error
  all_goals
    refine .okIf rfl fun hc => ⟨rfl, ?_⟩
    simp_all [fieldsR, Shows]

theorem decRgn_sound (hop : fld w 26 6 = 0x2C) : Sound w (decRgn w) := by
  unfold decRgn
  split
  case h_3 => exact .error
  all_goals
    refine .okIf rfl fun hc => ⟨rfl, ?_⟩
    simp_all [fieldsR, Shows]

theorem decFmt_sound (hop : fld w 26 6 = 0x2D) : Sound w (decFmt w) := by
  unfold decFmt
  split
  case h_3 => exact .error
  all_goals
    refine .okIf rfl fun hc => ⟨rfl, ?_⟩
    simp_all [fieldsR, Shows]

theorem decHint_sound (hop : fld w 26 6 = 0x2F) : Sound w (.ok (decHint w)) := by
  unfold decHint
  split
  case h_5 _ h0 h1 h2 h3 =>
    refine .ok (decide_eq_true ?_) rfl ?_
    · simp only [imp_false] at h0 h1 h2 h3
      rw [val_fin32]; omega
    · simp_all [fieldsM, Shows, fld_zero]
  all_goals
    refine .ok rfl rfl ?_
    simp_all [fieldsM, Shows, fld_zero]

theorem decMj_sound (hop : fld w 26 6 = 0x30) : Sound w (decMj w) := by
  unfold decMj
  split
  case h_6 => exact .error
  all_goals
    refine .okIf rfl fun hc => ⟨rfl, ?_⟩
    simp_all [fieldsR, fieldsD, Shows]

theorem decPwr_sound (hop : fld w 26 6 = 0x31) : Sound w (decPwr w) := by
  unfold decPwr
  split
  case h_5 => exact .error
  all_goals
    refine .okIf rfl fun hc => ⟨rfl, ?_⟩
    simp_all [fieldsR, fieldsD, Shows]

theorem decCnt_sound (hop : fld w 26 6 = 0x32) : Sound w (decCnt w) := by
  unfold decCnt
  split
  case h_3 => exact .error
  all_goals
    refine .okIf rfl fun hc => ⟨rfl, ?_⟩
    simp_all [fieldsD, Shows]

theorem decSys_sound (hop : fld w 26 6 = 0x34) : Sound w (decSys w) := by
  unfold decSys
  split
  case h_5 => exact .error
  all_goals
    refine .okIf rfl fun hc => ?_
    simp_all [Instr.wf, Shows, fld_zero]

theorem decCtx_sound (hop : fld w 26 6 = 0x35) : Sound w (decCtx w) := by
  unfold decCtx
  split
  case h_6 => exact .error
  all_goals
    refine .okIf rfl fun hc => ⟨rfl, ?_⟩
    simp_all [fieldsC, Shows]

theorem decodeNat_sound : Sound w (decodeNat w) := by
  unfold decodeNat
  split
  case h_1 _ hop => exact decInt_sound hw hop
  case h_9 _ hop => exact decPred_sound hw hop
  case h_20 _ hop => exact decMemx_sound hw hop
  case h_24 _ hop => exact decJr_sound hw hop
  case h_25 _ hop => exact decRunc_sound hw hop
  case h_26 _ hop => exact decTm_sound hw hop
  case h_33 _ hop => exact decCp_sound hw hop
  case h_34 _ hop => exact decH_sound hw hop
  case h_35 _ hop => exact decBlk_sound hw hop
  case h_37 _ hop => exact decRgn_sound hw hop
  case h_38 _ hop => exact decFmt_sound hw hop
  case h_39 _ hop => exact decHint_sound hw hop
  case h_40 _ hop => exact decMj_sound hw hop
  case h_41 _ hop => exact decPwr_sound hw hop
  case h_42 _ hop => exact decCnt_sound hw hop
  case h_43 _ hop => exact decSys_sound hw hop
  case h_44 _ hop => exact decCtx_sound hw hop
  case h_45 => exact .error
  case h_2 | h_3 | h_4 | h_5 | h_8 | h_14 | h_15 | h_16 | h_17 | h_18 | h_19 =>
    refine .ok rfl rfl ?_
    simp_all [fieldsI, fieldsM, Shows, fld_zero]
  case h_22 =>
    split
    all_goals
      refine .ok rfl rfl ?_
      simp_all [Shows, fld_zero, ← toNat_flag]
  case h_31 =>
    refine .okIf rfl fun hc => ⟨rfl, ?_⟩
    simp_all [Shows, Nat.mod_eq_of_lt, Nat.lt_succ_iff]
  case h_21 =>
    refine .okIf rfl fun hc => ?_
    simp only [Bool.and_eq_true, beq_iff_eq, bne_iff_ne] at hc
    obtain ⟨⟨hz, hf⟩, ht⟩ := hc
    refine ⟨?_, (fld_eq_ofNat (n := 5)).2 rfl, fld_eq_ofNat_div.2 rfl, hz, ‹_›, hw⟩
    exact Bool.and_eq_true_iff.2 ⟨bne_iff_ne.2 fun e => hf (fld_eq_ofNat_div.2 e), bne_iff_ne.2 fun e => ht (fld_eq_ofNat.2 e)⟩
  case h_30 =>
    refine .okIf rfl fun hc => ?_
    simp only [Bool.and_eq_true, beq_iff_eq, bne_iff_ne] at hc
    obtain ⟨⟨hz, hz'⟩, hm⟩ := hc
    exact ⟨bne_iff_ne.2 fun e => hm (fld_eq_ofNat.2 e), fld_eq_ofNat.2 rfl, hz, rfl, hz', ‹_›, hw⟩
  case h_6 | h_7 | h_10 | h_11 | h_12 | h_13 | h_23 | h_27 | h_28 | h_29 | h_32 | h_36 =>
    refine .okIf rfl fun hc => ⟨rfl, ?_⟩
    simp_all [fieldsI, fieldsPI, Shows, fld_zero]

end

/-- The decoder answers exactly the well-formed instructions whose fields the word shows. -/
theorem decode_eq_ok_iff {w : BitVec 32} {i : Instr} : decode w = .ok i ↔ i.wf = true ∧ encode i = some w := by
  have hw : w.toNat / 2 ^ 32 = 0 := Nat.div_eq_of_lt w.isLt
  constructor
  · intro h
    obtain ⟨hi, l, hl, hs⟩ := decodeNat_sound hw i h
    have he : pack l = w.toNat := (pack_of_shows hs).symm.trans (Nat.div_one _)
    exact ⟨hi, by rw [encode, encodeNat_of_fields hl, he, Option.map_some, BitVec.ofNat_toNat, BitVec.setWidth_eq]⟩
  · rintro ⟨hi, he⟩
    obtain ⟨n, hn, rfl⟩ := Option.map_eq_some_iff.1 he
    obtain ⟨l, hl, rfl⟩ := fields_of_encodeNat hn
    have hlt : pack l < 2 ^ 32 := fields_sum hl ▸ pack_lt (fields_lt hl)
    rw [decode, BitVec.toNat_ofNat, Nat.mod_eq_of_lt hlt]
    exact decodeNat_of_shows hi hl (shows_of_pack (fields_lt hl) (Nat.div_one _))

end Sys2Proof.Laws.Words

open Sys2Proof

/-- Settles O56: an instruction's word shows its fields, which is what the encoder places and what the decoder reads. -/
theorem decodingInvertsEncoding : Obligations.DecodingInvertsEncoding := by
  unfold Obligations.DecodingInvertsEncoding
  exact ⟨fun _ _ hi he => Laws.Words.decode_eq_ok_iff.2 ⟨hi, he⟩, fun _ _ h => Laws.Words.decode_eq_ok_iff.1 h⟩

end

section
namespace Sys2Proof.Laws.Words

open Sys2Proof.Machine

/-- Settles O54: each word is the encoding of a well-formed instruction, so it decodes to it. -/
theorem wordsDecode : Obligations.WordsDecode :=
  ⟨decode_eq_ok_iff.2 ⟨rfl, rfl⟩, decode_eq_ok_iff.2 ⟨rfl, rfl⟩, decode_eq_ok_iff.2 ⟨rfl, rfl⟩, decode_eq_ok_iff.2 ⟨rfl, rfl⟩,
    decode_eq_ok_iff.2 ⟨rfl, rfl⟩, decode_eq_ok_iff.2 ⟨rfl, rfl⟩⟩

end Sys2Proof.Laws.Words
end

section
/-! SUPPORT. The checks of 02 R37 that refuse a word. -/

namespace Sys2Proof.Machine

theorem State.isF_of_ne {s : State} (h : s.fcx ≠ 8) : s.isF = false := beq_false_of_ne h

theorem State.trapBad_of_ne {s : State} (h : s.fcx ≠ 8) (w : Word) (c : Nat) : s.trapBad w c = (s.setMe { s.me with badw := w }).trap c := by
  simp [State.trapBad, State.isF_of_ne h, State.modMe]

theorem State.runBytes_error {s : State} {bs rest : List Byte} {e : Illegal} (h : decodeBytes bs = some (.error e, rest)) :
    s.runBytes bs = s.trapBad (word (leNat bs)) (illegalCode e) := by
  simp [State.runBytes, h]

/-- Check 4 puts the word of the instruction in BADW. -/
theorem State.denied_of_encodeNat {s : State} {i : Instr} {w : Nat} (h : encodeNat i = some w) : s.denied i = s.trapBad (word w) PRIVILEGED := by
  simp [State.denied, h]

/-- What check 4 refuses to a tile context takes no effect (02 R33, R36). -/
theorem exec_of_formDenied {s : State} {i : Instr} (h : s.isF = false) (hi : formDenied false i = true) : exec i s = s.denied i := by
  unfold formDenied at hi
  split at hi
  case h_1 => simp [exec, execCpMig, h]
  case h_2 => simp [exec, execPsWake, h]
  case h_3 => simp [exec, execPsNap, h]
  case h_4 => simp [exec, execPsDoze, h]
  case h_5 => simp [exec, execRfe, h]
  case h_6 => simp [exec, execCtxStart, h]
  case h_7 => simp [exec, execCtxSave, h]
  case h_8 => simp [exec, execCtxRestore, h]
  case h_9 => simp [exec, execCtxEnd, h]
  case h_10 => simp [exec, execMtrl, h]
  case h_11 =>
    rw [Bool.not_eq_true'] at hi
    simp [exec, execMfs, h, hi]
  case h_12 =>
    rw [Bool.not_eq_true'] at hi
    simp [exec, execMts, h, hi]
  case h_13 => exact absurd hi Bool.false_ne_true

theorem exec_tlbi_denied {s : State} (a : Reg) (h : s.isF = false) : exec (.tlbi a) s = s.denied (.mts a 0x302) := by
  simp [exec, execTlbi, h]

theorem formDenied_mfs {d : Reg} {r : BitVec 12} (h : 0x300 ≤ r.toNat) : formDenied false (.mfs d r) = true := by
  simpa [formDenied, mfsAllowed] using h

theorem formDenied_mts {a : Reg} {r : BitVec 12} (h8 : r ≠ 0x008) (h101 : r ≠ 0x101) : formDenied false (.mts a r) = true := by
  have n8 : r.toNat ≠ 0x008 := fun e => h8 (BitVec.eq_of_toNat_eq e)
  have n101 : r.toNat ≠ 0x101 := fun e => h101 (BitVec.eq_of_toNat_eq e)
  simp [formDenied, mtsAllowed, n8, n101]

end Sys2Proof.Machine
end

section
open Sys2Proof Sys2Proof.Machine

/-- Settles O6: checks 1 to 3 by the decoder's answer, check 4 form by form. -/
theorem illegalAndPrivilegedWords : Obligations.IllegalAndPrivilegedWords := by
  refine ⟨fun s bs rest e hd => ⟨?_, fun hf w c => State.trapBad_of_ne hf w c⟩, fun s d a k r hf => ?_⟩
  · rw [State.runBytes_error hd]
    cases e <;> rfl
  have hF : s.isF = false := State.isF_of_ne hf
  refine ⟨?_, fun hr => ?_, fun ⟨h8, h101⟩ => ?_, ?_⟩
  · intro i hi
    have hform : formDenied false i = true ∧ (encodeNat i).isSome := by
      fin_cases hi <;> exact ⟨rfl, rfl⟩
    obtain ⟨w, hw⟩ := Option.isSome_iff_exists.1 hform.2
    exact ⟨w, hw, (exec_of_formDenied hF hform.1).trans (State.denied_of_encodeNat hw)⟩
  · exact (exec_of_formDenied hF (formDenied_mfs hr)).trans (State.denied_of_encodeNat rfl)
  · exact (exec_of_formDenied hF (formDenied_mts h8 h101)).trans (State.denied_of_encodeNat rfl)
  · have hw : encodeNat (.mts a 0x302) = some (0xD0001302 + a.val * 0x10000) := 
      congrArg some (show 0xD0001000 + a.val * 0x10000 + 0x302 = _ by omega)
    exact (exec_tlbi_denied a hF).trans (State.denied_of_encodeNat hw)

end

section
/-! SUPPORT. An issue, an issue slot and an event, each where nothing stands in its way. -/

namespace Sys2Proof.Machine

/-- What decodes to an instruction whose checks pass runs it: one that check 4 refuses is not counted (02 R37). -/
theorem State.runBytes_ok {u : State} {bs rest : List Byte} {i : Instr} (hd : decodeBytes bs = some (.ok i, rest))
    (hi : formDenied u.isF i = false →
      (isBoundary i = true → u.exceeds 2 u.me.bounds = false) ∧ u.me.hazard i = false ∧ u.heldBack i = false) :
    u.runBytes bs = exec i (if formDenied u.isF i = true then u else u.countIssue) := by
  simp only [State.runBytes, hd, State.runInstr]
  cases hf : formDenied u.isF i with
  | true => rfl
  | false =>
    obtain ⟨hb, hz, hh⟩ := hi hf
    have hbound : (isBoundary i && u.exceeds 2 u.me.bounds) = false := by
      cases he : isBoundary i with
      | false => rfl
      | true => exact hb he
    simp [hbound, hz, hh]

/-- A context that no record, null or budget stops runs what it fetches (06 R130, 07 R162, 13 R298). -/
theorem State.issueOne_of_fetch {m u : State} {bs : List Byte} (hr : m.me.records = [] ∨ (m.isF = false ∧ m.me.inh = true))
    (hn : m.me.q0.nul = false) (hx : m.exceeds 1 m.me.instrs = false) (hf : m.fetch m.fsq m.fcx m.me.q0.pc.toNat = .word bs u) :
    m.issueOne = u.runBytes bs := by
  have hrec : (!m.me.records.isEmpty && (m.isF || !m.me.inh)) = false := by
    rcases hr with hr | ⟨hF, hi⟩
    · simp [hr]
    · simp [hF, hi]
  simp [State.issueOne, hrec, hn, hx, hf]

variable {s : State} {q : Sq} {c : Fin 8}

theorem State.issueTile_active (hr : s.coreRuns q = true) (hs : (s.sq q).service = none) (hF : (s.ctx q 8).waits = false)
    (ha : (s.sq q).active = some c) (hw : (s.ctx q (tileCx c)).waits = false) : s.issueTile q = (s.focus q (tileCx c)).issueOne := by
  simp [State.issueTile, hr, hs, hF, ha, hw]

theorem State.issueTile_chosen (hr : s.coreRuns q = true) (hs : (s.sq q).service = none) (hF : (s.ctx q 8).waits = false)
    (ha : (s.sq q).active = none) (hc : (s.sq q).choose = some c) :
    s.issueTile q = ((s.activate q c).focus q (tileCx c)).issueOne := by
  simp [State.issueTile, hr, hs, hF, ha, hc]

theorem State.issueFirmware_of_slot (hr : s.coreRuns q = true) (hF : (s.ctx q 8).waits = false) (hslot : (s.sq q).firmwareSlot = true) :
    s.issueFirmware q = (s.focus q 8).issueOne := by
  simp [State.issueFirmware, hr, hF, hslot]

variable {x : Square}

theorem Square.firmwareSlot_alone (hs : x.service = none) (ha : x.active = none) (hr : ∀ k : Fin 8, x.runnable k = false) :
    x.firmwareSlot = true := by
  simp [Square.firmwareSlot, hs, ha, Square.anyRunnable, hr]

theorem Square.firmwareSlot_burst (hs : x.service = none) (hb : x.fburst ≠ 0) (hc : x.fcred ≠ 0) : x.firmwareSlot = true := by
  simp [Square.firmwareSlot, hs, hb, hc]

theorem Square.firmwareSlot_service {n : Nat} (hs : x.service = some (c, n)) (hn : n < 16) : x.firmwareSlot = true := by
  simp [Square.firmwareSlot, hs, hn]

theorem State.event_of_allows {i : Instr} (ha : s.allows (scene i) = true) (hi : s.admits i = true) : s.event i = exec i s := by
  simp [State.event, ha, hi]

theorem State.event_of_not_allows {i : Instr} (ha : s.allows (scene i) = false) : s.event i = .next s := by
  simp [State.event, ha]

end Sys2Proof.Machine
end

section
open Sys2Proof Sys2Proof.Machine

/-- Settles O55: a step lets its occurrence happen, and each slot or event that nothing stands in the way of is the instruction. -/
theorem stepRunsTheDecodedInstruction : Obligations.StepRunsTheDecodedInstruction := by
  intro s t u o q c n bs rest i p after ready runs hnext
  have hstep : ∀ r : Out, p.happen o.what = r → step s = after r := by
    rintro r rfl
    simp only [step, State.occur, hnext] <;> rfl
  have hready : ∀ m : State, ready m → m.issueOne = exec i (if formDenied u.isF i = true then u else u.countIssue) := by
    rintro m ⟨hrec, hnul, hex, hfetch, hdec, hrun⟩
    rw [State.issueOne_of_fetch hrec hnul hex hfetch, State.runBytes_ok hdec hrun]
  refine ⟨fun ho hr hs hF => ⟨fun ha hw hm => ?_, fun ha hc hm => ?_⟩, fun ho hr hF hm => ?_, fun ho ha hi => ?_, fun ho ha => ?_⟩
  · exact hstep _ (by rw [ho, ← hready _ hm]; exact State.issueTile_active hr hs hF ha hw)
  · exact hstep _ (by rw [ho, ← hready _ hm]; exact State.issueTile_chosen hr hs hF ha hc)
  · have slot (h : (p.sq q).firmwareSlot = true) : runs :=
      hstep _ (by rw [ho, ← hready _ hm]; exact State.issueFirmware_of_slot hr hF h)
    exact ⟨fun hs ha hk => slot (Square.firmwareSlot_alone hs ha hk), fun hs hb hc => slot (Square.firmwareSlot_burst hs hb hc),
      fun hs hn => slot (Square.firmwareSlot_service hs hn)⟩
  · exact hstep _ (by rw [ho]; exact State.event_of_allows ha hi)
  · exact hstep (.next p) (by rw [ho]; exact State.event_of_not_allows ha)

end

section
/-! SUPPORT. What is folded over a list leaves the root, where each step of the fold does; so does what an outcome leaves. -/

namespace Sys2Proof.Machine

theorem ptbr_foldl_proj {α β : Type} {g : β → State} {f : β → α → β} (hf : ∀ b a, (g (f b a)).ptbr = (g b).ptbr) (l : List α) (b : β) :
    (g (l.foldl f b)).ptbr = (g b).ptbr := by
  induction l generalizing b with
  | nil => rfl
  | cons a l ih => exact (ih (f b a)).trans (hf b a)

theorem ptbr_foldl {α : Type} {f : State → α → State} (hf : ∀ s a, (f s a).ptbr = s.ptbr) (l : List α) (s : State) :
    (l.foldl f s).ptbr = s.ptbr :=
  ptbr_foldl_proj (g := id) hf l s

theorem ptbr_of_foldlM {α ε : Type} {f : State → α → Except ε State} (hf : ∀ {s a t}, f s a = .ok t → t.ptbr = s.ptbr) {l : List α}
    {s t : State} (h : l.foldlM f s = .ok t) : t.ptbr = s.ptbr := by
  induction l generalizing s with
  | nil => cases h; rfl
  | cons a l ih =>
    rw [List.foldlM_cons] at h
    cases hu : f s a with
    | error e => rw [hu] at h; cases h
    | ok u => rw [hu] at h; exact (ih h).trans (hf hu)

theorem ptbr_of_foldlM_some {α : Type} {f : State → α → Option State} (hf : ∀ {s a t}, f s a = some t → t.ptbr = s.ptbr) {l : List α}
    {s t : State} (h : l.foldlM f s = some t) : t.ptbr = s.ptbr := by
  induction l generalizing s with
  | nil => cases h; rfl
  | cons a l ih =>
    rw [List.foldlM_cons] at h
    obtain ⟨u, hu, h⟩ := Option.bind_eq_some_iff.1 h
    exact (ih h).trans (hf hu)

theorem except_bind_eq_ok {ε α β : Type} {x : Except ε α} {f : α → Except ε β} {b : β} :
    x >>= f = .ok b ↔ ∃ a, x = .ok a ∧ f a = .ok b := by
  cases x with
  | error e => exact ⟨nofun, fun ⟨_, h, _⟩ => nomatch h⟩
  | ok a => exact ⟨fun h => ⟨a, rfl, h⟩, fun ⟨_, h, hb⟩ => by cases h; exact hb⟩

theorem except_map_eq_ok {ε α β : Type} {x : Except ε α} {f : α → β} {b : β} : x.map f = .ok b ↔ ∃ a, x = .ok a ∧ f a = b := by
  cases x with
  | error e => exact ⟨nofun, fun ⟨_, h, _⟩ => nomatch h⟩
  | ok a => exact ⟨fun h => ⟨a, rfl, Except.ok.inj h⟩, fun ⟨_, h, hb⟩ => by cases h; exact congrArg _ hb⟩

theorem except_throw_bind {ε α β : Type} {e : ε} {f : α → Except ε β} : (throw e >>= f) = .error e := rfl

theorem except_pure {ε α : Type} {a : α} : (pure a : Except ε α) = .ok a := rfl

theorem Out.ptbr_of_next {s t : State} (h : Host.Outcome.next (φ := Fault) (ρ := Refusal) s = .next t) : t.ptbr = s.ptbr := by
  cases h; rfl

theorem Out.ptbr_state {o : Out} {s : State} (h : ∀ {t}, o = .next t → t.ptbr = s.ptbr) : (o.state s).ptbr = s.ptbr := by
  cases o with
  | next t => exact h rfl
  | fault f => rfl
  | refused r => rfl

end Sys2Proof.Machine
end

section
/-! SUPPORT. The root of the page tables under every operation of the model but an MTS of PTBR and a cold start: an operation leaves it where the
operations it is made of do. The lemmas stand in the order of the definitions they are about. -/

namespace Sys2Proof.Machine

/-! ## Mem -/

theorem State.ptbr_blkTouch (s : State) (a n : Nat) : (s.blkTouch a n).ptbr = s.ptbr := rfl

theorem State.ptbr_writeRuns (s : State) (l : List (Nat × Byte)) : (s.writeRuns l).ptbr = s.ptbr := (s.writeRuns_keeps l).1

theorem State.ptbr_of_writeBlock {s t : State} {q : Sq} {o : Nat} {bs : List Byte} (h : s.writeBlock q o bs = .ok t) : t.ptbr = s.ptbr :=
  (State.writeBlock_keeps h).1

theorem State.ptbr_of_writeCells {s t : State} {q : Sq} {b : Nat} {l : List (Nat × Byte)} (h : s.writeCells q b l = .ok t) : t.ptbr = s.ptbr := by
  grind [State.writeCells, State.ptbr_writeRuns, ptbr_foldl]

theorem State.ptbr_of_writeStore {s t : State} {q : Sq} {o : Nat} {bs : List Byte} (h : s.writeStore q o bs = .ok t) : t.ptbr = s.ptbr :=
  (State.writeStore_keeps h).1

/-! ## Ops -/

theorem State.ptbr_setCore (s : State) (q : Sq) (v : Vc) (x : VCore) : (s.setCore q v x).ptbr = s.ptbr := rfl

theorem State.ptbr_of_done {s t : State} (h : s.done = .next t) : t.ptbr = s.ptbr := by
  grind [State.done, State.ptbr_retire]

theorem State.ptbr_of_block {s t : State} {i : Instr} (h : s.block i = .next t) : t.ptbr = s.ptbr := (State.block_keeps h).1

theorem State.ptbr_postHeld (s : State) : s.postHeld.ptbr = s.ptbr := s.postHeld_same.2.1

theorem State.ptbr_complete (s : State) (c : Comp) : (s.complete c).ptbr = s.ptbr := (s.complete_same c).2.1

theorem State.ptbr_machineCheck (s : State) (q : Sq) : (s.machineCheck q).ptbr = s.ptbr := (s.machineCheck_same q).2

theorem State.ptbr_closeInv (s : State) (k : Nat) : (s.closeInv k).ptbr = s.ptbr := rfl

theorem State.ptbr_noteEnd (s : State) (inv : Option Nat) (e : TaskEnd) : (s.noteEnd inv e).ptbr = s.ptbr := rfl

theorem State.ptbr_endTask (s : State) (q : Sq) (c : Cx) (code : Nat) : (s.endTask q c code).ptbr = s.ptbr := rfl

theorem State.ptbr_trapEnter (s : State) (q : Sq) (c : Cx) (swc lvl code : Nat) : (s.trapEnter q c swc lvl code).ptbr = s.ptbr :=
  (s.trapEnter_same q c swc lvl code).2

theorem State.ptbr_of_trapSwc {s t : State} {swc code : Nat} (h : s.trapSwc swc code = .next t) : t.ptbr = s.ptbr := by
  grind [State.trapSwc, State.ptbr_trapEnter, State.ptbr_machineCheck]

theorem State.ptbr_of_trap {s t : State} {code : Nat} (h : s.trap code = .next t) : t.ptbr = s.ptbr := (State.trap_keeps h).1

theorem State.ptbr_of_trapBad {s t : State} {badw : Word} {code : Nat} (h : s.trapBad badw code = .next t) : t.ptbr = s.ptbr :=
  (State.trapBad_keeps h).1

theorem State.ptbr_handlerReturn (s : State) : s.handlerReturn.ptbr = s.ptbr := rfl

theorem State.ptbr_serviceEnd (s : State) (q : Sq) (c : Fin 8) : (s.serviceEnd q c).ptbr = s.ptbr := rfl

theorem State.ptbr_deliver (s : State) (q : Sq) (c : Cx) : (s.deliver q c).ptbr = s.ptbr := by
  grind [State.deliver, State.ptbr_trapEnter, State.ptbr_modCtx, State.ptbr_bump]

theorem State.ptbr_engineRecord (s : State) (q : Sq) (c : Cx) (v : Vc) (cause : Nat) : (s.engineRecord q c v cause).ptbr = s.ptbr := by
  grind [State.engineRecord, State.ptbr_modCtx]

theorem State.ptbr_of_orTrap {α : Type} {s t : State} {e : Except Nat α} {k : α → Out}
    (h : s.orTrap e k = .next t) (hk : ∀ {a}, e = .ok a → k a = .next t → t.ptbr = s.ptbr) : t.ptbr = s.ptbr := by
  cases e with
  | ok a => exact hk rfl h
  | error c => exact State.ptbr_of_trap h

/-! ## Translate -/

theorem State.ptbr_of_translate {s t : State} {q : Sq} {who : Option Nat} {n : Need} {va : Nat} {y : Nat}
    (h : s.translate q who n va = .ok (y, t)) : t.ptbr = s.ptbr :=
  (State.translate_same h).2.1

theorem State.ptbr_loseEntries (s : State) (es : List LogEnt) : (s.loseEntries es).ptbr = s.ptbr := rfl

theorem State.ptbr_discardLog (s : State) (p : LogEnt → Bool) : (s.discardLog p).ptbr = s.ptbr := rfl

theorem State.ptbr_shootdown (s : State) (t : TlbiArg) (discard : Bool) : (s.shootdown t discard).ptbr = s.ptbr := (s.shootdown_keeps _ _).1

/-! ## Cache -/

theorem State.ptbr_flit (s : State) (q : Sq) : (s.flit q).ptbr = s.ptbr := by
  grind [State.flit, State.ptbr_modSq]

theorem State.ptbr_writeBack (s : State) (q : Sq) (p : DLine → Bool) : (s.writeBack q p).ptbr = s.ptbr := (s.writeBack_keeps q p).1

theorem State.ptbr_dropClean (s : State) (q : Sq) (p : DLine → Bool) : (s.dropClean q p).ptbr = s.ptbr := by
  grind [State.dropClean, State.ptbr_writeBack, State.ptbr_modSq]

theorem State.ptbr_evictLine (s : State) (q : Sq) (tag : Nat) : (s.evictLine q tag).ptbr = s.ptbr := (s.evictLine_keeps q tag).1

theorem State.ptbr_fillLine (s : State) (q : Sq) (tag pa : Nat) : (s.fillLine q tag pa).ptbr = s.ptbr := (s.fillLine_keeps q tag pa).1

theorem State.ptbr_putLine (s : State) (q : Sq) (c : Cx) (va : Nat) (bs : List Byte) : (s.putLine q c va bs).ptbr = s.ptbr := rfl

theorem State.ptbr_refreshWord (s : State) (q : Sq) (va pa : Nat) : (s.refreshWord q va pa).ptbr = s.ptbr := rfl

/-! ## Tokens -/

theorem State.ptbr_applyPairs (s : State) (n : Fin 8) (ps : List (Word × Int)) : (s.applyPairs n ps).ptbr = s.ptbr := by
  grind [State.applyPairs, ptbr_foldl]

theorem State.ptbr_applyEntry (s : State) (e : LogEnt) : (s.applyEntry e).ptbr = s.ptbr := by
  grind [State.applyEntry, State.ptbr_loseEntries, → State.ptbr_of_writeBlock, State.ptbr_writeHome, ptbr_foldl]

theorem State.ptbr_commitPassed (s : State) : s.commitPassed.ptbr = s.ptbr := by
  grind [State.commitPassed, State.ptbr_refreshWord, State.ptbr_applyEntry, ptbr_foldl]

theorem State.ptbr_deliverLog (s : State) (q : Sq) (p : LogEnt → Bool) : (s.deliverLog q p).ptbr = s.ptbr := rfl

theorem State.ptbr_dropWrites (s : State) (q : Sq) (c : Cx) (n : Fin 8) : (s.dropWrites q c n).ptbr = s.ptbr := by
  grind [State.dropWrites, State.ptbr_writeBack, ptbr_foldl]

/-! ## Operands -/

theorem State.ptbr_of_access {s t : State} {sp : Fin 4} {ea : Word} {size a : Nat} {n : Need}
    (h : s.access sp ea size n = .at a t) : t.ptbr = s.ptbr := by
  grind [State.access, → State.ptbr_of_translate]

theorem State.ptbr_of_withAccess {s t : State} {i : Instr} {sp : Fin 4} {ea : Word} {size : Nat} {n : Need} {k : Nat → State → Out}
    (h : s.withAccess i sp ea size n k = .next t) (hk : ∀ {a u}, u.ptbr = s.ptbr → k a u = .next t → t.ptbr = s.ptbr) : t.ptbr = s.ptbr := by
  grind [State.withAccess, → State.ptbr_of_access, → State.ptbr_of_block, → State.ptbr_of_trap]

/-! ## Local -/

theorem State.ptbr_claim (s : State) (q : Sq) (v : Vc) (c : Cx) : (s.claim q v c).ptbr = s.ptbr := by
  grind [State.claim, State.ptbr_modCore, State.ptbr_modArr]

theorem State.ptbr_resetHnd (s : State) (q : Sq) (v : Vc) (h : Fin 64) (f : Hnd → Hnd) : (s.resetHnd q v h f).ptbr = s.ptbr := rfl

theorem State.ptbr_modHnd (s : State) (q : Sq) (v : Vc) (h : Fin 64) (f : Hnd → Hnd) : (s.modHnd q v h f).ptbr = s.ptbr := rfl

theorem State.ptbr_partials (s : State) (q : Sq) (c : Cx) (all : Bool) : (s.partials q c all).ptbr = s.ptbr := by
  grind [State.partials, State.ptbr_modCore, ptbr_foldl]

/-! ## Sched -/

theorem State.ptbr_addEdges (s : State) (es : List (Nat × Edge)) : (s.addEdges es).ptbr = s.ptbr := rfl

theorem State.ptbr_dropEdges (s : State) (es : List (Nat × Edge)) : (s.dropEdges es).ptbr = s.ptbr := rfl

/-! ## Time -/

theorem ptbr_of_execTmMtt {d : Tm} {a : Reg} {s t : State} (h : execTmMtt d a s = .next t) : t.ptbr = s.ptbr := by
  grind [execTmMtt, State.ptbr_wT, → State.ptbr_of_done, → State.ptbr_of_trap]

theorem ptbr_of_execTmEdge {d a : Tm} {e : Fin 16} {n : Fin 8} {s t : State} (h : execTmEdge d a e n s = .next t) : t.ptbr = s.ptbr := by
  grind [execTmEdge, State.ptbr_wT, → State.ptbr_of_done, → State.ptbr_of_trap]

theorem ptbr_of_execTmAddc {d : Tm} {i : Fin 4} {k : BitVec 16} {s t : State} (h : execTmAddc d i k s = .next t) : t.ptbr = s.ptbr := by
  grind [execTmAddc, State.ptbr_wT, → State.ptbr_of_done, → State.ptbr_of_trap]

theorem ptbr_of_execTmHold {a : Tm} {b : Reg} {n : Fin 8} {s t : State} (h : execTmHold a b n s = .next t) : t.ptbr = s.ptbr := by
  grind [execTmHold, State.ptbr_modSq, → State.ptbr_of_done, → State.ptbr_of_block, → State.ptbr_of_trap]

theorem ptbr_of_execTmDrop {a : Tm} {b : Reg} {n : Fin 8} {s t : State} (h : execTmDrop a b n s = .next t) : t.ptbr = s.ptbr := by
  grind [execTmDrop, State.ptbr_modSq, → State.ptbr_of_done, State.ptbr_dropWrites, → State.ptbr_of_block, → State.ptbr_of_trap]

theorem ptbr_of_execTmMove {d a : Tm} {b : Reg} {n : Fin 8} {s t : State} (h : execTmMove d a b n s = .next t) : t.ptbr = s.ptbr := by
  grind [execTmMove, State.ptbr_dropWrites, State.ptbr_modSq, → State.ptbr_of_block, → State.ptbr_of_done, → State.ptbr_of_trap]

theorem State.ptbr_of_waitPast {s : State} {i : Instr} {n : Fin 8} {t : Word} {first : Bool} {t' : State}
    (h : s.waitPast i n t first = .next t') : t'.ptbr = s.ptbr := by
  grind [State.waitPast, → State.ptbr_of_block, State.ptbr_dropClean, → State.ptbr_of_done, → State.ptbr_of_trap]

theorem ptbr_of_execTmBar {a : Tm} {n : Fin 8} {s t : State} (h : execTmBar a n s = .next t) : t.ptbr = s.ptbr := by
  grind [execTmBar, State.ptbr_dropWrites, State.ptbr_modSq, → State.ptbr_of_waitPast, → State.ptbr_of_block, → State.ptbr_of_trap]

theorem State.ptbr_stallTrap (s : State) (q : Sq) (c : Cx) (code : Nat) : (s.stallTrap q c code).ptbr = s.ptbr := by
  grind [State.stallTrap, State.ptbr_trapEnter, State.ptbr_machineCheck, State.ptbr_deliver]

/-! ## Array -/

theorem State.ptbr_modACore (s : State) (q : Sq) (v : Vc) (f : ACore → ACore) : (s.modACore q v f).ptbr = s.ptbr := rfl

theorem State.ptbr_beginTerm (s : State) (q : Sq) (v : Vc) : (s.beginTerm q v).ptbr = s.ptbr := by
  grind [State.beginTerm, State.ptbr_modACore, State.ptbr_modArr]

theorem State.ptbr_endTerm (s : State) (q : Sq) : (s.endTerm q).ptbr = s.ptbr := by
  grind [State.endTerm, State.ptbr_modArr, State.ptbr_modACore]

theorem State.ptbr_turnTerm (s : State) (q : Sq) (v : Vc) : (s.turnTerm q v).ptbr = s.ptbr := by
  grind [State.turnTerm, State.ptbr_beginTerm, State.ptbr_endTerm]

theorem State.ptbr_yieldIdle (s : State) (q : Sq) : (s.yieldIdle q).ptbr = s.ptbr := by
  grind [State.yieldIdle, State.ptbr_endTerm]

theorem State.ptbr_freeBufs (s : State) (q : Sq) (c : Cx) (b : BitVec 2) : (s.freeBufs q c b).ptbr = s.ptbr := by
  grind [State.freeBufs, State.ptbr_modArr, State.ptbr_yieldIdle]

theorem State.ptbr_settleRelease (s : State) (q : Sq) (v : Vc) : (s.settleRelease q v).ptbr = s.ptbr := by
  grind [State.settleRelease, State.ptbr_endTerm, State.ptbr_modACore, State.ptbr_freeBufs]

theorem ptbr_of_execLeaseGrant {q : Sq} {s t : State} (h : execLeaseGrant q s = .next t) : t.ptbr = s.ptbr := by
  grind [execLeaseGrant, State.ptbr_beginTerm, State.ptbr_yieldIdle]

theorem State.ptbr_failCmdHnds (s : State) (q : Sq) (v : Vc) (ms : List ACmd) (cause : Nat) : (s.failCmdHnds q v ms cause).ptbr = s.ptbr := rfl

theorem State.ptbr_arrayFault (s : State) (q : Sq) (v : Vc) (cause steps : Nat) : (s.arrayFault q v cause steps).ptbr = s.ptbr := by
  grind [State.arrayFault, State.ptbr_failCmdHnds, State.ptbr_modACore, State.ptbr_endTerm, State.ptbr_engineRecord, State.ptbr_settleRelease]

theorem State.ptbr_putSpec (s : State) (q : Sq) (v : Vc) (x : Word) : (s.putSpec q v x).ptbr = s.ptbr := rfl

theorem ptbr_of_execSpecifierWrite {q : Sq} {v : Vc} {x : Word} {s t : State} (h : execSpecifierWrite q v x s = .next t) : t.ptbr = s.ptbr := by
  grind [execSpecifierWrite, State.ptbr_putSpec]

theorem State.ptbr_acceptCmd (s : State) (q : Sq) (v : Vc) (m : ACmd) : (s.acceptCmd q v m).ptbr = s.ptbr := by
  grind [State.acceptCmd, State.ptbr_arrayFault, State.ptbr_modACore]

theorem State.ptbr_offerCmd (s : State) (q : Sq) (v : Vc) (c : Cx) (id : Nat) (x : Word) : (s.offerCmd q v c id x).ptbr = s.ptbr := by
  grind [State.offerCmd, State.ptbr_acceptCmd, State.ptbr_modACore, State.ptbr_modCtx]

theorem State.ptbr_of_command {s t : State} {q : Sq} {v : Vc} {op : Nat} {x : Word} (h : s.command q v op x = .next t) : t.ptbr = s.ptbr := by
  grind [State.command, State.ptbr_offerCmd]

theorem State.ptbr_leaseFault (s : State) (q : Sq) (v : Vc) (cause : Nat) : (s.leaseFault q v cause).ptbr = s.ptbr := by
  rw [State.leaseFault, State.ptbr_arrayFault]

theorem State.ptbr_leaseReq (s : State) (q : Sq) (v : Vc) (x : Word) : (s.leaseReq q v x).ptbr = s.ptbr := by
  grind [State.leaseReq, State.ptbr_modACore, State.ptbr_yieldIdle, State.ptbr_leaseFault]

theorem State.ptbr_leaseRel (s : State) (q : Sq) (v : Vc) (x : Word) : (s.leaseRel q v x).ptbr = s.ptbr := by
  grind [State.leaseRel, State.ptbr_modACore, State.ptbr_settleRelease, State.ptbr_freeBufs]

theorem State.ptbr_leaseClr (s : State) (q : Sq) (v : Vc) (x : Word) : (s.leaseClr q v x).ptbr = s.ptbr := rfl

theorem State.ptbr_leaseWord (s : State) (q : Sq) (v : Vc) (x : Word) : (s.leaseWord q v x).ptbr = s.ptbr := by
  grind [State.leaseWord, State.ptbr_leaseClr, State.ptbr_leaseRel, State.ptbr_leaseReq, State.ptbr_leaseFault]

theorem ptbr_of_execLeaseRequest {q : Sq} {v : Vc} {x : Word} {s t : State} (h : execLeaseRequest q v x s = .next t) : t.ptbr = s.ptbr := by
  grind [execLeaseRequest, State.ptbr_leaseWord]

theorem ptbr_of_execLeaseRelease {q : Sq} {v : Vc} {x : Word} {s t : State} (h : execLeaseRelease q v x s = .next t) : t.ptbr = s.ptbr := by
  grind [execLeaseRelease, State.ptbr_leaseWord]

theorem ptbr_of_execLeaseClear {q : Sq} {v : Vc} {x : Word} {s t : State} (h : execLeaseClear q v x s = .next t) : t.ptbr = s.ptbr := by
  grind [execLeaseClear, State.ptbr_leaseWord]

theorem ptbr_of_execArrayDeferredAccept {q : Sq} {v : Vc} {s t : State} (h : execArrayDeferredAccept q v s = .next t) : t.ptbr = s.ptbr := by
  grind [execArrayDeferredAccept, State.ptbr_modACore, State.ptbr_acceptCmd]

theorem ptbr_of_execArrayStall {q : Sq} {v : Vc} {s t : State} (h : execArrayStall q v s = .next t) : t.ptbr = s.ptbr := by
  grind [execArrayStall, State.ptbr_arrayFault, State.ptbr_modACore, State.ptbr_acceptCmd]

theorem State.ptbr_pathBytes (s : State) (pa : Nat) (bs : List Byte) : (s.pathBytes pa bs).2.ptbr = s.ptbr := by
  grind [State.pathBytes, State.ptbr_bump, State.ptbr_blkTouch]

theorem State.ptbr_of_globBytes {s t : State} {q : Sq} {who : Option Nat} {fuel va n : Nat} {y : List Byte}
    (h : s.globBytes q who fuel va n = .ok (y, t)) : t.ptbr = s.ptbr := by
  induction fuel generalizing s va n y with
  | zero => grind [State.globBytes]
  | succ fuel ih => grind [State.globBytes, → State.ptbr_of_translate, State.ptbr_pathBytes]

theorem ptbr_of_readSpans {f : State → Nat → Nat → Except XStop (List Byte × State)} {s t : State} {l : List (Nat × Nat)} {y : Spans}
    (hf : ∀ {s o n bs t}, f s o n = .ok (bs, t) → t.ptbr = s.ptbr) (h : readSpans f s l = .ok (y, t)) : t.ptbr = s.ptbr := by
  induction l generalizing s y with
  | nil => grind [readSpans]
  | cons e l ih => grind [readSpans]

theorem State.ptbr_of_readOp {s t : State} {q : Sq} {v : Vc} {m : ACmd} {p : Spec} {n : Nat} {l : List (Nat × Nat)} {y : Spans}
    (h : s.readOp q v m p n l = .ok (y, t)) : t.ptbr = s.ptbr := by
  simp only [State.readOp] at h
  split at h
  · obtain ⟨a, ha, h⟩ := except_bind_eq_ok.1 h
    refine ptbr_of_readSpans (fun {s o n bs t} h => ?_) h
    obtain ⟨b, hb, ⟨⟩⟩ := except_map_eq_ok.1 h
    rfl
  · repeat' split at h
    all_goals cases h
    rfl
  · obtain ⟨a, ha, h⟩ := except_bind_eq_ok.1 h
    obtain ⟨r, hr, h⟩ := except_bind_eq_ok.1 h
    have e : r.2.ptbr = s.ptbr := by
      refine ptbr_of_readSpans (fun {s o n bs t} h => ?_) hr
      obtain ⟨b, hb, ⟨⟩⟩ := except_map_eq_ok.1 h
      rfl
    cases h
    split
    · exact e
    · exact e
  · obtain ⟨y, hy, h⟩ := except_bind_eq_ok.1 h
    refine ptbr_of_readSpans (fun {s o n bs t} h => ?_) h
    split at h
    all_goals cases h
    rfl
  · obtain ⟨y, hy, h⟩ := except_bind_eq_ok.1 h
    exact ptbr_of_readSpans (fun h => State.ptbr_of_globBytes h) h

theorem State.ptbr_of_readTile {s t : State} {q : Sq} {v : Vc} {m : ACmd} {b : Nat} {y : Spans}
    (h : s.readTile q v m b = .ok (y, t)) : t.ptbr = s.ptbr := by
  simp only [State.readTile] at h
  repeat' split at h
  · obtain ⟨⟨l, u⟩, hu, ⟨⟩⟩ := except_map_eq_ok.1 h
    exact State.ptbr_of_readOp hu
  all_goals exact State.ptbr_of_readOp h

theorem State.ptbr_dropTile (s : State) (q : Sq) (v : Vc) (h : Fin 64) : (s.dropTile q v h).ptbr = s.ptbr := rfl

theorem State.ptbr_of_globWrite {s t : State} {q : Sq} {who : Option Nat} {fuel va : Nat} {bs : List Byte}
    (h : s.globWrite q who fuel va bs = .ok t) : t.ptbr = s.ptbr := by
  induction fuel generalizing s va bs with
  | zero => grind [State.globWrite]
  | succ fuel ih => grind [State.globWrite, → State.ptbr_of_translate, State.ptbr_writeHome]

theorem State.ptbr_of_writeOp {s t : State} {q : Sq} {v : Vc} {m : ACmd} {p : Spec} {n : Nat} {mine : Bool} {ws : List (Nat × Byte)}
    (h : s.writeOp q v m p n mine ws = .ok t) : t.ptbr = s.ptbr := by
  simp only [State.writeOp] at h
  split at h
  · obtain ⟨a, ha, h⟩ := except_bind_eq_ok.1 h
    cases h
    exact ptbr_foldl (fun s r => s.ptbr_writeHome _ _) _ _
  · obtain ⟨y, hy, h⟩ := except_bind_eq_ok.1 h
    split at h
    · cases h
    · refine ptbr_of_foldlM (fun {s r t} h => ?_) h
      grind [→ State.ptbr_of_writeStore]
  · obtain ⟨y, hy, h⟩ := except_bind_eq_ok.1 h
    split at h
    · cases h
    · exact ptbr_of_foldlM (fun h => State.ptbr_of_globWrite h) h

theorem State.ptbr_setArr (s : State) (q : Sq) (a : Arr) : (s.setArr q a).ptbr = s.ptbr := rfl

theorem State.ptbr_of_stepEffect {s t : State} {q : Sq} {v : Vc} {m : ACmd} {y : Cond} (h : s.stepEffect q v m = .ok (t, y)) : t.ptbr = s.ptbr := by
  simp only [State.stepEffect, except_pure, except_throw_bind] at h
  split at h
  all_goals
    grind [except_bind_eq_ok, → State.ptbr_of_readOp, → State.ptbr_of_writeOp, → State.ptbr_of_readTile, State.ptbr_modArr, State.ptbr_setArr]

theorem State.ptbr_takeHnds (s : State) (q : Sq) (v : Vc) (m : ACmd) : (s.takeHnds q v m).ptbr = s.ptbr := by
  grind [State.takeHnds, State.ptbr_modHnd, ptbr_foldl]

theorem State.ptbr_fetchAhead (s : State) (q : Sq) (v : Vc) (m : ACmd) : (s.fetchAhead q v m).ptbr = s.ptbr := by
  grind [State.fetchAhead, → State.ptbr_of_readTile, State.ptbr_modArr]

theorem ptbr_of_execArrayStepRetire {q : Sq} {s t : State} (h : execArrayStepRetire q s = .next t) : t.ptbr = s.ptbr := by
  grind [execArrayStepRetire, State.ptbr_fetchAhead, State.ptbr_modArr, State.ptbr_endTerm, State.ptbr_modACore, State.ptbr_takeHnds,
      → State.ptbr_of_stepEffect, State.ptbr_arrayFault]

theorem State.ptbr_postArq (s : State) (q : Sq) (v : Vc) (c : Cx) (w : Word) : (s.postArq q v c w).ptbr = s.ptbr := by
  grind [State.postArq, State.ptbr_modACore, State.ptbr_modCore]

theorem State.ptbr_refillArq (s : State) (q : Sq) (v : Vc) : (s.refillArq q v).ptbr = s.ptbr := rfl

theorem State.ptbr_retireCmd (s : State) (q : Sq) (v : Vc) : (s.retireCmd q v).ptbr = s.ptbr := by
  grind [State.retireCmd, State.ptbr_settleRelease, State.ptbr_yieldIdle, State.ptbr_modACore]

theorem State.ptbr_of_cmdTail {s t : State} {q : Sq} {v : Vc} {m : ACmd} (h : s.cmdTail q v m = .ok t) : t.ptbr = s.ptbr := by
  simp only [State.cmdTail, except_pure] at h
  split at h
  · obtain ⟨u, hu, ⟨⟩⟩ := except_bind_eq_ok.1 h
    rw [← State.ptbr_of_writeOp hu]
    grind [State.ptbr_turnTerm, State.ptbr_retireCmd, State.ptbr_modArr, State.ptbr_postArq, State.ptbr_fetchAhead, State.ptbr_modHnd, ptbr_foldl]
  · cases h
    grind [State.ptbr_turnTerm, State.ptbr_retireCmd, State.ptbr_modArr, State.ptbr_postArq, State.ptbr_fetchAhead, State.ptbr_modHnd, ptbr_foldl]

theorem ptbr_of_execArrayCommandRetire {q : Sq} {s t : State} (h : execArrayCommandRetire q s = .next t) : t.ptbr = s.ptbr := by
  grind [execArrayCommandRetire, State.ptbr_arrayFault, → State.ptbr_of_cmdTail, State.ptbr_retireCmd]

/-! ## Control -/

theorem State.ptbr_of_branch {s t : State} {p : Pr} {sense : Bool} {o : BitVec 21} {n : Bool}
    (h : s.branch p sense o n = .next t) : t.ptbr = s.ptbr := by
  grind [State.branch, State.ptbr_modMe]

theorem ptbr_of_execCall {o : BitVec 21} {s t : State} (h : execCall o s = .next t) : t.ptbr = s.ptbr := by
  grind [execCall, State.ptbr_modMe]

theorem State.ptbr_of_jump {s t : State} {link : Option Reg} {a : Reg} {squash : Bool} (h : s.jump link a squash = .next t) : t.ptbr = s.ptbr := by
  grind [State.jump, State.ptbr_modMe, → State.ptbr_of_trap]

theorem State.ptbr_runEnds (s : State) (q : Sq) (c : Fin 8) : (s.runEnds q c).ptbr = s.ptbr := rfl

theorem ptbr_of_execYield {s t : State} (h : execYield s = .next t) : t.ptbr = s.ptbr := by
  grind [execYield, State.ptbr_modMe, State.ptbr_runEnds, State.ptbr_retire, State.ptbr_modSq]

theorem ptbr_of_execExit {s t : State} (h : execExit s = .next t) : t.ptbr = s.ptbr := by
  grind [execExit, State.ptbr_modMe, State.ptbr_runEnds, State.ptbr_partials, State.ptbr_retire, State.ptbr_deliver, → State.ptbr_of_block,
      → State.ptbr_of_done]

/-! ## LoadStore -/

theorem State.ptbr_performPosted (s : State) (q : Sq) (c : Cx) : (s.performPosted q c).ptbr = s.ptbr := by
  grind [State.performPosted, State.ptbr_fillLine, State.ptbr_putLine, State.ptbr_modCtx]

theorem State.ptbr_drainPosted (s : State) (q : Sq) (c : Cx) : (s.drainPosted q c).ptbr = s.ptbr := by
  grind [State.drainPosted, State.ptbr_performPosted, ptbr_foldl]

theorem State.ptbr_performLoad (s : State) (q : Sq) (l : LoadFlight) : (s.performLoad q l).2.ptbr = s.ptbr := by
  grind [State.performLoad, State.ptbr_fillLine]

theorem State.ptbr_performLoads (s : State) (q : Sq) (c : Cx) : (s.performLoads q c).ptbr = s.ptbr := by
  simp only [State.performLoads, State.ptbr_modCtx]
  exact ptbr_foldl_proj (g := Prod.snd) (f := fun (r : List LoadFlight × State) l => (_, (r.2.performLoad q l).2))
    (fun r l => r.2.ptbr_performLoad q l) _ _

theorem State.ptbr_performAll (s : State) (q : Sq) (c : Cx) : (s.performAll q c).ptbr = s.ptbr := by
  grind [State.performAll, State.ptbr_performLoads, State.ptbr_drainPosted, State.ptbr_writeBack]

theorem State.ptbr_nextPo (s : State) : (s.nextPo).2.ptbr = s.ptbr := rfl

theorem State.ptbr_of_load {s t : State} {i : Instr} {sp : Fin 4} {ea : Word} {n : Nat} {d : Reg} {a : Nat}
    (h : s.load i sp ea n d a = .next t) : t.ptbr = s.ptbr := by
  grind [State.load, State.ptbr_performLoads, State.ptbr_modMe, State.ptbr_nextPo, → State.ptbr_of_block, → State.ptbr_of_trap, State.ptbr_wS,
      → State.ptbr_of_done]

theorem State.ptbr_of_execLoad {s t : State} {i : Instr} {d b : Reg} {sp : Fin 4} {o : BitVec 14} {n : Nat}
    (h : s.execLoad i d b sp o n = .next t) : t.ptbr = s.ptbr :=
  State.ptbr_of_withAccess h fun hu h => (State.ptbr_of_load h).trans hu

theorem State.ptbr_fixLoads (s : State) (a : Nat) : (s.fixLoads a).ptbr = s.ptbr := rfl

theorem State.ptbr_of_logStore {s t : State} {sp : Fin 4} {ea : Word} {a n v : Nat} {scope : Fin 8}
    (h : s.logStore sp ea a n v scope = .next t) : t.ptbr = s.ptbr := by
  grind [State.logStore, State.ptbr_modSq, → State.ptbr_of_done, State.ptbr_fixLoads, State.ptbr_nextPo, → State.ptbr_of_trap]

theorem State.ptbr_of_store {s t : State} {i : Instr} {sp : Fin 4} {ea : Word} {n : Nat} {v : Word} {a : Nat}
    (h : s.store i sp ea n v a = .next t) : t.ptbr = s.ptbr := by
  unfold State.store at h
  split at h
  · grind [→ State.ptbr_of_trap, → State.ptbr_of_logStore]
  · simp only at h
    split at h
    · grind [→ State.ptbr_of_block, → State.ptbr_of_done, State.ptbr_nextPo, State.ptbr_modMe]
    split at h
    · refine State.ptbr_of_orTrap h fun hu h => ?_
      rw [State.ptbr_of_done h, State.ptbr_of_writeStore hu, State.ptbr_performLoads]
    · rw [State.ptbr_of_done h, State.ptbr_writeHome, State.ptbr_performLoads]

theorem State.ptbr_of_execStore {s t : State} {i : Instr} {sp : Fin 4} {ea : Word} {n : Nat} {v : Word}
    (h : s.execStore i sp ea n v = .next t) : t.ptbr = s.ptbr :=
  State.ptbr_of_withAccess h fun hu h => (State.ptbr_of_store h).trans hu

theorem State.ptbr_settle (s : State) (t : TlbiArg) : (s.settle t).ptbr = s.ptbr := by
  grind [State.settle, State.ptbr_performLoads, State.ptbr_drainPosted, ptbr_foldl]

theorem State.ptbr_tlbInvalidate (s : State) (t : TlbiArg) (discard : Bool) : (s.tlbInvalidate t discard).ptbr = s.ptbr := by
  grind [State.tlbInvalidate, State.ptbr_settle, State.ptbr_shootdown]

theorem State.ptbr_flushLine (s : State) (q : Sq) (va : Nat) : (s.flushLine q va).ptbr = s.ptbr := by
  grind [State.flushLine, State.ptbr_evictLine]

theorem State.ptbr_of_atomic {s t : State} {i : Instr} {d a b : Reg} {sp : Fin 4} {z : Bool} {f : AFun}
    (h : s.atomic i d a b sp z f = .next t) : t.ptbr = s.ptbr := by
  unfold State.atomic at h
  refine State.ptbr_of_withAccess h fun {n u} hu h => ?_
  rw [← hu]
  split at h
  · exact State.ptbr_of_trap h
  · simp only at h
    split at h
    · grind [→ State.ptbr_of_trap, → State.ptbr_of_block, → State.ptbr_of_done, State.ptbr_performLoads, State.ptbr_drainPosted,
        State.ptbr_flushLine, State.ptbr_writeHome, State.ptbr_nextPo, State.ptbr_modMe]
    · grind [→ State.ptbr_of_trap, → State.ptbr_of_orTrap, → State.ptbr_of_done, State.ptbr_performLoads, → State.ptbr_of_writeStore,
        State.ptbr_writeHome, State.ptbr_wS]

theorem ptbr_of_execSwap {d a b : Reg} {sp : Fin 4} {z : Bool} {s t : State} (h : execSwap d a b sp z s = .next t) : t.ptbr = s.ptbr :=
  State.ptbr_of_atomic h

theorem ptbr_of_execCas {d a b : Reg} {sp : Fin 4} {z : Bool} {s t : State} (h : execCas d a b sp z s = .next t) : t.ptbr = s.ptbr :=
  State.ptbr_of_atomic h

theorem ptbr_of_execAadd {d a b : Reg} {sp : Fin 4} {z : Bool} {s t : State} (h : execAadd d a b sp z s = .next t) : t.ptbr = s.ptbr :=
  State.ptbr_of_atomic h

theorem ptbr_of_execAand {d a b : Reg} {sp : Fin 4} {z : Bool} {s t : State} (h : execAand d a b sp z s = .next t) : t.ptbr = s.ptbr :=
  State.ptbr_of_atomic h

theorem ptbr_of_execAor {d a b : Reg} {sp : Fin 4} {z : Bool} {s t : State} (h : execAor d a b sp z s = .next t) : t.ptbr = s.ptbr :=
  State.ptbr_of_atomic h

theorem ptbr_of_execAxor {d a b : Reg} {sp : Fin 4} {z : Bool} {s t : State} (h : execAxor d a b sp z s = .next t) : t.ptbr = s.ptbr :=
  State.ptbr_of_atomic h

theorem ptbr_of_execAmin {d a b : Reg} {sp : Fin 4} {z : Bool} {s t : State} (h : execAmin d a b sp z s = .next t) : t.ptbr = s.ptbr :=
  State.ptbr_of_atomic h

theorem ptbr_of_execAmax {d a b : Reg} {sp : Fin 4} {z : Bool} {s t : State} (h : execAmax d a b sp z s = .next t) : t.ptbr = s.ptbr :=
  State.ptbr_of_atomic h

theorem ptbr_of_execAminu {d a b : Reg} {sp : Fin 4} {z : Bool} {s t : State} (h : execAminu d a b sp z s = .next t) : t.ptbr = s.ptbr :=
  State.ptbr_of_atomic h

theorem ptbr_of_execAmaxu {d a b : Reg} {sp : Fin 4} {z : Bool} {s t : State} (h : execAmaxu d a b sp z s = .next t) : t.ptbr = s.ptbr :=
  State.ptbr_of_atomic h

theorem ptbr_of_execLoadValueDelivery {q : Sq} {c : Cx} {s t : State} (h : execLoadValueDelivery q c s = .next t) : t.ptbr = s.ptbr := by
  grind [execLoadValueDelivery, State.ptbr_modCtx, State.ptbr_performLoad]

/-! ## Emit -/

theorem State.ptbr_of_readWord {s t : State} {va : Nat} {y : Nat} (h : s.readWord va = .ok (y, t)) : t.ptbr = s.ptbr := by
  grind [State.readWord, State.ptbr_fillLine, State.ptbr_performLoads, → State.ptbr_of_translate]

theorem State.ptbr_of_readTemplate {s t : State} {va : Nat} {y : BitVec 192} (h : s.readTemplate va = .ok (y, t)) : t.ptbr = s.ptbr := by
  obtain ⟨⟨w0, s0⟩, h0, h⟩ := except_bind_eq_ok.1 h
  obtain ⟨⟨w1, s1⟩, h1, h⟩ := except_bind_eq_ok.1 h
  obtain ⟨⟨w2, s2⟩, h2, h⟩ := except_bind_eq_ok.1 h
  cases h
  rw [State.ptbr_of_readWord h2, State.ptbr_of_readWord h1, State.ptbr_of_readWord h0]

theorem State.ptbr_enqueue (s : State) (v : Vc) (w : BitVec 192) : (s.enqueue v w).ptbr = s.ptbr := by
  grind [State.enqueue, State.ptbr_modCore, State.ptbr_modMe, State.ptbr_claim]

theorem State.ptbr_of_emitDone {s t : State} (h : s.emitDone = .next t) : t.ptbr = s.ptbr := by
  grind [State.emitDone, State.ptbr_retire, State.ptbr_modMe, State.ptbr_modSq, → State.ptbr_of_done]

theorem State.ptbr_of_emitTrap {s t : State} {i : Instr} {slot m cause : Nat} (h : s.emitTrap i slot m cause = .next t) : t.ptbr = s.ptbr :=
  State.ptbr_of_trapBad h

theorem State.ptbr_of_emitTo {s t : State} {i : Instr} {vs : List Vc} {a : Reg} {patchOf : Option (Fin 8 × Fin 4 × Word)}
    (h : s.emitTo i vs a patchOf = .next t) : t.ptbr = s.ptbr := by
  unfold State.emitTo at h
  simp only at h
  split at h
  · exact State.ptbr_of_trap h
  split at h
  · exact State.ptbr_of_block h
  · exact State.ptbr_of_trap h
  next w u hu =>
    rw [← State.ptbr_of_readTemplate hu]
    grind [→ State.ptbr_of_block, → State.ptbr_of_emitTrap, → State.ptbr_of_emitDone, ptbr_foldl, State.ptbr_enqueue]

theorem ptbr_of_execEmit {v : Vc} {a : Reg} {s t : State} (h : execEmit v a s = .next t) : t.ptbr = s.ptbr := State.ptbr_of_emitTo h

theorem ptbr_of_execEmitP {v : Vc} {a b : Reg} {k : Fin 8} {f : Fin 4} {s t : State} (h : execEmitP v a b k f s = .next t) : t.ptbr = s.ptbr :=
  State.ptbr_of_emitTo h

theorem ptbr_of_execEmitBc {a : Reg} {m : BitVec 4} {s t : State} (h : execEmitBc a m s = .next t) : t.ptbr = s.ptbr :=
  State.ptbr_of_emitTo h

theorem ptbr_of_execEqWait {v : Vc} {n : Fin 65} {s t : State} (h : execEqWait v n s = .next t) : t.ptbr = s.ptbr := by
  grind [execEqWait, → State.ptbr_of_block, → State.ptbr_of_emitDone]

theorem ptbr_of_execEqStat {v : Vc} {d : Reg} {s t : State} (h : execEqStat v d s = .next t) : t.ptbr = s.ptbr := by
  grind [execEqStat, State.ptbr_wS, → State.ptbr_of_emitDone]

/-! ## Handles -/

theorem State.ptbr_of_withHandle {s t : State} {i : Instr} {a : Reg} {k : Vc → Fin 64 → Hnd → Out}
    (h : s.withHandle i a k = .next t) (hk : ∀ {v n y}, k v n y = .next t → t.ptbr = s.ptbr) : t.ptbr = s.ptbr := by
  grind [State.withHandle, → State.ptbr_of_trap, → State.ptbr_of_trapBad]

theorem State.ptbr_take (s : State) (v : Vc) : (s.take v).ptbr = s.ptbr := by
  grind [State.take, State.ptbr_claim]

theorem ptbr_of_execHWait {a : Reg} {st : Fin 5} {s t : State}
    (h : execHWait a st s = .next t) : t.ptbr = s.ptbr := State.ptbr_of_withHandle h fun h => by
  grind [→ State.ptbr_of_trap, → State.ptbr_of_block, → State.ptbr_of_done, State.ptbr_take]

theorem ptbr_of_execHStat {d a : Reg} {s t : State} (h : execHStat d a s = .next t) : t.ptbr = s.ptbr := State.ptbr_of_withHandle h fun h => by
  grind [→ State.ptbr_of_done, State.ptbr_wS, State.ptbr_take]

theorem ptbr_of_execHFree {a : Reg} {s t : State} (h : execHFree a s = .next t) : t.ptbr = s.ptbr := State.ptbr_of_withHandle h fun h => by
  grind [→ State.ptbr_of_trap, → State.ptbr_of_block, → State.ptbr_of_done, State.ptbr_resetHnd, State.ptbr_dropTile, State.ptbr_take]

theorem ptbr_of_execHBind {a b : Reg} {s t : State} (h : execHBind a b s = .next t) : t.ptbr = s.ptbr := State.ptbr_of_withHandle h fun h => by
  grind [→ State.ptbr_of_trap, → State.ptbr_of_block, → State.ptbr_of_done, State.ptbr_resetHnd, State.ptbr_dropTile, State.ptbr_take]

theorem State.ptbr_of_setKeep {s t : State} {i : Instr} {a : Reg} {k : Bool}
    (h : s.setKeep i a k = .next t) : t.ptbr = s.ptbr := State.ptbr_of_withHandle h fun h => by
  grind [→ State.ptbr_of_trap, → State.ptbr_of_done, State.ptbr_modHnd, State.ptbr_take]

theorem ptbr_of_execFmtSet {a b : Reg} {s t : State} (h : execFmtSet a b s = .next t) : t.ptbr = s.ptbr := by
  grind [execFmtSet, State.ptbr_take, State.ptbr_modCore, → State.ptbr_of_done, → State.ptbr_of_block, → State.ptbr_of_trapBad,
      → State.ptbr_of_trap]

theorem ptbr_of_execFmtGet {d a : Reg} {s t : State} (h : execFmtGet d a s = .next t) : t.ptbr = s.ptbr := by
  grind [execFmtGet, State.ptbr_wS, → State.ptbr_of_done, → State.ptbr_of_trap]

/-! ## Special -/

theorem State.ptbr_of_denied {s t : State} {i : Instr} (h : s.denied i = .next t) : t.ptbr = s.ptbr := State.ptbr_of_trapBad h

theorem ptbr_of_execMfs {d : Reg} {r : BitVec 12} {s t : State} (h : execMfs d r s = .next t) : t.ptbr = s.ptbr := by
  grind [execMfs, → State.ptbr_of_denied, State.ptbr_wS, → State.ptbr_of_done]

theorem ptbr_of_execTlbi {a : Reg} {s t : State} (h : execTlbi a s = .next t) : t.ptbr = s.ptbr := by
  grind [execTlbi, State.ptbr_tlbInvalidate, → State.ptbr_of_done, → State.ptbr_of_denied]

theorem ptbr_of_execTrap {i : BitVec 12} {s t : State} (h : execTrap i s = .next t) : t.ptbr = s.ptbr := by
  grind [execTrap, → State.ptbr_of_trap, State.ptbr_handlerReturn, → State.ptbr_of_trapSwc]

theorem ptbr_of_execRfe {s t : State} (h : execRfe s = .next t) : t.ptbr = s.ptbr := by
  grind [execRfe, → State.ptbr_of_trap, State.ptbr_retire, State.ptbr_serviceEnd, → State.ptbr_of_denied]

/-! ## Sync -/

theorem ptbr_of_execRgnDecl {d a : Reg} {s t : State} (h : execRgnDecl d a s = .next t) : t.ptbr = s.ptbr := State.ptbr_of_orTrap h fun _ h => by
  grind [→ State.ptbr_of_trap, → State.ptbr_of_done, State.ptbr_bump, State.ptbr_wS]

theorem State.ptbr_setNote (s : State) (k : Nat) (n : Note) : (s.setNote k n).ptbr = s.ptbr := rfl

theorem State.ptbr_pull (s : State) (m : BitVec 160) (p : Region → Bool) : (s.pull m p).ptbr = s.ptbr := by
  grind [State.pull, State.ptbr_flit, State.ptbr_writeBack, ptbr_foldl]

theorem State.ptbr_of_lockTaken {s t : State} {sync : Word} {y : Bool} (h : s.lockTaken sync = .ok (y, t)) : t.ptbr = s.ptbr := by
  grind [State.lockTaken, State.ptbr_blkTouch, → State.ptbr_of_translate]

theorem ptbr_of_execRgnBind {a b : Reg} {s t : State} (h : execRgnBind a b s = .next t) : t.ptbr = s.ptbr := by
  grind [execRgnBind, → State.ptbr_of_done, State.ptbr_pull, → State.ptbr_of_lockTaken, → State.ptbr_of_block, → State.ptbr_of_trap]

theorem State.ptbr_of_lockWrite {s t : State} {sp : Bool} {ea : Word} {at_ : Nat} {w : Word}
    (h : s.lockWrite sp ea at_ w = .ok t) : t.ptbr = s.ptbr := by
  grind [State.lockWrite, State.ptbr_writeHome, → State.ptbr_of_writeStore]

theorem State.ptbr_lockHome (s : State) (sp : Bool) (ea : Word) : (s.lockHome sp ea).ptbr = s.ptbr := by
  grind [State.lockHome, State.ptbr_flushLine, State.ptbr_performLoads, State.ptbr_drainPosted]

theorem State.ptbr_of_lockOp {s t : State} {i : Instr} {a : Reg} {sp : Bool} {k : Nat → State → Out}
    (h : s.lockOp i a sp k = .next t) (hk : ∀ {n u}, u.ptbr = s.ptbr → k n u = .next t → t.ptbr = s.ptbr) : t.ptbr = s.ptbr := by
  refine State.ptbr_of_withAccess h fun {n u} hu h => ?_
  grind [State.ptbr_lockHome, → State.ptbr_of_trap]

theorem ptbr_of_execAcq {d a : Reg} {sp : Bool} {s t : State} (h : execAcq d a sp s = .next t) : t.ptbr = s.ptbr := by
  unfold execAcq at h
  refine State.ptbr_of_lockOp h fun {n u} hu h => ?_
  rw [← hu]
  simp only at h
  split at h
  · exact State.ptbr_of_trap h
  split at h
  · grind [→ State.ptbr_of_block, State.ptbr_blkTouch]
  · refine State.ptbr_of_orTrap h fun hw h => ?_
    rw [State.ptbr_of_done h, State.ptbr_wS, State.ptbr_dropClean, State.ptbr_setNote, State.ptbr_pull, State.ptbr_of_lockWrite hw]

theorem ptbr_of_execRel {a : Reg} {sp : Bool} {s t : State} (h : execRel a sp s = .next t) : t.ptbr = s.ptbr := by
  unfold execRel at h
  refine State.ptbr_of_lockOp h fun {n u} hu h => ?_
  rw [← hu]
  simp only at h
  split at h
  · exact State.ptbr_of_trap h
  · refine State.ptbr_of_orTrap h fun hw h => ?_
    rw [State.ptbr_of_done h, State.ptbr_setNote, State.ptbr_of_lockWrite hw]

theorem ptbr_of_execXfence {f t : BitVec 5} {s : State} {t' : State} (h : execXfence f t s = .next t') : t'.ptbr = s.ptbr := by
  grind [execXfence, State.ptbr_dropClean, → State.ptbr_of_done, State.ptbr_drainPosted, State.ptbr_writeBack, → State.ptbr_of_block]

theorem ptbr_of_execWaitC {ar cp st ld : Fin 16} {s t : State} (h : execWaitC ar cp st ld s = .next t) : t.ptbr = s.ptbr := by
  grind [execWaitC, → State.ptbr_of_block, → State.ptbr_of_done]

theorem State.ptbr_dropWatch (s : State) (q : Sq) (c : Cx) : (s.dropWatch q c).ptbr = s.ptbr := rfl

theorem State.ptbr_arm (s : State) (q : Sq) (c : Cx) (va sector : Nat) (restored : Bool) : (s.arm q c va sector restored).ptbr = s.ptbr := by
  grind [State.arm, State.ptbr_dropWatch]

theorem ptbr_of_execMon {a : Reg} {s t : State} (h : execMon a s = .next t) : t.ptbr = s.ptbr := by
  grind [execMon, State.ptbr_arm, → State.ptbr_of_done, → State.ptbr_of_trap, → State.ptbr_of_block, → State.ptbr_of_translate]

theorem State.ptbr_of_mwaitEnd {s t : State} {d : Reg} {r : Nat} (h : s.mwaitEnd d r = .next t) : t.ptbr = s.ptbr := by
  grind [State.mwaitEnd, State.ptbr_wS, → State.ptbr_of_done, State.ptbr_dropWatch]

theorem ptbr_of_execMwait {d a : Reg} {s t : State} (h : execMwait d a s = .next t) : t.ptbr = s.ptbr := by
  grind [execMwait, State.ptbr_wS, → State.ptbr_of_done, → State.ptbr_of_block, → State.ptbr_of_mwaitEnd]

/-! ## Copies -/

theorem State.ptbr_of_copy {s t : State} {i : Instr} {op : Fin 6} {r a : Reg} (h : s.copy i op r a = .next t) : t.ptbr = s.ptbr := by
  unfold State.copy at h
  refine State.ptbr_of_orTrap h fun _ h => ?_
  simp only at h
  split at h
  · grind [→ State.ptbr_of_trap, → State.ptbr_of_trapBad]
  split at h
  · exact State.ptbr_of_block h
  · rw [State.ptbr_of_done h]
    simp only [State.ptbr_wS, State.ptbr_modMe, State.ptbr_modSq]
    rw [ptbr_foldl fun s e => s.ptbr_modHnd _ _ _ _, ptbr_foldl fun s v => s.ptbr_claim _ _ _]

theorem ptbr_of_execCpMig {d a : Reg} {s t : State} (h : execCpMig d a s = .next t) : t.ptbr = s.ptbr := by
  unfold execCpMig at h
  split at h
  · exact State.ptbr_of_denied h
  · refine State.ptbr_of_orTrap h fun _ h => ?_
    grind [→ State.ptbr_of_trap, → State.ptbr_of_done, → State.ptbr_of_block, State.ptbr_wS, State.ptbr_modMe]

theorem State.ptbr_movePage (s : State) (ea : Nat) (w : Word) (big : Bool) (va frame : Nat) : (s.movePage ea w big va frame).ptbr = s.ptbr := by
  rw [State.movePage, State.ptbr_writeHome]
  rfl

theorem State.ptbr_setBulk (s : State) (e : Fin 16) (y : Copy) : (s.setBulk e y).ptbr = s.ptbr := rfl

theorem State.ptbr_migEnd (s : State) (e : Fin 16) (y : Copy) (c : Option Nat) : (s.migEnd e y c).ptbr = s.ptbr := by
  cases c <;> grind [State.migEnd, State.ptbr_engineRecord, State.ptbr_setBulk]

theorem State.ptbr_migrate (s : State) (e : Fin 16) (y : Copy) (va : Nat) (t : Tier) : (s.migrate e y va t).ptbr = s.ptbr := by
  grind [State.migrate, State.ptbr_movePage, State.ptbr_tlbInvalidate, State.ptbr_setBulk, State.ptbr_writeHome, State.ptbr_bump, State.ptbr_migEnd]

theorem ptbr_of_execPageMigration {e : Fin 16} {s t : State} (h : execPageMigration e s = .next t) : t.ptbr = s.ptbr := by
  grind [execPageMigration, State.ptbr_bump, State.ptbr_migrate]

theorem State.ptbr_of_readSector {s t : State} {y : Copy} {p : Place} {o : Nat} {z : List Byte}
    (h : s.readSector y p o = .ok (z, t)) : t.ptbr = s.ptbr := by
  cases p <;> grind [State.readSector, State.ptbr_of_translate, State.ptbr_flit, State.ptbr_blkTouch]

theorem State.ptbr_of_readPlace {s t : State} {y : Copy} {p : Place} {k o : Nat} {z : List Byte}
    (h : s.readPlace y p k o = .ok (z, t)) : t.ptbr = s.ptbr := by
  induction k generalizing s o z with
  | zero => grind [State.readPlace]
  | succ k ih => grind [State.readPlace, → State.ptbr_of_readSector]

theorem State.ptbr_of_sectorBytes {s t : State} {y : Copy} {dst : Place} {o : Nat} {z : List Byte}
    (h : s.sectorBytes y dst o = .ok (z, t)) : t.ptbr = s.ptbr := by
  grind [State.sectorBytes, → State.ptbr_of_readPlace]

theorem State.ptbr_sectors (s : State) (y : Copy) (dst : Place) (k o : Nat) : (s.sectors y dst k o).2.1.ptbr = s.ptbr := by
  induction k generalizing s o with
  | zero => rfl
  | succ k ih => grind [State.sectors, → State.ptbr_of_sectorBytes]

theorem State.ptbr_of_writePiece {s t : State} {y : Copy} {p : Place} {o : Nat} {bs : List Byte}
    (h : s.writePiece y p o bs = .ok t) : t.ptbr = s.ptbr := by
  cases p <;> grind [State.writePiece, State.ptbr_of_translate, State.ptbr_flit, State.ptbr_of_writeBlock, State.ptbr_writeHome]

theorem State.ptbr_setCopy (s : State) (q : Sq) (y : Copy) : (s.setCopy q y).ptbr = s.ptbr := rfl

theorem State.ptbr_failCopy (s : State) (y : Copy) (cause : Nat) : (s.failCopy y cause).ptbr = s.ptbr := by
  grind [State.failCopy, State.ptbr_modHnd, ptbr_foldl]

theorem State.ptbr_copyErr (s : State) (y : Copy) (cause : Nat) (zero : Bool) : (s.copyErr y cause zero).1.ptbr = s.ptbr := by
  grind [State.copyErr, State.ptbr_failCopy, State.ptbr_engineRecord]

theorem State.ptbr_copyWrite (s : State) (y : Copy) (dst : Place) (size k : Nat) (bs : List Byte) : (s.copyWrite y dst size k bs).ptbr = s.ptbr := by
  grind [State.copyWrite, State.ptbr_copyErr, State.ptbr_setCopy, → State.ptbr_of_writePiece]

theorem State.ptbr_copySector (s : State) (y : Copy) : (s.copySector y).ptbr = s.ptbr := by
  grind [State.copySector, State.ptbr_copyErr, State.ptbr_sectors, State.ptbr_copyWrite, State.ptbr_setCopy]

theorem ptbr_of_execCopyStart {e : Eng} {s t : State} (h : execCopyStart e s = .next t) : t.ptbr = s.ptbr := by
  grind [execCopyStart, State.ptbr_copySector, State.ptbr_performAll]

theorem State.ptbr_of_destReach {s t : State} {y : Copy} {p : Place} {o : Nat} (h : s.destReach y p o = .ok t) : t.ptbr = s.ptbr := by
  cases p <;> grind [State.destReach, State.ptbr_of_translate]

theorem ptbr_of_execCopyChunkRestart {e : Eng} {s t : State} (h : execCopyChunkRestart e s = .next t) : t.ptbr = s.ptbr := by
  grind [execCopyChunkRestart, State.ptbr_setCopy, State.ptbr_copyErr, → State.ptbr_of_destReach]

theorem State.ptbr_of_signal {s t : State} {y : Copy} {p : Place} {err : Bool} (h : s.signal y p err = .ok t) : t.ptbr = s.ptbr := by
  cases p <;> grind [State.signal, State.ptbr_of_translate, State.ptbr_flit, State.ptbr_of_writeBlock, State.ptbr_writeHome]

theorem State.ptbr_dropCopyTok (s : State) (q : Sq) (y : Copy) : (s.dropCopyTok q y).ptbr = s.ptbr := rfl

theorem ptbr_of_execCopySignalApply {e : Eng} {i : Nat} {s t : State} (h : execCopySignalApply e i s = .next t) : t.ptbr = s.ptbr := by
  grind [execCopySignalApply, State.ptbr_copyErr, State.ptbr_setCopy, State.ptbr_dropCopyTok, → State.ptbr_of_signal]

theorem ptbr_of_execCopyComplete {e : Eng} {s t : State} (h : execCopyComplete e s = .next t) : t.ptbr = s.ptbr := by
  simp only [execCopyComplete] at h
  split at h
  next he =>
    generalize (⟨e.val, he⟩ : Sq) = q at h
    grind [ptbr_foldl, State.ptbr_modHnd, State.ptbr_modSq, State.ptbr_modCore, State.ptbr_dropCopyTok]
  next =>
    repeat' split at h
    all_goals cases h; rfl

theorem ptbr_of_execCopyStall {q : Sq} {c : Cx} {s t : State} (h : execCopyStall q c s = .next t) : t.ptbr = s.ptbr := by
  grind [execCopyStall, State.ptbr_stallTrap]

/-! ## Tables -/

theorem State.ptbr_ensureTable (s : State) (keep : List Mapping) (ea : Nat) : (s.ensureTable keep ea).2.ptbr = s.ptbr := by
  grind [State.ensureTable, State.ptbr_zeroBytes, State.ptbr_writeHome]

theorem State.ptbr_writeLeaf (s : State) (keep : List Mapping) (m : Mapping) : (s.writeLeaf keep m).ptbr = s.ptbr := by
  grind [State.writeLeaf, State.ptbr_writeHome, State.ptbr_ensureTable]

theorem State.ptbr_mapPage (s : State) (keep : List Mapping) (m : Mapping) : (s.mapPage keep m).ptbr = s.ptbr := by
  grind [State.mapPage, State.ptbr_writeLeaf, State.ptbr_zeroBytes]

theorem State.ptbr_remapPage (s : State) (keep : List Mapping) (m : Mapping) : (s.remapPage keep m).ptbr = s.ptbr := by
  grind [State.remapPage, State.ptbr_writeLeaf, State.ptbr_tlbInvalidate]

theorem State.ptbr_pruneTables (s : State) (va : Nat) : (s.pruneTables va).ptbr = s.ptbr := by
  have drop_ptbr (s : State) (b : Bool) (a : Nat) : (if b then s else match ptrBy s.pte a with
      | .ok _ => s.writeHome a (natLE 8 0)
      | .error _ => s).ptbr = s.ptbr := by
    grind [State.ptbr_writeHome]
  unfold State.pruneTables
  grind [State.ptbr_writeHome]

theorem State.ptbr_unmapPage (s : State) (m : Mapping) : (s.unmapPage m).ptbr = s.ptbr := by
  grind [State.unmapPage, State.ptbr_shootdown, State.ptbr_pruneTables, State.ptbr_writeHome, State.ptbr_settle]

theorem State.ptbr_putVa (s : State) (fuel va : Nat) (bs : List Byte) : (s.putVa fuel va bs).ptbr = s.ptbr := by
  induction fuel generalizing s va bs with
  | zero => rfl
  | succ fuel ih => grind [State.putVa, State.ptbr_writeHome]

theorem State.ptbr_rebuild (s : State) : s.rebuild.ptbr = s.ptbr := by
  grind [State.rebuild, State.ptbr_putVa, State.ptbr_writeLeaf, ptbr_foldl]

/-! ## Frontier -/

theorem ptbr_of_execAcceptTokenRelease {k : Nat} {s t : State} (h : execAcceptTokenRelease k s = .next t) : t.ptbr = s.ptbr := by
  grind [execAcceptTokenRelease, State.ptbr_applyPairs]

theorem ptbr_of_execCommitEntryArrival {q : Sq} {i : Nat} {s t : State} (h : execCommitEntryArrival q i s = .next t) : t.ptbr = s.ptbr := by
  grind [execCommitEntryArrival, State.ptbr_modSq, State.ptbr_commitPassed]

theorem ptbr_of_execPlainCommit {_q : Sq} {s t : State} (h : execPlainCommit _q s = .next t) : t.ptbr = s.ptbr := by
  grind [execPlainCommit, State.ptbr_commitPassed]

theorem ptbr_of_execFrontierStall {q : Sq} {c : Cx} {s t : State} (h : execFrontierStall q c s = .next t) : t.ptbr = s.ptbr := by
  grind [execFrontierStall, State.ptbr_stallTrap]

theorem ptbr_of_execLockStall {q : Sq} {c : Cx} {s t : State} (h : execLockStall q c s = .next t) : t.ptbr = s.ptbr := by
  grind [execLockStall, State.ptbr_stallTrap]

theorem State.ptbr_emitStallTrap (s : State) (q : Sq) (c : Cx) (i : Instr) : (s.emitStallTrap q c i).ptbr = s.ptbr := by
  grind [State.emitStallTrap, State.ptbr_stallTrap, State.ptbr_modCtx]

theorem ptbr_of_execEmitStall {q : Sq} {c : Cx} {s t : State} (h : execEmitStall q c s = .next t) : t.ptbr = s.ptbr := by
  grind [execEmitStall, State.ptbr_emitStallTrap]

/-! ## Launch -/

theorem State.ptbr_post (s : State) (q : Sq) (place : Nat) (w : LWords) (inv tmpl : Nat) (spawn : Bool) :
    (s.post q place w inv tmpl spawn).ptbr = s.ptbr := by
  grind [State.post, State.ptbr_modSq]

theorem State.ptbr_postInv (s : State) (i : Machine.Inv) (l : List (Sq × Nat)) : (s.postInv i l).ptbr = s.ptbr := by
  induction l generalizing s with
  | nil => rfl
  | cons e l ih => grind [State.postInv, State.ptbr_post]

theorem State.ptbr_postReady (s : State) : s.postReady.ptbr = s.ptbr := by
  grind [State.postReady, State.ptbr_postInv, ptbr_foldl]

theorem ptbr_of_execSpawn {a : Reg} {s t : State} (h : execSpawn a s = .next t) : t.ptbr = s.ptbr := State.ptbr_of_orTrap h fun _ h => by
  grind [→ State.ptbr_of_trap, → State.ptbr_of_done, → State.ptbr_of_block, State.ptbr_post]

theorem ptbr_of_execContextBind {q : Sq} {s t : State} (h : execContextBind q s = .next t) : t.ptbr = s.ptbr := by
  grind [execContextBind, State.ptbr_zeroBytes, State.ptbr_setSq, State.ptbr_modCtx]

theorem State.ptbr_applyMessage (s : State) (q : Sq) : (s.applyMessage q).ptbr = s.ptbr := by
  grind [State.applyMessage, State.ptbr_applyPairs, State.ptbr_modSq]

theorem ptbr_of_execCountMessageApply {q : Sq} {s t : State} (h : execCountMessageApply q s = .next t) : t.ptbr = s.ptbr := by
  grind [execCountMessageApply, State.ptbr_applyMessage, State.ptbr_postReady]

theorem ptbr_of_execFrontierBroadcast {n : Fin 8} {s t : State} (h : execFrontierBroadcast n s = .next t) : t.ptbr = s.ptbr := by
  grind [execFrontierBroadcast, State.ptbr_commitPassed, State.ptbr_postReady]

/-! ## Contexts -/

theorem State.ptbr_of_ctxDone {s t : State} {code : Nat} (h : s.ctxDone code = .next t) : t.ptbr = s.ptbr := by
  grind [State.ctxDone, State.ptbr_modSq, → State.ptbr_of_done]

theorem ptbr_of_execCtxStart {a : Reg} {s t : State} (h : execCtxStart a s = .next t) : t.ptbr = s.ptbr := by
  grind [execCtxStart, State.ptbr_modCtx, → State.ptbr_of_ctxDone, → State.ptbr_of_denied]

theorem ptbr_of_execMtrl {a : Reg} {k : Fin 16} {s t : State} (h : execMtrl a k s = .next t) : t.ptbr = s.ptbr := by
  grind [execMtrl, State.ptbr_modCtx, → State.ptbr_of_ctxDone, → State.ptbr_of_denied]

theorem State.ptbr_of_areaXl {s t : State} {q : Sq} {va : Nat} {w : Bool} {y : Nat} (h : s.areaXl q va w = .ok (y, t)) : t.ptbr = s.ptbr := by
  grind [State.areaXl, → State.ptbr_of_translate]

theorem State.ptbr_of_areaOk {s t : State} {q : Sq} {area : Nat} (h : s.areaOk q area = .ok t) : t.ptbr = s.ptbr := by
  unfold State.areaOk at h
  split at h
  · cases h
  · refine ptbr_of_foldlM (fun {s k t} h => ?_) h
    obtain ⟨⟨pa, u⟩, hu, rfl⟩ := except_map_eq_ok.1 h
    exact State.ptbr_of_areaXl hu

theorem State.ptbr_of_writeArea {s t : State} {q : Sq} {fuel va : Nat} {bs : List Byte} (h : s.writeArea q fuel va bs = .ok t) : t.ptbr = s.ptbr := by
  induction fuel generalizing s va bs with
  | zero => grind [State.writeArea]
  | succ fuel ih => grind [State.writeArea, → State.ptbr_of_areaXl, State.ptbr_writeHome]

theorem State.ptbr_releaseCores (s : State) (q : Sq) (c : Cx) : (s.releaseCores q c).ptbr = s.ptbr := by
  grind [State.releaseCores, State.ptbr_modCore, State.ptbr_modACore, State.ptbr_modSq, State.ptbr_endTerm, ptbr_foldl]

theorem State.ptbr_releaseHolds (s : State) (q : Sq) (c : Cx) : (s.releaseHolds q c).ptbr = s.ptbr := by
  grind [State.releaseHolds, State.ptbr_modSq, State.ptbr_freeBufs, State.ptbr_dropWatch]

theorem ptbr_of_execCtxSave {d a : Reg} {s t : State} (h : execCtxSave d a s = .next t) : t.ptbr = s.ptbr := by
  grind [execCtxSave, State.ptbr_releaseCores, State.ptbr_releaseHolds, State.ptbr_modSq, → State.ptbr_of_writeArea, State.ptbr_modCtx,
      → State.ptbr_of_areaOk, → State.ptbr_of_block, → State.ptbr_of_ctxDone, → State.ptbr_of_denied]

theorem State.ptbr_of_areaSeen {s t : State} {q : Sq} {area : Nat} (h : s.areaSeen q area = some t) : t.ptbr = s.ptbr := by
  refine ptbr_of_foldlM_some (fun {s k t} h => ?_) h
  grind [→ State.ptbr_of_areaXl]

theorem State.ptbr_areaTouch (s : State) (q : Sq) (area n : Nat) : (s.areaTouch q area n).ptbr = s.ptbr := by
  grind [State.areaTouch, State.ptbr_blkTouch, → State.ptbr_of_areaXl, ptbr_foldl]

theorem State.ptbr_restoreCores (s : State) (q : Sq) (c : Fin 8) (l : List (Vc × VCore)) : (s.restoreCores q c l).ptbr = s.ptbr := by
  grind [State.restoreCores, State.ptbr_setCore, ptbr_foldl]

theorem State.ptbr_fillPad (s : State) (q : Sq) (v : Vc) (fill : Word) : (s.fillPad q v fill).ptbr = s.ptbr := by
  grind [State.fillPad, State.ptbr_zeroBytes]

theorem State.ptbr_returnTokens (s : State) (q : Sq) (c : Cx) (m : Image) : (s.returnTokens q c m).ptbr = s.ptbr := by
  grind [State.returnTokens, State.ptbr_modSq]

theorem State.ptbr_restoreImage (s : State) (q : Sq) (c : Fin 8) (m : Image) : (s.restoreImage q c m).ptbr = s.ptbr := by
  grind [State.restoreImage, State.ptbr_yieldIdle, State.ptbr_arm, State.ptbr_returnTokens, State.ptbr_modArr, State.ptbr_modACore,
      State.ptbr_modCore, State.ptbr_fillPad, State.ptbr_restoreCores, State.ptbr_setCtx, ptbr_foldl]

theorem ptbr_of_execCtxRestore {d a : Reg} {s t : State} (h : execCtxRestore d a s = .next t) : t.ptbr = s.ptbr := by
  simp only [execCtxRestore] at h
  split at h
  · exact State.ptbr_of_denied h
  split at h
  · exact State.ptbr_of_ctxDone h
  split at h
  · exact State.ptbr_of_ctxDone h
  split at h
  · exact State.ptbr_of_block h
  next u hu =>
    rw [← State.ptbr_of_areaSeen hu, ← u.ptbr_areaTouch s.fsq (s.rs d).toNat (segsEnd (u.imageRead s.fsq (s.rs d).toNat) 0x20000 0)]
    grind [→ State.ptbr_of_ctxDone, → State.ptbr_of_block, State.ptbr_restoreImage]

theorem State.ptbr_settleSaved (s : State) (q : Sq) (y : Saved) : (s.settleSaved q y).ptbr = s.ptbr := by
  grind [State.settleSaved, State.ptbr_writeBack, State.ptbr_deliverLog, ptbr_foldl]

theorem State.ptbr_endSaved (s : State) (q : Sq) (y : Saved) (code : Nat) : (s.endSaved q y code).ptbr = s.ptbr := by
  grind [State.endSaved, State.ptbr_noteEnd, State.ptbr_settleSaved, State.ptbr_modSq]

theorem ptbr_of_execCtxEnd {d a : Reg} {s t : State} (h : execCtxEnd d a s = .next t) : t.ptbr = s.ptbr := by
  grind [execCtxEnd, State.ptbr_endTask, State.ptbr_endSaved, → State.ptbr_of_block, State.ptbr_settleSaved, State.ptbr_modSq,
      → State.ptbr_of_ctxDone, → State.ptbr_of_denied]

/-! ## Journal -/

theorem State.ptbr_addWear (s : State) (pa n : Nat) : (s.addWear pa n).ptbr = s.ptbr := rfl

theorem State.ptbr_markWorn (s : State) (pa : Nat) : (s.markWorn pa).ptbr = s.ptbr := rfl

theorem State.ptbr_checkedWrite (s : State) (pa : Nat) (bs : List Byte) : (s.checkedWrite pa bs).2.ptbr = s.ptbr := by
  grind [State.checkedWrite, State.ptbr_writeHome, State.ptbr_addWear, State.ptbr_bump]

theorem State.ptbr_modJournal (s : State) (q : Sq) (f : Journal → Journal) : (s.modJournal q f).ptbr = s.ptbr := rfl

theorem State.ptbr_dropJournal (s : State) (q : Sq) (c : Cx) : (s.dropJournal q c).ptbr = s.ptbr := by
  grind [State.dropJournal, State.ptbr_modJournal]

theorem ptbr_of_execMjOpen {d : Reg} {s t : State} (h : execMjOpen d s = .next t) : t.ptbr = s.ptbr := by
  grind [execMjOpen, State.ptbr_modJournal, State.ptbr_wS, → State.ptbr_of_done, → State.ptbr_of_trap]

theorem State.ptbr_of_journalled {s t : State} {i : Instr} {va : Nat} {k : Nat → State → Out}
    (h : s.journalled i va k = .next t) (hk : ∀ {a u}, u.ptbr = s.ptbr → k a u = .next t → t.ptbr = s.ptbr) : t.ptbr = s.ptbr := by
  unfold State.journalled at h
  split at h
  · exact State.ptbr_of_trap h
  split at h
  · exact State.ptbr_of_block h
  · exact State.ptbr_of_trap h
  next pa u hu =>
    split at h
    · exact State.ptbr_of_trap h
    · exact hk (State.ptbr_of_translate hu) h

theorem ptbr_of_execMjWr {a b : Reg} {s t : State} (h : execMjWr a b s = .next t) : t.ptbr = s.ptbr := by
  unfold execMjWr at h
  split at h
  · exact State.ptbr_of_trap h
  · refine State.ptbr_of_journalled h fun {a u} hu h => ?_
    grind [→ State.ptbr_of_trap, → State.ptbr_of_done, → State.ptbr_of_block, State.ptbr_addWear, State.ptbr_bump, State.ptbr_writeHome,
        State.ptbr_modJournal]

theorem State.ptbr_applyJEntry (s : State) (e : Nat × Word) : (s.applyJEntry e).2.ptbr = s.ptbr := by
  grind [State.applyJEntry, State.ptbr_markWorn, State.ptbr_checkedWrite]

theorem State.ptbr_applyJournal (s : State) (l : List (Nat × Word)) (n : Nat) : (s.applyJournal l n).2.ptbr = s.ptbr := by
  induction l generalizing s n with
  | nil => rfl
  | cons e l ih => exact (ih _ _).trans (s.ptbr_applyJEntry e)

theorem State.ptbr_recordCopy (s : State) (q : Sq) : (s.recordCopy q).ptbr = s.ptbr := by
  grind [State.recordCopy, State.ptbr_modJournal, State.ptbr_checkedWrite]

theorem State.ptbr_of_commitStep {s t : State} {d : Reg} (h : s.commitStep d = .next t) : t.ptbr = s.ptbr := by
  grind [State.commitStep, State.ptbr_wS, → State.ptbr_of_done, State.ptbr_applyJEntry, → State.ptbr_of_trap, State.ptbr_modJournal,
      State.ptbr_recordCopy, → State.ptbr_of_block]

theorem ptbr_of_execMjCommit {d : Reg} {s t : State} (h : execMjCommit d s = .next t) : t.ptbr = s.ptbr := by
  grind [execMjCommit, → State.ptbr_of_commitStep, → State.ptbr_of_trap]

theorem ptbr_of_execMjAbort {s t : State} (h : execMjAbort s = .next t) : t.ptbr = s.ptbr := by
  grind [execMjAbort, State.ptbr_modJournal, → State.ptbr_of_done, → State.ptbr_of_trap]

theorem ptbr_of_execMjStat {d a : Reg} {s t : State} (h : execMjStat d a s = .next t) : t.ptbr = s.ptbr := State.ptbr_of_journalled h fun hu h => by
  grind [→ State.ptbr_of_done, State.ptbr_wS]

theorem State.ptbr_commitRetired (s : State) (q : Sq) (c : Cx) (failed : Nat) : (s.commitRetired q c failed).ptbr = s.ptbr := rfl

theorem State.ptbr_settleJournal (s : State) (q : Sq) : (s.settleJournal q).ptbr = s.ptbr := by
  grind [State.settleJournal, State.ptbr_modCtx, State.ptbr_modJournal, State.ptbr_commitRetired, State.ptbr_applyJournal]

/-! ## Tasks -/

theorem State.ptbr_focus (s : State) (q : Sq) (c : Cx) : (s.focus q c).ptbr = s.ptbr := rfl

theorem State.ptbr_dropContext (s : State) (q : Sq) (c : Cx) : (s.dropContext q c).ptbr = s.ptbr := by
  grind [State.dropContext, State.ptbr_dropWrites, State.ptbr_modSq, State.ptbr_deliverLog, ptbr_foldl]

theorem State.ptbr_endTokens (s : State) (q : Sq) (c : Cx) : (s.endTokens q c).ptbr = s.ptbr := by
  grind [State.endTokens, State.ptbr_partials, State.ptbr_dropContext]

theorem State.ptbr_endEngines (s : State) (q : Sq) (c : Cx) : (s.endEngines q c).ptbr = s.ptbr := by
  grind [State.endEngines, State.ptbr_noteEnd, State.ptbr_modCtx]

theorem State.ptbr_freeContext (s : State) (q : Sq) (c : Cx) : (s.freeContext q c).ptbr = s.ptbr := by
  grind [State.freeContext, State.ptbr_modCtx, State.ptbr_dropJournal, State.ptbr_releaseCores, State.ptbr_releaseHolds]

theorem ptbr_of_execContextFree {q : Sq} {c : Cx} {s t : State} (h : execContextFree q c s = .next t) : t.ptbr = s.ptbr := by
  grind [execContextFree, State.ptbr_freeContext, State.ptbr_endEngines, State.ptbr_endTokens]

theorem ptbr_of_execBundleFaultDelivery {q : Sq} {c : Cx} {s t : State} (h : execBundleFaultDelivery q c s = .next t) : t.ptbr = s.ptbr := by
  grind [execBundleFaultDelivery, State.ptbr_deliver]

theorem ptbr_of_execMwaitWake {q : Sq} {c : Cx} {s t : State} (h : execMwaitWake q c s = .next t) : t.ptbr = s.ptbr := by
  grind [execMwaitWake, State.ptbr_focus, → State.ptbr_of_mwaitEnd, State.ptbr_deliver]

theorem ptbr_of_execMwaitTimeout {q : Sq} {c : Cx} {s t : State} (h : execMwaitTimeout q c s = .next t) : t.ptbr = s.ptbr := by
  grind [execMwaitTimeout, State.ptbr_focus, → State.ptbr_of_mwaitEnd, State.ptbr_deliver]

theorem ptbr_of_execFcredCredit {q : Sq} {s t : State} (h : execFcredCredit q s = .next t) : t.ptbr = s.ptbr := by
  grind [execFcredCredit, State.ptbr_modSq]

theorem ptbr_of_execFirmwareInterrupt {q : Sq} {c : Cx} {s t : State} (h : execFirmwareInterrupt q c s = .next t) : t.ptbr = s.ptbr := by
  grind [execFirmwareInterrupt, State.ptbr_modSq, State.ptbr_modCtx]

theorem ptbr_of_execFirmwareServiceLimit {q : Sq} {s t : State} (h : execFirmwareServiceLimit q s = .next t) : t.ptbr = s.ptbr := by
  grind [execFirmwareServiceLimit, State.ptbr_serviceEnd]

theorem ptbr_of_execRunOverrun {q : Sq} {s t : State} (h : execRunOverrun q s = .next t) : t.ptbr = s.ptbr := by
  grind [execRunOverrun, State.ptbr_endTask]

/-! ## Vector -/

theorem State.ptbr_bundleFault (s : State) (q : Sq) (v : Vc) (e : Entry) (id slot cause : Nat) :
    (s.bundleFault q v e id slot cause).ptbr = s.ptbr := by
  grind [State.bundleFault, State.ptbr_modCtx, State.ptbr_modCore]

theorem State.ptbr_writeDst (s : State) (q : Sq) (v : Vc) (c : Cx) (id k : Nat) (m : Move) (y : VVal) (gm : Word) :
    (s.writeDst q v c id k m y gm).ptbr = s.ptbr := by
  simp only [State.writeDst]
  split
  · rfl
  split
  · rfl
  grind [State.ptbr_modCore, State.ptbr_offerCmd, State.ptbr_putSpec, State.ptbr_leaseWord]

theorem State.ptbr_takeSide (s : State) (q : Sq) (v : Vc) (z : Option VSide) (load : Bool) : (s.takeSide q v z load).ptbr = s.ptbr := by
  cases z <;> grind [State.takeSide, State.ptbr_modCore, State.ptbr_modHnd]

theorem State.ptbr_startAccess (s : State) (q : Sq) (v : Vc) (e : Entry) (id : Nat) (z : Option VSide × Option VSide) (y : VVal)
    (gm : Word) (counted : Bool) : (s.startAccess q v e id z y gm counted).ptbr = s.ptbr := by
  grind [State.startAccess, State.ptbr_takeSide, State.ptbr_modCore]

theorem State.ptbr_startV (s : State) (q : Sq) (v : Vc) (k : Fin 4) (gm : Word) (f : VFn) : (s.startV q v k gm f).ptbr = s.ptbr := rfl

theorem State.ptbr_startK (s : State) (q : Sq) (v : Vc) (k : Bool) (f : KFn) : (s.startK q v k f).ptbr = s.ptbr := rfl

theorem State.ptbr_memIn (s : State) (q : Sq) (v : Vc) (e : Entry) (id n : Nat) : (s.memIn q v e id n).ptbr = s.ptbr := by
  grind [State.memIn, State.ptbr_bundleFault, State.ptbr_setCore]

theorem State.ptbr_startMem (s : State) (q : Sq) (v : Vc) (n : Nat) : (s.startMem q v n).ptbr = s.ptbr := by
  grind [State.startMem, State.ptbr_setCore, State.ptbr_memIn]

theorem State.ptbr_trigger (s : State) (q : Sq) (v : Vc) (e : Entry) (k : Nat) (m : Move) (y : VVal) (gm : Word) :
    (s.trigger q v e k m y gm).ptbr = s.ptbr := by
  grind [State.trigger, State.ptbr_memIn, State.ptbr_startK, State.ptbr_startV, State.ptbr_modCore]

theorem State.ptbr_seenCore (s : State) (q : Sq) (v : Vc) (e : Entry) : (s.seenCore q v e).ptbr = s.ptbr := by
  grind [State.seenCore, State.ptbr_setCore]

theorem State.ptbr_refillCrq (s : State) (q : Sq) (v : Vc) : (s.refillCrq q v).ptbr = s.ptbr := by
  grind [State.refillCrq, State.ptbr_modCore, State.ptbr_modSq]

theorem State.ptbr_phases (s : State) (q : Sq) (v : Vc) (e : Entry) (z : Option VSide × Option VSide) (replay : Bool) :
    (s.phases q v e z replay).ptbr = s.ptbr := by
  grind [State.phases, State.ptbr_trigger, State.ptbr_writeDst, State.ptbr_startAccess, State.ptbr_refillArq, State.ptbr_refillCrq,
      State.ptbr_modCore, State.ptbr_performAll, ptbr_foldl]

theorem State.ptbr_tryIssue {after : State → State} (ha : ∀ s, (after s).ptbr = s.ptbr) (s : State) (q : Sq) (v : Vc) (e : Entry)
    (replay : Bool) (drop : VCore → VCore) : (s.tryIssue q v e replay drop after).ptbr = s.ptbr := by
  grind [State.tryIssue, State.ptbr_seenCore, State.ptbr_modCore, State.ptbr_bundleFault, State.ptbr_phases]

theorem State.ptbr_loopBodyFault (s : State) (q : Sq) (v : Vc) (l : LoopRun) (e : Entry) : (s.loopBodyFault q v l e).ptbr = s.ptbr := by
  grind [State.loopBodyFault, State.ptbr_modCore, State.ptbr_bundleFault]

theorem ptbr_of_execBundleIssue {q : Sq} {v : Vc} {s t : State} (h : execBundleIssue q v s = .next t) : t.ptbr = s.ptbr := by
  unfold execBundleIssue at h
  simp only at h
  split at h
  · cases h; rfl
  split at h
  · cases h; exact State.ptbr_tryIssue (fun _ => rfl) ..
  split at h
  · cases h; rfl
  split at h
  · cases h; exact State.ptbr_loopBodyFault ..
  · cases h; exact State.ptbr_tryIssue (after := fun t => t.modCore q v _) (fun _ => rfl) ..

theorem ptbr_of_execLoopReplay {q : Sq} {v : Vc} {s t : State} (h : execLoopReplay q v s = .next t) : t.ptbr = s.ptbr := by
  have step := State.ptbr_tryIssue (after := fun t => t.modCore q v VCore.replayed) fun t => t.ptbr_modCore q v _
  grind [execLoopReplay]

theorem ptbr_of_execVcoreStall {q : Sq} {v : Vc} {s t : State} (h : execVcoreStall q v s = .next t) : t.ptbr = s.ptbr := by
  grind [execVcoreStall, State.ptbr_modCore, State.ptbr_bundleFault]

theorem ptbr_of_execUnitResultDelivery {q : Sq} {v : Vc} {k : Slot} {s t : State}
    (h : execUnitResultDelivery q v k s = .next t) : t.ptbr = s.ptbr := by
  grind [execUnitResultDelivery, State.ptbr_modCore]

theorem ptbr_of_execBundleRetire {q : Sq} {v : Vc} {s t : State} (h : execBundleRetire q v s = .next t) : t.ptbr = s.ptbr := by
  grind [execBundleRetire, State.ptbr_modCtx, State.ptbr_modCore]

theorem State.ptbr_of_lanePlaces {s t : State} {q : Sq} {v : Vc} {who : Option Nat} {n : Need} {sp : Nat} {l y : List (Nat × List Nat)}
    (h : s.lanePlaces q v who n sp l = .ok (y, t)) : t.ptbr = s.ptbr := by
  induction l generalizing s y with
  | nil => grind [State.lanePlaces]
  | cons x l ih => grind [State.lanePlaces, → State.ptbr_of_translate, State.ptbr_blkTouch]

theorem State.ptbr_of_readSide {s t : State} {q : Sq} {v : Vc} {c : Cx} {z : VSide} {y : VReg}
    (h : s.readSide q v c z = .ok (y, t)) : t.ptbr = s.ptbr := by
  simp only [State.readSide, except_throw_bind, except_pure] at h
  obtain ⟨⟨ps, u⟩, hu, h⟩ := except_bind_eq_ok.1 h
  rw [← State.ptbr_of_lanePlaces hu]
  split at h
  · cases h
  split at h
  · cases h
  · exact (congrArg (fun p => p.2.ptbr) (Except.ok.inj h)).symm

theorem State.ptbr_of_putBytes {s t : State} {q : Sq} {sp : Nat} {l : List (Nat × Byte)} (h : s.putBytes q sp l = .ok t) : t.ptbr = s.ptbr := by
  grind [State.putBytes, State.ptbr_writeRuns, → State.ptbr_of_writeCells, → ptbr_of_foldlM]

theorem State.ptbr_of_writeSide {s t : State} {q : Sq} {v : Vc} {c : Cx} {z : VSide} {y : VReg} {gm : Word}
    (h : s.writeSide q v c z y gm = .ok t) : t.ptbr = s.ptbr := by
  obtain ⟨⟨ps, u⟩, hu, h⟩ := except_bind_eq_ok.1 h
  rw [← State.ptbr_of_lanePlaces hu]
  simp only [pure, Except.pure, throw, throwThe, MonadExceptOf.throw] at h
  grind [→ State.ptbr_of_putBytes, State.ptbr_bump]

theorem State.ptbr_endSide (s : State) (q : Sq) (v : Vc) (z : Option VSide) : (s.endSide q v z).ptbr = s.ptbr := by
  grind [State.endSide, State.ptbr_modHnd]

theorem State.ptbr_undoSide (s : State) (q : Sq) (v : Vc) (z : Option VSide) : (s.undoSide q v z).ptbr = s.ptbr := by
  grind [State.undoSide, State.ptbr_modHnd, State.ptbr_modCore]

theorem State.ptbr_of_performV {s t : State} {q : Sq} {v : Vc} {a : VAcc} (h : s.performV q v a = .ok t) : t.ptbr = s.ptbr := by
  simp only [State.performV, except_pure] at h
  split at h <;> split at h <;> simp only [except_bind_eq_ok, Except.ok.injEq, exists_eq_left'] at h <;>
    grind [State.ptbr_endSide, → State.ptbr_of_writeSide, → State.ptbr_of_readSide, State.ptbr_modCore]

theorem State.ptbr_vpathHead (s : State) (q : Sq) (v : Vc) (a : VAcc) : (s.vpathHead q v a).ptbr = s.ptbr := by
  grind [State.vpathHead, State.ptbr_undoSide, State.ptbr_bundleFault, → State.ptbr_of_performV, State.ptbr_modCore]

theorem ptbr_of_execStreamLoadLand {q : Sq} {v : Vc} {s t : State} (h : execStreamLoadLand q v s = .next t) : t.ptbr = s.ptbr := by
  grind [execStreamLoadLand, State.ptbr_vpathHead]

theorem ptbr_of_execStorePerformed {q : Sq} {who : Storer} {s t : State} (h : execStorePerformed q who s = .next t) : t.ptbr = s.ptbr := by
  cases who <;> grind [execStorePerformed, State.ptbr_performPosted, State.ptbr_vpathHead]

theorem ptbr_of_execQueuedGeneratorFetch {q : Sq} {v : Vc} {g : Slot} {s t : State}
    (h : execQueuedGeneratorFetch q v g s = .next t) : t.ptbr = s.ptbr := by
  grind [execQueuedGeneratorFetch, → State.ptbr_of_readSide, State.ptbr_modCore]

/-! ## Power -/

theorem State.ptbr_clearSquare (s : State) (q : Sq) : (s.clearSquare q).ptbr = s.ptbr := rfl

theorem State.ptbr_enterDoze (s : State) (q : Sq) : (s.enterDoze q).ptbr = s.ptbr := by
  grind [State.enterDoze, State.ptbr_writeBack, State.ptbr_clearSquare, State.ptbr_modSq]

theorem ptbr_of_execPsSafe {a : Reg} {s t : State} (h : execPsSafe a s = .next t) : t.ptbr = s.ptbr := by
  grind [execPsSafe, State.ptbr_modMe, → State.ptbr_of_trap, → State.ptbr_of_done]

theorem State.ptbr_wakeAll (s : State) (qs : List Sq) : (s.wakeAll qs).ptbr = s.ptbr := by
  grind [State.wakeAll, State.ptbr_modSq, ptbr_foldl]

theorem ptbr_of_execPsWake {d a : Reg} {s t : State} (h : execPsWake d a s = .next t) : t.ptbr = s.ptbr := by
  grind [execPsWake, State.ptbr_wakeAll, State.ptbr_wS, → State.ptbr_of_done, → State.ptbr_of_trap, → State.ptbr_of_denied]

theorem ptbr_of_execPsNap {d : Reg} {s t : State} (h : execPsNap d s = .next t) : t.ptbr = s.ptbr := by
  grind [execPsNap, State.ptbr_retire, State.ptbr_modSq, State.ptbr_wS, → State.ptbr_of_done, → State.ptbr_of_denied]

theorem ptbr_of_execPsDoze {d : Reg} {s t : State} (h : execPsDoze d s = .next t) : t.ptbr = s.ptbr := by
  grind [execPsDoze, State.ptbr_retire, State.ptbr_enterDoze, State.ptbr_wS, → State.ptbr_of_done, → State.ptbr_of_denied]

theorem ptbr_of_execNapEntry {q : Sq} {s t : State} (h : execNapEntry q s = .next t) : t.ptbr = s.ptbr := by
  grind [execNapEntry, State.ptbr_modSq]

theorem ptbr_of_execDroopAlarm {q : Sq} {s t : State} (h : execDroopAlarm q s = .next t) : t.ptbr = s.ptbr := by
  grind [execDroopAlarm, State.ptbr_modSq]

theorem ptbr_of_execDroopWindowEnd {q : Sq} {persists : Bool} {s t : State} (h : execDroopWindowEnd q persists s = .next t) : t.ptbr = s.ptbr := by
  grind [execDroopWindowEnd, State.ptbr_modSq]

theorem State.ptbr_coreRound (s : State) (q : Sq) (v : Vc) : (s.coreRound q v).ptbr = s.ptbr := by
  simp only [State.coreRound]
  rw [Out.ptbr_state ptbr_of_execBundleRetire, ptbr_foldl fun s k => Out.ptbr_state ptbr_of_execUnitResultDelivery,
    Out.ptbr_state ptbr_of_execStorePerformed, Out.ptbr_state ptbr_of_execStreamLoadLand]

theorem State.ptbr_coreStop (s : State) (q : Sq) (v : Vc) (n : Nat) : (s.coreStop q v n).ptbr = s.ptbr := by
  induction n generalizing s with
  | zero => rfl
  | succ n ih =>
    unfold State.coreStop
    rw [ih, State.ptbr_coreRound]

theorem State.ptbr_finishRecord (s : State) (q : Sq) : (s.finishRecord q).ptbr = s.ptbr := by
  grind [State.finishRecord, State.ptbr_recordCopy]

theorem State.ptbr_stopSquare (s : State) (q : Sq) : (s.stopSquare q).ptbr = s.ptbr := by
  simp only [State.stopSquare]
  rw [ptbr_foldl fun s _ => s.ptbr_applyMessage q, State.ptbr_modSq, ptbr_foldl fun s v => s.ptbr_coreStop q v _, ptbr_foldl,
      State.ptbr_finishRecord]
  · split
    · exact State.ptbr_serviceEnd ..
    · rfl
  · intro s c
    have deliver := ptbr_foldl (f := fun s (_ : LoadFlight) => Out.state (execLoadValueDelivery q c s) s) fun s _ => Out.ptbr_state
        ptbr_of_execLoadValueDelivery
    grind [State.ptbr_modCtx, State.ptbr_drainPosted]

theorem State.ptbr_stopAll (s : State) : s.stopAll.ptbr = s.ptbr := by
  grind [State.stopAll, State.ptbr_stopSquare, ptbr_foldl]

theorem State.ptbr_countResumed (s : State) : s.countResumed.ptbr = s.ptbr := rfl

theorem ptbr_of_execBrownEntry {s t : State} (h : execBrownEntry s = .next t) : t.ptbr = s.ptbr := by
  have brown (s : State) (b : Option Nat) (l : Option (Fin 16)) : ({ s with power := .brown, brownStart := b, cur := l } : State).ptbr = s.ptbr :=
      rfl
  unfold execBrownEntry at h
  split at h
  · exact Out.ptbr_of_next h
  · rw [Out.ptbr_of_next h, brown, State.ptbr_stopAll]

theorem State.ptbr_endBrown (s : State) : s.endBrown.ptbr = s.ptbr := by
  grind [State.endBrown]

theorem ptbr_of_execBrownExit {s t : State} (h : execBrownExit s = .next t) : t.ptbr = s.ptbr := by
  grind [execBrownExit, State.ptbr_endBrown, State.ptbr_countResumed, State.ptbr_postHeld]

theorem ptbr_of_execPowerFailWarning {badSquares : List Sq} {hubOk : Bool} {s t : State}
    (h : execPowerFailWarning badSquares hubOk s = .next t) : t.ptbr = s.ptbr := by
  grind [execPowerFailWarning, State.ptbr_writeBack, State.ptbr_bump, State.ptbr_endBrown, State.ptbr_stopAll, ptbr_foldl]

theorem State.ptbr_loseDram (s : State) : s.loseDram.ptbr = s.ptbr := rfl

theorem ptbr_of_execHoldupExhausted {s t : State} (h : execHoldupExhausted s = .next t) : t.ptbr = s.ptbr := by
  grind [execHoldupExhausted, State.ptbr_loseDram]

theorem State.ptbr_dropAtRoot (s : State) (ts : List Tok) : (s.dropAtRoot ts).ptbr = s.ptbr := by
  grind [State.dropAtRoot, State.ptbr_applyPairs, ptbr_foldl]

theorem State.ptbr_loseSquare (s : State) (q : Sq) : (s.loseSquare q).ptbr = s.ptbr := by
  grind [State.loseSquare, State.ptbr_clearSquare, State.ptbr_modSq, State.ptbr_loseEntries, State.ptbr_applyPairs, State.ptbr_dropAtRoot,
      State.ptbr_noteEnd, ptbr_foldl]

theorem State.ptbr_restoreSquare (s : State) (q : Sq) : (s.restoreSquare q).ptbr = s.ptbr := rfl

theorem State.ptbr_losePower (s : State) (q : Sq) (c : Fin 8) : (s.losePower q c).ptbr = s.ptbr := by
  simp only [State.losePower]
  split
  · rfl
  · exact Out.ptbr_state fun h => (ptbr_of_execContextFree h).trans (s.ptbr_endTask _ _ _)

theorem State.ptbr_settleCopies (s : State) (q : Sq) : (s.settleCopies q).ptbr = s.ptbr := by
  grind [State.settleCopies, State.ptbr_modSq, State.ptbr_copyErr, ptbr_foldl]

theorem State.ptbr_dropInstalls (s : State) : s.dropInstalls.ptbr = s.ptbr := by
  grind [State.dropInstalls, State.ptbr_dropEdges, ptbr_foldl]

theorem State.ptbr_resume (s : State) (kept : Bool) : (s.resume kept).ptbr = s.ptbr := by
  unfold State.resume
  obtain ⟨all, hall⟩ : ∃ l, l = List.finRange 160 := ⟨_, rfl⟩
  rw [← hall]
  clear hall
  have images := ptbr_foldl (f := fun s q => if (s.sq q).power = .doze || (s.sq q).persist.valid s.persistGen then s else s.loseSquare q)
    (fun s q => by split <;> [rfl; exact s.ptbr_loseSquare q]) all
  have tables := ptbr_foldl fun s m => s.ptbr_writeLeaf [] m
  have squares := ptbr_foldl (f := fun s q => if (s.sq q).power = .doze then s else s.restoreSquare q)
    (fun s q => by split <;> [rfl; exact s.ptbr_restoreSquare q]) all
  have lost := ptbr_foldl fun s q => ptbr_foldl (fun s c => s.ptbr_losePower q c) (List.finRange 8) s
  have ended := ptbr_foldl fun s (y : Saved) => s.ptbr_endSaved y.sq y POWER_LOST
  have journals := ptbr_foldl State.ptbr_settleJournal all
  have copies := ptbr_foldl State.ptbr_settleCopies all
  have doze := ptbr_foldl (f := fun s q => if (s.sq q).power = .run && s.dozeOk q then s.enterDoze q else s)
    (fun s q => by split <;> [exact s.ptbr_enterDoze q; rfl]) all
  simp only [State.ptbr_postHeld, doze, State.ptbr_countResumed]
  split <;> cases kept <;>
    simp only [State.ptbr_commitPassed, State.ptbr_dropInstalls, State.ptbr_discardLog, Bool.false_eq_true, if_true, if_false, journals, copies,
        ended, lost, squares, tables, images, State.ptbr_rebuild]

/-! ## Adapter -/

theorem State.ptbr_writePieces (s : State) (l : List (Nat × Nat)) (bs : List Byte) : (s.writePieces l bs).ptbr = s.ptbr := by
  induction l generalizing s bs with
  | nil => rfl
  | cons p l ih => exact ih _ _

theorem State.ptbr_hubTouch (s : State) (va n : Nat) : (s.hubTouch va n).ptbr = s.ptbr := by
  grind [State.hubTouch, State.ptbr_blkTouch, ptbr_foldl]

theorem State.ptbr_of_hubWrite {s t : State} {va : Nat} {bs : List Byte} (h : s.hubWrite va bs = .ok t) : t.ptbr = s.ptbr := by
  grind [State.hubWrite, State.ptbr_writePieces]

theorem State.ptbr_windowFault (s : State) (wr : Bool) (cause va : Nat) : (s.windowFault wr cause va).ptbr = s.ptbr := by
  grind [State.windowFault]

theorem ptbr_of_execHostWindowRead {a : BitVec 36} {n : Nat} {s t : State} (h : execHostWindowRead a n s = .next t) : t.ptbr = s.ptbr := by
  grind [execHostWindowRead, State.ptbr_hubTouch, State.ptbr_windowFault]

theorem ptbr_of_execHostWindowWrite {a : BitVec 36} {bs : List Byte} {s t : State}
    (h : execHostWindowWrite a bs s = .next t) : t.ptbr = s.ptbr := by
  grind [execHostWindowWrite, State.ptbr_windowFault, → State.ptbr_of_hubWrite]

theorem State.ptbr_clearWflt (s : State) (v ovf : Bool) : (s.clearWflt v ovf).ptbr = s.ptbr := rfl

theorem ptbr_of_execWfltClear {s t : State} (h : execWfltClear s = .next t) : t.ptbr = s.ptbr := by
  grind [execWfltClear, State.ptbr_clearWflt]

theorem State.ptbr_modQp (s : State) (n : Fin 16) (f : Qp → Qp) : (s.modQp n f).ptbr = s.ptbr := rfl

theorem ptbr_of_execSqtDoorbell {n : Fin 16} {x : BitVec 32} {s t : State} (h : execSqtDoorbell n x s = .next t) : t.ptbr = s.ptbr := by
  grind [execSqtDoorbell, State.ptbr_modQp]

theorem ptbr_of_execCqhWrite {n : Fin 16} {x : BitVec 32} {s t : State} (h : execCqhWrite n x s = .next t) : t.ptbr = s.ptbr := by
  grind [execCqhWrite, State.ptbr_modQp, State.ptbr_postHeld]

theorem ptbr_of_execQctlWrite {n : Fin 16} {x : BitVec 32} {s t : State} (h : execQctlWrite n x s = .next t) : t.ptbr = s.ptbr := by
  grind [execQctlWrite, State.ptbr_modQp, State.ptbr_postHeld]

theorem ptbr_of_execLaneFailure {s t : State} (h : execLaneFailure s = .next t) : t.ptbr = s.ptbr := by
  grind [execLaneFailure]

theorem ptbr_of_execLinkRestore {s t : State} (h : execLinkRestore s = .next t) : t.ptbr = s.ptbr := by
  grind [execLinkRestore, State.ptbr_postHeld]

theorem ptbr_of_execPeerDomainConfig {self : Fin 8} {peers : List (Fin 8)} {s t : State}
    (h : execPeerDomainConfig self peers s = .next t) : t.ptbr = s.ptbr := by
  grind [execPeerDomainConfig]

theorem ptbr_of_execPeerLost {m : Fin 8} {waits : List Word} {s t : State} (h : execPeerLost m waits s = .next t) : t.ptbr = s.ptbr := by
  grind [execPeerLost, State.ptbr_postHeld]

theorem ptbr_of_execImageKeySlotWrite {k : Fin 8} {key : Nat} {s t : State} (h : execImageKeySlotWrite k key s = .next t) : t.ptbr = s.ptbr := by
  grind [execImageKeySlotWrite, State.ptbr_bump]

theorem State.ptbr_performReads (s : State) (u : Nat) : (s.performReads u).ptbr = s.ptbr := by
  grind [State.performReads, State.ptbr_performLoads, ptbr_foldl]

theorem ptbr_of_execUncorrectableError {a : Nat} {s t : State} (h : execUncorrectableError a s = .next t) : t.ptbr = s.ptbr := by
  have marked (s : State) (l : List Nat) : ({ s with bad := l } : State).ptbr = s.ptbr := rfl
  unfold execUncorrectableError at h
  split at h
  · exact Out.ptbr_of_next h
  · rw [Out.ptbr_of_next h, marked, State.ptbr_performReads]

/-! ## Blocks -/

theorem State.ptbr_blkRoom (s : State) (d : Die) (n fuel : Nat) : (s.blkRoom d n fuel).ptbr = s.ptbr := by
  induction fuel generalizing s with
  | zero => rfl
  | succ fuel ih => grind [State.blkRoom]

theorem ptbr_of_execBlkLd {d a b : Reg} {s t : State} (h : execBlkLd d a b s = .next t) : t.ptbr = s.ptbr := by
  grind [execBlkLd, State.ptbr_bump, State.ptbr_wS, → State.ptbr_of_done, State.ptbr_blkRoom, → State.ptbr_of_block, → State.ptbr_of_translate,
      → State.ptbr_of_trap]

theorem ptbr_of_execBlkEvict {a : Reg} {s t : State} (h : execBlkEvict a s = .next t) : t.ptbr = s.ptbr := by
  grind [execBlkEvict, → State.ptbr_of_trap, → State.ptbr_of_done]

theorem ptbr_of_execBlkWait {d a : Reg} {s t : State} (h : execBlkWait d a s = .next t) : t.ptbr = s.ptbr := by
  grind [execBlkWait, → State.ptbr_of_block, State.ptbr_wS, → State.ptbr_of_done, → State.ptbr_of_trap]

theorem ptbr_of_execBlkFillComplete {die : Die} {b : Nat} {s t : State} (h : execBlkFillComplete die b s = .next t) : t.ptbr = s.ptbr := by
  grind [execBlkFillComplete]

theorem State.ptbr_icFill (s : State) (q : Sq) (a pa : Nat) (f : Bool) : (s.icFill q a pa f).ptbr = s.ptbr := by
  grind [State.icFill, State.ptbr_blkTouch, State.ptbr_modSq]

theorem ptbr_of_execIcacheFillComplete {q : Sq} {i : Nat} {s t : State} (h : execIcacheFillComplete q i s = .next t) : t.ptbr = s.ptbr := by
  grind [execIcacheFillComplete, State.ptbr_modSq]

theorem State.ptbr_of_hintXl {s t : State} {va : Nat} {n : Need} {y : Nat} (h : s.hintXl va n = some (y, t)) : t.ptbr = s.ptbr := by
  grind [State.hintXl, → State.ptbr_of_translate]

theorem ptbr_of_execPrefI {b : Reg} {sp : Fin 4} {o : BitVec 14} {s t : State} (h : execPrefI b sp o s = .next t) : t.ptbr = s.ptbr := by
  grind [execPrefI, State.ptbr_icFill, → State.ptbr_of_hintXl, → State.ptbr_of_done, ptbr_foldl]

theorem ptbr_of_execPrefD {b : Reg} {sp : Fin 4} {o : BitVec 14} {s t : State} (h : execPrefD b sp o s = .next t) : t.ptbr = s.ptbr := by
  grind [execPrefD, State.ptbr_fillLine, → State.ptbr_of_hintXl, → State.ptbr_of_done]

theorem ptbr_of_execDemoteD {b : Reg} {sp : Fin 4} {o : BitVec 14} {s t : State} (h : execDemoteD b sp o s = .next t) : t.ptbr = s.ptbr := by
  grind [execDemoteD, State.ptbr_modSq, → State.ptbr_of_hintXl, → State.ptbr_of_done]

/-! ## Commands -/

theorem State.ptbr_endExam (s : State) (q : Fin 16) : (s.endExam q).ptbr = s.ptbr := rfl

theorem State.ptbr_reply (s : State) (c : Cmd) (kind cause : Nat) (ext v0 v1 : Word) : (s.reply c kind cause ext v0 v1).ptbr = s.ptbr := by
  grind [State.reply, State.ptbr_endExam, State.ptbr_complete]

theorem State.ptbr_refuse (s : State) (c : Cmd) (cause : Nat) : (s.refuse c cause).ptbr = s.ptbr := by
  grind [State.refuse, State.ptbr_reply]

theorem State.ptbr_of_refuseOut {s t : State} {c : Cmd} {cause : Nat} (h : s.refuseOut c cause = .next t) : t.ptbr = s.ptbr := by
  grind [State.refuseOut, State.ptbr_refuse]

theorem State.ptbr_of_doneOut {s t : State} {c : Cmd} {v0 v1 : Word} (h : s.doneOut c v0 v1 = .next t) : t.ptbr = s.ptbr := by
  grind [State.doneOut, State.ptbr_reply]

theorem State.ptbr_of_waitHead {s t : State} (h : s.waitHead = .next t) : t.ptbr = s.ptbr := by
  grind [State.waitHead]

theorem State.ptbr_snapTouch (s : State) (w : Vector Word 8) : (s.snapTouch w).ptbr = s.ptbr := by
  grind [State.snapTouch, State.ptbr_hubTouch]

theorem ptbr_of_execCommandTake {s t : State} (h : execCommandTake s = .next t) : t.ptbr = s.ptbr := by
  grind [execCommandTake, State.ptbr_snapTouch, State.ptbr_bump, State.ptbr_refuse, State.ptbr_reply]

theorem ptbr_of_execQueryIdent {s t : State} (h : execQueryIdent s = .next t) : t.ptbr = s.ptbr := by
  grind [execQueryIdent, State.ptbr_reply]

theorem ptbr_of_execQueryResidence {s t : State} (h : execQueryResidence s = .next t) : t.ptbr = s.ptbr := by
  grind [execQueryResidence, → State.ptbr_of_doneOut]

theorem ptbr_of_execQueryAttest {s t : State} (h : execQueryAttest s = .next t) : t.ptbr = s.ptbr := by
  grind [execQueryAttest, → State.ptbr_of_doneOut]

theorem ptbr_of_execSignalNotify {s t : State} (h : execSignalNotify s = .next t) : t.ptbr = s.ptbr := by
  grind [execSignalNotify, State.ptbr_endExam, → State.ptbr_of_refuseOut, → State.ptbr_of_waitHead]

theorem ptbr_of_execNotifyFire {i : Nat} {s t : State} (h : execNotifyFire i s = .next t) : t.ptbr = s.ptbr := by
  grind [execNotifyFire, State.ptbr_writeHome, State.ptbr_complete]

theorem ptbr_of_execSignalReduce {s t : State} (h : execSignalReduce s = .next t) : t.ptbr = s.ptbr := by
  grind [execSignalReduce, State.ptbr_endExam, State.ptbr_reply, → State.ptbr_of_waitHead]

theorem ptbr_of_execReduceCombine {i : Nat} {others : List (Fin 8 × Word × Word × List Lane)} {s t : State}
    (h : execReduceCombine i others s = .next t) : t.ptbr = s.ptbr := by
  grind [execReduceCombine, → State.ptbr_of_hubWrite, State.ptbr_complete]

/-! ## Integer -/

theorem State.ptbr_of_rrr {s t : State} {d a b : Reg} {f : Word → Word → Word} (h : s.rrr d a b f = .next t) : t.ptbr = s.ptbr := by
  grind [State.rrr, State.ptbr_wS, → State.ptbr_of_done]

theorem State.ptbr_of_rr {s t : State} {d a : Reg} {f : Word → Word} (h : s.rr d a f = .next t) : t.ptbr = s.ptbr := by
  grind [State.rr, State.ptbr_wS, → State.ptbr_of_done]

theorem State.ptbr_of_prr {s t : State} {p : Pr} {a b : Reg} {f : Word → Word → Bool} (h : s.prr p a b f = .next t) : t.ptbr = s.ptbr := by
  grind [State.prr, State.ptbr_wP, → State.ptbr_of_done]

theorem State.ptbr_of_ppp {s t : State} {d a b : Pr} {f : Bool → Bool → Bool} (h : s.ppp d a b f = .next t) : t.ptbr = s.ptbr := by
  grind [State.ppp, State.ptbr_wP, → State.ptbr_of_done]

/-! ## Residences -/

theorem ptbr_of_execLoad {p : Option Placement} {s t : State} (h : execLoad p s = .next t) : t.ptbr = s.ptbr := by
  simp only [execLoad] at h
  repeat' split at h
  all_goals grind [→ State.ptbr_of_waitHead, → State.ptbr_of_refuseOut, State.ptbr_endExam, State.ptbr_addEdges]

theorem State.ptbr_writeEntries (s : State) (q : Sq) (l : List (Nat × Word)) (i : Nat) : (s.writeEntries q l i).2.ptbr = s.ptbr := by
  induction l generalizing s i with
  | nil => rfl
  | cons e l ih => grind [State.writeEntries, State.ptbr_checkedWrite]

theorem State.ptbr_journalOnce (s : State) (q : Sq) (now : List (Nat × Word)) : (s.journalOnce q now).2.ptbr = s.ptbr := by
  grind [State.journalOnce, State.ptbr_applyJournal, State.ptbr_recordCopy, State.ptbr_writeEntries, State.ptbr_modJournal]

theorem State.ptbr_journalWrites (s : State) (q : Sq) (fuel : Nat) (es : List (Nat × Word)) : (s.journalWrites q fuel es).2.ptbr = s.ptbr := by
  induction fuel generalizing s es with
  | zero => rfl
  | succ fuel ih => grind [State.journalWrites, State.ptbr_journalOnce, State.ptbr_modJournal]

theorem State.ptbr_journalSquares (s : State) (ws : List (Nat × Word)) (l : List Sq) : (s.journalSquares ws l).2.ptbr = s.ptbr := by
  induction l generalizing s with
  | nil => rfl
  | cons q l ih => grind [State.journalSquares, State.ptbr_journalWrites]

theorem State.ptbr_program (s : State) (secs : List Sec) (maps : List Mapping) : (s.program secs maps).2.ptbr = s.ptbr := by
  grind [State.program, State.ptbr_journalSquares]

theorem State.ptbr_installPages (s : State) (secs : List Sec) (maps : List Mapping) : (s.installPages secs maps).ptbr = s.ptbr := by
  grind [State.installPages, State.ptbr_putVa, State.ptbr_mapPage, ptbr_foldl]

theorem State.ptbr_clearICaches (s : State) : s.clearICaches.ptbr = s.ptbr := rfl

theorem State.ptbr_declare (s : State) (rs : List Region) : (s.declare rs).ptbr = s.ptbr := by
  grind [State.declare, State.ptbr_bump, ptbr_foldl]

theorem State.ptbr_setResidence (s : State) (n : Nat) (r : Option Residence) : (s.setResidence n r).ptbr = s.ptbr := rfl

theorem ptbr_of_execLoadInstallComplete {i : Nat} {s t : State} (h : execLoadInstallComplete i s = .next t) : t.ptbr = s.ptbr := by
  grind [execLoadInstallComplete, State.ptbr_setResidence, State.ptbr_clearICaches, State.ptbr_installPages, State.ptbr_declare,
      State.ptbr_dropEdges, State.ptbr_complete, State.ptbr_program]

theorem State.ptbr_endContexts (s : State) (n : Nat) (q : Sq) : (s.endContexts n q).ptbr = s.ptbr := by
  grind [State.endContexts, State.ptbr_endTask, State.ptbr_serviceEnd, ptbr_foldl]

theorem State.ptbr_dropRegions (s : State) (o : RgnOwner) : (s.dropRegions o).ptbr = s.ptbr := rfl

theorem State.ptbr_dropInv (s : State) (i : Machine.Inv) : (s.dropInv i).ptbr = s.ptbr := by
  grind [State.dropInv, State.ptbr_complete, State.ptbr_closeInv, State.ptbr_dropRegions, State.ptbr_applyPairs]

theorem State.ptbr_removeResidence (s : State) (r : Residence) : (s.removeResidence r).ptbr = s.ptbr := by
  grind [State.removeResidence, State.ptbr_dropEdges, State.ptbr_setResidence, State.ptbr_clearICaches, State.ptbr_dropRegions,
      State.ptbr_unmapPage, ptbr_foldl]

theorem ptbr_of_execUnload {s t : State} (h : execUnload s = .next t) : t.ptbr = s.ptbr := by
  have ended (n : Nat) := ptbr_foldl fun s q => s.ptbr_endContexts n q
  have saved := ptbr_foldl fun s (y : Saved) => s.ptbr_endSaved y.sq y CODE_GONE
  have dropped := ptbr_foldl State.ptbr_dropInv
  have completed := ptbr_foldl fun s (i : Install) => s.ptbr_complete (mkComp i.who.1 i.who.2 2 CODE_GONE 0 0 0 0)
  have installed (s : State) (l : List Install) : ({ s with installs := l } : State).ptbr = s.ptbr := rfl
  unfold execUnload at h
  split at h
  · cases h; rfl
  next c _ =>
  split at h
  · exact State.ptbr_of_waitHead h
  simp only at h
  split at h
  · exact State.ptbr_of_refuseOut h
  split at h
  · grind [→ State.ptbr_of_refuseOut, → State.ptbr_of_doneOut, State.ptbr_removeResidence]
  generalize (if s.unloads.contains c.q then s.unloads else s.unloads ++ [c.q]) = waiting at h
  split at h
  · rw [State.ptbr_of_waitHead h, saved, ended]
  · rw [State.ptbr_of_doneOut h, State.ptbr_removeResidence, completed, installed, dropped, saved, ended]

theorem ptbr_of_execUpdateImage {p : Option Placement} {s t : State} (h : execUpdateImage p s = .next t) : t.ptbr = s.ptbr := by
  simp only [execUpdateImage] at h
  repeat' split at h
  all_goals grind [→ State.ptbr_of_waitHead, → State.ptbr_of_refuseOut, State.ptbr_endExam]

theorem State.ptbr_commitImage (s : State) (r : Residence) (new : List Sec) (ranges : List MRange) (maps : List Mapping) :
    (s.commitImage r new ranges maps).ptbr = s.ptbr := by
  grind [State.commitImage, State.ptbr_clearICaches, State.ptbr_installPages, State.ptbr_setResidence, State.ptbr_unmapPage, ptbr_foldl]

theorem ptbr_of_execUpdatePatch {s t : State} (h : execUpdatePatch s = .next t) : t.ptbr = s.ptbr := by
  grind [execUpdatePatch, State.ptbr_endExam, → State.ptbr_of_refuseOut, → State.ptbr_of_waitHead]

theorem State.ptbr_commitPatch (s : State) (level : BitVec 16) (body : List Byte) : (s.commitPatch level body).ptbr = s.ptbr := rfl

theorem ptbr_of_execUpdateInstallComplete {i : Nat} {s t : State} (h : execUpdateInstallComplete i s = .next t) : t.ptbr = s.ptbr := by
  grind [execUpdateInstallComplete, State.ptbr_commitPatch, State.ptbr_commitImage, State.ptbr_complete, State.ptbr_program]

theorem State.ptbr_applyPage (s : State) (keep : List Mapping) (r : MapRec) (va : Nat) (frames : List Nat) :
    (s.applyPage keep r va frames).1.ptbr = s.ptbr := by
  grind [State.applyPage, State.ptbr_movePage, State.ptbr_tlbInvalidate, State.ptbr_zeroBytes, State.ptbr_remapPage, State.ptbr_unmapPage,
      State.ptbr_mapPage]

theorem ptbr_of_execUpdateMap {p : Option Placement} {s t : State} (h : execUpdateMap p s = .next t) : t.ptbr = s.ptbr := by
  simp only [execUpdateMap] at h
  split at h
  · cases h; rfl
  split at h
  · exact State.ptbr_of_refuseOut h
  split at h
  · exact State.ptbr_of_refuseOut h
  split at h
  · exact State.ptbr_of_refuseOut h
  split at h
  · cases h; rfl
  split at h
  · exact State.ptbr_of_waitHead h
  · exact (State.ptbr_of_doneOut h).trans (ptbr_foldl_proj (g := Prod.fst) (fun a e => State.ptbr_applyPage ..) _ _)

/-! ## Invocations -/

theorem State.ptbr_acceptInv (s : State) (c : Cmd) (x : Checked) (places : List (Sq × Nat)) : (s.acceptInv c x places).ptbr = s.ptbr := by
  grind [State.acceptInv, State.ptbr_postReady, State.ptbr_complete, State.ptbr_applyPairs, State.ptbr_endExam]

theorem ptbr_of_execInvoke {s t : State} (h : execInvoke s = .next t) : t.ptbr = s.ptbr := by
  grind [execInvoke, State.ptbr_acceptInv, → State.ptbr_of_refuseOut, → State.ptbr_of_waitHead]

theorem ptbr_of_execQueryBound {s t : State} (h : execQueryBound s = .next t) : t.ptbr = s.ptbr := by
  grind [execQueryBound, → State.ptbr_of_doneOut, → State.ptbr_of_refuseOut]

theorem ptbr_of_execInvokeCompletion {k : Nat} {s t : State} (h : execInvokeCompletion k s = .next t) : t.ptbr = s.ptbr := by
  grind [execInvokeCompletion, State.ptbr_complete, State.ptbr_closeInv, State.ptbr_dropRegions, State.ptbr_dropClean, State.ptbr_writeBack,
      ptbr_foldl]

/-! ## Resume -/

theorem ptbr_of_runBlocked {i : Instr} {s t : State} (h : runBlocked i s = .next t) : t.ptbr = s.ptbr := by
  cases i
  case ldB | ldH | ldW | ldD => exact State.ptbr_of_execLoad h
  case stW | stD | stx => exact State.ptbr_of_execStore h
  case swap => exact ptbr_of_execSwap h
  case cas => exact ptbr_of_execCas h
  case aadd => exact ptbr_of_execAadd h
  case aand => exact ptbr_of_execAand h
  case aor => exact ptbr_of_execAor h
  case axor => exact ptbr_of_execAxor h
  case amin => exact ptbr_of_execAmin h
  case amax => exact ptbr_of_execAmax h
  case aminu => exact ptbr_of_execAminu h
  case amaxu => exact ptbr_of_execAmaxu h
  case acq => exact ptbr_of_execAcq h
  case rel => exact ptbr_of_execRel h
  case mon => exact ptbr_of_execMon h
  case mwait => exact ptbr_of_execMwait h
  case xfence => exact ptbr_of_execXfence h
  case waitC => exact ptbr_of_execWaitC h
  case spawn => exact ptbr_of_execSpawn h
  case tmHold => exact ptbr_of_execTmHold h
  case tmDrop => exact ptbr_of_execTmDrop h
  case tmMove => exact ptbr_of_execTmMove h
  case tmBar => exact ptbr_of_execTmBar h
  case tmWaitf => exact State.ptbr_of_waitPast h
  case emit => exact ptbr_of_execEmit h
  case emitP => exact ptbr_of_execEmitP h
  case emitBc => exact ptbr_of_execEmitBc h
  case cpPut | cpGet | cpPuts | cpMcast | cpGather => exact State.ptbr_of_copy h
  case eqWait => exact ptbr_of_execEqWait h
  case cpMig => exact ptbr_of_execCpMig h
  case hWait => exact ptbr_of_execHWait h
  case hFree => exact ptbr_of_execHFree h
  case hBind => exact ptbr_of_execHBind h
  case fmtSet => exact ptbr_of_execFmtSet h
  case blkLd => exact ptbr_of_execBlkLd h
  case blkWait => exact ptbr_of_execBlkWait h
  case rgnBind => exact ptbr_of_execRgnBind h
  case mjWr => exact ptbr_of_execMjWr h
  case mjCommit => exact ptbr_of_execMjCommit h
  case mjStat => exact ptbr_of_execMjStat h
  case exit => exact ptbr_of_execExit h
  case ctxSave => exact ptbr_of_execCtxSave h
  case ctxRestore => exact ptbr_of_execCtxRestore h
  case ctxEnd => exact ptbr_of_execCtxEnd h
  all_goals exact Out.ptbr_of_next h

theorem ptbr_of_execSquareWake {q : Sq} {s t : State} (h : execSquareWake q s = .next t) : t.ptbr = s.ptbr := by
  grind [execSquareWake, State.ptbr_modSq]

theorem ptbr_of_execBlockedInstructionResume {q : Sq} {c : Cx} {s t : State}
    (h : execBlockedInstructionResume q c s = .next t) : t.ptbr = s.ptbr := by
  grind [execBlockedInstructionResume, State.ptbr_focus, → ptbr_of_runBlocked, State.ptbr_deliver]

/-! ## VectorUnits -/

theorem ptbr_of_execCtlLoop {q : Sq} {v : Vc} {s t : State} (h : execCtlLoop q v s = .next t) : t.ptbr = s.ptbr := by
  grind [execCtlLoop, State.ptbr_modCore, State.ptbr_bundleFault]

end Sys2Proof.Machine
end

section
/-! SUPPORT. What moves the root of the page tables: an MTS of PTBR, and a cold start (02 R36, 16 R345). -/

namespace Sys2Proof.Machine

theorem bits_eq_toNat_extractLsb' (w : Word) (lo n : Nat) : bits w lo n = (w.extractLsb' lo n).toNat := by
  rw [BitVec.extractLsb'_toNat, Nat.shiftRight_eq_div_pow, bits, fld]

theorem bits_field_root (old v : Word) : bits (field old v 0x0000FFFFFFFFF000) 12 36 = bits v 12 36 := by
  have kept : (~~~(0x0000FFFFFFFFF000 : Word)).extractLsb' 12 36 = 0#36 := by decide
  have taken : (0x0000FFFFFFFFF000 : Word).extractLsb' 12 36 = BitVec.allOnes 36 := by decide
  rw [bits_eq_toNat_extractLsb', bits_eq_toNat_extractLsb', field, BitVec.extractLsb'_or, BitVec.extractLsb'_and, BitVec.extractLsb'_and,
    kept, taken, BitVec.and_zero, BitVec.zero_or, BitVec.and_allOnes]

theorem State.ptbr_sprWrite (s : State) {r : Nat} (v : Word) (hr : r ≠ 0x301) : (s.sprWrite r v).ptbr = s.ptbr := by
  unfold State.sprWrite
  split
  case h_13 => exact absurd rfl hr
  all_goals rfl

theorem State.bits_ptbr_sprWrite (s : State) (v : Word) : bits (s.sprWrite 0x301 v).ptbr 12 36 = bits v 12 36 := bits_field_root s.ptbr v

theorem State.ptbr_coldStart (s : State) : s.coldStart.ptbr = 0 := State.ptbr_rebuild _

theorem State.ptbr_imageLost (s : State) : s.imageLost.ptbr = 0 := State.ptbr_coldStart _

/-- The ways in which the root moves from `s` to `t`: by context F, or by a cold start. -/
def MovesRoot (i : Instr) (s t : State) : Prop :=
  (s.fcx = 8 ∧ ∃ a : Reg, i = .mts a 0x301 ∧ bits t.ptbr 12 36 = bits (s.rs a) 12 36) ∨
    (t.ptbr = 0 ∧ (i = .coldStart ∨ (i = .resumption ∧ s.hubValid = false) ∨ i = .mresetGo ∨
      ∃ w : Word, w.getLsbD 0 = true ∧ i = .hostRegisterWrite 0x8 w))

/-- From `s` to `t` the root stays, or `i` moves it. -/
def RootBy (i : Instr) (s t : State) : Prop := t.ptbr = s.ptbr ∨ MovesRoot i s t

variable {s t : State}

theorem RootBy.mts {a : Reg} {r : BitVec 12} (h : execMts a r s = .next t) : RootBy (.mts a r) s t := by
  unfold execMts at h
  split at h
  · exact .inl (State.ptbr_of_denied h)
  next hf =>
  split at h
  · exact .inl (ptbr_of_execTlbi h)
  split at h
  · exact .inl (State.ptbr_of_trap h)
  have e : t.ptbr = (s.sprWrite r.toNat (s.rs a)).ptbr := State.ptbr_of_done h
  by_cases hr : r.toNat = 0x301
  · refine .inr (.inl ⟨?_, a, congrArg _ (BitVec.eq_of_toNat_eq hr), ?_⟩)
    · by_contra hc
      simp [State.isF_of_ne hc, mtsAllowed, hr] at hf
    · rw [e, hr, State.bits_ptbr_sprWrite]
  · exact .inl (e.trans (s.ptbr_sprWrite _ hr))

theorem RootBy.coldStart (h : execColdStart s = .next t) : RootBy .coldStart s t := by
  unfold execColdStart at h
  split at h
  · exact .inr (.inr ⟨(Out.ptbr_of_next h).trans s.ptbr_imageLost, .inl rfl⟩)
  · exact .inl (Out.ptbr_of_next h)

theorem RootBy.resumption (h : execResumption s = .next t) : RootBy .resumption s t := by
  unfold execResumption at h
  split at h
  · exact .inl (Out.ptbr_of_next h)
  split at h
  next hv =>
    rw [Bool.not_eq_true'] at hv
    exact .inr (.inr ⟨(Out.ptbr_of_next h).trans s.ptbr_imageLost, .inr (.inl ⟨rfl, hv⟩)⟩)
  next => exact .inl ((Out.ptbr_of_next h).trans (s.ptbr_resume _))

theorem ptbr_of_execMresetGo (h : execMresetGo s = .next t) : t.ptbr = s.ptbr ∨ t.ptbr = 0 := by
  have reset (u : State) (l : Bool) (n : Nat) (p : PkgPower) (b : Option Nat) :
      ({ u with lup := l, lanes := n, power := p, brownStart := b } : State).ptbr = u.ptbr := rfl
  unfold execMresetGo at h
  split at h
  · exact .inl (Out.ptbr_of_next h)
  · exact .inr ((Out.ptbr_of_next h).trans ((reset ..).trans s.ptbr_coldStart))

theorem RootBy.mresetGo (h : execMresetGo s = .next t) : RootBy .mresetGo s t :=
  (ptbr_of_execMresetGo h).imp_right fun h0 => .inr ⟨h0, .inr (.inr (.inl rfl))⟩

theorem RootBy.hostRegisterWrite {a : BitVec 32} {w : Word} (h : execHostRegisterWrite a w s = .next t) :
    RootBy (.hostRegisterWrite a w) s t := by
  simp only [execHostRegisterWrite] at h
  split at h
  next ha =>
    have ha : a = 0x8 := BitVec.eq_of_toNat_eq ha
    split at h
    next hw => exact (ptbr_of_execMresetGo h).imp_right fun h0 => .inr ⟨h0, .inr (.inr (.inr ⟨w, hw, ha ▸ rfl⟩))⟩
    next => exact .inl (Out.ptbr_of_next h)
  next =>
    refine .inl ?_
    grind [State.ptbr_clearWflt, State.ptbr_modQp, → ptbr_of_execQctlWrite, → ptbr_of_execSqtDoorbell, → ptbr_of_execCqhWrite]

/-- Every instruction and event, by the family of its meaning. -/
theorem rootBy_of_exec {i : Instr} (h : exec i s = .next t) : RootBy i s t := by
  unfold exec at h
  cases i
  case mts => exact .mts h
  case coldStart => exact .coldStart h
  case resumption => exact .resumption h
  case mresetGo => exact .mresetGo h
  case hostRegisterWrite => exact .hostRegisterWrite h
  case add | sub | and | or | xor | andn | shl | shr | sra | ror | mul | mulh | mulhu | div | divu | rem | remu | min | max | minu | maxu | slt |
      sltu | adds | sel =>
    exact .inl (State.ptbr_of_rrr h)
  case shli | shri | srai | rori | sext | clz | popc | addi | andi | ori | xori | movhi | slti =>
    exact .inl (State.ptbr_of_rr h)
  case movi | pmov | ptos | cmpiEq | cmpiLt | cmpiLtu | tmFront | tmMft | prefM | reservedHint | rdtime | rdcyc =>
    exact .inl ((State.ptbr_of_done h).trans rfl)
  case cmpEq | cmpNe | cmpLt | cmpLe | cmpLtu | cmpLeu =>
    exact .inl (State.ptbr_of_prr h)
  case pand | por | pxor | pandn =>
    exact .inl (State.ptbr_of_ppp h)
  case ldB | ldH | ldW | ldD =>
    exact .inl (State.ptbr_of_execLoad h)
  case stW | stD | stx =>
    exact .inl (State.ptbr_of_execStore h)
  case swap => exact .inl (ptbr_of_execSwap h)
  case cas => exact .inl (ptbr_of_execCas h)
  case aadd => exact .inl (ptbr_of_execAadd h)
  case aand => exact .inl (ptbr_of_execAand h)
  case aor => exact .inl (ptbr_of_execAor h)
  case axor => exact .inl (ptbr_of_execAxor h)
  case amin => exact .inl (ptbr_of_execAmin h)
  case amax => exact .inl (ptbr_of_execAmax h)
  case aminu => exact .inl (ptbr_of_execAminu h)
  case amaxu => exact .inl (ptbr_of_execAmaxu h)
  case acq => exact .inl (ptbr_of_execAcq h)
  case rel => exact .inl (ptbr_of_execRel h)
  case mon => exact .inl (ptbr_of_execMon h)
  case mwait => exact .inl (ptbr_of_execMwait h)
  case xfence => exact .inl (ptbr_of_execXfence h)
  case br | brN =>
    exact .inl (State.ptbr_of_branch h)
  case call => exact .inl (ptbr_of_execCall h)
  case jr | jrN | jrl | jrlN =>
    exact .inl (State.ptbr_of_jump h)
  case yield => exact .inl (ptbr_of_execYield h)
  case exit => exact .inl (ptbr_of_execExit h)
  case spawn => exact .inl (ptbr_of_execSpawn h)
  case tmHold => exact .inl (ptbr_of_execTmHold h)
  case tmDrop => exact .inl (ptbr_of_execTmDrop h)
  case tmMove => exact .inl (ptbr_of_execTmMove h)
  case tmBar => exact .inl (ptbr_of_execTmBar h)
  case tmWaitf => exact .inl (State.ptbr_of_waitPast h)
  case tmMtt => exact .inl (ptbr_of_execTmMtt h)
  case tmEdge => exact .inl (ptbr_of_execTmEdge h)
  case tmAddc => exact .inl (ptbr_of_execTmAddc h)
  case emit => exact .inl (ptbr_of_execEmit h)
  case emitP => exact .inl (ptbr_of_execEmitP h)
  case emitBc => exact .inl (ptbr_of_execEmitBc h)
  case eqWait => exact .inl (ptbr_of_execEqWait h)
  case eqStat => exact .inl (ptbr_of_execEqStat h)
  case cpPut | cpGet | cpPuts | cpMcast | cpGather =>
    exact .inl (State.ptbr_of_copy h)
  case cpMig => exact .inl (ptbr_of_execCpMig h)
  case hWait => exact .inl (ptbr_of_execHWait h)
  case hStat => exact .inl (ptbr_of_execHStat h)
  case hFree => exact .inl (ptbr_of_execHFree h)
  case hBind => exact .inl (ptbr_of_execHBind h)
  case hKeep | hDisc =>
    exact .inl (State.ptbr_of_setKeep h)
  case blkLd => exact .inl (ptbr_of_execBlkLd h)
  case blkEvict => exact .inl (ptbr_of_execBlkEvict h)
  case blkWait => exact .inl (ptbr_of_execBlkWait h)
  case waitC => exact .inl (ptbr_of_execWaitC h)
  case rgnDecl => exact .inl (ptbr_of_execRgnDecl h)
  case rgnBind => exact .inl (ptbr_of_execRgnBind h)
  case fmtSet => exact .inl (ptbr_of_execFmtSet h)
  case fmtGet => exact .inl (ptbr_of_execFmtGet h)
  case prefI => exact .inl (ptbr_of_execPrefI h)
  case prefD => exact .inl (ptbr_of_execPrefD h)
  case demoteD => exact .inl (ptbr_of_execDemoteD h)
  case mjOpen => exact .inl (ptbr_of_execMjOpen h)
  case mjWr => exact .inl (ptbr_of_execMjWr h)
  case mjCommit => exact .inl (ptbr_of_execMjCommit h)
  case mjAbort => exact .inl (ptbr_of_execMjAbort h)
  case mjStat => exact .inl (ptbr_of_execMjStat h)
  case psSafe => exact .inl (ptbr_of_execPsSafe h)
  case psWake => exact .inl (ptbr_of_execPsWake h)
  case psNap => exact .inl (ptbr_of_execPsNap h)
  case psDoze => exact .inl (ptbr_of_execPsDoze h)
  case mfs => exact .inl (ptbr_of_execMfs h)
  case trap => exact .inl (ptbr_of_execTrap h)
  case rfe => exact .inl (ptbr_of_execRfe h)
  case ctxStart => exact .inl (ptbr_of_execCtxStart h)
  case ctxSave => exact .inl (ptbr_of_execCtxSave h)
  case ctxRestore => exact .inl (ptbr_of_execCtxRestore h)
  case ctxEnd => exact .inl (ptbr_of_execCtxEnd h)
  case mtrl => exact .inl (ptbr_of_execMtrl h)
  case tlbi => exact .inl (ptbr_of_execTlbi h)
  case bundleIssue => exact .inl (ptbr_of_execBundleIssue h)
  case bundleRetire => exact .inl (ptbr_of_execBundleRetire h)
  case unitResultDelivery => exact .inl (ptbr_of_execUnitResultDelivery h)
  case streamLoadLand => exact .inl (ptbr_of_execStreamLoadLand h)
  case queuedGeneratorFetch => exact .inl (ptbr_of_execQueuedGeneratorFetch h)
  case loopReplay => exact .inl (ptbr_of_execLoopReplay h)
  case vcoreStall => exact .inl (ptbr_of_execVcoreStall h)
  case bundleFaultDelivery => exact .inl (ptbr_of_execBundleFaultDelivery h)
  case emitStall => exact .inl (ptbr_of_execEmitStall h)
  case blockedInstructionResume => exact .inl (ptbr_of_execBlockedInstructionResume h)
  case mwaitWake => exact .inl (ptbr_of_execMwaitWake h)
  case mwaitTimeout => exact .inl (ptbr_of_execMwaitTimeout h)
  case loadValueDelivery => exact .inl (ptbr_of_execLoadValueDelivery h)
  case icacheFillComplete => exact .inl (ptbr_of_execIcacheFillComplete h)
  case blkFillComplete => exact .inl (ptbr_of_execBlkFillComplete h)
  case contextBind => exact .inl (ptbr_of_execContextBind h)
  case contextFree => exact .inl (ptbr_of_execContextFree h)
  case fcredCredit => exact .inl (ptbr_of_execFcredCredit h)
  case firmwareInterrupt => exact .inl (ptbr_of_execFirmwareInterrupt h)
  case firmwareServiceLimit => exact .inl (ptbr_of_execFirmwareServiceLimit h)
  case runOverrun => exact .inl (ptbr_of_execRunOverrun h)
  case specifierWrite => exact .inl (ptbr_of_execSpecifierWrite h)
  case leaseRequest => exact .inl (ptbr_of_execLeaseRequest h)
  case leaseRelease => exact .inl (ptbr_of_execLeaseRelease h)
  case leaseClear => exact .inl (ptbr_of_execLeaseClear h)
  case leaseGrant => exact .inl (ptbr_of_execLeaseGrant h)
  case dpaMm | dpaWld | dpaZero | dpaDrain | dpaAccld | dpaAccadd | dpaCbld | dpaSync | dpaDist | dpaNear | dpaCupd | dpaCdiv | dpaCntr | dpaCmp24 |
      dpaCbenc =>
    exact .inl (State.ptbr_of_command h)
  case arrayDeferredAccept => exact .inl (ptbr_of_execArrayDeferredAccept h)
  case arrayStall => exact .inl (ptbr_of_execArrayStall h)
  case arrayStepRetire => exact .inl (ptbr_of_execArrayStepRetire h)
  case arrayCommandRetire => exact .inl (ptbr_of_execArrayCommandRetire h)
  case copyStart => exact .inl (ptbr_of_execCopyStart h)
  case copyChunkRestart => exact .inl (ptbr_of_execCopyChunkRestart h)
  case copySignalApply => exact .inl (ptbr_of_execCopySignalApply h)
  case copyComplete => exact .inl (ptbr_of_execCopyComplete h)
  case pageMigration => exact .inl (ptbr_of_execPageMigration h)
  case countMessageApply => exact .inl (ptbr_of_execCountMessageApply h)
  case frontierBroadcast => exact .inl (ptbr_of_execFrontierBroadcast h)
  case frontierStall => exact .inl (ptbr_of_execFrontierStall h)
  case lockStall => exact .inl (ptbr_of_execLockStall h)
  case copyStall => exact .inl (ptbr_of_execCopyStall h)
  case commitEntryArrival => exact .inl (ptbr_of_execCommitEntryArrival h)
  case plainCommit => exact .inl (ptbr_of_execPlainCommit h)
  case napEntry => exact .inl (ptbr_of_execNapEntry h)
  case squareWake => exact .inl (ptbr_of_execSquareWake h)
  case droopAlarm => exact .inl (ptbr_of_execDroopAlarm h)
  case droopWindowEnd => exact .inl (ptbr_of_execDroopWindowEnd h)
  case brownEntry => exact .inl (ptbr_of_execBrownEntry h)
  case brownExit => exact .inl (ptbr_of_execBrownExit h)
  case powerFailWarning => exact .inl (ptbr_of_execPowerFailWarning h)
  case holdupExhausted => exact .inl (ptbr_of_execHoldupExhausted h)
  case sqtDoorbell => exact .inl (ptbr_of_execSqtDoorbell h)
  case cqhWrite => exact .inl (ptbr_of_execCqhWrite h)
  case hostWindowRead => exact .inl (ptbr_of_execHostWindowRead h)
  case hostWindowWrite => exact .inl (ptbr_of_execHostWindowWrite h)
  case commandTake => exact .inl (ptbr_of_execCommandTake h)
  case load => exact .inl (ptbr_of_execLoad h)
  case loadInstallComplete => exact .inl (ptbr_of_execLoadInstallComplete h)
  case unload => exact .inl (ptbr_of_execUnload h)
  case invoke => exact .inl (ptbr_of_execInvoke h)
  case acceptTokenRelease => exact .inl (ptbr_of_execAcceptTokenRelease h)
  case invokeCompletion => exact .inl (ptbr_of_execInvokeCompletion h)
  case updateImage => exact .inl (ptbr_of_execUpdateImage h)
  case updateMap => exact .inl (ptbr_of_execUpdateMap h)
  case updatePatch => exact .inl (ptbr_of_execUpdatePatch h)
  case queryIdent => exact .inl (ptbr_of_execQueryIdent h)
  case queryResidence => exact .inl (ptbr_of_execQueryResidence h)
  case queryBound => exact .inl (ptbr_of_execQueryBound h)
  case queryAttest => exact .inl (ptbr_of_execQueryAttest h)
  case signalNotify => exact .inl (ptbr_of_execSignalNotify h)
  case notifyFire => exact .inl (ptbr_of_execNotifyFire h)
  case signalReduce => exact .inl (ptbr_of_execSignalReduce h)
  case reduceCombine => exact .inl (ptbr_of_execReduceCombine h)
  case peerLost => exact .inl (ptbr_of_execPeerLost h)
  case laneFailure => exact .inl (ptbr_of_execLaneFailure h)
  case linkRestore => exact .inl (ptbr_of_execLinkRestore h)
  case vfuIadd | vfuIsub | vfuImul | vfuImad | vfuIadds | vfuIsubs | vfuImin | vfuImax | vfuIminu | vfuImaxu | vfuAnd | vfuOr | vfuXor | vfuShl |
      vfuShr | vfuSra | vfuIabs | vfuIaddH | vfuIaddB | vfuIaddsB | vfuIdot4 | vfuFadd | vfuFsub | vfuFmul | vfuFma | vfuFmin | vfuFmax | vfuFabs |
      vfuFneg | vfuFrcp | vfuFsqrt | vfuFaddBf | vfuFmulBf | vfuFmaBf | vfuFmaHf | vfuFmaE4 | vfuFmaE5 | vfuCvtFI | vfuCvtIF | vfuCvtBfF | vfuCvtHfF
      | vfuCvtE4F | vfuCvtE5F | vfuCvtFBf | vfuCvtFHf | vfuCvtFE4 | vfuCvtFE5 | vfuCvtII8 | vfuCvtI8I | vfuQntE2 | vfuDqntE2 | vfuIcmpEq | vfuIcmpLt
      | vfuIcmpLtu | vfuFcmpEq | vfuFcmpLt | vfuFcmpLe | vfuFcmpUn | vfuVsel | vfuPerm | vfuRotl | vfuBcast | vfuRsumI | vfuRsumF | vfuRmaxF |
      vfuRminF | vfuRmaxI | vfuArgmaxF =>
    exact .inl ((Out.ptbr_of_next h).trans (State.ptbr_startV ..))
  case kfAdd | kfSub | kfMul | kfMad | kfAnd | kfOr | kfXor | kfAndn | kfShl | kfShr | kfSra | kfMin | kfMax | kfMinu | kfMaxu | kfPopc | kfClz |
      kfSel | kfCmpEq | kfCmpLt | kfCmpLtu | kfLea =>
    exact .inl ((Out.ptbr_of_next h).trans (State.ptbr_startK ..))
  case ctlLoop => exact .inl (ptbr_of_execCtlLoop h)
  case ctlVfence | ctlRmode | ctlCond | ctlQstat | ctlMfirst =>
    exact .inl ((Out.ptbr_of_next h).trans (State.ptbr_modCore ..))
  case memGbase | memGlev | memGcfg | memGrst | memGpos =>
    exact .inl ((Out.ptbr_of_next h).trans (State.ptbr_startMem ..))
  case storePerformed => exact .inl (ptbr_of_execStorePerformed h)
  case uncorrectableError => exact .inl (ptbr_of_execUncorrectableError h)
  case updateInstallComplete => exact .inl (ptbr_of_execUpdateInstallComplete h)
  case wfltClear => exact .inl (ptbr_of_execWfltClear h)
  case qctlWrite => exact .inl (ptbr_of_execQctlWrite h)
  case peerDomainConfig => exact .inl (ptbr_of_execPeerDomainConfig h)
  case imageKeySlotWrite => exact .inl (ptbr_of_execImageKeySlotWrite h)
end Sys2Proof.Machine
end

section
open Sys2Proof Sys2Proof.Machine

/-- Settles O60: operation by operation, the root stays but for an MTS of PTBR and a cold start. -/
theorem onlyFirmwareMovesTheRoot : Obligations.OnlyFirmwareMovesTheRoot :=
  fun _ _ _ h hne => (rootBy_of_exec h).resolve_left hne

end

section
/-! SUPPORT. The books of firmware: what the commands of residences read and write of the package. The shared operations on memory, translations,
data caches and journals leave them alone. -/

namespace Sys2Proof.Machine

/-- What LOAD and UNLOAD see of a context: its state, the cause it ends by, and its residence. -/
def Ctx.duty (x : Ctx) : CtxSt × Option Nat × Nat := (x.st, x.endCause, x.res)

/-- What they see of a square: its launch queue and its contexts. -/
def Square.duty (x : Square) : List LRec × Vector (CtxSt × Option Nat × Nat) 9 := (x.launchQ, x.ctxs.map Ctx.duty)

/-- The books of firmware, the residences of the accepted invocations and the duties of the squares among them. -/
structure Books where
  residences : List (Nat × Option Residence)
  installs : List Install
  regions : List (Nat × Option Region)
  maps : List Mapping
  held : List Comp
  lup : Bool
  intervals : List (Nat × Nat)
  heads : Vector (Option Cmd) 16
  unloads : List (Fin 16)
  invRes : List Nat
  duties : Vector (List LRec × Vector (CtxSt × Option Nat × Nat) 9) 160

/-- The books in a state. -/
def State.books (s : State) : Books :=
  { residences := s.residences, installs := s.installs, regions := s.regions, maps := s.maps, held := s.held, lup := s.lup
    intervals := s.intervals, heads := s.heads, unloads := s.unloads, invRes := s.invs.map (fun i => i.res)
    duties := s.squares.map Square.duty }

/-- What each step of a fold leaves, the fold leaves. -/
theorem foldl_keeps {α β γ : Type} {g : β → γ} {f : β → α → β} (hf : ∀ b a, g (f b a) = g b) (l : List α) (b : β) :
    g (l.foldl f b) = g b := by
  induction l generalizing b with
  | nil => rfl
  | cons a l ih => exact (ih (f b a)).trans (hf b a)

theorem duty_of_duties {s t : State} (h : t.books.duties = s.books.duties) (q : Sq) : (t.sq q).duty = (s.sq q).duty := by
  simpa [State.books, State.sq] using congrArg (fun d => d[q.val]) h

theorem launchQ_of_duties {s t : State} (h : t.books.duties = s.books.duties) (q : Sq) : (t.sq q).launchQ = (s.sq q).launchQ :=
  congrArg Prod.fst (duty_of_duties h q)

theorem ctxDuty_of_duties {s t : State} (h : t.books.duties = s.books.duties) (q : Sq) (c : Cx) : (t.ctx q c).duty = (s.ctx q c).duty := by
  simpa [Square.duty, State.ctx] using congrArg (fun d => d.2[c.val]) (duty_of_duties h q)

/-! ## Squares and contexts -/

theorem map_vset_of_eq {α β : Type} {n : Nat} (g : α → β) (v : Vector α n) (i : Fin n) (x : α) (h : g x = g v[i]) :
    (vset v i x).map g = v.map g := by
  ext j hj
  simp only [vset, Vector.getElem_map, Vector.getElem_set]
  split
  · next e => subst e; exact h
  · rfl

theorem State.books_setSq {s : State} {q : Sq} {x : Square} (h : x.duty = (s.sq q).duty) : (s.setSq q x).books = s.books :=
  congrArg (fun d => { s.books with duties := d }) (map_vset_of_eq _ _ _ _ h)

theorem State.books_modSq {s : State} {q : Sq} {f : Square → Square} (h : ∀ x, (f x).duty = x.duty := by intro; rfl) :
    (s.modSq q f).books = s.books :=
  State.books_setSq (h _)

theorem State.books_modCtx {s : State} {q : Sq} {c : Cx} {f : Ctx → Ctx} (h : ∀ x, (f x).duty = x.duty := by intro; rfl) :
    (s.modCtx q c f).books = s.books :=
  State.books_setSq (congrArg (Prod.mk _) (map_vset_of_eq _ _ _ _ (h _)))

theorem State.books_mapSquares {s : State} {f : Square → Square} (h : ∀ x, (f x).duty = x.duty := by intro; rfl) :
    ({ s with squares := s.squares.map f } : State).books = s.books := by
  have e : (s.squares.map f).map Square.duty = s.squares.map Square.duty := by
    rw [Vector.map_map]
    exact congrArg (s.squares.map ·) (funext h)
  exact congrArg (fun d => { s.books with duties := d }) e

/-! ## Memory and translations -/

theorem State.books_bump (s : State) : s.bump.books = s.books := rfl
theorem State.books_writeHome (s : State) (a : Nat) (bs : List Byte) : (s.writeHome a bs).books = s.books := rfl
theorem State.books_zeroBytes (s : State) (a n : Nat) : (s.zeroBytes a n).books = s.books := rfl
theorem State.books_blkTouch (s : State) (a n : Nat) : (s.blkTouch a n).books = s.books := rfl
theorem State.books_writeRuns (s : State) (l : List (Nat × Byte)) : (s.writeRuns l).books = s.books :=
  foldl_keeps (g := State.books) (fun s (r : Nat × List Byte) => s.books_writeHome r.1 r.2) _ s

theorem State.books_tlbUse (s : State) (q : Sq) (e : TlbEnt) : (s.tlbUse q e).books = s.books := by
  obtain ⟨w, d, hu⟩ := s.tlbUse_eq q e
  rw [hu]
  exact State.books_modSq

/-- A lost plain-shared store is counted with its invocation, whose residence stays. -/
theorem State.books_loseEntries (s : State) (es : List LogEnt) : (s.loseEntries es).books = s.books := by
  have e : (s.loseEntries es).invs.map (fun i => i.res) = s.invs.map (fun i => i.res) := by
    rw [State.loseEntries, List.map_map]; rfl
  exact congrArg (fun l => { s.books with invRes := l }) e

theorem State.books_discardLog (s : State) (p : LogEnt → Bool) : (s.discardLog p).books = s.books :=
  (State.books_loseEntries _ _).trans State.books_mapSquares

theorem State.books_shootdown (s : State) (t : TlbiArg) (d : Bool) : (s.shootdown t d).books = s.books := by
  unfold State.shootdown
  simp only
  split
  · rw [State.books_discardLog]
    exact State.books_mapSquares (s := s)
  · exact State.books_mapSquares (s := s)

/-! ## The data cache, and what is in flight -/

theorem State.books_writeLine (s : State) (q : Sq) (l : DLine) : (s.writeLine q l).books = s.books := by
  unfold State.writeLine
  split
  · rfl
  split
  · rfl
  · simp only [State.writeSector, State.books_writeRuns]
    split
    · rfl
    · exact State.books_tlbUse ..

theorem State.books_writeBack (s : State) (q : Sq) (p : DLine → Bool) : (s.writeBack q p).books = s.books :=
  (State.books_modSq ..).trans (foldl_keeps (g := State.books) (fun s l => s.books_writeLine q l) _ s)

theorem State.books_evictLine (s : State) (q : Sq) (tag : Nat) : (s.evictLine q tag).books = s.books := by
  unfold State.evictLine
  split
  · rfl
  · exact (State.books_modSq ..).trans (State.books_writeLine ..)

theorem State.books_fillLine (s : State) (q : Sq) (tag pa : Nat) : (s.fillLine q tag pa).books = s.books := by
  have add (s : State) (l : DLine) : ((s.blkTouch pa 64).modSq q (fun x => { x with dcache := x.dcache ++ [l] })).bump.books = s.books :=
    (State.books_bump _).trans ((State.books_modSq ..).trans (s.books_blkTouch pa 64))
  unfold State.fillLine
  split
  · rfl
  · simp only [add]
    split
    · exact State.books_evictLine ..
    · rfl

theorem State.books_putLine (s : State) (q : Sq) (c : Cx) (va : Nat) (bs : List Byte) : (s.putLine q c va bs).books = s.books :=
  State.books_modSq

theorem State.books_performPosted (s : State) (q : Sq) (c : Cx) : (s.performPosted q c).books = s.books := by
  unfold State.performPosted
  split
  · rfl
  · rw [State.books_putLine, State.books_fillLine]
    exact State.books_modCtx

theorem State.books_drainPosted (s : State) (q : Sq) (c : Cx) : (s.drainPosted q c).books = s.books :=
  foldl_keeps (g := State.books) (fun s (_ : Posted) => s.books_performPosted q c) _ s

theorem State.books_performLoad (s : State) (q : Sq) (l : LoadFlight) : (s.performLoad q l).2.books = s.books := by
  unfold State.performLoad
  split
  · rfl
  · exact State.books_fillLine ..

theorem State.books_performLoads (s : State) (q : Sq) (c : Cx) : (s.performLoads q c).books = s.books := by
  unfold State.performLoads
  exact (State.books_modCtx ..).trans
    (foldl_keeps (g := fun r : List LoadFlight × State => r.2.books) (fun r l => r.2.books_performLoad q l) _ ([], s))

theorem State.books_settle (s : State) (t : TlbiArg) : (s.settle t).books = s.books :=
  foldl_keeps (g := State.books) (fun s (p : Sq × Cx) => (State.books_drainPosted _ p.1 p.2).trans (s.books_performLoads p.1 p.2)) _ s

/-! ## Tables and pages -/

theorem State.books_ensureTable (s : State) (keep : List Mapping) (ea : Nat) : (s.ensureTable keep ea).2.books = s.books := by
  unfold State.ensureTable
  split
  · rfl
  · simp only [State.books_writeHome, State.books_zeroBytes]

theorem State.books_writeLeaf (s : State) (keep : List Mapping) (m : Mapping) : (s.writeLeaf keep m).books = s.books := by
  grind [State.writeLeaf, State.books_writeHome, State.books_ensureTable]

theorem State.books_pruneTables (s : State) (va : Nat) : (s.pruneTables va).books = s.books := by
  have drop (s : State) (b : Bool) (a : Nat) : (if b then s else match ptrBy s.pte a with
      | .ok _ => s.writeHome a (natLE 8 0)
      | .error _ => s).books = s.books := by
    split
    · rfl
    · split <;> rfl
  unfold State.pruneTables
  simp only
  split
  · rfl
  split
  · exact drop ..
  · exact (drop ..).trans ((drop ..).trans (drop ..))

theorem State.books_mapPage (s : State) (keep : List Mapping) (m : Mapping) :
    (s.mapPage keep m).books = { s.books with maps := s.maps.filter (fun (k : Mapping) => k.va ≠ m.va) ++ [m] } := by
  unfold State.mapPage
  simp only [State.books_writeLeaf]
  split <;> rfl

theorem State.books_unmapPage (s : State) (m : Mapping) :
    (s.unmapPage m).books = { s.books with maps := s.maps.filter (fun (k : Mapping) => k.va ≠ m.va) } := by
  have settled := s.books_settle { all := false, va := m.va, big := m.big }
  unfold State.unmapPage
  simp only [State.books_shootdown, State.books_pruneTables]
  split <;> exact congrArg (fun b : Books => { b with maps := b.maps.filter (fun (k : Mapping) => k.va ≠ m.va) }) settled

theorem State.books_putVa (s : State) (fuel va : Nat) (bs : List Byte) : (s.putVa fuel va bs).books = s.books := by
  induction fuel generalizing s va bs with
  | zero => rfl
  | succ fuel ih =>
    unfold State.putVa
    split
    · rfl
    · simp only [ih]
      repeat' split
      all_goals rfl

end Sys2Proof.Machine
end

section
/-! SUPPORT. LOAD (03 R71, R72): each of its answers by the first check that fails, and what its installation leaves. -/

namespace Sys2Proof.Machine

/-! ## The checks, in their order -/

section
variable {s : State} {c : Cmd}

theorem execLoad_of_held (he : s.exam 1 0 = some c) (hh : s.admissionStopped = true ∨ s.behindUnload c = true) (o : Option Placement) :
    execLoad o s = .next { s with cur := none } := by
  rcases hh with h | h <;> simp [execLoad, State.waitHead, he, h]

variable (he : s.exam 1 0 = some c) (ha : s.admissionStopped = false) (hb : s.behindUnload c = false)
include he ha hb

theorem execLoad_of_unsigned (hs : s.imageSigned c.buf = false) (o : Option Placement) : execLoad o s = s.refuseOut c BAD_IMAGE_SIG := by
  simp [execLoad, he, ha, hb, hs]

variable (hs : s.imageSigned c.buf = true)
include hs

theorem execLoad_of_unparsed (hp : parseImage c.buf = none) (o : Option Placement) : execLoad o s = s.refuseOut c BAD_IMAGE := by
  simp [execLoad, he, ha, hb, hs, hp]

variable {m : Image0} (hp : parseImage c.buf = some m)
include hp

theorem execLoad_of_unsound (hm : m.ok true = false) (o : Option Placement) : execLoad o s = s.refuseOut c BAD_IMAGE := by
  simp [execLoad, he, ha, hb, hs, hp, hm]

variable (hm : m.ok true = true)
include hm

theorem execLoad_of_taken (ht : s.taken c.res = true) (o : Option Placement) : execLoad o s = s.refuseOut c RESIDENCE_IN_USE := by
  simp [execLoad, he, ha, hb, hs, hp, hm, ht]

variable (ht : s.taken c.res = false)
include ht

theorem execLoad_of_no_placement : execLoad none s = s.refuseOut c NO_CAPACITY := by
  simp [execLoad, he, ha, hb, hs, hp, hm, ht]

variable {p : Placement} {rs : List MRange} (hlen : p.vas.length = m.secs.length)
  (hfit : s.placementFits (List.zip m.secs p.vas) p.frames (fun _ => false) = true)
  (hrs : placeRanges m (m.rangeNums []) (List.zip m.secs p.vas) (secMaps c.res (List.zip m.secs p.vas) p.frames) = some rs)
include hlen hfit hrs

/-- Whether the edges, the pinned pages and the regions of an image fit (03 R71 step 4). -/
def State.loadFits (s : State) (m : Image0) (res : Nat) (p : Placement) : Prop :=
  s.edgesFit (edgesOf (schedOf m.secs)) = true ∧ s.pinsFit (secMaps res (List.zip m.secs p.vas) p.frames) = true ∧
    s.regionsFit (regionPlaces m (schedOf (m.staged p.vas (m.rangeNums []))) res) = true

theorem execLoad_of_misfit (h : ¬s.loadFits m c.res p) : execLoad (some p) s = s.refuseOut c NO_CAPACITY := by
  simp only [State.loadFits, not_and_or, Bool.not_eq_true] at h
  rcases h with h | h | h <;> simp [execLoad, he, ha, hb, hs, hp, hm, ht, hlen, hfit, hrs, h]

variable (hf : s.loadFits m c.res p)
include hf

theorem execLoad_of_relocation_range (hr : m.relocate p.vas (m.rangeNums []) = none) : execLoad (some p) s = s.refuseOut c RELOC_RANGE := by
  obtain ⟨hedges, hpins, hregions⟩ := hf
  simp [execLoad, he, ha, hb, hs, hp, hm, ht, hlen, hfit, hrs, hedges, hpins, hregions, hr]

variable {secs : List ISec} (hr : m.relocate p.vas (m.rangeNums []) = some secs)
include hr

theorem execLoad_of_bad_regions (hg : s.imageRegions m (schedOf secs) c.res = none) : execLoad (some p) s = s.refuseOut c RELOC_RANGE := by
  obtain ⟨hedges, hpins, hregions⟩ := hf
  simp [execLoad, he, ha, hb, hs, hp, hm, ht, hlen, hfit, hrs, hedges, hpins, hregions, hr, hg]

/-- The residence that LOAD makes of an image and its relocated sections (03 R71 step 6). -/
def loadedResidence (c : Cmd) (m : Image0) (p : Placement) (secs : List ISec) (rs : List MRange) : Residence :=
  let placed := secsOf secs p.vas (shadowsOf p m.secs)
  let place := (m.records 0xFFF2).headD { sec := 0, value := 0, size := 0 }
  { num := c.res, entry := word (((placed.find? (fun x => x.kind == 0)).map (fun x => x.va)).getD 0 + place.value), psafe := place.size == 1
    formats := (m.records 0xFFF1).filterMap formatOf, sched := schedOf secs, secs := placed, ranges := rs, edges := edgesOf (schedOf m.secs)
    digest := digest c.buf }

omit he ha hb hs hp hm ht hlen hfit hrs hf hr in
theorem eq_loadedResidence {y : Residence} (num : y.num = c.res) (sched : y.sched = schedOf secs)
    (placed : y.secs = secsOf secs p.vas (shadowsOf p m.secs)) (ranges : y.ranges = rs) (edges : y.edges = edgesOf (schedOf m.secs))
    (sha : y.digest = digest c.buf) (formats : y.formats = (m.records 0xFFF1).filterMap formatOf)
    (entry : y.entry = word ((((secsOf secs p.vas (shadowsOf p m.secs)).find? (fun x => x.kind == 0)).map (fun x => x.va)).getD 0 +
      ((m.records 0xFFF2).headD { sec := 0, value := 0, size := 0 }).value))
    (psafe : y.psafe = (((m.records 0xFFF2).headD { sec := 0, value := 0, size := 0 }).size == 1)) : y = loadedResidence c m p secs rs := by
  calc y = ⟨y.num, y.entry, y.psafe, y.formats, y.sched, y.secs, y.ranges, y.edges, y.digest⟩ := rfl
    _ = loadedResidence c m p secs rs := by
      rw [num, entry, psafe, formats, sched, placed, ranges, edges, sha, loadedResidence]

variable {gs : List Region} (hg : s.imageRegions m (schedOf secs) c.res = some gs)
include hg

theorem execLoad_of_unbounded (hB : s.boundsFit (loadedResidence c m p secs rs) = false) : execLoad (some p) s = s.refuseOut c NO_CAPACITY := by
  obtain ⟨hedges, hpins, hregions⟩ := hf
  simp only [loadedResidence] at hB
  simp [execLoad, he, ha, hb, hs, hp, hm, ht, hlen, hfit, hrs, hedges, hpins, hregions, hr, hg, hB, -List.headD_eq_head?_getD]

theorem execLoad_of_accepted (hB : s.boundsFit (loadedResidence c m p secs rs) = true) : execLoad (some p) s =
    .next (({ s.endExam c.q with installs := s.installs ++
      [.load c.q c.tag (loadedResidence c m p secs rs) (secMaps c.res (List.zip m.secs p.vas) p.frames) gs] } : State).addEdges
        (edgesOf (schedOf m.secs))) := by
  obtain ⟨hedges, hpins, hregions⟩ := hf
  simp only [loadedResidence] at hB ⊢
  simp [execLoad, he, ha, hb, hs, hp, hm, ht, hlen, hfit, hrs, hedges, hpins, hregions, hr, hg, hB, -List.headD_eq_head?_getD]

end

end Sys2Proof.Machine
end

section
/-! SUPPORT. The installation of a LOAD: programming leaves the books alone, mapping changes the pages alone, and every region that has room is
declared (03 R72, 10 R238, 12 R274). -/

namespace Sys2Proof.Machine

/-! ## Programming through the journals -/

theorem State.books_checkedWrite (s : State) (pa : Nat) (bs : List Byte) : (s.checkedWrite pa bs).2.books = s.books := by
  unfold State.checkedWrite
  simp only
  split <;> rfl

theorem State.books_modJournal (s : State) (q : Sq) (f : Journal → Journal) : (s.modJournal q f).books = s.books :=
  State.books_modSq ..

theorem State.books_writeEntries (s : State) (q : Sq) (l : List (Nat × Word)) (i : Nat) : (s.writeEntries q l i).2.books = s.books := by
  induction l generalizing s i with
  | nil => rfl
  | cons e l ih => grind [State.writeEntries, State.books_checkedWrite]

theorem State.books_applyJEntry (s : State) (e : Nat × Word) : (s.applyJEntry e).2.books = s.books := by
  have marked (s : State) : (s.markWorn e.1).books = s.books := rfl
  grind [State.applyJEntry, State.books_checkedWrite]

theorem State.books_applyJournal (s : State) (l : List (Nat × Word)) (n : Nat) : (s.applyJournal l n).2.books = s.books := by
  induction l generalizing s n with
  | nil => rfl
  | cons e l ih => exact (ih _ _).trans (s.books_applyJEntry e)

theorem State.books_recordCopy (s : State) (q : Sq) : (s.recordCopy q).books = s.books :=
  (State.books_modJournal ..).trans (State.books_checkedWrite ..)

theorem State.books_journalOnce (s : State) (q : Sq) (now : List (Nat × Word)) : (s.journalOnce q now).2.books = s.books := by
  grind [State.journalOnce, State.books_applyJournal, State.books_recordCopy, State.books_writeEntries, State.books_modJournal]

theorem State.books_journalWrites (s : State) (q : Sq) (fuel : Nat) (es : List (Nat × Word)) : (s.journalWrites q fuel es).2.books = s.books := by
  induction fuel generalizing s es with
  | zero => rfl
  | succ fuel ih => grind [State.journalWrites, State.books_journalOnce, State.books_modJournal]

theorem State.books_journalSquares (s : State) (ws : List (Nat × Word)) (l : List Sq) : (s.journalSquares ws l).2.books = s.books := by
  induction l generalizing s with
  | nil => rfl
  | cons q l ih => grind [State.journalSquares, State.books_journalWrites]

theorem State.books_program (s : State) (secs : List Sec) (maps : List Mapping) : (s.program secs maps).2.books = s.books :=
  s.books_journalSquares ..

theorem State.books_of_program {s v : State} {secs : List Sec} {maps : List Mapping} {k : Option Nat} (h : s.program secs maps = (k, v)) :
    v.books = s.books :=
  (congrArg (fun x : Option Nat × State => x.2.books) h).symm.trans (s.books_program secs maps)

/-! ## Pages -/

/-- Mapping the pages and writing the sections of an image changes no entry of the books but the pages. -/
theorem State.books_installPages (s : State) (secs : List Sec) (maps : List Mapping) :
    { (s.installPages secs maps).books with maps := [] } = { s.books with maps := [] } := by
  have mapped (s : State) (m : Mapping) : { (s.mapPage maps m).books with maps := [] } = { s.books with maps := [] } := by
    rw [State.books_mapPage]
  have filled := foldl_keeps (g := State.books) (fun s (x : Sec) => s.books_putVa (x.size / 0x10000 + 2) x.va x.bytes) secs
  rw [State.installPages, filled]
  exact foldl_keeps (g := fun s : State => { s.books with maps := [] }) mapped maps s

/-! ## Regions (12 R274) -/

theorem mem_of_mget_eq_some {α : Type} {l : List (Nat × Option α)} {a : Nat} {v : α} (h : mget none l a = some v) : (a, some v) ∈ l := by
  induction l with
  | nil => cases h
  | cons e l ih =>
    simp only [mget] at h
    split at h
    · next hk => exact List.mem_cons.2 (.inl (Prod.ext hk.symm h.symm))
    · exact List.mem_cons_of_mem _ (ih h)

theorem mins_perm {α : Type} (a : Nat) (v : α) (l : List (Nat × α)) : (mins a v l).Perm ((a, v) :: l) := by
  induction l with
  | nil => exact .refl _
  | cons e l ih =>
    simp only [mins]
    split
    · exact .refl _
    · exact (ih.cons e).trans (.swap ..)

/-- The numbers that no region has. -/
def State.freeNumbers (s : State) : List Nat := (List.range 1024).filter (fun n => (mget none s.regions n).isNone)

theorem State.freeRegion_eq (s : State) : s.freeRegion = s.freeNumbers[Config.pick s.free % s.freeNumbers.length]? := rfl

theorem State.freeNumbers_ne_nil {s : State} (h : s.regionList.length < 1024) : s.freeNumbers ≠ [] := by
  intro none_free
  have listed : List.range 1024 ⊆ (s.regions.filter (fun e => e.2.isSome)).map Prod.fst := by
    intro n hn
    obtain ⟨g, hg⟩ := Option.ne_none_iff_exists'.1 (by simpa using List.filter_eq_nil_iff.1 none_free n hn)
    exact List.mem_map.2 ⟨(n, some g), List.mem_filter.2 ⟨mem_of_mget_eq_some hg, rfl⟩, rfl⟩
  have count := (List.nodup_range.subperm listed).length_le
  rw [List.length_range, List.length_map, ← List.countP_eq_length_filter, ← List.length_filterMap_eq_countP] at count
  exact absurd h (Nat.not_lt.2 count)

/-- While fewer than 1,024 regions stand, the next one finds a free number. -/
theorem State.exists_freeRegion {s : State} (h : s.regionList.length < 1024) : ∃ n, s.freeRegion = some n ∧ mget none s.regions n = none := by
  have hlt := Nat.mod_lt (Config.pick s.free) (List.length_pos_iff.2 (State.freeNumbers_ne_nil h))
  refine ⟨_, (State.freeRegion_eq s).trans (List.getElem?_eq_getElem hlt), ?_⟩
  exact Option.isNone_iff_eq_none.1 (List.mem_filter.1 (List.getElem_mem hlt)).2

theorem length_filterMap_mput_some (l : List (Nat × Option Region)) (n : Nat) (r : Region) :
    ((mput none l n (some r)).filterMap (·.2)).length ≤ (l.filterMap (·.2)).length + 1 := by
  have inserted := ((mins_perm n (some r) (l.filter (fun e => e.1 ≠ n))).filterMap (·.2)).length_eq
  have kept := (List.filter_sublist (p := fun e : Nat × Option Region => decide (e.1 ≠ n)) (l := l)).filterMap (·.2) |>.length_le
  simp only [mput, reduceCtorEq, if_false]
  rw [inserted]
  exact Nat.succ_le_succ kept

/-- Regions that have room are all declared, and the entries that stood still stand. -/
theorem State.declare_listed (rs : List Region) (s : State) (h : s.regionList.length + rs.length ≤ 1024) :
    (∀ n g, mget none s.regions n = some g → mget none (s.declare rs).regions n = some g) ∧
      ∀ g ∈ rs, ∃ n, mget none (s.declare rs).regions n = some g := by
  induction rs generalizing s with
  | nil => exact ⟨fun _ _ hg => hg, nofun⟩
  | cons r rs ih =>
    simp only [List.length_cons] at h
    obtain ⟨k, hk, hfree⟩ := State.exists_freeRegion (s := s) (by omega)
    set t : State := ({ s with regions := mput none s.regions k (some r) } : State).bump
    have step : s.declare (r :: rs) = t.declare rs := by
      rw [State.declare, List.foldl_cons, hk]; rfl
    have grown : t.regionList.length ≤ s.regionList.length + 1 := length_filterMap_mput_some ..
    obtain ⟨stands, listed⟩ := ih t (by omega)
    rw [step]
    refine ⟨fun n g hg => stands n g ?_, fun g hg => ?_⟩
    · have hnk : n ≠ k := by rintro rfl; rw [hfree] at hg; cases hg
      exact (mget_mput_ne none (some r) s.regions k n hnk).trans hg
    · rcases List.mem_cons.1 hg with rfl | hg
      · exact ⟨k, stands k g (mget_mput_same none (some g) s.regions k)⟩
      · exact listed g hg

theorem State.mem_regionList_declare {s : State} {rs : List Region} (h : s.regionList.length + rs.length ≤ 1024) {g : Region} (hg : g ∈ rs) :
    g ∈ (s.declare rs).regionList := by
  obtain ⟨n, hn⟩ := (s.declare_listed rs h).2 g hg
  exact List.mem_filterMap.2 ⟨_, mem_of_mget_eq_some hn, rfl⟩

/-- A declaration changes no entry of the books but the regions. -/
theorem State.books_declare (s : State) (rs : List Region) : { (s.declare rs).books with regions := [] } = { s.books with regions := [] } := by
  refine foldl_keeps (g := fun s : State => { s.books with regions := [] }) (fun s r => ?_) rs s
  split <;> rfl

/-! ## The installation (03 R72) -/

/-- What LOAD_INSTALL_COMPLETE leaves, the MRAM programmed, but for the completion. -/
def State.installed (s : State) (r : Residence) (maps : List Mapping) (gs : List Region) : State :=
  (((s.installPages r.secs maps).declare gs).setResidence r.num (some r)).clearICaches

section
variable {s v : State} {i : Nat} {q : Fin 16} {tag : BitVec 32} {r : Residence} {maps : List Mapping} {gs : List Region}
  (hi : s.installs[i]? = some (.load q tag r maps gs)) (hj : s.journalsFree (Install.frames (.load q tag r maps gs)) = true)
  (hapart : ∀ g ∈ gs, ∀ h ∈ s.regionList, g.meets h = false) (hroom : s.regionList.length + gs.length ≤ 1024)
include hi hj hapart hroom

theorem execLoadInstallComplete_of_programmed (hp : ({ s with installs := s.installs.eraseIdx i } : State).program r.secs maps = (none, v)) :
    execLoadInstallComplete i s = .next ((v.installed r maps gs).complete (mkComp q tag 0 0 0 0 0 0)) := by
  have hany : gs.any (fun g => s.regionList.any g.meets) = false := by simpa using hapart
  simp [execLoadInstallComplete, State.installed, hi, hj, hany, hp, hroom]

theorem execLoadInstallComplete_of_stopped {k : Nat}
    (hp : ({ s with installs := s.installs.eraseIdx i } : State).program r.secs maps = (some k, v)) :
    execLoadInstallComplete i s = .next ((v.dropEdges r.edges).complete (mkComp q tag 2 k 0 0 0 0)) := by
  have hany : gs.any (fun g => s.regionList.any g.meets) = false := by simpa using hapart
  simp [execLoadInstallComplete, hi, hj, hany, hp, hroom]

end

theorem State.residence_setResidence (s : State) (n : Nat) (r : Option Residence) : (s.setResidence n r).residence n = r :=
  mget_mput_same ..

theorem State.residence_installed (s : State) (r : Residence) (maps : List Mapping) (gs : List Region) :
    (s.installed r maps gs).residence r.num = some r :=
  State.residence_setResidence ((s.installPages r.secs maps).declare gs) r.num (some r)

theorem State.installs_installed (s : State) (r : Residence) (maps : List Mapping) (gs : List Region) :
    (s.installed r maps gs).installs = s.installs := by
  calc (s.installed r maps gs).installs
      = ((s.installPages r.secs maps).declare gs).installs := rfl
    _ = (s.installPages r.secs maps).installs := congrArg Books.installs (State.books_declare ..)
    _ = s.installs := congrArg Books.installs (State.books_installPages ..)

theorem State.held_installed (s : State) (r : Residence) (maps : List Mapping) (gs : List Region) : (s.installed r maps gs).held = s.held := by
  calc (s.installed r maps gs).held
      = ((s.installPages r.secs maps).declare gs).held := rfl
    _ = (s.installPages r.secs maps).held := congrArg Books.held (State.books_declare ..)
    _ = s.held := congrArg Books.held (State.books_installPages ..)

theorem State.mem_regionList_installed {s : State} {r : Residence} {maps : List Mapping} {gs : List Region}
    (h : s.regionList.length + gs.length ≤ 1024) {g : Region} (hg : g ∈ gs) : g ∈ (s.installed r maps gs).regionList := by
  have same : (s.installPages r.secs maps).regionList = s.regionList :=
    congrArg (fun b : Books => b.regions.filterMap Prod.snd) (s.books_installPages r.secs maps)
  exact State.mem_regionList_declare (s := s.installPages r.secs maps) (by rwa [same]) hg

theorem State.icache_clearICaches (s : State) (n : Sq) (k : Fin 16) : (s.clearICaches.sq n).icache[k] = [] := by
  simp [State.clearICaches, State.sq]

end Sys2Proof.Machine
end

section
/-! SUPPORT. What the steps of UNLOAD leave of the books: completions, the pages and regions of a residence, and its invocations (13 R287). -/

namespace Sys2Proof.Machine

/-! ## Completions -/

theorem State.postList_books : ∀ (l k : List Comp) (s : State),
    { (s.postList l k).books with held := [] } = { s.books with held := [] } ∧ (s.postList l k).invs = s.invs
  | [], _, _ => ⟨rfl, rfl⟩
  | c :: t, k, s => by
    simp only [State.postList]
    split
    · exact State.postList_books t _ s
    · exact State.postList_books t k (s.postOne c)

theorem State.postHeld_books (s : State) : { s.postHeld.books with held := [] } = { s.books with held := [] } ∧ s.postHeld.invs = s.invs := by
  unfold State.postHeld
  split
  · exact State.postList_books _ _ s
  · exact ⟨rfl, rfl⟩

/-- A completion changes no entry of the books but those that wait to be posted. -/
theorem State.books_complete (s : State) (c : Comp) : { (s.complete c).books with held := [] } = { s.books with held := [] } :=
  (State.postHeld_books _).1

theorem State.invs_complete (s : State) (c : Comp) : (s.complete c).invs = s.invs := (State.postHeld_books _).2

/-- While the link is down, every entry waits (17 R358). -/
theorem State.complete_of_link_down {s : State} (h : s.lup = false) (c : Comp) : s.complete c = { s with held := s.held ++ [c] } := by
  simp [State.complete, State.postHeld, h]

/-! ## What leaves with a residence -/

theorem State.books_foldl_unmapPage (l : List Mapping) (s : State) :
    (l.foldl State.unmapPage s).books = { s.books with maps := s.maps.filter (fun k => l.all (fun m => k.va ≠ m.va)) } := by
  induction l generalizing s with
  | nil => simp [State.books]
  | cons m l ih =>
    have unmapped := s.books_unmapPage m
    have left : (s.unmapPage m).maps = s.maps.filter (fun k => k.va ≠ m.va) := congrArg Books.maps unmapped
    rw [List.foldl_cons, ih, left, unmapped, List.filter_filter]
    simp only [List.all_cons, Bool.and_comm]

/-- The pages, the regions and the entry of a residence leave the books, and nothing else. -/
theorem State.books_removeResidence (s : State) (r : Residence) : (s.removeResidence r).books = { s.books with
    residences := mput none s.residences r.num none
    regions := s.regions.filter (fun (e : Nat × Option Region) => (e.2.map (fun (g : Region) => g.owner)) ≠ some (RgnOwner.res r.num))
    maps := s.maps.filter (fun k => (s.mapsOf r.secs).all (fun m => k.va ≠ m.va)) } := by
  have unmapped := State.books_foldl_unmapPage (s.mapsOf r.secs) s
  have hres := congrArg Books.residences unmapped
  have hreg := congrArg Books.regions unmapped
  unfold State.removeResidence
  refine (State.books_mapSquares ..).trans ?_
  generalize (s.mapsOf r.secs).foldl State.unmapPage s = u at unmapped hres hreg
  exact congrArg (fun b : Books => { b with
    residences := mput none b.residences r.num none
    regions := b.regions.filter (fun (e : Nat × Option Region) => (e.2.map (fun (g : Region) => g.owner)) ≠ some (RgnOwner.res r.num)) }) unmapped

theorem State.residence_removeResidence (s : State) (r : Residence) : (s.removeResidence r).residence r.num = none := by
  have e : (s.removeResidence r).residences = mput none s.residences r.num none := congrArg Books.residences (s.books_removeResidence r)
  rw [State.residence, e, mget_mput_same]

theorem State.owner_of_mem_removeResidence {s : State} {r : Residence} {g : Region} (hg : g ∈ (s.removeResidence r).regionList) :
    g.owner ≠ .res r.num := by
  have e := congrArg Books.regions (s.books_removeResidence r)
  obtain ⟨x, hx, hxg⟩ := List.mem_filterMap.1 hg
  have hne := (List.mem_filter.1 ((show (s.removeResidence r).regions = _ from e) ▸ hx)).2
  simpa [hxg] using hne

/-- No page of a section of the residence stays mapped. -/
theorem State.not_mem_mapsOf_of_mem_removeResidence {s : State} {r : Residence} {m : Mapping} (hm : m ∈ (s.removeResidence r).maps) :
    m ∉ s.mapsOf r.secs := by
  have e := congrArg Books.maps (s.books_removeResidence r)
  have hall := (List.mem_filter.1 ((show (s.removeResidence r).maps = _ from e) ▸ hm)).2
  intro hmem
  simpa using List.all_eq_true.1 hall m hmem

theorem State.held_removeResidence (s : State) (r : Residence) : (s.removeResidence r).held = s.held :=
  congrArg Books.held (s.books_removeResidence r)

theorem State.launchQ_removeResidence (s : State) (r : Residence) (q : Sq) : ((s.removeResidence r).sq q).launchQ = (s.sq q).launchQ := by
  have kept := congrArg Books.duties (s.books_removeResidence r)
  exact launchQ_of_duties kept q

theorem State.invRes_removeResidence (s : State) (r : Residence) :
    (s.removeResidence r).invs.map (fun i => i.res) = s.invs.map (fun i => i.res) :=
  congrArg Books.invRes (s.books_removeResidence r)

/-! ## Invocations that end with their residence -/

theorem State.goneEntry_congr {s t : State} (h : t.intervals = s.intervals) (i : Machine.Inv) : t.goneEntry i = s.goneEntry i := by
  simp [State.goneEntry, State.invDone, State.invEnd, State.extension, h]

/-- No tile of it was ever bound: REFUSED with CODE_GONE (17 R366; log 28). -/
theorem State.goneEntry_of_not_begun (s : State) {j : Machine.Inv} (he : j.ended = []) (hb : j.begun = false) :
    s.goneEntry j = mkComp j.q j.tag 2 0x12D 0 0 0 0 := by
  simp [State.goneEntry, he, hb, CODE_GONE]

/-- Else it is DONE, with the cause of 15 R326. -/
theorem State.goneEntry_of_begun (s : State) {j : Machine.Inv} (h : j.ended ≠ [] ∨ j.begun = true) : s.goneEntry j = s.invDone j j.cause := by
  have hno : (j.ended.isEmpty && !j.begun) = false := by
    rcases h with h | h <;> simp [h]
  simp [State.goneEntry, hno]

theorem State.applyPairs_books (s : State) (n : Fin 8) (ps : List (Word × Int)) :
    (s.applyPairs n ps).books = s.books ∧ (s.applyPairs n ps).invs = s.invs := by
  unfold State.applyPairs
  simp only
  split <;> exact ⟨rfl, rfl⟩

/-- An invocation without its token, its run-time regions and its place among the accepted. -/
def State.strikeInv (s : State) (i : Machine.Inv) : State :=
  ((if i.token then s.applyPairs i.words.scope [(i.words.tbase, -1)] else s).closeInv i.id).dropRegions (.inv i.id)

theorem State.dropInv_eq (s : State) (i : Machine.Inv) : s.dropInv i = (s.strikeInv i).complete ((s.strikeInv i).goneEntry i) := rfl

theorem State.strikeInv_books (s : State) (i : Machine.Inv) :
    { (s.strikeInv i).books with regions := [], invRes := [] } = { s.books with regions := [], invRes := [] } ∧
      (s.strikeInv i).invs = s.invs.filter (fun j => j.id ≠ i.id) := by
  have key : ∀ u : State, u.books = s.books ∧ u.invs = s.invs →
      { ((u.closeInv i.id).dropRegions (.inv i.id)).books with regions := [], invRes := [] } = { s.books with regions := [], invRes := [] } ∧
        ((u.closeInv i.id).dropRegions (.inv i.id)).invs = s.invs.filter (fun j => j.id ≠ i.id) :=
    fun u ⟨hb, hi⟩ => ⟨congrArg (fun b : Books => { b with regions := [], invRes := [] }) hb, congrArg (List.filter _) hi⟩
  unfold State.strikeInv
  split
  · exact key _ (s.applyPairs_books _ _)
  · exact key s ⟨rfl, rfl⟩

/-- The end of an invocation changes no entry of the books but the regions, the completions that wait, and the invocations. -/
theorem State.books_dropInv (s : State) (i : Machine.Inv) :
    { (s.dropInv i).books with regions := [], invRes := [], held := [] } = { s.books with regions := [], invRes := [], held := [] } :=
  (congrArg (fun b : Books => { b with regions := [], invRes := [] }) (State.books_complete ..)).trans
    (congrArg (fun b : Books => { b with held := [] }) (s.strikeInv_books i).1)

theorem State.invs_dropInv (s : State) (i : Machine.Inv) : (s.dropInv i).invs = s.invs.filter (fun j => j.id ≠ i.id) :=
  (State.invs_complete ..).trans (s.strikeInv_books i).2

theorem State.lup_dropInv (s : State) (i : Machine.Inv) : (s.dropInv i).lup = s.lup := congrArg Books.lup (s.books_dropInv i)

theorem State.intervals_dropInv (s : State) (i : Machine.Inv) : (s.dropInv i).intervals = s.intervals :=
  congrArg Books.intervals (s.books_dropInv i)

theorem State.held_dropInv {s : State} (h : s.lup = false) (i : Machine.Inv) : (s.dropInv i).held = s.held ++ [s.goneEntry i] := by
  have kept := (s.strikeInv_books i).1
  have hl : (s.strikeInv i).lup = false := (congrArg Books.lup kept).trans h
  have hh : (s.strikeInv i).held = s.held := congrArg Books.held kept
  have ht : (s.strikeInv i).intervals = s.intervals := congrArg Books.intervals kept
  rw [State.dropInv_eq, State.complete_of_link_down hl, State.goneEntry_congr ht, hh]

/-- Of the invocations that are ended, none is left. -/
theorem State.invs_foldl_dropInv (l : List Machine.Inv) (s : State) {j : Machine.Inv} (hj : j ∈ (l.foldl State.dropInv s).invs) :
    j ∈ s.invs ∧ ∀ i ∈ l, j.id ≠ i.id := by
  induction l generalizing s with
  | nil => exact ⟨hj, nofun⟩
  | cons i l ih =>
    obtain ⟨hmem, hne⟩ := ih _ hj
    rw [State.invs_dropInv, List.mem_filter, decide_eq_true_eq] at hmem
    exact ⟨hmem.1, List.forall_mem_cons.2 ⟨hmem.2, hne⟩⟩

theorem State.held_foldl_dropInv (l : List Machine.Inv) {s : State} (h : s.lup = false) :
    (l.foldl State.dropInv s).held = s.held ++ l.map s.goneEntry := by
  induction l generalizing s with
  | nil => simp
  | cons i l ih =>
    have same : (s.dropInv i).goneEntry = s.goneEntry := funext (State.goneEntry_congr (s.intervals_dropInv i))
    rw [List.foldl_cons, ih ((s.lup_dropInv i).trans h), State.held_dropInv h, same, List.map_cons, List.append_assoc, List.singleton_append]

theorem State.held_foldl_complete {α : Type} (f : α → Comp) (l : List α) {s : State} (h : s.lup = false) :
    (l.foldl (fun s i => s.complete (f i)) s).held = s.held ++ l.map f := by
  induction l generalizing s with
  | nil => simp
  | cons i l ih =>
    rw [List.foldl_cons, State.complete_of_link_down h, ih (s := { s with held := s.held ++ [f i] }) h, List.map_cons, List.append_assoc,
      List.singleton_append]

end Sys2Proof.Machine
end

section
/-! SUPPORT. UNLOAD with FORCE: the records that leave the launch queues, the contexts that end, and what the command waits for (13 R287, 15 R325). -/

namespace Sys2Proof.Machine

/-! ## The launch queues -/

/-- The dispatcher's drops change neither the queue, nor a context, nor the journal of a square. -/
theorem Square.dropRecords_parts (x : Square) (n : Nat) :
    (x.dropRecords n).launchQ = x.launchQ.filter (fun r => r.words.res ≠ n) ∧ (x.dropRecords n).ctxs = x.ctxs ∧
      (x.dropRecords n).journal = x.journal := by
  have dropped (x : Square) (r : LRec) : ((x.dropAll (.disp r.id)).launchQ, (x.dropAll (.disp r.id)).ctxs, (x.dropAll (.disp r.id)).journal) =
    (x.launchQ, x.ctxs, x.journal) := rfl
  have kept := foldl_keeps (g := fun x : Square => (x.launchQ, x.ctxs, x.journal)) dropped (x.launchQ.filter (fun r => r.words.res == n))
    { x with launchQ := x.launchQ.filter (fun r => r.words.res ≠ n) }
  simp only [Prod.mk.injEq] at kept
  exact kept

theorem Square.dropRecords_of_none {x : Square} {n : Nat} (h : ∀ e ∈ x.launchQ, e.words.res ≠ n) : x.dropRecords n = x := by
  have gone : x.launchQ.filter (fun r => r.words.res == n) = [] := List.filter_eq_nil_iff.2 (by simpa using h)
  have left : x.launchQ.filter (fun r => r.words.res ≠ n) = x.launchQ := List.filter_eq_self.2 (by simpa using h)
  simp only [Square.dropRecords, gone, left, List.foldl_nil]

/-! ## Live and saved contexts -/

/-- A residence has no live or saved context. -/
theorem State.contextsOf_eq_zero {s : State} {n : Nat} : s.contextsOf n = 0 ↔
    (∀ (q : Sq) (k : Fin 8), (s.ctx q (tileCx k)).st = .free ∨ (s.ctx q (tileCx k)).res ≠ n) ∧ ∀ y ∈ s.saved, y.res ≠ n := by
  have live : ((s.squares.toList.map (fun x => ((List.finRange 8).filter
      (fun c => x.ctxs[tileCx c].st ≠ .free && x.ctxs[tileCx c].res == n)).length)).sum = 0) ↔
        ∀ (q : Sq) (k : Fin 8), (s.ctx q (tileCx k)).st = .free ∨ (s.ctx q (tileCx k)).res ≠ n := by
    simp only [List.sum_eq_zero_iff, List.forall_mem_map, List.length_eq_zero_iff, List.filter_eq_nil_iff, List.mem_finRange, forall_true_left]
    constructor
    · intro h q k
      have := h s.squares[q] (by simp) k
      simp only [State.ctx, State.sq]
      grind
    · intro h x hx k
      obtain ⟨i, hi, rfl⟩ := List.mem_iff_getElem.1 hx
      have := h ⟨i, by simpa using hi⟩ k
      simp only [State.ctx, State.sq] at this
      grind
  have parked : (s.saved.filter (fun y => y.res == n)).length = 0 ↔ ∀ y ∈ s.saved, y.res ≠ n := by
    simp [List.filter_eq_nil_iff]
  rw [State.contextsOf, Nat.add_eq_zero_iff, live, parked]

/-! ## The contexts that FORCE ends -/

/-- Step 3 at one context: it ends with CODE_GONE where it is live, of the residence, and not in MJ.COMMIT; a service of it ends first. -/
def State.endContext (n : Nat) (q : Sq) (s : State) (c : Fin 8) : State :=
  let k := s.ctx q (tileCx c)
  if k.st = .free || k.endCause.isSome || k.res ≠ n || s.committing q (tileCx c) then s
  else
    let s := match (s.sq q).service with
      | some (t, _) => if t = c then s.serviceEnd q c else s
      | none => s
    s.endTask q (tileCx c) CODE_GONE

theorem State.endContexts_eq (s : State) (n : Nat) (q : Sq) : s.endContexts n q = (List.finRange 8).foldl (State.endContext n q) s := rfl

theorem State.endContext_of_not_live {s : State} {n : Nat} {q : Sq} {c : Fin 8}
    (h : (s.ctx q (tileCx c)).st = .free ∨ (s.ctx q (tileCx c)).res ≠ n) : s.endContext n q c = s := by
  rcases h with h | h <;> simp [State.endContext, h]

theorem State.endContexts_of_none_live {s : State} {n : Nat} {q : Sq}
    (h : ∀ k : Fin 8, (s.ctx q (tileCx k)).st = .free ∨ (s.ctx q (tileCx k)).res ≠ n) : s.endContexts n q = s := by
  rw [State.endContexts_eq]
  exact List.foldl_fixed' (fun k => State.endContext_of_not_live (h k)) _

/-! ## What a context that ends shows -/

/-- What decides whether FORCE ends a context: its duty, and the journal of its square. -/
def State.standing (s : State) (p : Sq) (k : Cx) : (CtxSt × Option Nat × Nat) × Journal := ((s.ctx p k).duty, (s.sq p).journal)

theorem State.standing_modSq {s : State} {q : Sq} {f : Square → Square} (p : Sq) (k : Cx)
    (h : ∀ x, (f x).ctxs = x.ctxs ∧ (f x).journal = x.journal := by intro; exact ⟨rfl, rfl⟩) :
    (s.modSq q f).standing p k = s.standing p k := by
  by_cases hp : p = q
  · subst hp
    simp [State.standing, State.ctx, h]
  · simp only [State.standing, State.ctx, State.sq_modSq_ne _ _ _ _ hp]

theorem State.journal_modCtx (s : State) (q p : Sq) (c : Cx) (f : Ctx → Ctx) : ((s.modCtx q c f).sq p).journal = (s.sq p).journal := by
  by_cases hp : p = q
  · subst hp
    rw [State.modCtx, State.sq_setCtx]
  · rw [State.modCtx, State.sq_setCtx_ne _ _ _ _ _ hp]

theorem State.standing_modCtx_ne {s : State} {q p : Sq} {c k : Cx} (f : Ctx → Ctx) (h : ¬(p = q ∧ k = c)) :
    (s.modCtx q c f).standing p k = s.standing p k := by
  simp only [State.standing, State.journal_modCtx]
  by_cases hp : p = q
  · subst hp
    rw [State.ctx_modCtx_ne _ _ _ _ _ fun e => h ⟨rfl, e⟩]
  · rw [State.ctx_modCtx_sq _ _ _ _ _ _ hp]

theorem State.standing_modCtx (s : State) (q : Sq) (c : Cx) (f : Ctx → Ctx) :
    (s.modCtx q c f).standing q c = ((f (s.ctx q c)).duty, (s.sq q).journal) := by
  simp only [State.standing, State.journal_modCtx, State.ctx_modCtx]

/-- A service ends in its square and its context, whose duty it leaves. -/
theorem State.serviceEnd_eq (s : State) (q : Sq) (c : Fin 8) : ∃ f : Square → Square, (∀ x, (f x).ctxs = x.ctxs ∧ (f x).journal = x.journal) ∧
    s.serviceEnd q c = (s.modSq q f).modCtx q (tileCx c) (fun x => { x.reload with blocked := x.blocked }) := by
  refine ⟨_, ?_, rfl⟩
  exact fun _ => ⟨rfl, rfl⟩

theorem State.standing_serviceEnd (s : State) (q p : Sq) (c : Fin 8) (k : Cx) : (s.serviceEnd q c).standing p k = s.standing p k := by
  obtain ⟨f, hf, he⟩ := s.serviceEnd_eq q c
  have freed := State.standing_modSq (s := s) (q := q) p k hf
  rw [he]
  by_cases h : p = q ∧ k = tileCx c
  · obtain ⟨rfl, rfl⟩ := h
    exact (State.standing_modCtx ..).trans freed
  · exact (State.standing_modCtx_ne _ h).trans freed

/-- A task ends in its square, its context and its invocation. -/
theorem State.endTask_eq (s : State) (q : Sq) (c : Cx) (code : Nat) : ∃ (f : Square → Square) (e : TaskEnd),
    (∀ x, (f x).ctxs = x.ctxs ∧ (f x).journal = x.journal) ∧ s.endTask q c code = ((s.modSq q f).modCtx q c
      (fun x => { x with st := .ending, endCause := some code, records := [], blocked := none, hold := false })).noteEnd (s.ctx q c).inv e := by
  refine ⟨_, _, ?_, rfl⟩
  exact fun _ => ⟨rfl, rfl⟩

theorem State.standing_noteEnd (s : State) (i : Option Nat) (e : TaskEnd) (p : Sq) (k : Cx) :
    (s.noteEnd i e).standing p k = s.standing p k := rfl

theorem State.standing_endTask_ne {s : State} {q p : Sq} {c k : Cx} (code : Nat) (h : ¬(p = q ∧ k = c)) :
    (s.endTask q c code).standing p k = s.standing p k := by
  obtain ⟨f, e, hf, he⟩ := s.endTask_eq q c code
  rw [he, State.standing_noteEnd, State.standing_modCtx_ne _ h, State.standing_modSq p k hf]

theorem State.standing_endTask (s : State) (q : Sq) (c : Cx) (code : Nat) :
    (s.endTask q c code).standing q c = ((.ending, some code, (s.standing q c).1.2.2), (s.standing q c).2) := by
  obtain ⟨f, e, hf, he⟩ := s.endTask_eq q c code
  rw [he, State.standing_noteEnd, State.standing_modCtx, ← State.standing_modSq q c hf]
  rfl

/-! ## The contexts of a residence end -/

/-- A context that FORCE ends: live, of residence `n`, not ending by a cause, and not in MJ.COMMIT. -/
def State.due (n : Nat) (q : Sq) (c : Cx) (s : State) : Prop :=
  (s.ctx q c).st ≠ .free ∧ (s.ctx q c).res = n ∧ (s.ctx q c).endCause = none ∧ s.committing q c = false

/-- A context of residence `n` that ends with CODE_GONE. -/
def State.codeGone (n : Nat) (q : Sq) (c : Cx) (s : State) : Prop :=
  (s.ctx q c).duty = (.ending, some CODE_GONE, n)

theorem State.due_congr {s t : State} {n : Nat} {q : Sq} {c : Cx} (h : t.standing q c = s.standing q c) (hs : s.due n q c) : t.due n q c := by
  simp only [State.standing, Ctx.duty, Prod.mk.injEq] at h
  obtain ⟨⟨hst, hcause, hres⟩, hj⟩ := h
  simpa only [State.due, State.committing, hst, hcause, hres, hj] using hs

theorem State.codeGone_congr {s t : State} {n : Nat} {q : Sq} {c : Cx} (h : t.standing q c = s.standing q c) (hs : s.codeGone n q c) :
    t.codeGone n q c :=
  (congrArg Prod.fst h).trans hs

/-- The end of one context leaves every other as it stands. -/
theorem State.standing_endContext_ne {s : State} {n : Nat} {q p : Sq} {c : Fin 8} {k : Cx} (h : ¬(p = q ∧ k = tileCx c)) :
    (s.endContext n q c).standing p k = s.standing p k := by
  unfold State.endContext
  simp only
  split
  · rfl
  rw [State.standing_endTask_ne _ h]
  repeat' split
  · exact State.standing_serviceEnd ..
  all_goals rfl

theorem State.codeGone_endContext_of_due {s : State} {n : Nat} {q : Sq} {c : Fin 8} (h : s.due n q (tileCx c)) :
    (s.endContext n q c).codeGone n q (tileCx c) := by
  obtain ⟨hst, hres, hcause, hcommit⟩ := h
  have ended (u : State) (hu : u.standing q (tileCx c) = s.standing q (tileCx c)) :
      (u.endTask q (tileCx c) CODE_GONE).codeGone n q (tileCx c) := by
    refine (congrArg Prod.fst (State.standing_endTask ..)).trans ?_
    rw [hu]
    exact congrArg (fun r => (CtxSt.ending, some CODE_GONE, r)) hres
  unfold State.endContext
  simp only [hst, hres, hcause, hcommit, decide_false, Option.isSome_none, ne_eq, not_true_eq_false, Bool.or_false, Bool.false_eq_true, if_false]
  apply ended
  repeat' split
  · exact State.standing_serviceEnd ..
  all_goals rfl

theorem State.endContext_of_codeGone {s : State} {n : Nat} {q : Sq} {c : Fin 8} (h : s.codeGone n q (tileCx c)) : s.endContext n q c = s := by
  have hcause : (s.ctx q (tileCx c)).endCause = some CODE_GONE := congrArg (fun d => d.2.1) h
  simp [State.endContext, hcause]

/-- A fold that passes the element at which its property is reached, and keeps it, reaches it. -/
theorem foldl_reaches {α β : Type} {f : β → α → β} {P Q : β → Prop} {a : α} (wait : ∀ b x, x ≠ a → P b → P (f b x)) (turn : ∀ b, P b → Q (f b a))
    (stay : ∀ b x, Q b → Q (f b x)) {l : List α} (ha : a ∈ l) {b : β} (hb : P b) : Q (l.foldl f b) := by
  induction l generalizing b with
  | nil => cases ha
  | cons x l ih =>
    by_cases hx : x = a
    · subst hx
      exact List.foldlRecOn l f (turn b hb) fun b hb x _ => stay b x hb
    · exact ih ((List.mem_cons.1 ha).resolve_left (Ne.symm hx)) (wait b x hx hb)

theorem tileCx_injective {a b : Fin 8} (h : tileCx a = tileCx b) : a = b :=
  Fin.ext (show (tileCx a).val = (tileCx b).val by rw [h])

theorem State.codeGone_endContext {s : State} {n : Nat} {p q : Sq} {c k : Fin 8} (h : s.codeGone n p (tileCx k)) :
    (s.endContext n q c).codeGone n p (tileCx k) := by
  by_cases e : p = q ∧ tileCx k = tileCx c
  · obtain ⟨rfl, hk⟩ := e
    obtain rfl := tileCx_injective hk
    rwa [State.endContext_of_codeGone h]
  · exact State.codeGone_congr (State.standing_endContext_ne e) h

theorem State.codeGone_endContexts {s : State} {n : Nat} {p q : Sq} {k : Fin 8} (h : s.codeGone n p (tileCx k)) :
    (s.endContexts n q).codeGone n p (tileCx k) := by
  rw [State.endContexts_eq]
  exact List.foldlRecOn _ (State.endContext n q) h fun _ hb _ _ => State.codeGone_endContext hb

theorem State.due_endContexts_ne {s : State} {n : Nat} {p q : Sq} {k : Cx} (hpq : q ≠ p) (h : s.due n p k) : (s.endContexts n q).due n p k := by
  rw [State.endContexts_eq]
  exact List.foldlRecOn _ (State.endContext n q) h fun _ hb _ _ => State.due_congr (State.standing_endContext_ne fun e => hpq e.1.symm) hb

theorem State.codeGone_endContexts_of_due {s : State} {n : Nat} {q : Sq} {k : Fin 8} (h : s.due n q (tileCx k)) :
    (s.endContexts n q).codeGone n q (tileCx k) := by
  rw [State.endContexts_eq]
  exact foldl_reaches (f := State.endContext n q) (P := State.due n q (tileCx k)) (Q := State.codeGone n q (tileCx k)) (a := k)
    (fun _ _ hx hb => State.due_congr (State.standing_endContext_ne fun e => hx (tileCx_injective e.2).symm) hb)
    (fun _ hb => State.codeGone_endContext_of_due hb) (fun _ _ hb => State.codeGone_endContext hb) (List.mem_finRange k) h

/-- Step 3 over every square. -/
def State.endResidence (s : State) (n : Nat) : State := (List.finRange 160).foldl (fun s q => s.endContexts n q) s

theorem State.codeGone_endResidence {s : State} {n : Nat} {q : Sq} {k : Fin 8} (h : s.due n q (tileCx k)) :
    (s.endResidence n).codeGone n q (tileCx k) := by
  unfold State.endResidence
  exact foldl_reaches (f := fun s q => State.endContexts s n q) (P := State.due n q (tileCx k)) (Q := State.codeGone n q (tileCx k)) (a := q)
    (fun _ _ hx hb => State.due_endContexts_ne hx hb) (fun _ hb => State.codeGone_endContexts_of_due hb)
    (fun _ _ hb => State.codeGone_endContexts hb) (List.mem_finRange q) h

theorem State.endResidence_of_none_live {s : State} {n : Nat}
    (h : ∀ (q : Sq) (k : Fin 8), (s.ctx q (tileCx k)).st = .free ∨ (s.ctx q (tileCx k)).res ≠ n) : s.endResidence n = s := by
  unfold State.endResidence
  exact List.foldl_fixed' (f := fun s q => State.endContexts s n q) (fun q => State.endContexts_of_none_live (h q)) _

end Sys2Proof.Machine
end

section
/-! SUPPORT. The outcomes of UNLOAD, with and without FORCE (13 R287, 17 R362; log 28). -/

namespace Sys2Proof.Machine

/-! ## The answers by the checks -/

section
variable {s : State} {c : Cmd} {r : Residence} (he : s.exam 2 0 = some c)
include he

theorem execUnload_of_behind (hb : s.behindUnload c = true) : execUnload s = .next { s with cur := none } := by
  simp [execUnload, State.waitHead, he, hb]

variable (hb : s.behindUnload c = false)
include hb

theorem execUnload_of_absent (hr : s.residence c.res = none) : execUnload s = s.refuseOut c RESIDENCE_ABSENT := by
  simp [execUnload, he, hb, hr]

variable (hr : s.residence c.res = some r)
include hr

section
variable (hf : bit c.w[0] 39 = false)
include hf

theorem execUnload_of_referenced (hu : s.referenced c.res = true) : execUnload s = s.refuseOut c RESIDENCE_BUSY := by
  simp [execUnload, he, hb, hr, hf, hu]

theorem execUnload_of_unreferenced (hu : s.referenced c.res = false) : execUnload s = (s.removeResidence r).doneOut c 0 0 := by
  simp [execUnload, he, hb, hr, hf, hu]

end

end

/-! ## FORCE -/

/-- The state in which FORCE has dropped the launch records of a residence and halted its invocations: firmware posts no more of them. -/
def State.forced (s : State) (c : Cmd) : State := { s with
  squares := s.squares.map (fun (x : Square) => x.dropRecords c.res)
  unloads := if s.unloads.contains c.q then s.unloads else s.unloads ++ [c.q]
  invs := s.invs.map (fun (i : Machine.Inv) => if i.res = c.res then i.halt else i) }

/-- The saved contexts of a residence end with CODE_GONE. -/
def State.endParked (s : State) (n : Nat) : State :=
  (s.saved.filter (fun y => y.res == n)).foldl (fun s y => s.endSaved y.sq y CODE_GONE) s

/-- The invocations of a residence. -/
def State.invsOf (s : State) (n : Nat) : List Machine.Inv := s.invs.filter (fun i => i.res == n)

/-- Whether UNLOAD with FORCE still waits: for a context, for drops to enter the streams, or for an accept message (log 28). -/
def State.lingers (s : State) (n : Nat) : Bool :=
  s.contextsOf n ≠ 0 || !(s.invsOf n).all (fun i => s.endsReported i && i.waiting.isEmpty)

/-- Steps 4 and 5: the invocations of the residence and the updates that wait for it complete, and it is removed. -/
def State.unloaded (s : State) (n : Nat) (r : Residence) : State :=
  let s := (s.invsOf n).foldl State.dropInv s
  let s' := { s with installs := s.installs.filter (fun i => !(s.updatesOf n).contains i) }
  ((s.updatesOf n).foldl (fun s i => s.complete (mkComp i.who.1 i.who.2 2 CODE_GONE 0 0 0 0)) s').removeResidence r

section
variable {s : State} {c : Cmd} {r : Residence} (he : s.exam 2 0 = some c) (hb : s.behindUnload c = false)
  (hr : s.residence c.res = some r) (hf : bit c.w[0] 39 = true)
include he hb hr hf

theorem execUnload_of_force : execUnload s =
    if (((s.forced c).endResidence c.res).endParked c.res).lingers c.res = true then (((s.forced c).endResidence c.res).endParked c.res).waitHead
    else ((((s.forced c).endResidence c.res).endParked c.res).unloaded c.res r).doneOut c 0 0 := by
  unfold execUnload
  simp only [he, hb, hr, hf, Bool.false_eq_true, if_false, Bool.not_true]
  rfl

end

/-! ## Where no context of the residence is left -/

theorem State.sq_forced (s : State) (c : Cmd) (q : Sq) : (s.forced c).sq q = (s.sq q).dropRecords c.res := by
  simp [State.forced, State.sq]

theorem State.ctx_forced (s : State) (c : Cmd) (q : Sq) (k : Cx) : (s.forced c).ctx q k = s.ctx q k := by
  rw [State.ctx, State.sq_forced, ((s.sq q).dropRecords_parts c.res).2.1, State.ctx]

theorem State.standing_forced (s : State) (c : Cmd) (q : Sq) (k : Cx) : (s.forced c).standing q k = s.standing q k := by
  rw [State.standing, State.ctx_forced, State.sq_forced, ((s.sq q).dropRecords_parts c.res).2.2, State.standing]

theorem State.contextsOf_forced {s : State} {c : Cmd} (h : s.contextsOf c.res = 0) : (s.forced c).contextsOf c.res = 0 := by
  have saved : (s.forced c).saved = s.saved := rfl
  rw [State.contextsOf_eq_zero] at h ⊢
  simpa only [State.ctx_forced, saved] using h

/-- FORCE ends nothing where no context of the residence is live or saved. -/
theorem State.endParked_endResidence_of_no_context {s : State} {n : Nat} (h : s.contextsOf n = 0) : (s.endResidence n).endParked n = s := by
  obtain ⟨hlive, hsaved⟩ := State.contextsOf_eq_zero.1 h
  have none_saved : s.saved.filter (fun y => y.res == n) = [] := List.filter_eq_nil_iff.2 (by simpa using hsaved)
  rw [State.endResidence_of_none_live hlive, State.endParked, none_saved, List.foldl_nil]

theorem State.mem_invsOf {s : State} {n : Nat} {i : Machine.Inv} : i ∈ s.invsOf n ↔ i ∈ s.invs ∧ i.res = n := by
  simp [State.invsOf]

theorem State.invsOf_forced (s : State) (c : Cmd) : (s.forced c).invsOf c.res = (s.invsOf c.res).map Inv.halt := by
  have res_halted (i : Machine.Inv) : (if i.res = c.res then i.halt else i).res = i.res := by
    split <;> rfl
  simp only [State.invsOf, State.forced, List.filter_map, Function.comp_def, res_halted]
  exact List.map_congr_left fun i hi => if_pos (by simpa using (List.mem_filter.1 hi).2)

theorem State.lingers_forced {s : State} {c : Cmd} (h : s.contextsOf c.res = 0) : (s.forced c).lingers c.res = true ↔
    ∃ j ∈ s.invs, j.res = c.res ∧ ((s.forced c).endsReported j = false ∨ j.halt.waiting ≠ []) := by
  have reported (j : Machine.Inv) : (s.forced c).endsReported j.halt = (s.forced c).endsReported j := rfl
  simp only [State.lingers, State.contextsOf_forced h, State.invsOf_forced, List.all_map, ne_eq, not_true_eq_false, decide_false, Bool.false_or,
    Bool.not_eq_true', List.all_eq_false, State.mem_invsOf, Function.comp_apply, reported, Bool.and_eq_true,
    List.isEmpty_iff, not_and_or, Bool.not_eq_true, and_assoc]

/-- FORCE is done with a residence without contexts where every invocation of it is reported and waits for no accept message. -/
theorem State.lingers_forced_eq_false {s : State} {c : Cmd} (h : s.contextsOf c.res = 0)
    (hdone : ∀ j ∈ s.invs, j.res = c.res → (s.forced c).endsReported j = true ∧ j.halt.waiting = []) : (s.forced c).lingers c.res = false := by
  rw [← Bool.not_eq_true, State.lingers_forced h]
  rintro ⟨j, hj, hres, hwait⟩
  obtain ⟨hends, haccepted⟩ := hdone j hj hres
  exact hwait.elim (fun e => Bool.noConfusion (e.symm.trans hends)) (fun e => e haccepted)

theorem State.endsReported_congr {s t : State} (h : t.squares = s.squares) (i : Machine.Inv) : t.endsReported i = s.endsReported i := by
  simp only [State.endsReported, State.sq, h]

/-- FORCE drops nothing where no launch record of the residence is queued. -/
theorem State.squares_forced_of_none {s : State} {c : Cmd} (h : ∀ q : Sq, ∀ e ∈ (s.sq q).launchQ, e.words.res ≠ c.res) :
    (s.forced c).squares = s.squares := by
  ext i hi
  have same := State.sq_forced s c ⟨i, hi⟩
  rwa [Square.dropRecords_of_none (h ⟨i, hi⟩)] at same

theorem State.endsReported_forced_of_none {s : State} {c : Cmd} (h : ∀ q : Sq, ∀ e ∈ (s.sq q).launchQ, e.words.res ≠ c.res) (j : Machine.Inv) :
    (s.forced c).endsReported j = s.endsReported j :=
  State.endsReported_congr (State.squares_forced_of_none h) j

section
variable {s : State} {c : Cmd} {r : Residence} (he : s.exam 2 0 = some c) (hb : s.behindUnload c = false)
  (hr : s.residence c.res = some r) (hf : bit c.w[0] 39 = true) (hc : s.contextsOf c.res = 0)
include he hb hr hf hc

theorem execUnload_of_lingering (hl : (s.forced c).lingers c.res = true) : execUnload s = .next { s.forced c with cur := none } := by
  rw [execUnload_of_force he hb hr hf, State.endParked_endResidence_of_no_context (State.contextsOf_forced hc), if_pos hl, State.waitHead]

theorem execUnload_of_settled (hl : (s.forced c).lingers c.res = false) :
    execUnload s = .next (((s.forced c).unloaded c.res r).reply c 0 0 0 0 0) := by
  rw [execUnload_of_force he hb hr hf, State.endParked_endResidence_of_no_context (State.contextsOf_forced hc), hl, State.doneOut]
  rfl

end

/-! ## What an unloaded residence leaves -/

/-- The state of `State.unloaded` before the residence is removed. -/
theorem State.unloaded_eq (s : State) (n : Nat) (r : Residence) : ∃ u : State, s.unloaded n r = u.removeResidence r ∧
    u.maps = s.maps ∧ (∀ q : Sq, (u.sq q).launchQ = (s.sq q).launchQ) ∧ (∀ j ∈ u.invs, j.res ≠ n) ∧
      (s.lup = false → ∀ i ∈ s.invsOf n, s.goneEntry i ∈ u.held) := by
  set v := (s.invsOf n).foldl State.dropInv s
  set w : State := { v with installs := v.installs.filter (fun i => !(v.updatesOf n).contains i) }
  set f : Install → Comp := fun i => mkComp i.who.1 i.who.2 2 CODE_GONE 0 0 0 0
  have ended : { v.books with regions := [], invRes := [], held := [] } = { s.books with regions := [], invRes := [], held := [] } :=
    foldl_keeps (g := fun s : State => { s.books with regions := [], invRes := [], held := [] }) State.books_dropInv (s.invsOf n) s
  have completed := foldl_keeps (g := fun s : State => { s.books with held := [] }) (fun s i => s.books_complete (f i)) (v.updatesOf n) w
  have uninvoked := foldl_keeps (g := State.invs) (fun s i => s.invs_complete (f i)) (v.updatesOf n) w
  refine ⟨_, rfl, ?maps, fun q => ?queue, fun j hj hres => ?invs, fun hl i hi => ?entries⟩
  case maps => exact (congrArg Books.maps completed).trans (congrArg Books.maps ended)
  case queue =>
    have posted := congrArg Books.duties completed
    have struck := congrArg Books.duties ended
    exact launchQ_of_duties (posted.trans struck) q
  case invs =>
    obtain ⟨hmem, hne⟩ := State.invs_foldl_dropInv _ _ (uninvoked ▸ hj)
    exact hne j (List.mem_filter.2 ⟨hmem, by simpa using hres⟩) rfl
  case entries =>
    have down : w.lup = false := (congrArg Books.lup ended).trans hl
    have mine : s.goneEntry i ∈ w.held := by
      rw [show w.held = s.held ++ (s.invsOf n).map s.goneEntry from State.held_foldl_dropInv _ hl]
      exact List.mem_append_right _ (List.mem_map_of_mem hi)
    rw [State.held_foldl_complete f _ down]
    exact List.mem_append_left _ mine

section
variable {s : State} {n : Nat} {r : Residence}

theorem State.residence_unloaded (hn : r.num = n) : (s.unloaded n r).residence n = none := by
  obtain ⟨u, hu, -⟩ := s.unloaded_eq n r
  rw [hu, ← hn, State.residence_removeResidence]

theorem State.not_mem_mapsOf_of_mem_unloaded {m : Mapping} (hm : m ∈ (s.unloaded n r).maps) : m ∉ s.mapsOf r.secs := by
  obtain ⟨u, hu, hmaps, -⟩ := s.unloaded_eq n r
  rw [hu] at hm
  have hout := State.not_mem_mapsOf_of_mem_removeResidence hm
  rwa [State.mapsOf, hmaps, ← State.mapsOf] at hout

theorem State.launchQ_unloaded (q : Sq) : ((s.unloaded n r).sq q).launchQ = (s.sq q).launchQ := by
  obtain ⟨u, hu, -, hq, -⟩ := s.unloaded_eq n r
  rw [hu, State.launchQ_removeResidence, hq]

theorem State.res_ne_of_mem_invs_unloaded {j : Machine.Inv} (hj : j ∈ (s.unloaded n r).invs) : j.res ≠ n := by
  obtain ⟨u, hu, -, -, hinvs, -⟩ := s.unloaded_eq n r
  rw [hu] at hj
  obtain ⟨i, hi, hres⟩ := List.mem_map.1 (u.invRes_removeResidence r ▸ List.mem_map_of_mem (f := fun i : Machine.Inv => i.res) hj)
  exact hres ▸ hinvs i hi

theorem State.goneEntry_mem_held_unloaded (hl : s.lup = false) {i : Machine.Inv} (hi : i ∈ s.invsOf n) : s.goneEntry i ∈ (s.unloaded n r).held := by
  obtain ⟨u, hu, -, -, -, hheld⟩ := s.unloaded_eq n r
  rw [hu, State.held_removeResidence]
  exact hheld hl i hi

end

theorem State.res_ne_of_mem_launchQ_forced {s : State} {c : Cmd} {q : Sq} {e : LRec} (h : e ∈ ((s.forced c).sq q).launchQ) : e.words.res ≠ c.res := by
  rw [State.sq_forced, ((s.sq q).dropRecords_parts c.res).1] at h
  simpa using (List.mem_filter.1 h).2

/-- The entry of an invocation that FORCE halted and completed waits while the link is down. -/
theorem State.goneEntry_mem_held_forced {s : State} {c : Cmd} (r : Residence) (hl : s.lup = false) {j : Machine.Inv} (hj : j ∈ s.invs)
    (hres : j.res = c.res) : s.goneEntry j ∈ ((s.forced c).unloaded c.res r).held := by
  have mine : j.halt ∈ (s.forced c).invsOf c.res := by
    rw [State.invsOf_forced]
    exact List.mem_map_of_mem (State.mem_invsOf.2 ⟨hj, hres⟩)
  exact (State.goneEntry_mem_held_unloaded (s := s.forced c) hl mine :)

/-! ## Contexts that FORCE ends, and waits for -/

theorem State.books_noteEnd (s : State) (i : Option Nat) (e : TaskEnd) : (s.noteEnd i e).books = s.books := by
  have kept : (s.noteEnd i e).invs.map (fun i => i.res) = s.invs.map (fun i => i.res) := by
    rw [State.noteEnd, List.map_map]
    exact List.map_congr_left fun j _ => by dsimp only [Function.comp]; split <;> rfl
  exact congrArg (fun l => { s.books with invRes := l }) kept

theorem State.books_settleSaved (s : State) (q : Sq) (y : Saved) : (s.settleSaved q y).books = s.books := by
  have delivered (s : State) (r : Sq) : (s.deliverLog r (fun e => e.task == y.task)).books = s.books := State.books_modSq ..
  have written (ns : List (Fin 8)) (s : State) (r : Sq) : (s.writeBack r (s.lineIn (fun g => ns.any g.ofScope))).books = s.books :=
    State.books_writeBack ..
  unfold State.settleSaved
  exact (foldl_keeps (g := State.books) (written _) _ _).trans (foldl_keeps (g := State.books) delivered _ s)

theorem State.books_endSaved (s : State) (q : Sq) (y : Saved) (code : Nat) : (s.endSaved q y code).books = s.books := by
  have dropped : ((s.settleSaved q y).modSq q (fun x => x.dropAll (.saved y.task))).books = s.books :=
    (State.books_modSq ..).trans (s.books_settleSaved q y)
  exact (State.books_noteEnd ..).trans dropped

theorem State.books_endParked (s : State) (n : Nat) : (s.endParked n).books = s.books :=
  foldl_keeps (g := State.books) (fun s (y : Saved) => s.books_endSaved y.sq y CODE_GONE) _ s

/-- The residences, and the heads that wait. -/
def State.desk (s : State) : List (Nat × Option Residence) × Vector (Option Cmd) 16 × List (Fin 16) := (s.residences, s.heads, s.unloads)

theorem State.desk_endContext (s : State) (n : Nat) (q : Sq) (c : Fin 8) : (s.endContext n q c).desk = s.desk := by
  have ended (u : State) (hu : u.desk = s.desk) : (u.endTask q (tileCx c) CODE_GONE).desk = s.desk := hu
  unfold State.endContext
  simp only
  split
  · rfl
  apply ended
  repeat' split
  all_goals rfl

theorem State.desk_endResidence (s : State) (n : Nat) : (s.endResidence n).desk = s.desk := by
  unfold State.endResidence
  exact foldl_keeps (g := State.desk) (f := fun s q => State.endContexts s n q)
    (fun s q => foldl_keeps (g := State.desk) (fun s c => s.desk_endContext n q c) _ s) _ s

theorem State.desk_endParked (s : State) (n : Nat) : (s.endParked n).desk = s.desk :=
  congrArg (fun b : Books => (b.residences, b.heads, b.unloads)) (s.books_endParked n)

theorem State.codeGone_endParked {s : State} {m n : Nat} {q : Sq} {c : Cx} (h : s.codeGone n q c) : (s.endParked m).codeGone n q c :=
  (ctxDuty_of_duties (congrArg Books.duties (s.books_endParked m)) q c).trans h

theorem State.mem_unloads_forced (s : State) (c : Cmd) : c.q ∈ (s.forced c).unloads := by
  unfold State.forced
  simp only
  split
  · next h => exact List.contains_iff_mem.1 h
  · exact List.mem_append_right _ (List.mem_singleton_self _)

/-- A context that ends is live until it is FREE, so that the command waits. -/
theorem State.lingers_of_codeGone {s : State} {n : Nat} {q : Sq} {k : Fin 8} (h : s.codeGone n q (tileCx k)) : s.lingers n = true := by
  simp only [State.codeGone, Ctx.duty, Prod.mk.injEq] at h
  obtain ⟨hst, -, hres⟩ := h
  have live : s.contextsOf n ≠ 0 := fun e => by
    rcases (State.contextsOf_eq_zero.1 e).1 q k with h | h
    · rw [hst] at h; cases h
    · exact h hres
  simp [State.lingers, live]

theorem execUnload_of_due {s : State} {c : Cmd} {r : Residence} (he : s.exam 2 0 = some c) (hb : s.behindUnload c = false)
    (hr : s.residence c.res = some r) (hf : bit c.w[0] 39 = true) {q : Sq} {k : Fin 8} (hd : s.due c.res q (tileCx k)) :
    ∃ u : State, execUnload s = .next { u with cur := none } ∧ u.codeGone c.res q (tileCx k) ∧ u.desk = (s.forced c).desk := by
  have gone := State.codeGone_endParked (m := c.res) (State.codeGone_endResidence (State.due_congr (s.standing_forced c q _) hd))
  refine ⟨_, ?_, gone, (State.desk_endParked ..).trans (State.desk_endResidence ..)⟩
  rw [execUnload_of_force he hb hr hf, if_pos (State.lingers_of_codeGone gone), State.waitHead]

end Sys2Proof.Machine
end

section
/-! SUPPORT. The meanings of the commands of residences. -/

namespace Sys2Proof.Machine

theorem exec_load (o : Option Placement) (s : State) : exec (.load o) s = execLoad o s := rfl
theorem exec_loadInstallComplete (i : Nat) (s : State) : exec (.loadInstallComplete i) s = execLoadInstallComplete i s := rfl
theorem exec_unload (s : State) : exec .unload s = execUnload s := rfl

end Sys2Proof.Machine
end

section
open Sys2Proof Sys2Proof.Machine

/-- Settles O51: LOAD by the first check that fails, its installation by what each of its steps leaves of the books, and UNLOAD by its checks; with
FORCE, by whether a context of the residence is left, and else by what its invocations still wait for. -/
theorem residences : Obligations.Residences := by
  unfold Obligations.Residences
  simp only [exec_load, exec_loadInstallComplete, exec_unload]
  refine ⟨fun s c p m rs secs gs i q tag r maps => ⟨?held, fun he ha hb => ⟨?unsigned, fun hs => ⟨?unparsed, fun hp => ⟨?unsound, ?taken,
    fun hm ht => ⟨?unplaced, fun hlen hfit hrs => ⟨?misfit, ?range, fun hf hr => ⟨?regions, ?accepted⟩⟩⟩⟩⟩⟩,
    fun hi hj hapart hroom v => ⟨?installed, ?stopped⟩⟩, fun s c r he => ⟨?behind, ?absent, fun hb hr hn => ⟨?plain, ?force, ?invocations, ?refused,
      ?done, ?contexts⟩⟩⟩
  case held => exact execLoad_of_held
  case unsigned => exact execLoad_of_unsigned he ha hb
  case unparsed => exact execLoad_of_unparsed he ha hb hs
  case unsound => exact execLoad_of_unsound he ha hb hs hp
  case taken => exact execLoad_of_taken he ha hb hs hp
  case unplaced => exact execLoad_of_no_placement he ha hb hs hp hm ht
  case misfit => exact execLoad_of_misfit he ha hb hs hp hm ht hlen hfit hrs
  case range => exact execLoad_of_relocation_range he ha hb hs hp hm ht hlen hfit hrs
  case regions => exact execLoad_of_bad_regions he ha hb hs hp hm ht hlen hfit hrs hf hr
  case accepted =>
    intro hg y num sched placed ranges edges sha formats entry psafe
    obtain rfl := eq_loadedResidence num sched placed ranges edges sha formats entry psafe
    exact ⟨execLoad_of_unbounded he ha hb hs hp hm ht hlen hfit hrs hf hr hg, execLoad_of_accepted he ha hb hs hp hm ht hlen hfit hrs hf hr hg⟩
  case installed =>
    intro hp
    have programmed := State.books_of_program hp
    have hroom' : v.regionList.length + gs.length ≤ 1024 := by
      rwa [State.regionList, show v.regions = s.regions from congrArg Books.regions programmed]
    exact ⟨v.installed r maps gs, execLoadInstallComplete_of_programmed hi hj hapart hroom hp, v.residence_installed r maps gs,
      (v.installs_installed r maps gs).trans (congrArg Books.installs programmed), fun g hg => State.mem_regionList_installed hroom' hg,
      State.icache_clearICaches _, (v.held_installed r maps gs).trans (congrArg Books.held programmed)⟩
  case stopped =>
    exact fun k hp => ⟨execLoadInstallComplete_of_stopped hi hj hapart hroom hp, congrArg Books.residences (State.books_of_program hp)⟩
  case behind => exact execUnload_of_behind he
  case absent => exact execUnload_of_absent he
  case plain =>
    refine fun hf => ⟨execUnload_of_referenced he hb hr hf, fun hu => ⟨_, execUnload_of_unreferenced he hb hr hf hu, ?_, fun g hg => ?_,
      fun m hm => State.not_mem_mapsOf_of_mem_removeResidence hm⟩⟩
    · rw [← hn, State.residence_removeResidence]
    · exact hn ▸ State.owner_of_mem_removeResidence hg
  case force =>
    intro hf hc hnone
    have settled := State.lingers_forced_eq_false hc fun j hj hres => absurd hres (hnone j hj)
    refine ⟨_, execUnload_of_settled he hb hr hf hc settled, State.residence_unloaded hn, fun m hm => ?_, fun q e hq => ?_⟩
    · exact State.not_mem_mapsOf_of_mem_unloaded (s := s.forced c) hm
    · rw [State.launchQ_unloaded] at hq
      exact State.res_ne_of_mem_launchQ_forced hq
  case invocations =>
    intro hf hc hqueue
    have reported := State.endsReported_forced_of_none hqueue
    refine ⟨fun hdone => ?_, fun hwait => ?_⟩
    · have settled := State.lingers_forced_eq_false hc (by simpa only [reported] using hdone)
      exact ⟨_, execUnload_of_settled he hb hr hf hc settled, State.residence_unloaded hn, fun j hj => State.res_ne_of_mem_invs_unloaded hj,
        fun hl j hj hres => State.goneEntry_mem_held_forced r hl hj hres⟩
    · have lingers := (State.lingers_forced hc).2 (by simpa only [reported] using hwait)
      exact ⟨_, execUnload_of_lingering he hb hr hf hc lingers, rfl, hr, rfl, rfl⟩
  case refused => exact fun j => s.goneEntry_of_not_begun
  case done => exact fun j => s.goneEntry_of_begun
  case contexts =>
    intro hf q k hst hres hcause hcommit
    obtain ⟨u, hu, gone, desk⟩ := execUnload_of_due he hb hr hf (q := q) (k := k) ⟨hst, hres, hcause, hcommit⟩
    simp only [State.codeGone, Ctx.duty, Prod.mk.injEq] at gone
    simp only [State.desk, Prod.mk.injEq] at desk
    obtain ⟨hending, hcode, -⟩ := gone
    obtain ⟨hresidences, hheads, hunloads⟩ := desk
    refine ⟨_, hu, hending, hcode, ?_, rfl, hheads, hunloads ▸ s.mem_unloads_forced c⟩
    exact (congrArg (fun l => mget none l c.res) hresidences).trans hr

end

section
/-! SUPPORT. Sums of integers in the array (04 R89 to R91): an operand, a term and a group's sum is an integer at exponent 0, and raises nothing. -/

namespace Sys2Proof.Machine

/-- A finite value that is the integer `i`, at exponent 0. -/
def FV.IsInt (v : FV) (i : Int) : Prop := ∃ (n : Bool) (m : Nat), v = .fin n m 0 ∧ (if n then -(m : Int) else m) = i

theorem FV.isInt_of_natAbs (i : Int) : FV.IsInt (.fin (decide (i < 0)) i.natAbs 0) i := by
  refine ⟨_, _, rfl, ?_⟩
  by_cases h : i < 0 <;> simp only [h, decide_true, decide_false, if_true, Bool.false_eq_true, if_false] <;> omega

theorem FV.isInt_ofInt (i : Int) : (FV.ofInt i).IsInt i := FV.isInt_of_natAbs i

theorem FV.isInt_zero (n : Bool) : FV.IsInt (.fin n 0 0) 0 := ⟨n, 0, rfl, by simp⟩

theorem scaled_zero (n : Bool) (m : Nat) : scaled n m 0 0 = if n then -(m : Int) else m := by
  simp [scaled]

section
variable {v w : FV} {i j : Int}

theorem FV.IsInt.isNan (h : v.IsInt i) : v.isNan = false := by
  obtain ⟨n, m, rfl, -⟩ := h
  rfl

theorem FV.IsInt.ne_inf (h : v.IsInt i) (b : Bool) : v ≠ .inf b := by
  obtain ⟨n, m, rfl, -⟩ := h
  exact FV.noConfusion

theorem FV.IsInt.toInt (h : v.IsInt i) : v.toInt = i := by
  obtain ⟨n, m, rfl, rfl⟩ := h
  simp [FV.toInt]

/-- The signs of the factors give the sign of the product, also where it is 0. -/
theorem FV.IsInt.mul (hv : v.IsInt i) (hw : w.IsInt j) : (v.mul w).1.IsInt (i * j) ∧ (v.mul w).2 = {} := by
  obtain ⟨a, m, rfl, rfl⟩ := hv
  obtain ⟨b, n, rfl, rfl⟩ := hw
  refine ⟨⟨a ≠ b, m * n, rfl, ?_⟩, rfl⟩
  cases a <;> cases b <;> simp

/-- Integers stand at the exponent of their sum; a sum of 0 is a zero of either sign. -/
theorem FV.IsInt.add (rm : Nat) (hv : v.IsInt i) (hw : w.IsInt j) : (v.add rm w).1.IsInt (i + j) := by
  obtain ⟨a, m, rfl, rfl⟩ := hv
  obtain ⟨b, n, rfl, rfl⟩ := hw
  simp only [FV.add, min_self, scaled_zero]
  generalize (if a then -(m : Int) else m) + (if b then -(n : Int) else n) = z
  by_cases hz : z = 0
  · simpa only [hz, if_true] using FV.isInt_zero _
  · simpa only [hz, if_false] using FV.isInt_of_natAbs z

end

theorem cellTerm_ofInt (x y : Int) :
    (cellTerm none (.ofInt x) (.ofInt y)).1.IsInt (x * y) ∧ (cellTerm none (.ofInt x) (.ofInt y)).2 = {} :=
  (FV.isInt_ofInt x).mul (FV.isInt_ofInt y)

section
variable {ι : Type} {f : ι → FV × Cond} {g : ι → Int} (h : ∀ k, (f k).1.IsInt (g k))
include h

theorem FV.isInt_foldl_add (l : List ι) {r : FV} {i : Int} (hr : r.IsInt i) :
    (l.foldl (fun r k => (r.add 0 (f k).1).1) r).IsInt (i + (l.map g).sum) := by
  induction l generalizing r i with
  | nil => simpa using hr
  | cons k l ih =>
    rw [List.map_cons, List.sum_cons, ← Int.add_assoc]
    exact ih (hr.add 0 (h k))

/-- The exact sum of integer terms that raise nothing is their sum, and raises nothing. -/
theorem exactSum_of_isInt (hc : ∀ k, (f k).2 = {}) (l : List ι) :
    (exactSum (l.map f)).1.IsInt (l.map g).sum ∧ (exactSum (l.map f)).2 = {} := by
  have conds : (l.map f).foldl (fun d t => d.or t.2) {} = ({} : Cond) := by
    rw [List.foldl_map]
    exact List.foldl_fixed' (f := fun (d : Cond) k => d.or (f k).2) (fun k => by rw [hc k]; rfl) l
  have no_nan : ((l.map f).map (·.1)).any FV.isNan = false := by
    simp [(h _).isNan]
  have no_inf (b : Bool) : ((l.map f).map (·.1)).contains (.inf b) = false := by
    simp [(h _).ne_inf b]
  have sum := FV.isInt_foldl_add h l (FV.isInt_zero false)
  rw [Int.zero_add] at sum
  simp only [exactSum, conds, no_nan, no_inf, Bool.and_self, Bool.false_eq_true, if_false, List.foldl_map]
  exact ⟨sum, trivial⟩

/-- In integer mode a group's sum is added to the accumulator word once, and the result is clamped once (04 R91). -/
theorem accGroup_of_isInt (hc : ∀ k, (f k).2 = {}) (acc : Lane) (l : List ι) :
    let z := acc.toInt + (l.map g).sum
    accGroup true acc (l.map f) = (BitVec.ofInt 32 (clampS z 32), { sat := decide (clampS z 32 ≠ z) }) := by
  obtain ⟨hsum, hcond⟩ := exactSum_of_isInt h hc l
  simp only [accGroup, hsum.toInt, hcond, if_true]
  rfl

end

/-- Clamped to 32 bits with SAT, by the three ranges of the exact value. -/
theorem clampS_lane_cases (z : Int) :
    ((BitVec.ofInt 32 (clampS z 32) : Lane), ({ sat := decide (clampS z 32 ≠ z) } : Cond)) =
      if z < -2 ^ 31 then (0x80000000, { sat := true }) else if 2 ^ 31 - 1 < z then (0x7FFFFFFF, { sat := true }) else (BitVec.ofInt 32 z, {}) := by
  simp only [clampS, Nat.reduceSub, Int.reducePow, Int.reduceSub, gt_iff_lt]
  by_cases low : z < -2147483648
  · have moved : (-2147483648 : Int) ≠ z := by omega
    simp [low, moved]
  by_cases high : 2147483647 < z
  · have moved : (2147483647 : Int) ≠ z := by omega
    simp [low, high, moved]
  · simp [low, high]

end Sys2Proof.Machine
end

section
/-! SUPPORT. A code of a floating-point format by its fields, and the value of a code rounded to the format of the code (04 R74, R75, R85, R86). -/

namespace Sys2Proof.Machine

section
variable (f : Fmt) (c : Nat)

/-- Whether the sign of a code is set. -/
def Fmt.sgn : Bool := fld c (f.eb + f.mb) 1 == 1
/-- The exponent field of a code. -/
def Fmt.exp : Nat := fld c f.mb f.eb
/-- The mantissa field of a code. -/
def Fmt.man : Nat := fld c 0 f.mb
/-- A code without its sign. -/
def Fmt.mag : Nat := c % 2 ^ (f.eb + f.mb)

/-- Whether a code is one of Table 4-2: an infinity or a NaN. -/
def Fmt.special : Bool := match f.kind with
  | .ieee => f.exp c == 2 ^ f.eb - 1
  | .e4m3 => f.exp c == 15 && f.man c == 7
  | .e2m1 => false

theorem Fmt.exp_lt : f.exp c < 2 ^ f.eb := Nat.mod_lt _ (Nat.two_pow_pos _)
theorem Fmt.man_lt : f.man c < 2 ^ f.mb := Nat.mod_lt _ (Nat.two_pow_pos _)

theorem Fmt.mag_eq : f.mag c = f.exp c * 2 ^ f.mb + f.man c := by
  rw [Fmt.mag, Fmt.exp, Fmt.man, fld, fld, Nat.add_comm f.eb, Nat.pow_add, Nat.mod_mul, Nat.pow_zero, Nat.div_one, Nat.mul_comm, Nat.add_comm]

theorem Fmt.code_sgn_mag {c : Nat} (h : c < 2 ^ f.width) : f.code (f.sgn c) (f.mag c) = c := by
  have top : c / 2 ^ (f.eb + f.mb) < 2 := Nat.div_lt_of_lt_mul <| by
    rwa [Fmt.width, Nat.add_assoc, Nat.add_comm, Nat.pow_succ] at h
  have parts := Nat.div_add_mod c (2 ^ (f.eb + f.mb))
  obtain bit | bit := Nat.le_one_iff_eq_zero_or_eq_one.1 (Nat.lt_succ_iff.1 top)
  all_goals
    rw [bit] at parts
    simpa [Fmt.code, Fmt.sgn, Fmt.mag, fld, Fmt.signBit, bit] using parts

theorem Fmt.value_eq : f.value c =
    if f.special c then (if f.kind == .ieee && f.man c == 0 then .inf (f.sgn c) else .nan)
    else if f.exp c = 0 then .fin (f.sgn c) (f.man c) (1 - (f.bias : Int) - f.mb)
    else .fin (f.sgn c) (2 ^ f.mb + f.man c) ((f.exp c : Int) - f.bias - f.mb) := rfl

end

section
variable {f : Fmt} {neg : Bool}

/-- Nothing is rounded where the last place of the format at a value's size is the exponent at which the value stands. -/
theorem Fmt.roundMag_of_fits {m : Nat} {e : Int} (rm : Nat) (hm : m ≠ 0)
    (he : max (1 - (f.bias : Int) - f.mb) ((m.log2 : Int) + e - f.mb) = e) :
    let k := m + (e - (1 - (f.bias : Int) - f.mb)).toNat * 2 ^ f.mb
    f.roundMag neg m e rm = (k, decide (f.maxCode < k)) := by
  simp [Fmt.roundMag, hm, he]

theorem Fmt.roundMag_subnormal {m : Nat} (rm : Nat) (hm : m < 2 ^ f.mb) :
    f.roundMag neg m (1 - (f.bias : Int) - f.mb) rm = (m, decide (f.maxCode < m)) := by
  by_cases h : m = 0
  · simp [Fmt.roundMag, h]
  · have log : m.log2 < f.mb := (Nat.log2_lt h).2 hm
    simp [Fmt.roundMag_of_fits (f := f) rm h (max_eq_left (by omega))]

theorem Fmt.roundMag_normal {m E : Nat} (rm : Nat) (hm : m < 2 ^ f.mb) (hE : E ≠ 0) :
    f.roundMag neg (2 ^ f.mb + m) ((E : Int) - f.bias - f.mb) rm = (E * 2 ^ f.mb + m, decide (f.maxCode < E * 2 ^ f.mb + m)) := by
  have hpos := Nat.two_pow_pos f.mb
  have log : (2 ^ f.mb + m).log2 = f.mb := (Nat.log2_eq_iff (by omega)).2 ⟨by omega, by rw [Nat.pow_succ]; omega⟩
  have code : 2 ^ f.mb + m + (E - 1) * 2 ^ f.mb = E * 2 ^ f.mb + m := by
    obtain ⟨k, rfl⟩ := Nat.exists_eq_succ_of_ne_zero hE
    rw [Nat.succ_sub_one, Nat.succ_mul]
    omega
  have field : ((E : Int) - f.bias - f.mb - (1 - f.bias - f.mb)).toNat = E - 1 := by omega
  rw [Fmt.roundMag_of_fits rm (by omega) (by rw [log, max_eq_right (by omega)]; omega), field, code]

/-- A value that rounds to `k` below the sign is taken as it is, by an operation and by a conversion. -/
theorem Fmt.rounds_of_roundMag {m k rm : Nat} {e : Int} (h : f.roundMag neg m e rm = (k, false)) :
    f.arith rm (.fin neg m e) = (f.code neg k, {}) ∧ f.convert rm (.fin neg m e) = (f.code neg k, {}) := by
  simp [Fmt.arith, Fmt.convert, h]

theorem Fmt.rounds_inf (rm : Nat) (h : f.kind = .ieee) :
    f.arith rm (.inf neg) = (f.code neg f.infCode, {}) ∧ f.convert rm (.inf neg) = (f.code neg f.infCode, {}) := by
  simp [Fmt.arith, Fmt.convert, h]

end

/-- The formats without infinities have the fields for which their special codes and their largest finite codes are given (04 Table 4-1). -/
def Fmt.Tabled (f : Fmt) : Prop := match f.kind with
  | .ieee => True
  | .e4m3 => f.eb = 4 ∧ f.mb = 3
  | .e2m1 => f.eb = 2 ∧ f.mb = 1

theorem Fmt.tabled_of_mem : ∀ f ∈ [fp32, bf16, fp16, e5m2, e4m3, e2m1], f.Tabled := by
  simp [Fmt.Tabled, fp32, bf16, fp16, e5m2, e4m3, e2m1]

section
variable {f : Fmt} {c : Nat}

/-- A code that is not special lies, without its sign, at most at the largest finite code. -/
theorem Fmt.mag_le_maxCode (hf : f.Tabled) (h : f.special c = false) : f.mag c ≤ f.maxCode := by
  have hE := f.exp_lt c
  have hM := f.man_lt c
  rw [Fmt.mag_eq]
  unfold Fmt.Tabled at hf
  unfold Fmt.special at h
  unfold Fmt.maxCode
  cases hk : f.kind <;> simp only [hk] at hf h ⊢
  case ieee =>
    have next : f.exp c + 1 ≤ 2 ^ f.eb - 1 := by
      have ordinary := beq_eq_false_iff_ne.1 h
      omega
    have scaled_next := Nat.mul_le_mul_right (2 ^ f.mb) next
    rw [Nat.succ_mul] at scaled_next
    unfold Fmt.infCode
    omega
  case e4m3 =>
    obtain ⟨heb, hmb⟩ := hf
    simp only [heb, hmb] at hE hM ⊢
    simp only [Bool.and_eq_false_iff, beq_eq_false_iff_ne] at h
    omega
  case e2m1 =>
    obtain ⟨heb, hmb⟩ := hf
    simp only [heb, hmb] at hE hM ⊢
    omega

theorem Fmt.mag_of_inf (hk : f.kind = .ieee) (h : f.special c = true) (hm : f.man c = 0) : f.mag c = f.infCode := by
  simp only [Fmt.special, hk, beq_iff_eq] at h
  rw [Fmt.mag_eq, h, hm, Fmt.infCode, Nat.add_zero]

/-- The value of a code, a NaN apart, rounds to the code: an infinity to itself, a finite value because its mantissa needs no rounding at
the exponent that the format gives it. -/
theorem Fmt.rounds_value (hf : f.Tabled) (hc : c < 2 ^ f.width) (hn : (f.value c).isNan = false) (rm : Nat) :
    f.arith rm (f.value c) = (c, {}) ∧ f.convert rm (f.value c) = (c, {}) := by
  have code := f.code_sgn_mag hc
  rw [Fmt.value_eq] at hn ⊢
  cases hs : f.special c <;> simp only [hs, if_true, Bool.false_eq_true, if_false] at hn ⊢
  case true =>
    split at hn
    case isFalse => cases hn
    case isTrue hinf =>
      simp only [Bool.and_eq_true, beq_iff_eq] at hinf
      obtain ⟨hk, hm⟩ := hinf
      rw [Fmt.mag_of_inf hk hs hm] at code
      simpa only [hk, hm, beq_self_eq_true, Bool.and_self, if_true, code] using Fmt.rounds_inf (neg := f.sgn c) rm hk
  case false =>
    have below : decide (f.maxCode < f.mag c) = false := decide_eq_false (Fmt.mag_le_maxCode hf hs).not_gt
    have rounds {m : Nat} {e : Int} (h : f.roundMag (f.sgn c) m e rm = (f.mag c, decide (f.maxCode < f.mag c))) :
        f.arith rm (.fin (f.sgn c) m e) = (c, {}) ∧ f.convert rm (.fin (f.sgn c) m e) = (c, {}) := by
      rw [below] at h
      simpa only [code] using Fmt.rounds_of_roundMag h
    have hmag := f.mag_eq c
    split
    case isTrue hE =>
      rw [hE, Nat.zero_mul, Nat.zero_add] at hmag
      exact rounds (by rw [hmag, Fmt.roundMag_subnormal rm (f.man_lt c)])
    case isFalse hE => exact rounds (by rw [hmag, Fmt.roundMag_normal rm (f.man_lt c) hE])

end

end Sys2Proof.Machine
end

section
open Sys2Proof Sys2Proof.Machine

/-- Settles O44: a group of integer products by the invariant that every partial sum is an integer at exponent 0, and the rounding of a value of a
format by the fields of its code. -/
theorem arrayNumbersAreExact : Obligations.ArrayNumbersAreExact := by
  unfold Obligations.ArrayNumbersAreExact
  refine ⟨fun acc x y => ?group, fun f hf rm c hc _ hn => Fmt.rounds_value (Fmt.tabled_of_mem f hf) hc hn rm⟩
  have group := accGroup_of_isInt (fun i => (cellTerm_ofInt (x i) (y i)).1) (fun i => (cellTerm_ofInt (x i) (y i)).2) acc (List.finRange 16)
  exact group.trans (clampS_lane_cases _)

end

section
/-! SUPPORT. The fetch queue behind a control-flow instruction, and the aligned target of a jump (06 R130, R133, R134, Table 6-1). -/

namespace Sys2Proof.Machine

/-- Where nothing is squashed the queue shifts, nullified slots with it. -/
theorem Ctx.flow_of_not_squash (x : Ctx) (tgt : Option Word) :
    x.flow tgt false = { x with q0 := x.q1, q1 := x.q2, q2 := ⟨tgt.getD (x.q2.pc + 4), false⟩, blocked := none } := by
  simp [Ctx.flow]

theorem Ctx.flow_of_squash (x : Ctx) (tgt : Option Word) :
    x.flow tgt true =
      { x with q0 := ⟨x.q1.pc, true⟩, q1 := ⟨x.q2.pc, true⟩, q2 := ⟨tgt.getD (x.q2.pc + 4), false⟩, blocked := none } := by
  simp [Ctx.flow]

theorem Ctx.setS_eq (x : Ctx) (r : Reg) (v : Word) : x.setS r v = { x with s := if r = 0 then x.s else vset x.s r v } := by
  unfold Ctx.setS
  split <;> rfl

theorem State.branch_of_taken {s : State} {p : Pr} {sense : Bool} (h : s.rp p = sense) (o : BitVec 21) (n : Bool) :
    s.branch p sense o n = .next (s.setMe (s.me.flow (some (brTarget s.me.q0.pc o)) false)) := by
  simp [State.branch, State.modMe, h]

theorem State.branch_of_not_taken {s : State} {p : Pr} {sense : Bool} (h : s.rp p ≠ sense) (o : BitVec 21) (n : Bool) :
    s.branch p sense o n = .next (s.setMe (s.me.flow none n)) := by
  simp [State.branch, State.modMe, beq_false_of_ne h]

theorem bits_two_eq_zero_iff {t : Word} : bits t 0 2 = 0 ↔ t % 4 = 0 := by
  simp [bits, fld, BitVec.toNat_eq]

variable {s : State} {a : Reg}

/-- A jump to an aligned target, with the link written after the target was read (06 R133). -/
theorem State.jump_of_aligned (h : s.rs a % 4 = 0) (link : Option Reg) (squash : Bool) : s.jump link a squash =
    .next (s.setMe ((link.elim s.me (fun d => s.me.setS d s.me.link)).flow (some (s.rs a)) squash)) := by
  cases link <;> simp [State.jump, State.modMe, bits_two_eq_zero_iff.2 h]

theorem State.jump_of_misaligned (h : s.rs a % 4 ≠ 0) (link : Option Reg) (squash : Bool) : s.jump link a squash = s.trap PC_MISALIGNED :=
  if_pos (mt bits_two_eq_zero_iff.1 h)

theorem exec_br (p : Pr) (sense : Bool) (o : BitVec 21) (s : State) : exec (.br p sense o) s = s.branch p sense o false := rfl
theorem exec_brN (p : Pr) (sense : Bool) (o : BitVec 21) (s : State) : exec (.brN p sense o) s = s.branch p sense o true := rfl
theorem exec_call (o : BitVec 21) (s : State) :
    exec (.call o) s = .next (s.setMe ((s.me.setS 31 s.me.link).flow (some (brTarget s.me.q0.pc o)) false)) := rfl
theorem exec_jr (a : Reg) (s : State) : exec (.jr a) s = s.jump none a false := rfl
theorem exec_jrN (a : Reg) (s : State) : exec (.jrN a) s = s.jump none a true := rfl
theorem exec_jrl (d a : Reg) (s : State) : exec (.jrl d a) s = s.jump (some d) a false := rfl
theorem exec_jrlN (d a : Reg) (s : State) : exec (.jrlN d a) s = s.jump (some d) a true := rfl

end Sys2Proof.Machine
end

section
open Sys2Proof Sys2Proof.Machine

/-- Settles O4: a branch by whether it is taken, a jump by whether its target is aligned; the queue behind each is a shift, with or without a squash. -/
theorem controlFlowInstructions : Obligations.ControlFlowInstructions := by
  unfold Obligations.ControlFlowInstructions
  simp only [exec_br, exec_brN, exec_call, exec_jr, exec_jrN, exec_jrl, exec_jrlN]
  refine ⟨fun s p sense o => ⟨?br, ?brN, ?call⟩, fun s d a => ⟨fun aligned => ?jump, fun misaligned => ?trap⟩⟩
  case br =>
    by_cases taken : s.rp p = sense
    · simp [State.branch_of_taken taken, Ctx.flow_of_not_squash, brTarget, taken]
    · simp [State.branch_of_not_taken taken, Ctx.flow_of_not_squash, taken]
  case brN =>
    by_cases taken : s.rp p = sense
    · simp [State.branch_of_taken taken, Ctx.flow_of_not_squash, brTarget, taken]
    · simp [State.branch_of_not_taken taken, Ctx.flow_of_squash, taken]
  case call => simp [Ctx.setS_eq, Ctx.flow_of_not_squash, Ctx.link, brTarget]
  case jump => simp [State.jump_of_aligned aligned, Ctx.setS_eq, Ctx.flow_of_not_squash, Ctx.flow_of_squash, Ctx.link]
  case trap =>
    exact ⟨State.jump_of_misaligned misaligned none false, State.jump_of_misaligned misaligned none true,
      State.jump_of_misaligned misaligned (some d) false, State.jump_of_misaligned misaligned (some d) true⟩

end

section
/-! SUPPORT. The end of a run, and the half-way handles of a task that exits (05 R100; 06 R136; 10 R237). -/

namespace Sys2Proof.Machine

theorem cxTile_tileCx (c : Fin 8) : cxTile (tileCx c) = some c := dif_pos c.isLt
theorem cxTile_F : cxTile 8 = none := rfl

/-! ## Half-way handles -/

/-- A core `x` of which the half-way handles of core `v` have failed: with `all` each, else those that no copy and no command uses. -/
def State.failPartly (s : State) (q : Sq) (v : Vc) (all : Bool) (x : VCore) : VCore :=
  x.failHnds (fun h y => y.partly && (all || !(s.copyUses q v h || s.arrayUses q v h))) HANDLE_PARTIAL

/-- What the end of context `c`'s task makes of core `v`. -/
def State.partialCore (s : State) (q : Sq) (c : Cx) (all : Bool) (v : Vc) : VCore :=
  if s.claimedBy q v = some c then s.failPartly q v all (s.core q v) else s.core q v

/-- The step of `State.partials` at core `v`. -/
def State.partialStep (q : Sq) (c : Cx) (all : Bool) (s : State) (v : Vc) : State :=
  if s.claimedBy q v == some c then s.modCore q v (s.failPartly q v all) else s

theorem State.partials_eq (s : State) (q : Sq) (c : Cx) (all : Bool) :
    s.partials q c all = (List.finRange 4).foldl (State.partialStep q c all) s := rfl

/-- What a step of `State.partials` leaves: all but the cores. -/
def State.offCores (q : Sq) (s : State) : Sq × Cx × List Host.Cell × (Sq → Cx → Ctx) × List Copy × Arr :=
  (s.fsq, s.fcx, s.mem, s.ctx, (s.sq q).copyQ, (s.sq q).arr)

section
variable (s : State) (q : Sq) (c : Cx) (all : Bool)

theorem State.core_partialStep (v : Vc) : (s.partialStep q c all v).core q v = s.partialCore q c all v := by
  by_cases h : s.claimedBy q v = some c <;> simp [State.partialStep, State.partialCore, h]

theorem State.core_partialStep_ne {v w : Vc} (h : w ≠ v) : (s.partialStep q c all v).core q w = s.core q w := by
  unfold State.partialStep
  split
  · exact State.core_modCore_ne _ _ _ _ _ h
  · rfl

theorem State.offCores_modCore (v : Vc) (f : VCore → VCore) : (s.modCore q v f).offCores q = s.offCores q := by
  have ctxs : (s.modCore q v f).ctx = s.ctx := by
    funext p k
    exact s.ctx_modCore q p k v f
  simp only [State.offCores, ctxs]
  simp [State.modCore, State.setCore]

theorem State.offCores_partialStep (v : Vc) : (s.partialStep q c all v).offCores q = s.offCores q := by
  unfold State.partialStep
  split
  · exact s.offCores_modCore q v _
  · rfl

theorem State.partials_frame : (s.partials q c all).fsq = s.fsq ∧ (s.partials q c all).fcx = s.fcx ∧ (s.partials q c all).mem = s.mem ∧
    (s.partials q c all).ctx = s.ctx := by
  have off : (s.partials q c all).offCores q = s.offCores q :=
    foldl_keeps (g := State.offCores q) (fun s v => s.offCores_partialStep q c all v) (List.finRange 4) s
  simp only [State.offCores, Prod.mk.injEq] at off
  obtain ⟨square, issuing, mem, ctxs, -, -⟩ := off
  exact ⟨square, issuing, mem, ctxs⟩

end

theorem State.partialCore_congr {s t : State} {q : Sq} {v : Vc} (off : t.offCores q = s.offCores q) (core : t.core q v = s.core q v)
    (c : Cx) (all : Bool) : t.partialCore q c all v = s.partialCore q c all v := by
  simp only [State.offCores, Prod.mk.injEq] at off
  obtain ⟨-, -, -, -, copies, array⟩ := off
  have copyUses (h : Fin 64) : t.copyUses q v h = s.copyUses q v h := by rw [State.copyUses, copies, State.copyUses]
  have arrayUses (h : Fin 64) : t.arrayUses q v h = s.arrayUses q v h := by rw [State.arrayUses, array, State.arrayUses]
  have claimedBy : t.claimedBy q v = s.claimedBy q v := by rw [State.claimedBy, core, State.claimedBy]
  simp only [State.partialCore, State.failPartly, claimedBy, copyUses, arrayUses, core]

/-- A fold over distinct cores treats each core that it names once. -/
theorem State.core_foldl_partialStep (q : Sq) (c : Cx) (all : Bool) {l : List Vc} (hl : l.Nodup) (s : State) (v : Vc) :
    (l.foldl (State.partialStep q c all) s).core q v = if v ∈ l then s.partialCore q c all v else s.core q v := by
  induction l generalizing s with
  | nil => rfl
  | cons w l ih =>
    obtain ⟨hw, hl⟩ := List.nodup_cons.1 hl
    rw [List.foldl_cons, ih hl]
    by_cases h : v = w
    · subst h
      simp [hw, State.core_partialStep]
    · have core := s.core_partialStep_ne q c all h
      simp [h, core, State.partialCore_congr (s.offCores_partialStep q c all w) core]

/-- EXIT fails a half-way handle of a claimed core that no copy and no command uses, and leaves every other (10 R237). -/
theorem State.hnd_partials (s : State) (q : Sq) (c : Cx) (v : Vc) (h : Fin 64) :
    (s.partials q c false).hnd q v h =
      if s.claimedBy q v = some c ∧ (s.hnd q v h).partly = true ∧ s.copyUses q v h = false ∧ s.arrayUses q v h = false then
        (s.hnd q v h).fail HANDLE_PARTIAL
      else s.hnd q v h := by
  have core : (s.partials q c false).core q v = s.partialCore q c false v := by
    rw [State.partials_eq, State.core_foldl_partialStep q c false (List.nodup_finRange 4), if_pos (List.mem_finRange v)]
  simp only [State.hnd, core, State.partialCore]
  by_cases claimed : s.claimedBy q v = some c
  · simp [claimed, State.failPartly, VCore.failHnds]
  · simp [claimed]

/-! ## The end of a run (05 R100) -/

@[simp] theorem State.ctx_runEnds (s : State) (q p : Sq) (c : Fin 8) (k : Cx) : (s.runEnds q c).ctx p k = s.ctx p k := by
  unfold State.runEnds State.ctx
  by_cases hp : p = q
  · subst hp
    rw [State.sq_modSq]
  · rw [State.sq_modSq_ne _ _ _ _ hp]

@[simp] theorem State.me_runEnds (s : State) (q : Sq) (c : Fin 8) : (s.runEnds q c).me = s.me := s.ctx_runEnds q s.fsq c s.fcx

@[simp] theorem State.hnd_runEnds (s : State) (q : Sq) (c : Fin 8) (v : Vc) (h : Fin 64) : (s.runEnds q c).hnd q v h = s.hnd q v h := by
  simp [State.runEnds, State.hnd, State.core]

@[simp] theorem State.hnd_modMe (s : State) (f : Ctx → Ctx) (q : Sq) (v : Vc) (h : Fin 64) : (s.modMe f).hnd q v h = s.hnd q v h :=
  congrArg (fun x : VCore => x.handles[h]) (s.core_modCtx s.fsq q s.fcx v f)

/-- The state of a tile context `c` whose instruction retires and ends the run, `f` being what it makes of the context. -/
def State.leave (s : State) (f : Ctx → Ctx) (c : Fin 8) : State := (s.retire.modMe f).runEnds s.fsq c

/-- `f` leaves the queue and the registers. -/
def Ctx.KeepsRegs (f : Ctx → Ctx) : Prop := ∀ x, (f x).q0 = x.q0 ∧ (f x).s = x.s ∧ (f x).p = x.p ∧ (f x).tm = x.tm

theorem State.me_leave (s : State) (f : Ctx → Ctx) (c : Fin 8) : (s.leave f c).me = f s.me.advance := by
  simp [State.leave, State.retire]

theorem State.sq_leave (s : State) (f : Ctx → Ctx) (c : Fin 8) :
    ((s.leave f c).sq s.fsq).active = none ∧ ((s.leave f c).sq s.fsq).lastRun = c ∧ ((s.leave f c).sq s.fsq).fburst = 16 := by
  simp [State.leave, State.runEnds, burst]

theorem State.hnd_leave (s : State) (f : Ctx → Ctx) (c : Fin 8) (v : Vc) (h : Fin 64) : (s.leave f c).hnd s.fsq v h = s.hnd s.fsq v h := by
  simp [State.leave, State.retire]

theorem State.ctx_leave {s : State} {c : Fin 8} (hc : s.fcx = tileCx c) (f : Ctx → Ctx) :
    (s.leave f c).ctx s.fsq (tileCx c) = f s.me.advance := by
  rw [← hc]
  exact s.me_leave f c

/-- The run of context `c` ends by an instruction that leaves the context in `st`: the registers and memory stay. -/
theorem State.leave_runEnded {s : State} {c : Fin 8} (hc : s.fcx = tileCx c) {f : Ctx → Ctx} (hf : Ctx.KeepsRegs f) {st : CtxSt}
    (hst : ∀ x, (f x).st = st) :
    let t := s.leave f c
    (t.ctx s.fsq (tileCx c)).st = st ∧ (t.sq s.fsq).active = none ∧ (t.sq s.fsq).lastRun = c ∧ (t.sq s.fsq).fburst = 16 ∧
      t.me.q0 = s.me.q1 ∧ t.me.s = s.me.s ∧ t.me.p = s.me.p ∧ t.me.tm = s.me.tm ∧ t.mem = s.mem := by
  obtain ⟨hq0, hs, hp, htm⟩ := hf s.me.advance
  obtain ⟨active, last, burst⟩ := s.sq_leave f c
  have me := s.me_leave f c
  exact ⟨(congrArg Ctx.st (State.ctx_leave hc f)).trans (hst _), active, last, burst, (congrArg Ctx.q0 me).trans hq0,
    (congrArg Ctx.s me).trans hs, (congrArg Ctx.p me).trans hp, (congrArg Ctx.tm me).trans htm, rfl⟩

/-! ## YIELD and EXIT (06 R136) -/

/-- What YIELD makes of its context. -/
def Ctx.yields (x : Ctx) : Ctx := { x with st := .ready, bounds := x.bounds + 1 }
/-- What EXIT makes of its context. -/
def Ctx.exits (x : Ctx) : Ctx := { x with st := .ending, endCause := none, bounds := x.bounds + 1 }

theorem Ctx.keepsRegs_yields : Ctx.KeepsRegs Ctx.yields := fun _ => ⟨rfl, rfl, rfl, rfl⟩
theorem Ctx.keepsRegs_exits : Ctx.KeepsRegs Ctx.exits := fun _ => ⟨rfl, rfl, rfl, rfl⟩

theorem exec_yield (s : State) : exec .yield s = execYield s := rfl
theorem exec_exit (s : State) : exec .exit s = execExit s := rfl

section
variable {s : State}

theorem exec_yield_of_tile {c : Fin 8} (hc : s.fcx = tileCx c) : exec .yield s = .next (s.leave Ctx.yields c) := by
  simp only [exec_yield, execYield, hc, cxTile_tileCx]
  rfl

theorem exec_exit_of_bundles {c : Fin 8} (hc : s.fcx = tileCx c) (hb : (s.sq s.fsq).bundlesOf s.fcx = true) :
    exec .exit s = s.block .exit := by
  rw [hc] at hb
  simp [exec_exit, execExit, hc, cxTile_tileCx, hb]

theorem exec_exit_of_record {c : Fin 8} (hc : s.fcx = tileCx c) (hb : (s.sq s.fsq).bundlesOf s.fcx = false) (hr : s.me.records ≠ []) :
    exec .exit s = .next (s.deliver s.fsq s.fcx) := by
  rw [hc] at hb
  simp [exec_exit, execExit, hc, cxTile_tileCx, hb, hr]

theorem exec_exit_of_idle {c : Fin 8} (hc : s.fcx = tileCx c) (hb : (s.sq s.fsq).bundlesOf s.fcx = false) (hr : s.me.records = []) :
    exec .exit s = .next ((s.partials s.fsq s.fcx false).leave Ctx.exits c) := by
  rw [hc] at hb ⊢
  simp only [exec_exit, execExit, hc, cxTile_tileCx, hb, hr, State.leave, State.retire_fsq, List.isEmpty_nil, Bool.not_true,
    Bool.false_eq_true, if_false]
  rfl

theorem exec_yield_of_F (hc : s.fcx = 8) : exec .yield s = .next (s.retire.modSq s.fsq (fun x => { x with fburst := 0 })) := by
  simp only [exec_yield, execYield, hc, cxTile_F]

theorem exec_exit_of_F (hc : s.fcx = 8) : exec .exit s = .next s.retire := by
  simp only [exec_exit, execExit, hc, cxTile_F, State.done]

end

end Sys2Proof.Machine
end

section
/-! SUPPORT. SPAWN by the first check that fails, and the place that its record takes (13 R293, R297, Table 13-1; log 100). -/

namespace Sys2Proof.Machine

/-! ## The read of the record -/

theorem exec_spawn (a : Reg) (s : State) : exec (.spawn a) s = execSpawn a s := rfl

section
variable {s : State} {a : Reg}

theorem exec_spawn_of_misaligned (h : (s.rs a).toNat % 64 ≠ 0) : exec (.spawn a) s = s.trap MISALIGNED := by
  simp [exec_spawn, execSpawn, State.privRead, h, State.orTrap]

theorem exec_spawn_of_range (h : (s.rs a).toNat % 64 = 0) (hr : 0x4000 < (s.rs a).toNat + 64) : exec (.spawn a) s = s.trap SPACE_RANGE := by
  simp [exec_spawn, execSpawn, State.privRead, h, hr, State.orTrap]

theorem State.privRead_record (h : (s.rs a).toNat % 64 = 0) (hr : (s.rs a).toNat + 64 ≤ 0x4000)
    (hb : s.isBad (privAddr s.fsq.val s.fcx.val (s.rs a).toNat) 64 = false) : s.privRead (s.rs a) 64 64 = .ok (s.rs a).toNat := by
  have flat : s.flat 2 (s.rs a).toNat = privAddr s.fsq.val s.fcx.val (s.rs a).toNat := rfl
  simp [State.privRead, h, hr.not_gt, flat, hb]

end

/-! ## The checks of a record -/

/-- The invocation of the issuing task. -/
def State.myInv (s : State) : Option Machine.Inv := s.me.inv.bind s.invOf

/-- What SPAWN asks of a well-formed record: it stays within the task and its invocation (13 R297). -/
def State.Fits (s : State) (w : LWords) : Prop :=
  w.res = s.me.res ∧ w.scope = s.me.scope ∧ w.pri ≤ s.me.pri ∧ w.rect = 0 ∧ w.tend = 0 ∧ (∀ l, w.isVar l = false) ∧
    (w.mode = 1 → w.tableOk (s.residence w.res) 1 = true) ∧ ∀ i, s.myInv = some i → w.timeOf w.lastTile ≤ i.words.tend

/-- Whether the tiles of a record go beyond the budget of its residence (13 Table 13-1; log 100). -/
def State.Overspends (s : State) (w : LWords) : Prop :=
  w.pri = 3 ∧ ∃ i r, s.myInv = some i ∧ s.residence w.res = some r ∧ r.spb < i.spawned + w.total

/-- The first check of SPAWN, as the model computes it. -/
def State.misfit (s : State) (w : LWords) : Bool :=
  !w.wellFormed || w.res ≠ s.me.res || w.scope ≠ s.me.scope || w.pri > s.me.pri || w.rect ≠ 0 || w.tend ≠ 0 ||
    (List.finRange 4).any w.isVar || (w.mode = 1 && !w.tableOk (s.residence w.res) 1) || match s.myInv with
      | some i => decide (i.words.tend < w.timeOf w.lastTile)
      | none => false

/-- The check of the budget, as the model computes it. -/
def State.overBudget (s : State) (w : LWords) : Bool :=
  w.pri = 3 && match s.myInv, s.residence w.res with
    | some i, some r => decide (r.spb < i.spawned + w.total)
    | _, _ => false

theorem State.misfit_eq_false_iff {s : State} {w : LWords} : s.misfit w = false ↔ w.wellFormed = true ∧ s.Fits w := by
  unfold State.misfit State.Fits
  cases s.myInv <;> simp [and_assoc]

theorem State.overBudget_iff {s : State} {w : LWords} : s.overBudget w = true ↔ s.Overspends w := by
  unfold State.overBudget State.Overspends
  cases s.myInv <;> cases s.residence w.res <;> simp

/-! ## The outcomes of a record that was read -/

/-- An invocation counts the tiles of a record that one of its tasks spawns. -/
def State.countSpawn (s : State) (w : LWords) (j : Machine.Inv) : Machine.Inv :=
  if some j.id = s.me.inv then { j with spawned := j.spawned + w.total } else j

/-- The record stands in place `k`; a task of priority 3 has its tiles counted. -/
def State.spawnIn (s : State) (w : LWords) (k : Nat) : State :=
  let t := s.post s.fsq k w (s.me.inv.getD 0) s.me.tmpl true
  if s.me.pri = 3 then { t with invs := t.invs.map (s.countSpawn w), closedInvs := t.closedInvs.map (s.countSpawn w) } else t

section
variable {s : State} {a : Reg} {p : Nat} (hread : s.privRead (s.rs a) 64 64 = .ok p)
include hread

theorem exec_spawn_of_read : exec (.spawn a) s =
    if s.misfit (s.readRecord p) then s.trap LAUNCH_RECORD
    else if !(s.sq s.fsq).holdsBy s.owner (s.readRecord p).scope (s.readRecord p).tbase then s.trap TM_NO_BASE
    else if s.overBudget (s.readRecord p) then s.trap SPAWN_BUDGET
    else ((List.range 12).find? (s.placeFree s.fsq)).elim (s.block (.spawn a)) (fun k =>
      if (s.sq s.fsq).tokens.length ≥ 64 || !(s.sq s.fsq).streamRoom 1 then s.block (.spawn a)
      else (s.spawnIn (s.readRecord p) k).done) := by
  simp only [exec_spawn, execSpawn, hread, State.orTrap]
  cases (List.range 12).find? (s.placeFree s.fsq) with
  | none => rfl
  | some k => rfl

theorem exec_spawn_of_misfit (h : ¬((s.readRecord p).wellFormed = true ∧ s.Fits (s.readRecord p))) :
    exec (.spawn a) s = s.trap LAUNCH_RECORD := by
  rw [exec_spawn_of_read hread, if_pos (Bool.of_not_eq_false (mt State.misfit_eq_false_iff.1 h))]

variable (hw : (s.readRecord p).wellFormed = true) (hfit : s.Fits (s.readRecord p))
include hw hfit

theorem exec_spawn_of_no_token (h : (s.sq s.fsq).holdsBy s.owner (s.readRecord p).scope (s.readRecord p).tbase = false) :
    exec (.spawn a) s = s.trap TM_NO_BASE := by
  simp [exec_spawn_of_read hread, State.misfit_eq_false_iff.2 ⟨hw, hfit⟩, h]

variable (hheld : (s.sq s.fsq).holdsBy s.owner (s.readRecord p).scope (s.readRecord p).tbase = true)
include hheld

theorem exec_spawn_of_overspends (h : s.Overspends (s.readRecord p)) : exec (.spawn a) s = s.trap SPAWN_BUDGET := by
  simp [exec_spawn_of_read hread, State.misfit_eq_false_iff.2 ⟨hw, hfit⟩, hheld, State.overBudget_iff.2 h]

variable (hspb : ¬s.Overspends (s.readRecord p))
include hspb

theorem exec_spawn_of_full (h : ∀ k < 12, s.placeFree s.fsq k = false) : exec (.spawn a) s = s.block (.spawn a) := by
  have full : (List.range 12).find? (s.placeFree s.fsq) = none := List.find?_range_eq_none.2 fun k hk => by simp [h k hk]
  simp [exec_spawn_of_read hread, State.misfit_eq_false_iff.2 ⟨hw, hfit⟩, hheld, mt State.overBudget_iff.1 hspb, full]

/-- The record goes to the lowest free place of the queue, or waits for a table entry and room in the stream. -/
theorem exec_spawn_of_place {k : Nat} (hk : k < 12) (hfree : s.placeFree s.fsq k = true) (hlow : ∀ j < k, s.placeFree s.fsq j = false) :
    exec (.spawn a) s = if 64 ≤ (s.sq s.fsq).tokens.length ∨ (s.sq s.fsq).streamRoom 1 = false then s.block (.spawn a)
      else .next (s.spawnIn (s.readRecord p) k).retire := by
  have lowest : (List.range 12).find? (s.placeFree s.fsq) = some k :=
    List.find?_range_eq_some.2 ⟨hfree, List.mem_range.2 hk, fun j hj => by simp [hlow j hj]⟩
  simp [exec_spawn_of_read hread, State.misfit_eq_false_iff.2 ⟨hw, hfit⟩, hheld, mt State.overBudget_iff.1 hspb, lowest, State.done]

end

end Sys2Proof.Machine
end

section
open Sys2Proof Sys2Proof.Machine

/-- Settles O27: YIELD and EXIT by how a run ends and what EXIT does to half-way handles, SPAWN by the first check that fails and then by what its
record waits for. -/
theorem runsEndAndSpawn : Obligations.RunsEndAndSpawn := by
  unfold Obligations.RunsEndAndSpawn
  refine ⟨?runs, fun s hc => ⟨exec_yield_of_F hc, exec_exit_of_F hc⟩, ?spawns⟩
  case runs =>
    intro s c q ended hc
    obtain ⟨hfsq, hfcx, hmem, hctx⟩ := s.partials_frame s.fsq s.fcx false
    have hme : (s.partials s.fsq s.fcx false).me = s.me := by rw [State.me, hfsq, hfcx, hctx, State.me]
    refine ⟨⟨_, exec_yield_of_tile hc, State.leave_runEnded hc Ctx.keepsRegs_yields fun _ => rfl⟩, exec_exit_of_bundles hc,
      exec_exit_of_record hc, fun hb hr => ⟨⟨_, exec_exit_of_idle hc hb hr, ?ends⟩, fun t ht => ?exited⟩⟩
    case ends =>
      have ends := State.leave_runEnded (hfcx.trans hc) Ctx.keepsRegs_exits (st := .ending) fun _ => rfl
      rwa [hfsq, hme, hmem] at ends
    case exited =>
      obtain rfl := Host.Outcome.next.inj ((exec_exit_of_idle hc hb hr).symm.trans ht)
      refine ⟨?cause, fun v h => ?handle⟩
      case cause =>
        have ctx := State.ctx_leave (hfcx.trans hc) Ctx.exits
        rw [hfsq] at ctx
        exact congrArg Ctx.endCause ctx
      case handle =>
        have hnd := (s.partials s.fsq s.fcx false).hnd_leave Ctx.exits c v h
        rw [hfsq] at hnd
        exact hnd.trans (s.hnd_partials s.fsq s.fcx v h)
  case spawns =>
    intro s a x p w inv fit spent more
    refine ⟨exec_spawn_of_misaligned, exec_spawn_of_range, fun h64 hrange hbad => ?_⟩
    have hread := State.privRead_record h64 hrange hbad
    refine ⟨exec_spawn_of_misfit hread, fun hw hfit => ⟨exec_spawn_of_no_token hread hw hfit, exec_spawn_of_overspends hread hw hfit,
      fun hheld hspb => ⟨exec_spawn_of_full hread hw hfit hheld hspb, fun k hk hfree hlow => ?_⟩⟩⟩
    have place := exec_spawn_of_place hread hw hfit hheld hspb hk hfree hlow
    refine ⟨fun hfull => place.trans (if_pos hfull), fun hlen hroom => ?_⟩
    have posted : exec (.spawn a) s = .next (s.spawnIn w k).retire := place.trans (if_neg (by simp [x, hlen, hroom]))
    refine ⟨fun hpri => ?_, fun hpri => ?_⟩
    · rw [posted, State.spawnIn, if_neg hpri]
    · rw [posted, State.spawnIn, if_pos hpri]
      rfl

end

section
/-! SUPPORT. The delivery of a waiting record, and the ends of an MWAIT by the reason that holds (07 R162; 08 R190; 15 R320, R324). -/

namespace Sys2Proof.Machine

theorem exec_bundleFaultDelivery (q : Sq) (c : Cx) (s : State) : exec (.bundleFaultDelivery q c) s = execBundleFaultDelivery q c s := rfl
theorem exec_mwaitWake (q : Sq) (c : Cx) (s : State) : exec (.mwaitWake q c) s = execMwaitWake q c s := rfl
theorem exec_mwaitTimeout (q : Sq) (c : Cx) (s : State) : exec (.mwaitTimeout q c) s = execMwaitTimeout q c s := rfl

section
variable {s : State} {q : Sq} {c : Cx}

/-! ## Records -/

/-- Its first record leaves a context, and BPROV and BFLT show it (07 R162). -/
def State.takeRecord (s : State) (q : Sq) (c : Cx) (r : BRec) (rs : List BRec) : State :=
  s.modCtx q c (fun k => { k with records := rs, bprov := r.prov, bflt := r.flt })

theorem State.recordDue_iff :
    s.recordDue q c = true ↔ (s.ctx q c).records ≠ [] ∧ (c = 8 ∨ (s.ctx q c).inh = false) ∧ s.committing q c = false := by
  simp [State.recordDue, and_assoc]

theorem State.deliver_bundle {r : BRec} {rs : List BRec} (hr : (s.ctx q c).records = r :: rs) (hl : r.lvl = 1) :
    s.deliver q c = if c = 8 then (s.takeRecord q c r rs).modCtx q c (fun k => { k with cause := causeWord 0 1 r.cause })
      else (s.takeRecord q c r rs).trapEnter q c 0 1 r.cause := by
  simp [State.deliver, State.takeRecord, hr, hl]

theorem exec_bundleFaultDelivery_of_due (hd : s.recordDue q c = true)
    (hc : c = 8 ∨ ((s.sq q).active.map tileCx = some c ∧ (s.sq q).service = none)) :
    exec (.bundleFaultDelivery q c) s = .next (s.deliver q c) := by
  rw [exec_bundleFaultDelivery, execBundleFaultDelivery, if_pos (by simpa [hd] using hc)]

theorem exec_bundleFaultDelivery_of_not_due (hd : s.recordDue q c = false) : exec (.bundleFaultDelivery q c) s = .next s := by
  simp [exec_bundleFaultDelivery, execBundleFaultDelivery, hd]

/-! ## The reasons of an MWAIT (08 R190) -/

section
variable {w : Watch} {t n : Nat}

theorem State.mwaitReason_of_evicted (hw : s.watchOf q c = none) : s.mwaitReason q c t n = some 3 := by
  simp [State.mwaitReason, hw]

theorem State.mwaitReason_of_fired (hw : s.watchOf q c = some w) (hf : w.fired = true) : s.mwaitReason q c t n = some 1 := by
  simp [State.mwaitReason, hw, hf]

theorem State.mwaitReason_of_timeout (hw : s.watchOf q c = some w) (hf : w.fired = false) (ht : n ≤ s.now - t) :
    s.mwaitReason q c t n = some 2 := by
  simp [State.mwaitReason, hw, hf, ht]

theorem State.mwaitReason_of_early (hw : s.watchOf q c = some w) (hf : w.fired = false) (ht : s.now - t < n) :
    s.mwaitReason q c t n = if s.higherReady q c then some 5 else none := by
  simp [State.mwaitReason, hw, hf, Nat.not_le.2 ht]

end

/-! ## MWAIT_WAKE and MWAIT_TIMEOUT -/

section
variable {b : Blocked} {d a : Reg} {r : Nat} (hb : (s.ctx q c).blocked = some b) (ha : b.afresh = false) (hi : b.instr = .mwait d a)
include hb ha hi

theorem State.mwaitNow_eq : s.mwaitNow q c = (s.mwaitReason q c b.now (mwaitLimit ((s.ctx q c).rs_ a))).map (fun r => (d, r)) := by
  simp [State.mwaitNow, Ctx.waits, hb, ha, hi]

theorem exec_mwait_of_no_reason (hr : s.mwaitReason q c b.now (mwaitLimit ((s.ctx q c).rs_ a)) = none) :
    exec (.mwaitWake q c) s = .next s ∧ exec (.mwaitTimeout q c) s = .next s := by
  simp [exec_mwaitWake, exec_mwaitTimeout, execMwaitWake, execMwaitTimeout, State.mwaitNow_eq hb ha hi, hr]

/-- A reason other than the timeout ends the wait by MWAIT_WAKE alone, once no record waits. -/
theorem exec_mwait_of_woken (hr : s.mwaitReason q c b.now (mwaitLimit ((s.ctx q c).rs_ a)) = some r) (h2 : r ≠ 2) :
    exec (.mwaitWake q c) s = (if s.recordDue q c then .next (s.deliver q c) else (s.focus q c).mwaitEnd d r) ∧
      exec (.mwaitTimeout q c) s = .next s := by
  simp [exec_mwaitWake, exec_mwaitTimeout, execMwaitWake, execMwaitTimeout, State.mwaitNow_eq hb ha hi, hr, h2]

/-- The timeout ends the wait by MWAIT_TIMEOUT alone, once no record waits. -/
theorem exec_mwait_of_timeout (hr : s.mwaitReason q c b.now (mwaitLimit ((s.ctx q c).rs_ a)) = some 2) :
    exec (.mwaitTimeout q c) s = (if s.recordDue q c then .next (s.deliver q c) else (s.focus q c).mwaitEnd d 2) ∧
      exec (.mwaitWake q c) s = .next s := by
  simp [exec_mwaitWake, exec_mwaitTimeout, execMwaitWake, execMwaitTimeout, State.mwaitNow_eq hb ha hi, hr]

end

end

end Sys2Proof.Machine
end

section
open Sys2Proof Sys2Proof.Machine

/-- Settles O39: a record by whether it is due and whose it is, an MWAIT by the first reason that holds. -/
theorem recordsAndWakesAreDelivered : Obligations.RecordsAndWakesAreDelivered := by
  unfold Obligations.RecordsAndWakesAreDelivered
  intro s q c r rs b d a w x clear
  refine ⟨fun hr => ?none, fun hr hl => ?records, fun hb ha hi hd => ?due, fun hb ha hi hd => ?ends⟩
  case none => exact exec_bundleFaultDelivery_of_not_due (by simp [State.recordDue, show (s.ctx q c).records = [] from hr])
  case records =>
    have some : (s.ctx q c).records ≠ [] := by rw [hr]; exact List.cons_ne_nil r rs
    refine ⟨fun h8 hact hinh hsv hcom => ?tile, fun h => ?held, fun h8 hcom => ?firmware⟩
    case tile =>
      rw [exec_bundleFaultDelivery_of_due (State.recordDue_iff.2 ⟨some, .inr hinh, hcom⟩) (.inr ⟨hact, hsv⟩),
        State.deliver_bundle hr hl, if_neg h8]
      rfl
    case held =>
      refine exec_bundleFaultDelivery_of_not_due (Bool.eq_false_iff.2 fun hdue => ?_)
      obtain ⟨-, hout, hcom⟩ := State.recordDue_iff.1 hdue
      rcases h with ⟨h8, hinh⟩ | h
      · simp [h8, show (s.ctx q c).inh = true from hinh] at hout
      · simp [h] at hcom
    case firmware =>
      rw [exec_bundleFaultDelivery_of_due (State.recordDue_iff.2 ⟨some, .inl h8, hcom⟩) (.inl h8), State.deliver_bundle hr hl, if_pos h8]
      rfl
  case due =>
    refine ⟨fun hw => ?_, fun hw hf => ?_, fun hw hf ht => ?_⟩
    · rw [(exec_mwait_of_woken hb ha hi (State.mwaitReason_of_evicted hw) (by decide)).1, if_pos hd]
    · rw [(exec_mwait_of_woken hb ha hi (State.mwaitReason_of_fired hw hf) (by decide)).1, if_pos hd]
    · rw [(exec_mwait_of_timeout hb ha hi (State.mwaitReason_of_timeout hw hf ht)).1, if_pos hd]
  case ends =>
    have go (o p : Out) : (if s.recordDue q c = true then o else p) = p := by simp [hd]
    refine ⟨fun hw => ?_, fun hw => ⟨fun hf => ?_, fun hf ht => ?_, fun hf ht hh => ?_, fun hf ht hh => ?_⟩⟩
    · exact (exec_mwait_of_woken hb ha hi (State.mwaitReason_of_evicted hw) (by decide)).1.trans (go ..)
    · exact (exec_mwait_of_woken hb ha hi (State.mwaitReason_of_fired hw hf) (by decide)).imp_left (·.trans (go ..))
    · exact (exec_mwait_of_timeout hb ha hi (State.mwaitReason_of_timeout hw hf ht)).imp_left (·.trans (go ..))
    · exact (exec_mwait_of_woken hb ha hi ((State.mwaitReason_of_early hw hf ht).trans (if_pos hh)) (by decide)).1.trans (go ..)
    · exact exec_mwait_of_no_reason hb ha hi ((State.mwaitReason_of_early hw hf ht).trans (by rw [hh]; rfl))

end

section
/-! SUPPORT. The retirement of an instruction of the EMIT family, and EQ.WAIT and EQ.STAT (05 R101; 07 R154, R156; 13 R298). -/

namespace Sys2Proof.Machine

/-! ## Updates of a square that leave its contexts or its cores -/

theorem State.ctx_modSq {s : State} {q p : Sq} {c : Cx} {f : Square → Square} (h : ∀ x, (f x).ctxs = x.ctxs := by intro; rfl) :
    (s.modSq q f).ctx p c = s.ctx p c := by
  by_cases e : p = q
  · subst e; simp [State.ctx, h]
  · simp [State.ctx, State.sq_modSq_ne _ _ _ _ e]

theorem State.core_modSq {s : State} {q p : Sq} {v : Vc} {f : Square → Square} (h : ∀ x, (f x).cores = x.cores := by intro; rfl) :
    (s.modSq q f).core p v = s.core p v := by
  by_cases e : p = q
  · subst e; simp [State.core, h]
  · simp [State.core, State.sq_modSq_ne _ _ _ _ e]

theorem State.core_modMe (s : State) (q : Sq) (v : Vc) (f : Ctx → Ctx) : (s.modMe f).core q v = s.core q v := s.core_modCtx s.fsq q s.fcx v f

/-! ## Retirement -/

/-- Such an instruction moves its context's queue on; beside it only a count of boundaries and F's burst may change. -/
theorem State.emitDone_next (s : State) : ∃ t : State, s.emitDone = .next t ∧ t.mem = s.mem ∧
    (∃ n, t.me = { s.me.advance with bounds := n }) ∧ ∀ v, t.core s.fsq v = s.core s.fsq v := by
  unfold State.emitDone
  split
  · exact ⟨_, rfl, rfl, ⟨s.me.bounds, State.me_modMe s _⟩, fun v => s.core_modMe s.fsq v _⟩
  · refine ⟨_, rfl, rfl, ⟨s.me.bounds + 1, ?_⟩, fun v => ?_⟩
    · rw [State.me, State.ctx_modSq]
      exact (State.me_modMe _ _).trans (congrArg (fun x : Ctx => { x with bounds := x.bounds + 1 }) (State.me_modMe s _))
    · rw [State.core_modSq]
      exact (State.core_modMe _ _ v _).trans (s.core_modMe _ v _)

/-! ## EQ.WAIT and EQ.STAT -/

theorem exec_eqWait (v : Vc) (n : Fin 65) (s : State) :
    exec (.eqWait v n) s = if (s.core s.fsq v).roomFor n.val then s.emitDone else s.block (.eqWait v n) := rfl
theorem exec_eqStat (v : Vc) (d : Reg) (s : State) : exec (.eqStat v d) s = (s.wS d (s.eqStat v)).emitDone := rfl

theorem VCore.roomFor_iff (x : VCore) (n : Nat) :
    x.roomFor n = true ↔ if n = 0 then x.eq = [] ∧ x.issued = [] else x.eq.length + n ≤ 64 := by
  unfold VCore.roomFor
  split <;> simp

theorem VCore.queued_true (x : VCore) (c : Cx) : x.queued c (fun _ => true) = (x.eq.filter (fun e => e.ctx == c)).length := by
  simp [VCore.queued]

end Sys2Proof.Machine
end

section
/-! SUPPORT. The selector and the bind word of the handle instructions, and the handles of a core that the issuing context claims (10 R232 to R235). -/

namespace Sys2Proof.Machine

/-! ## Selectors and bind words (10 R235, Table 10-4) -/

theorem bits_ofNat {n : Nat} (h : n < 2 ^ 64) (lo k : Nat) : bits (BitVec.ofNat 64 n) lo k = n / 2 ^ lo % 2 ^ k := by
  rw [bits, fld, BitVec.toNat_ofNat, Nat.mod_eq_of_lt h]

theorem bit_eq_bits (w : Word) (i : Nat) : bit w i = decide (bits w i 1 = 1) := by
  simp [bit, bits, fld, BitVec.getLsbD, Nat.testBit_eq_decide_div_mod_eq]

theorem selector_ofNat (v : Vc) (h : Fin 64) : selector (BitVec.ofNat 64 (v.val * 64 + h.val)) = some (v, h) := by
  have hi : v.val * 64 + h.val < 2 ^ 64 := by omega
  have hv : Fin.ofNat 4 ((v.val * 64 + h.val) / 2 ^ 6 % 2 ^ 2) = v := Fin.ext (by simp only [Fin.val_ofNat]; omega)
  have hh : Fin.ofNat 64 ((v.val * 64 + h.val) / 2 ^ 0 % 2 ^ 6) = h := Fin.ext (by simp only [Fin.val_ofNat]; omega)
  rw [selector, if_pos (by rw [bits_ofNat hi]; omega), bits_ofNat hi, bits_ofNat hi, hv, hh]

theorem bindOf_zero : bindOf 0 = some Hnd.reset := rfl

theorem bindOf_ofNat {sp len base : Nat} {full : Bool} (h1 : 1 ≤ sp) (h3 : sp ≤ 3) (hl : len < 2 ^ 14) (hb : base < 2 ^ 39)
    (hend : base * 512 + (len + 1) * 512 ≤ bindEnd sp) :
    bindOf (BitVec.ofNat 64 (sp * 2 ^ 62 + len * 2 ^ 48 + base * 2 ^ 9 + (if full then 1 else 0))) =
      some { sp := sp, len := len, base := base * 512, st := if full then .full else .free, pos := 0, keep := false, cause := 0 } := by
  generalize hf : (if full then 1 else 0 : Nat) = f
  have hf1 : f ≤ 1 := by rw [← hf]; split <;> decide
  have hlt : sp * 2 ^ 62 + len * 2 ^ 48 + base * 2 ^ 9 + f < 2 ^ 64 := by omega
  have hsp : bits (BitVec.ofNat 64 (sp * 2 ^ 62 + len * 2 ^ 48 + base * 2 ^ 9 + f)) 62 2 = sp := by rw [bits_ofNat hlt]; omega
  have hlen : bits (BitVec.ofNat 64 (sp * 2 ^ 62 + len * 2 ^ 48 + base * 2 ^ 9 + f)) 48 14 = len := by rw [bits_ofNat hlt]; omega
  have hbase : bits (BitVec.ofNat 64 (sp * 2 ^ 62 + len * 2 ^ 48 + base * 2 ^ 9 + f)) 9 39 = base := by rw [bits_ofNat hlt]; omega
  have hres : bits (BitVec.ofNat 64 (sp * 2 ^ 62 + len * 2 ^ 48 + base * 2 ^ 9 + f)) 1 8 = 0 := by rw [bits_ofNat hlt]; omega
  have hfull : bit (BitVec.ofNat 64 (sp * 2 ^ 62 + len * 2 ^ 48 + base * 2 ^ 9 + f)) 0 = full := by
    rw [bit_eq_bits, bits_ofNat hlt, show (sp * 2 ^ 62 + len * 2 ^ 48 + base * 2 ^ 9 + f) / 2 ^ 0 % 2 ^ 1 = f by omega, ← hf]
    cases full <;> rfl
  have hne : BitVec.ofNat 64 (sp * 2 ^ 62 + len * 2 ^ 48 + base * 2 ^ 9 + f) ≠ 0 := by
    intro e
    rw [e] at hsp
    simp [bits, fld] at hsp
    omega
  rw [bindOf, if_neg hne]
  simp only [hsp, hlen, hbase, hres, hfull, Hnd.bytes]
  rw [if_neg (by simp; omega)]

/-! ## Handles after updates -/

section
variable (s : State) (q : Sq) (v : Vc) (h : Fin 64)

theorem State.modHnd_eq (f : Hnd → Hnd) : s.modHnd q v h f = s.modHnd q v h (fun _ => f (s.hnd q v h)) := rfl
theorem State.resetHnd_eq (f : Hnd → Hnd) : s.resetHnd q v h f = s.resetHnd q v h (fun _ => f (s.hnd q v h)) := rfl

theorem State.core_modArr (p : Sq) (w : Vc) (f : Arr → Arr) : (s.modArr q f).core p w = s.core p w :=
  State.core_modSq

theorem State.me_modCore (f : VCore → VCore) : (s.modCore q v f).me = s.me := s.ctx_modCore q s.fsq s.fcx v f

theorem State.me_modArr (f : Arr → Arr) : (s.modArr q f).me = s.me := State.ctx_modSq (q := q) (p := s.fsq)

theorem State.arr_modCore (f : VCore → VCore) : (s.modCore q v f).arr q = s.arr q := by
  simp [State.arr, State.modCore, State.setCore]

theorem State.arr_modArr (f : Arr → Arr) : (s.modArr q f).arr q = f (s.arr q) := by
  simp [State.arr, State.modArr]

theorem State.hnd_dropTile (w : Vc) (g : Fin 64) : (s.dropTile q v h).hnd q w g = s.hnd q w g :=
  congrArg (fun x : VCore => x.handles[g]) (s.core_modArr q q w _)

/-- Handle `h` set anew: the tile of it that the array has fetched ahead is dropped, and its outstanding accesses no longer move it (10 R233). -/
def State.setAnew (z : Hnd) : State := (s.dropTile q v h).resetHnd q v h (fun _ => z)

theorem State.hnd_setAnew (z : Hnd) : (s.setAnew q v h z).hnd q v h = z := by
  simp [State.setAnew, State.resetHnd, State.hnd]

theorem State.hnd_setAnew_ne (z : Hnd) {w : Vc} {g : Fin 64} (hne : w ≠ v ∨ g ≠ h) : (s.setAnew q v h z).hnd q w g = s.hnd q w g := by
  rw [← s.hnd_dropTile q v h w g]
  by_cases e : w = v
  · subst e
    have hg : g ≠ h := hne.resolve_left (fun k => k rfl)
    simp only [State.setAnew, State.resetHnd, State.hnd, State.core_modCore]
    exact vset_other _ _ _ _ hg
  · exact congrArg (fun x : VCore => x.handles[g]) (State.core_modCore_ne _ q v w _ e)

theorem State.me_setAnew (z : Hnd) : (s.setAnew q v h z).me = s.me := (State.me_modCore _ q v _).trans (s.me_modArr q _)

theorem State.arr_setAnew_filter (z : Hnd) : ∃ p, (s.setAnew q v h z).arr q = { s.arr q with ahead := (s.arr q).ahead.filter p } :=
  ⟨_, (State.arr_modCore _ q v _).trans (s.arr_modArr q _)⟩

theorem State.arr_setAnew (z : Hnd) : (s.setAnew q v h z).arr q = { s.arr q with ahead := ((s.setAnew q v h z).arr q).ahead } := by
  obtain ⟨p, hp⟩ := s.arr_setAnew_filter q v h z
  rw [hp]

theorem State.ahead_setAnew (z : Hnd) : ((s.setAnew q v h z).arr q).ahead = none ∨ ((s.setAnew q v h z).arr q).ahead = (s.arr q).ahead := by
  obtain ⟨p, hp⟩ := s.arr_setAnew_filter q v h z
  rw [hp]
  cases (s.arr q).ahead with
  | none => exact .inl rfl
  | some a => by_cases k : p a <;> simp [Option.filter, k]

end

/-! ## The instructions, on a core that the context claims -/

theorem exec_hWait (a : Reg) (n : Fin 5) (s : State) : exec (.hWait a n) s = execHWait a n s := rfl
theorem exec_hStat (d a : Reg) (s : State) : exec (.hStat d a) s = execHStat d a s := rfl
theorem exec_hFree (a : Reg) (s : State) : exec (.hFree a) s = execHFree a s := rfl
theorem exec_hBind (a b : Reg) (s : State) : exec (.hBind a b) s = execHBind a b s := rfl
theorem exec_hKeep (a : Reg) (s : State) : exec (.hKeep a) s = s.setKeep (.hKeep a) a true := rfl
theorem exec_hDisc (a : Reg) (s : State) : exec (.hDisc a) s = s.setKeep (.hDisc a) a false := rfl

section
variable {s : State} {a : Reg} {v : Vc} {h : Fin 64} {c : Fin 8} (hc : s.fcx = tileCx c) (hv : (s.core s.fsq v).claim = some c)
  (ha : s.rs a = BitVec.ofNat 64 (v.val * 64 + h.val))

include hv in
theorem State.take_of_claimed : s.take v = s := by
  simp [State.take, State.claim, hv]

include hc hv ha in
theorem State.withHandle_of_claimed (i : Instr) (k : Vc → Fin 64 → Hnd → Out) : s.withHandle i a k = k v h (s.hnd s.fsq v h) := by
  have hf : s.foreign s.fsq v s.fcx = false := by simp [State.foreign, State.claimedBy, hv, hc]
  have hs : s.seenHnd s.fsq v s.fcx h = s.hnd s.fsq v h := by simp [State.seenHnd, hv]
  simp [State.withHandle, ha, selector_ofNat, hf, hs]

variable {y : Hnd} (hy : s.hnd s.fsq v h = y)
include hc hv ha hy

theorem exec_hWait_of_claimed (n : Fin 5) : exec (.hWait a n) s =
    if y.sp = 0 ∧ n ≠ 0 then s.trap HANDLE_UNBOUND else if y.st.num = n.val then .next s.retire
    else if y.st = .error then s.trap HANDLE_ERROR else s.block (.hWait a n) := by
  rw [exec_hWait, execHWait, State.withHandle_of_claimed hc hv ha, hy, State.take_of_claimed hv]
  simp [Hnd.bound, State.done]

theorem exec_hStat_of_claimed (d : Reg) : exec (.hStat d a) s = s.sets d y.status := by
  rw [exec_hStat, execHStat, State.withHandle_of_claimed hc hv ha, hy, State.take_of_claimed hv]
  rfl

theorem exec_hFree_of_claimed : exec (.hFree a) s =
    if y.sp = 0 then s.trap HANDLE_UNBOUND else if y.partly then s.block (.hFree a)
    else .next (s.setAnew s.fsq v h (if y.st = .free then y else y.goto .free)).retire := by
  rw [exec_hFree, execHFree, State.withHandle_of_claimed hc hv ha, State.take_of_claimed hv, State.resetHnd_eq, State.hnd_dropTile, hy]
  simp [Hnd.bound, State.done, State.setAnew]

theorem setKeep_of_claimed (i : Instr) (k : Bool) : s.setKeep i a k =
    if y.sp = 0 then s.trap HANDLE_UNBOUND else .next (s.modHnd s.fsq v h (fun _ => { y with keep := k })).retire := by
  rw [State.setKeep, State.withHandle_of_claimed hc hv ha, State.take_of_claimed hv, State.modHnd_eq, hy]
  simp [Hnd.bound, State.done]

theorem exec_hBind_of_claimed {b : Reg} {z : Hnd} (hb : bindOf (s.rs b) = some z) (hp : y.partly = false) :
    exec (.hBind a b) s = .next (s.setAnew s.fsq v h z).retire := by
  rw [exec_hBind, execHBind, State.withHandle_of_claimed hc hv ha, hy, State.take_of_claimed hv]
  simp [hb, hp, State.done, State.setAnew]

end

end Sys2Proof.Machine
end

section
open Sys2Proof Sys2Proof.Machine

/-- Settles O21: EQ.WAIT by the room that it asks for, EQ.STAT by its snapshot, and each handle instruction by the state of its handle. -/
theorem queuesAndHandles : Obligations.QueuesAndHandles := by
  unfold Obligations.QueuesAndHandles
  refine ⟨fun s v n d => ⟨fun hm => ?room, fun hm => ?waits, ?stat⟩, fun s a b d n v h c y hc hv ha hy => ?handles⟩
  case room =>
    obtain ⟨t, ht, hmem, ⟨k, hme⟩, -⟩ := s.emitDone_next
    exact ⟨t, by rw [exec_eqWait, if_pos ((VCore.roomFor_iff _ _).2 hm), ht], by rw [hme]; rfl, by rw [hme]; rfl, hmem⟩
  case waits => rw [exec_eqWait, if_neg (fun k => hm ((VCore.roomFor_iff _ _).1 k))]
  case stat =>
    obtain ⟨t, ht, hmem, ⟨k, hme⟩, -⟩ := (s.wS d (s.eqStat v)).emitDone_next
    have hq : (s.wS d (s.eqStat v)).me.q1 = s.me.q1 := by simp only [State.wS, State.me_modMe, Ctx.setS]; split <;> rfl
    refine ⟨t, (exec_eqStat v d s).trans ht, ?_, hmem, fun hd => ?_⟩
    · rw [hme]; exact hq
    · have value : t.rs d = s.eqStat v := by rw [State.rs, hme]; exact State.rs_wS s d _ hd
      rw [value, State.eqStat, VCore.queued_true]
      rfl
  case handles =>
    have keep := setKeep_of_claimed hc hv ha hy
    have whole (hfi : y.st ≠ .filling) (hdr : y.st ≠ .draining) : y.partly = false := by simp [Hnd.partly, hfi, hdr]
    refine ⟨fun ⟨hs, hn⟩ => ?waitMet, fun ⟨hs, he, hn⟩ => ?waitBlocks, fun ⟨hs, he, hn⟩ => ?waitError, fun ⟨hs, hn⟩ => ?waitUnbound,
      ?stat, fun z => ?anew, fun ⟨hs, hst⟩ => ?free, fun ⟨hs, hst⟩ => ?freeFree, fun ⟨hs, hst⟩ => ?freeBlocks,
      fun hs => ⟨(exec_hKeep a s).trans ((keep _ true).trans (if_neg hs)), (exec_hDisc a s).trans ((keep _ false).trans (if_neg hs))⟩,
      fun hs => ⟨?freeUnbound, (exec_hKeep a s).trans ((keep _ true).trans (if_pos hs)),
        (exec_hDisc a s).trans ((keep _ false).trans (if_pos hs))⟩,
      fun hfi hdr => ⟨fun hb => exec_hBind_of_claimed hc hv ha hy (by rw [hb]; exact bindOf_zero) (whole hfi hdr),
        fun sp len base full h1 h3 hl hb hend hw =>
          exec_hBind_of_claimed hc hv ha hy (by rw [hw]; exact bindOf_ofNat h1 h3 hl hb hend) (whole hfi hdr)⟩⟩
    case waitMet => rw [exec_hWait_of_claimed hc hv ha hy, if_neg (fun k => hs k.1), if_pos hn]
    case waitBlocks => rw [exec_hWait_of_claimed hc hv ha hy, if_neg (fun k => hs k.1), if_neg hn, if_neg he]
    case waitError =>
      have hne : y.st.num ≠ n.val := by rw [he]; exact fun k => hn k.symm
      rw [exec_hWait_of_claimed hc hv ha hy, if_neg (fun k => hs k.1), if_neg hne, if_pos he]
      rfl
    case waitUnbound =>
      rw [exec_hWait_of_claimed hc hv ha hy, if_pos ⟨hs, hn⟩]
      rfl
    case stat => simp [exec_hStat_of_claimed hc hv ha hy, Hnd.status, Hnd.bound, word]
    case anew =>
      exact ⟨s.hnd_setAnew s.fsq v h z, rfl, s.me_setAnew s.fsq v h z, fun w g => s.hnd_setAnew_ne s.fsq v h z, s.arr_setAnew s.fsq v h z,
        s.ahead_setAnew s.fsq v h z⟩
    case free =>
      have hf : y.st ≠ .free := by rcases hst with e | e <;> simp [e]
      rw [exec_hFree_of_claimed hc hv ha hy, if_neg hs, if_neg (by rcases hst with e | e <;> simp [Hnd.partly, e]), if_neg hf]
      rfl
    case freeFree =>
      rw [exec_hFree_of_claimed hc hv ha hy, if_neg hs, if_neg (by simp [Hnd.partly, hst]), if_pos hst]
      rfl
    case freeBlocks => rw [exec_hFree_of_claimed hc hv ha hy, if_neg hs, if_pos (by simpa [Hnd.partly] using hst)]
    case freeUnbound =>
      rw [exec_hFree_of_claimed hc hv ha hy, if_pos hs]
      rfl

end

section
/-! SUPPORT. What performing P-path accesses leaves alone: whose turn it is, every context but its accesses in flight, and the vector cores
(05 R123, R124; 07 R149, R158; 12 R270). -/

namespace Sys2Proof.Machine

/-- A context apart from its accesses in flight. -/
def Ctx.landed (x : Ctx) : Ctx := { x with loads := [], posted := [] }

/-- The contexts of a square, apart from their accesses in flight, and its vector cores. -/
def Square.stance (x : Square) : Vector Ctx 9 × Vector VCore 4 := (x.ctxs.map Ctx.landed, x.cores)

/-- The issuing context and the stances of the squares. -/
structure Stance where
  fsq : Sq
  fcx : Cx
  squares : Vector (Vector Ctx 9 × Vector VCore 4) 160

/-- The stance of a state. -/
def State.stance (s : State) : Stance := { fsq := s.fsq, fcx := s.fcx, squares := s.squares.map Square.stance }

section
variable {s t : State} (h : t.stance = s.stance)
include h

theorem fsq_of_stance : t.fsq = s.fsq := congrArg Stance.fsq h
theorem fcx_of_stance : t.fcx = s.fcx := congrArg Stance.fcx h

theorem sq_of_stance (q : Sq) : (t.sq q).stance = (s.sq q).stance := by
  simpa [State.stance, State.sq] using congrArg (fun d : Stance => d.squares[q.val]) h

theorem core_of_stance (q : Sq) (v : Vc) : t.core q v = s.core q v := congrArg (fun d => d.2[v]) (sq_of_stance h q)

theorem ctx_of_stance (q : Sq) (c : Cx) : (t.ctx q c).landed = (s.ctx q c).landed := by
  simpa [Square.stance, State.ctx] using congrArg (fun d => d.1[c.val]) (sq_of_stance h q)

/-- What `g` shows of the issuing context, accesses in flight not being part of it. -/
theorem me_of_stance {α : Type} (g : Ctx → α) (hg : ∀ x : Ctx, g x.landed = g x := by intro; rfl) : g t.me = g s.me := by
  rw [← hg t.me, ← hg s.me, State.me, State.me, fsq_of_stance h, fcx_of_stance h, ctx_of_stance h]

end

/-! ## Updates of squares and contexts -/

theorem State.stance_setSq {s : State} {q : Sq} {x : Square} (h : x.stance = (s.sq q).stance) : (s.setSq q x).stance = s.stance :=
  congrArg (fun d => { s.stance with squares := d }) (map_vset_of_eq _ _ _ _ h)

theorem State.stance_modSq {s : State} {q : Sq} {f : Square → Square} (h : ∀ x, (f x).stance = x.stance := by intro; rfl) :
    (s.modSq q f).stance = s.stance :=
  State.stance_setSq (h _)

theorem State.stance_modCtx {s : State} {q : Sq} {c : Cx} {f : Ctx → Ctx} (h : ∀ x, (f x).landed = x.landed := by intro; rfl) :
    (s.modCtx q c f).stance = s.stance :=
  State.stance_setSq (congrArg (Prod.mk · _) (map_vset_of_eq _ _ _ _ (h _)))

/-! ## Memory, translations and the data cache -/

theorem State.stance_bump (s : State) : s.bump.stance = s.stance := rfl
theorem State.stance_blkTouch (s : State) (a n : Nat) : (s.blkTouch a n).stance = s.stance := rfl
theorem State.stance_writeHome (s : State) (a : Nat) (bs : List Byte) : (s.writeHome a bs).stance = s.stance := rfl

theorem State.stance_writeSector (s : State) (pa : Nat) (ds : List (Nat × Byte)) : (s.writeSector pa ds).stance = s.stance :=
  foldl_keeps (g := State.stance) (fun s (r : Nat × List Byte) => s.stance_writeHome r.1 r.2) _ s

theorem State.stance_tlbUse (s : State) (q : Sq) (e : TlbEnt) : (s.tlbUse q e).stance = s.stance := by
  obtain ⟨w, d, hu⟩ := s.tlbUse_eq q e
  rw [hu]
  exact State.stance_modSq

theorem State.stance_of_translate {s t : State} {q : Sq} {who : Option Nat} {n : Need} {va pa : Nat}
    (h : s.translate q who n va = .ok (pa, t)) : t.stance = s.stance := by
  obtain ⟨-, e, -, -, rfl⟩ := State.translate_ok h
  exact s.stance_tlbUse q e

theorem State.stance_writeLine (s : State) (q : Sq) (l : DLine) : (s.writeLine q l).stance = s.stance := by
  grind [State.writeLine, State.stance_writeSector, State.stance_tlbUse]

theorem State.stance_setLines (s : State) (q : Sq) (f : List DLine → List DLine) :
    (s.modSq q (fun x => { x with dcache := f x.dcache })).stance = s.stance := State.stance_modSq

theorem State.stance_writeBack (s : State) (q : Sq) (p : DLine → Bool) : (s.writeBack q p).stance = s.stance :=
  (State.stance_setLines _ q (List.map _)).trans (foldl_keeps (g := State.stance) (fun s l => s.stance_writeLine q l) _ s)

theorem State.stance_evictLine (s : State) (q : Sq) (tag : Nat) : (s.evictLine q tag).stance = s.stance := by
  unfold State.evictLine
  split
  · rfl
  · exact (State.stance_setLines _ q (List.filter _)).trans (s.stance_writeLine q _)

theorem State.stance_addLine (s : State) (q : Sq) (pa : Nat) (l : DLine) :
    ((s.blkTouch pa 64).modSq q (fun x => { x with dcache := x.dcache ++ [l] })).bump.stance = s.stance :=
  (State.stance_bump _).trans ((State.stance_setLines _ q (· ++ [l])).trans (s.stance_blkTouch pa 64))

theorem State.stance_fillLine (s : State) (q : Sq) (tag pa : Nat) : (s.fillLine q tag pa).stance = s.stance := by
  unfold State.fillLine
  split
  · rfl
  · refine (State.stance_addLine _ q pa _).trans ?_
    split
    · exact s.stance_evictLine q _
    · rfl

theorem State.stance_putLine (s : State) (q : Sq) (c : Cx) (va : Nat) (bs : List Byte) : (s.putLine q c va bs).stance = s.stance :=
  State.stance_setLines s q (List.map _)

/-! ## Accesses in flight -/

theorem State.stance_setPosted (s : State) (q : Sq) (c : Cx) (l : List Posted) : (s.modCtx q c (fun x => { x with posted := l })).stance = s.stance :=
  State.stance_modCtx
theorem State.stance_setLoads (s : State) (q : Sq) (c : Cx) (l : List LoadFlight) : (s.modCtx q c (fun x => { x with loads := l })).stance = s.stance :=
  State.stance_modCtx

theorem State.stance_performPosted (s : State) (q : Sq) (c : Cx) : (s.performPosted q c).stance = s.stance := by
  unfold State.performPosted
  split
  · rfl
  · exact (State.stance_putLine ..).trans ((State.stance_fillLine ..).trans (s.stance_setPosted q c _))

theorem State.stance_drainPosted (s : State) (q : Sq) (c : Cx) : (s.drainPosted q c).stance = s.stance :=
  foldl_keeps (g := State.stance) (fun s (_ : Posted) => s.stance_performPosted q c) _ s

theorem State.stance_performLoad (s : State) (q : Sq) (l : LoadFlight) : (s.performLoad q l).2.stance = s.stance := by
  grind [State.performLoad, State.stance_fillLine]

theorem State.stance_performLoads (s : State) (q : Sq) (c : Cx) : (s.performLoads q c).stance = s.stance :=
  (State.stance_setLoads _ q c _).trans
    (foldl_keeps (g := fun r : List LoadFlight × State => r.2.stance) (fun r l => r.2.stance_performLoad q l) _ ([], s))

theorem State.stance_performAll (s : State) (q : Sq) (c : Cx) : (s.performAll q c).stance = s.stance :=
  (State.stance_writeBack _ q _).trans ((State.stance_drainPosted _ q c).trans (s.stance_performLoads q c))

/-! ## Templates (07 R149) -/

theorem State.stance_of_readWord {s t : State} {va n : Nat} (h : s.readWord va = .ok (n, t)) : t.stance = s.stance := by
  grind [State.readWord, State.stance_fillLine, State.stance_performLoads, → State.stance_of_translate]

theorem State.stance_of_readTemplate {s t : State} {va : Nat} {w : BitVec 192} (h : s.readTemplate va = .ok (w, t)) : t.stance = s.stance := by
  obtain ⟨⟨w0, s0⟩, h0, h⟩ := except_bind_eq_ok.1 h
  obtain ⟨⟨w1, s1⟩, h1, h⟩ := except_bind_eq_ok.1 h
  obtain ⟨⟨w2, s2⟩, h2, h⟩ := except_bind_eq_ok.1 h
  cases h
  rw [State.stance_of_readWord h2, State.stance_of_readWord h1, State.stance_of_readWord h0]

end Sys2Proof.Machine
end

section
/-! SUPPORT. Bundles entering the queues of their cores (07 R152, R162), and the answers of the EMIT family in the order of its checks (07 R150 to
R153; 08 R168). -/

namespace Sys2Proof.Machine

/-! ## A bundle enters a queue -/

/-- The bundle that the issuing context emits to core `v`, with its provenance (02 R50, 07 R162). -/
def State.bundle (s : State) (v : Vc) (w : BitVec 192) : Entry :=
  { w := w, ctx := s.fcx, seq := s.me.seq[v], gwa := BitVec.ofNat 46 (bits s.me.q0.pc 2 46) }

theorem gwa_eq (pc : Word) : BitVec.ofNat 46 (bits pc 2 46) = BitVec.ofNat 46 (pc.toNat / 4) := by
  apply BitVec.eq_of_toNat_eq
  simp [bits, fld]

/-- From `s` to `u` a bundle has entered the queue of every core of `vs`, in one step of SEQ for each, and nothing of the other queues, the issuing
context or memory has changed. -/
structure Sends (s u : State) (w : BitVec 192) (vs : List Vc) : Prop where
  fsq : u.fsq = s.fsq
  fcx : u.fcx = s.fcx
  mem : u.mem = s.mem
  me : u.me = { s.me with seq := u.me.seq }
  queued : ∀ v ∈ vs, (u.core s.fsq v).eq = (s.core s.fsq v).eq ++ [s.bundle v w] ∧ u.me.seq[v] = s.me.seq[v] + 1
  others : ∀ v, v ∉ vs → (u.core s.fsq v).eq = (s.core s.fsq v).eq ∧ u.me.seq[v] = s.me.seq[v]

theorem Sends.nil (s : State) (w : BitVec 192) : Sends s s w [] where
  fsq := rfl
  fcx := rfl
  mem := rfl
  me := rfl
  queued _ hv := absurd hv List.not_mem_nil
  others _ _ := ⟨rfl, rfl⟩

theorem Sends.bundle_other {s u : State} {w : BitVec 192} {vs : List Vc} (h : Sends s u w vs) {v : Vc} (hv : v ∉ vs) :
    u.bundle v w = s.bundle v w := by
  rw [State.bundle, State.bundle, (h.others v hv).2, h.fcx, h.me]

theorem Sends.cons {s t u : State} {w : BitVec 192} {v : Vc} {vs : List Vc} (h : Sends s t w [v]) (g : Sends t u w vs) (hv : v ∉ vs) :
    Sends s u w (v :: vs) where
  fsq := g.fsq.trans h.fsq
  fcx := g.fcx.trans h.fcx
  mem := g.mem.trans h.mem
  me := by rw [g.me, h.me]
  queued c hc := by
    rcases List.mem_cons.1 hc with rfl | hc
    · obtain ⟨hq, hs⟩ := h.queued c List.mem_cons_self
      obtain ⟨gq, gs⟩ := g.others c hv
      rw [h.fsq] at gq
      exact ⟨gq.trans hq, gs.trans hs⟩
    · have hne : c ∉ [v] := fun k => hv (List.mem_singleton.1 k ▸ hc)
      obtain ⟨hq, hs⟩ := h.others c hne
      obtain ⟨gq, gs⟩ := g.queued c hc
      rw [h.fsq, h.bundle_other hne, hq] at gq
      rw [hs] at gs
      exact ⟨gq, gs⟩
  others c hc := by
    obtain ⟨hne, hc⟩ : c ≠ v ∧ c ∉ vs := by simpa using hc
    obtain ⟨hq, hs⟩ := h.others c (by simpa using hne)
    obtain ⟨gq, gs⟩ := g.others c hc
    rw [h.fsq] at gq
    exact ⟨gq.trans hq, gs.trans hs⟩

theorem State.me_claim (s : State) (q : Sq) (v : Vc) (c : Cx) : (s.claim q v c).me = s.me := by
  unfold State.claim
  split
  · exact (State.me_modCore ..).trans (State.me_modArr ..)
  · rfl

/-- A claim leaves every emit queue. -/
theorem State.eq_claim (s : State) (q : Sq) (v : Vc) (c : Cx) (w : Vc) : ((s.claim q v c).core q w).eq = (s.core q w).eq := by
  unfold State.claim
  split
  · by_cases e : w = v
    · subst e
      rw [State.core_modCore, State.core_modArr]
      rfl
    · rw [State.core_modCore_ne _ _ _ _ _ e, State.core_modArr]
  · rfl

theorem State.claim_frame (s : State) (q : Sq) (v : Vc) (c : Cx) :
    (s.claim q v c).fsq = s.fsq ∧ (s.claim q v c).fcx = s.fcx ∧ (s.claim q v c).mem = s.mem := by
  unfold State.claim
  split <;> exact ⟨rfl, rfl, rfl⟩

/-- What EMIT does after the claim, where no record of the context waits: SEQ counts the bundle, and it stands at the tail of its queue. -/
def State.push (s : State) (v : Vc) (w : BitVec 192) : State :=
  (s.modMe (fun x => { x with seq := vset x.seq v (x.seq[v] + 1) })).modCore s.fsq v
    (fun x => { x with eq := x.eq ++ [s.bundle v w], headSince := if x.eq.isEmpty && x.loop.isNone then s.now else x.headSince })

theorem State.enqueue_of_no_record {s : State} (hr : s.me.records = []) (v : Vc) (w : BitVec 192) :
    s.enqueue v w = (s.claim s.fsq v s.fcx).push v w := by
  have hme := s.me_claim s.fsq v s.fcx
  obtain ⟨hfsq, hfcx, -⟩ := s.claim_frame s.fsq v s.fcx
  simp only [State.enqueue, hme, hr, List.any_nil, Bool.false_eq_true, if_false, State.push, State.bundle, hfsq, hfcx]
  rfl

theorem State.sends_push (s : State) (v : Vc) (w : BitVec 192) : Sends s (s.push v w) w [v] := by
  have hme : (s.push v w).me = { s.me with seq := vset s.me.seq v (s.me.seq[v] + 1) } := (State.me_modCore ..).trans (State.me_modMe ..)
  refine ⟨rfl, rfl, rfl, by rw [hme], fun c hc => ?_, fun c hc => ?_⟩
  · obtain rfl := List.mem_singleton.1 hc
    rw [hme]
    refine ⟨?_, vset_same _ _ _⟩
    simp only [State.push, State.core_modCore, State.core_modMe]
  · have hne : c ≠ v := by simpa using hc
    rw [hme]
    refine ⟨?_, vset_other _ _ _ _ hne⟩
    rw [State.push, State.core_modCore_ne _ _ _ _ _ hne, State.core_modMe]

theorem State.sends_enqueue {s : State} (hr : s.me.records = []) (v : Vc) (w : BitVec 192) : Sends s (s.enqueue v w) w [v] := by
  rw [State.enqueue_of_no_record hr]
  have h := (s.claim s.fsq v s.fcx).sends_push v w
  obtain ⟨hfsq, hfcx, hmem⟩ := s.claim_frame s.fsq v s.fcx
  have hme := s.me_claim s.fsq v s.fcx
  have hb : (s.claim s.fsq v s.fcx).bundle v w = s.bundle v w := by rw [State.bundle, hme, hfcx, State.bundle]
  refine ⟨h.fsq.trans hfsq, h.fcx.trans hfcx, h.mem.trans hmem, hme ▸ h.me, fun c hc => ?_, fun c hc => ?_⟩
  · have k := h.queued c hc
    obtain rfl := List.mem_singleton.1 hc
    rwa [hb, hme, hfsq, State.eq_claim] at k
  · have k := h.others c hc
    rwa [hme, hfsq, State.eq_claim] at k

theorem State.sends_foldl {s : State} (hr : s.me.records = []) (w : BitVec 192) {vs : List Vc} (hn : vs.Nodup) :
    Sends s (vs.foldl (fun s v => s.enqueue v w) s) w vs := by
  induction vs generalizing s with
  | nil => exact Sends.nil s w
  | cons v vs ih =>
    obtain ⟨hv, hn⟩ := List.nodup_cons.1 hn
    have h := State.sends_enqueue hr v w
    exact h.cons (ih (by rw [h.me]; exact hr) hn) hv

/-! ## The answers by the checks -/

theorem exec_emit (v : Vc) (a : Reg) (s : State) : exec (.emit v a) s = s.emitTo (.emit v a) [v] a none := rfl
theorem exec_emitP (v : Vc) (a b : Reg) (k : Fin 8) (f : Fin 4) (s : State) :
    exec (.emitP v a b k f) s = s.emitTo (.emitP v a b k f) [v] a (some (k, f, s.rs b)) := rfl
theorem exec_emitBc (a : Reg) (m : BitVec 4) (s : State) :
    exec (.emitBc a m) s = s.emitTo (.emitBc a m) ((List.finRange 4).filter (fun v => m.getLsbD v.val)) a none := rfl

theorem badwOf_eq {i : Instr} {n : Nat} (h : encodeNat i = some n) (hn : n < 2 ^ 32) (slot m : Nat) :
    badwOf i slot m = BitVec.ofNat 64 (n * 2 ^ 32 + slot * 2 ^ 24 + m) := by
  rw [badwOf, encode, h, Option.map_some, Option.getD_some, BitVec.toNat_ofNat, Nat.mod_eq_of_lt hn, word]

/-- The bundle `w` offered to the cores of `vs`, from its check of legality on (07 R152). -/
def State.emitBundle (s : State) (i : Instr) (vs : List Vc) (w : BitVec 192) : Out :=
  match firstIllegal w with
  | some k => s.emitTrap i k (slotBits w k) ILLEGAL_MOVE
  | none => match firstConflict w with
    | some k => s.emitTrap i k (slotBits w k) BUNDLE_CONFLICT
    | none =>
      if vs.any (fun v => s.foreign s.fsq v s.fcx) then s.emitTrap i 0 0 CORE_CLAIMED
      else if !(vs.all (fun v => decide ((s.core s.fsq v).eq.length < 64))) ||
          !s.countsFit { w := w, ctx := s.fcx, seq := 0, gwa := 0 } vs.length then s.block i
      else (vs.foldl (fun s v => s.enqueue v w) s).emitDone

section
variable {s t : State} {a : Reg} {w : BitVec 192}

theorem State.emitTo_of_misaligned (h : (s.rs a).toNat % 8 ≠ 0) (i : Instr) (vs : List Vc) (p : Option (Fin 8 × Fin 4 × Word)) :
    s.emitTo i vs a p = s.trap MISALIGNED := by
  simp [State.emitTo, h]

variable (h8 : (s.rs a).toNat % 8 = 0) (hr : s.readTemplate (s.rs a).toNat = .ok (w, t)) (i : Instr) (vs : List Vc)
include h8 hr

theorem State.emitTo_of_read : s.emitTo i vs a none = t.emitBundle i vs w := by
  rw [State.emitTo, if_neg (by simp [h8]), hr]
  rfl

theorem State.emitTo_of_patched {k : Fin 8} {f : Fin 4} {y : Word} {x : BitVec 192} (hp : patch w k.val f.val y = some x) :
    s.emitTo i vs a (some (k, f, y)) = t.emitBundle i vs x := by
  rw [State.emitTo, if_neg (by simp [h8]), hr]
  simp only [hp]
  rfl

theorem State.emitTo_of_unpatched {k : Fin 8} {f : Fin 4} {y : Word} (hp : patch w k.val f.val y = none) :
    s.emitTo i vs a (some (k, f, y)) = t.emitTrap i k (slotBits w k) PATCH_RANGE := by
  rw [State.emitTo, if_neg (by simp [h8]), hr]
  simp only [hp]

end

section
variable {s : State} {w : BitVec 192} (i : Instr) (vs : List Vc)

theorem State.emitBundle_of_illegal {k : Nat} (hl : firstIllegal w = some k) :
    s.emitBundle i vs w = s.emitTrap i k (slotBits w k) ILLEGAL_MOVE := by
  simp only [State.emitBundle, hl]

variable (hl : firstIllegal w = none)
include hl

theorem State.emitBundle_of_conflict {k : Nat} (hc : firstConflict w = some k) :
    s.emitBundle i vs w = s.emitTrap i k (slotBits w k) BUNDLE_CONFLICT := by
  simp only [State.emitBundle, hl, hc]

variable (hc : firstConflict w = none)
include hc

theorem State.emitBundle_of_foreign {v : Vc} (hv : v ∈ vs) (hf : s.foreign s.fsq v s.fcx = true) :
    s.emitBundle i vs w = s.emitTrap i 0 0 CORE_CLAIMED := by
  simp only [State.emitBundle, hl, hc]
  rw [if_pos (List.any_eq_true.2 ⟨v, hv, hf⟩)]

variable (hf : ∀ v ∈ vs, s.foreign s.fsq v s.fcx = false)
include hf

theorem State.emitBundle_of_full {v : Vc} (hv : v ∈ vs) (h64 : 64 ≤ (s.core s.fsq v).eq.length) : s.emitBundle i vs w = s.block i := by
  have full : vs.all (fun v => decide ((s.core s.fsq v).eq.length < 64)) = false :=
    List.all_eq_false.2 ⟨v, hv, by simpa using h64⟩
  simp only [State.emitBundle, hl, hc]
  rw [if_neg (by simpa using hf), full]
  rfl

theorem State.emitBundle_of_room (h64 : ∀ v ∈ vs, (s.core s.fsq v).eq.length < 64)
    (hk : s.countsFit { w := w, ctx := s.fcx, seq := 0, gwa := 0 } vs.length = true) :
    s.emitBundle i vs w = (vs.foldl (fun s v => s.enqueue v w) s).emitDone := by
  simp only [State.emitBundle, hl, hc]
  rw [if_neg (by simpa using hf), if_neg (by simpa using ⟨h64, hk⟩)]

/-- A bundle that nothing refuses enters every queue, and the instruction retires. -/
theorem State.emitBundle_sends (hr : s.me.records = []) (hn : vs.Nodup) (h64 : ∀ v ∈ vs, (s.core s.fsq v).eq.length < 64)
    (hk : s.countsFit { w := w, ctx := s.fcx, seq := 0, gwa := 0 } vs.length = true) :
    ∃ u : State, s.emitBundle i vs w = .next u ∧ u.me.q0 = s.me.q1 ∧ u.me.s = s.me.s ∧ u.mem = s.mem ∧
      ∀ v ∈ vs, (u.core s.fsq v).eq = (s.core s.fsq v).eq ++ [s.bundle v w] ∧ u.me.seq[v] = s.me.seq[v] + 1 := by
  have sends := State.sends_foldl hr w hn
  obtain ⟨u, hu, hmem, ⟨n, hme⟩, hcore⟩ := (vs.foldl (fun s v => s.enqueue v w) s).emitDone_next
  have hs := sends.me
  refine ⟨u, (State.emitBundle_of_room i vs hl hc hf h64 hk).trans hu, by rw [hme, hs]; rfl, by rw [hme, hs]; rfl,
    hmem.trans sends.mem, fun v hv => ?_⟩
  rw [sends.fsq] at hcore
  rw [hcore, hme]
  exact sends.queued v hv

end

end Sys2Proof.Machine
end

section
open Sys2Proof Sys2Proof.Machine

/-- Settles O20: a bundle that nothing refuses enters its queues, and of the others each by the first check that fails. -/
theorem emission : Obligations.Emission := by
  unfold Obligations.Emission
  refine ⟨fun s t v a b k f m w x => ?sent, fun s t v a b k f w => ?refused⟩
  case sent =>
    intro q ready sent h8 hr hrec
    have still := State.stance_of_readTemplate hr
    have hfsq := fsq_of_stance still
    have hfcx := fcx_of_stance still
    have emits (i : Instr) (y : BitVec 192) (vs : List Vc) (hn : vs.Nodup) (h : ready y vs) : sent (t.emitBundle i vs y) y vs := by
      obtain ⟨hl, hc, hvs, hk⟩ := h
      simp only [q, ← hfsq, ← hfcx] at hvs hk
      obtain ⟨u, hu, hq0, hs, hmem, hq⟩ := State.emitBundle_sends i vs hl hc (fun c hm => (hvs c hm).1)
        ((me_of_stance still Ctx.records).trans hrec) hn (fun c hm => (hvs c hm).2) hk
      refine ⟨u, hu, hq0.trans (me_of_stance still Ctx.q1), hs.trans (me_of_stance still Ctx.s), hmem, fun c hm => ?_⟩
      have hseq : t.me.seq[c] = s.me.seq[c] := me_of_stance still (fun x => x.seq[c])
      have hpc : t.me.q0.pc = s.me.q0.pc := me_of_stance still (fun x => x.q0.pc)
      have hb := hq c hm
      rwa [State.bundle, gwa_eq, hseq, hpc, hfsq, hfcx] at hb
    refine ⟨fun h => ?_, fun hp h => ?_, fun h => ?_⟩
    · rw [exec_emit, State.emitTo_of_read h8 hr]
      exact emits _ w [v] (List.nodup_singleton v) h
    · rw [exec_emitP, State.emitTo_of_patched h8 hr _ _ hp]
      exact emits _ x [v] (List.nodup_singleton v) h
    · rw [exec_emitBc, State.emitTo_of_read h8 hr]
      exact emits _ w _ ((List.nodup_finRange 4).filter _) h
  case refused =>
    intro bad e ep
    have word (slot move : Nat) : badwOf (.emit v a) slot move = bad e slot move := badwOf_eq rfl (by omega) slot move
    have wordP (slot move : Nat) : badwOf (.emitP v a b k f) slot move = bad ep slot move := badwOf_eq rfl (by omega) slot move
    refine ⟨fun h8 => ⟨(exec_emit v a s).trans (State.emitTo_of_misaligned h8 _ _ _),
        (exec_emitP v a b k f s).trans (State.emitTo_of_misaligned h8 _ _ _)⟩,
      fun h8 hr => ?_⟩
    have still := State.stance_of_readTemplate hr
    rw [exec_emit, State.emitTo_of_read h8 hr, ← fsq_of_stance still, ← fcx_of_stance still]
    refine ⟨fun hp => ?_, fun j hl => ?_, fun j hl hc => ?_, fun hl hc hf => ?_, fun hl hc hf hlen => ?_⟩
    · rw [exec_emitP, State.emitTo_of_unpatched h8 hr _ _ hp, State.emitTrap, wordP]
      rfl
    · rw [State.emitBundle_of_illegal _ _ hl, State.emitTrap, word]
      rfl
    · rw [State.emitBundle_of_conflict _ _ hl hc, State.emitTrap, word]
      rfl
    · rw [State.emitBundle_of_foreign _ _ hl hc List.mem_cons_self hf, State.emitTrap, word]
      rfl
    · exact State.emitBundle_of_full _ _ hl hc (by simpa using hf) List.mem_cons_self hlen

end

section
/-! SUPPORT. The number that a core's next bundle takes and the bundles that it has issued: what the array's ports, the waits, operations and faults
of a bundle leave of them (07 R148, R160; 08 R170; 09 R193 to R201). -/

namespace Sys2Proof.Machine

/-- The number of a core's next bundle, and the bundles that it has issued and not retired. -/
def VCore.tally (x : VCore) : Nat × List Issued := (x.nextId, x.issued)

/-- The tally of core `v` of square `q`. -/
def State.tally (s : State) (q : Sq) (v : Vc) : Nat × List Issued := (s.core q v).tally

/-! ## On a core -/

theorem VCore.tally_pop (x : VCore) (e : Entry) (i : Nat) : (x.pop e i).tally = x.tally := by
  grind [VCore.pop, VCore.tally]

theorem VCore.tally_ctlOp (x : VCore) (n : Nat) : (x.ctlOp n).tally = x.tally := by
  unfold VCore.ctlOp
  split <;> rfl

theorem VCore.tally_startLoop (x : VCore) (e : Entry) : (x.startLoop e).tally = x.tally := by
  simp only [VCore.tally, VCore.startLoop]

theorem VCore.tally_failHnds (x : VCore) (p : Fin 64 → Hnd → Bool) (k : Nat) : (x.failHnds p k).tally = x.tally := by
  simp only [VCore.tally, VCore.failHnds]

theorem VCore.tally_afterFault (x : VCore) (c : Cx) (id now : Nat) : (x.afterFault c id now).tally = x.tally := by
  grind [VCore.afterFault, VCore.tally]

theorem VCore.tally_of_memOp {x y : VCore} {n : Nat} (h : x.memOp n = .ok y) : y.tally = x.tally := by
  simp only [VCore.memOp] at h
  split at h
  all_goals
    split at h
    · cases h
    · cases h; rfl

/-! ## Updates -/

section
variable {s t : State} {q : Sq} {v : Vc}

theorem tally_of_core (h : t.core q v = s.core q v) : t.tally q v = s.tally q v := congrArg VCore.tally h

theorem State.tally_modCore {f : VCore → VCore} (h : ∀ x, (f x).tally = x.tally := by intro; simp only [VCore.tally]) :
    (s.modCore q v f).tally q v = s.tally q v :=
  (congrArg VCore.tally (s.core_modCore q v f)).trans (h _)

end

section
variable (s : State) (q : Sq) (v : Vc)

theorem State.tally_modArr (f : Arr → Arr) : (s.modArr q f).tally q v = s.tally q v := tally_of_core (State.core_modArr ..)
theorem State.tally_modACore (w : Vc) (f : ACore → ACore) : (s.modACore q w f).tally q v = s.tally q v := State.tally_modArr ..
theorem State.tally_modCtx (c : Cx) (f : Ctx → Ctx) : (s.modCtx q c f).tally q v = s.tally q v := tally_of_core (State.core_modCtx ..)
theorem State.tally_modHnd (h : Fin 64) (f : Hnd → Hnd) : (s.modHnd q v h f).tally q v = s.tally q v := State.tally_modCore

/-! ## The array's ports -/

theorem State.tally_failCmdHnds (ms : List ACmd) (k : Nat) : (s.failCmdHnds q v ms k).tally q v = s.tally q v :=
  State.tally_modCore fun x => x.tally_failHnds _ k

theorem State.tally_engineRecord (c : Cx) (w : Vc) (k : Nat) : (s.engineRecord q c w k).tally q v = s.tally q v := by
  grind [State.engineRecord, State.tally_modCtx]

theorem State.tally_endTerm : (s.endTerm q).tally q v = s.tally q v := by
  grind [State.endTerm, State.tally_modACore, State.tally_modArr]

theorem State.tally_yieldIdle : (s.yieldIdle q).tally q v = s.tally q v := by
  grind [State.yieldIdle, State.tally_endTerm]

theorem State.tally_freeBufs (c : Cx) (b : BitVec 2) : (s.freeBufs q c b).tally q v = s.tally q v := by
  grind [State.freeBufs, State.tally_yieldIdle, State.tally_modArr]

theorem State.tally_settleRelease (w : Vc) : (s.settleRelease q w).tally q v = s.tally q v := by
  grind [State.settleRelease, State.tally_freeBufs, State.tally_modACore, State.tally_endTerm]

theorem State.tally_arrayFault (k n : Nat) : (s.arrayFault q v k n).tally q v = s.tally q v := by
  grind [State.arrayFault, State.tally_settleRelease, State.tally_engineRecord, State.tally_endTerm, State.tally_modACore, State.tally_failCmdHnds]

theorem State.tally_putSpec (x : Word) : (s.putSpec q v x).tally q v = s.tally q v := State.tally_modACore ..

theorem State.tally_acceptCmd (m : ACmd) : (s.acceptCmd q v m).tally q v = s.tally q v := by
  grind [State.acceptCmd, State.tally_arrayFault, State.tally_modACore]

theorem State.tally_offerCmd (c : Cx) (id : Nat) (x : Word) : (s.offerCmd q v c id x).tally q v = s.tally q v := by
  grind [State.offerCmd, State.tally_acceptCmd, State.tally_modACore, State.tally_modCtx]

theorem State.tally_leaseReq (x : Word) : (s.leaseReq q v x).tally q v = s.tally q v := by
  grind [State.leaseReq, State.leaseFault, State.tally_arrayFault, State.tally_yieldIdle, State.tally_modACore]

theorem State.tally_leaseRel (x : Word) : (s.leaseRel q v x).tally q v = s.tally q v := by
  grind [State.leaseRel, State.tally_freeBufs, State.tally_settleRelease, State.tally_modACore]

theorem State.tally_leaseClr (x : Word) : (s.leaseClr q v x).tally q v = s.tally q v := State.tally_modACore ..

theorem State.tally_leaseWord (x : Word) : (s.leaseWord q v x).tally q v = s.tally q v := by
  grind [State.leaseWord, State.leaseFault, State.tally_arrayFault, State.tally_leaseReq, State.tally_leaseRel, State.tally_leaseClr]

theorem State.tally_refillArq : (s.refillArq q v).tally q v = s.tally q v := (State.tally_modACore ..).trans State.tally_modCore

theorem State.tally_refillCrq : (s.refillCrq q v).tally q v = s.tally q v := by
  unfold State.refillCrq
  split
  · split
    · exact (tally_of_core State.core_modSq).trans State.tally_modCore
    · rfl
  · rfl

/-! ## The phases of a bundle -/

theorem State.tally_bundleFault (e : Entry) (id slot k : Nat) : (s.bundleFault q v e id slot k).tally q v = s.tally q v := by
  have drop := State.tally_modCore (s := s) (q := q) (v := v) fun x => x.tally_afterFault e.ctx id s.now
  unfold State.bundleFault
  simp only
  split
  · exact drop
  split
  · exact drop
  · exact (State.tally_modCtx ..).trans drop

theorem State.tally_takeSide (z : Option VSide) (load : Bool) : (s.takeSide q v z load).tally q v = s.tally q v := by
  cases z with
  | none => rfl
  | some z =>
    have moved : (match z.gen with
        | some (g, p) => s.modCore q v (fun x => { x with gens := vset x.gens g { x.gens[g] with pos := p + 1 } })
        | none => s).tally q v = s.tally q v := by
      split
      · exact State.tally_modCore
      · rfl
    unfold State.takeSide
    simp only
    split
    · exact (State.tally_modHnd ..).trans moved
    · exact moved

theorem State.tally_startAccess (e : Entry) (id : Nat) (z : Option VSide × Option VSide) (y : VVal) (gm : Word) (counted : Bool) :
    (s.startAccess q v e id z y gm counted).tally q v = s.tally q v := by
  unfold State.startAccess
  split
  · rfl
  · exact (State.tally_modCore).trans ((State.tally_takeSide ..).trans (State.tally_takeSide ..))

theorem State.tally_writeDst (c : Cx) (id k : Nat) (m : Move) (y : VVal) (gm : Word) :
    (s.writeDst q v c id k m y gm).tally q v = s.tally q v := by
  unfold State.writeDst
  simp only
  split
  · rfl
  split
  · exact State.tally_modCore
  split
  · refine State.tally_modCore fun x => ?_
    split
    · rfl
    · split <;> rfl
  split
  · rfl
  split
  · refine State.tally_modCore fun x => ?_
    split
    · rfl
    · split <;> rfl
  split
  · split <;> exact State.tally_modCore
  split
  · exact State.tally_modCore
  split
  · exact State.tally_offerCmd ..
  split
  · exact State.tally_putSpec ..
  split
  · exact State.tally_leaseWord ..
  · exact State.tally_modCore

theorem State.tally_memIn (e : Entry) (id n : Nat) : (s.memIn q v e id n).tally q v = s.tally q v := by
  unfold State.memIn
  split
  · next h => exact (congrArg VCore.tally (State.core_setCore ..)).trans (VCore.tally_of_memOp h)
  · exact State.tally_bundleFault ..

theorem State.tally_startV (k : Fin 4) (gm : Word) (f : VFn) : (s.startV q v k gm f).tally q v = s.tally q v := by
  unfold State.startV
  exact State.tally_modCore

theorem State.tally_startK (k : Bool) (f : KFn) : (s.startK q v k f).tally q v = s.tally q v := by
  unfold State.startK
  exact State.tally_modCore

theorem State.tally_trigger (e : Entry) (k : Nat) (m : Move) (y : VVal) (gm : Word) : (s.trigger q v e k m y gm).tally q v = s.tally q v := by
  have operand (b : Bool) (f : VCore → VCore) (hf : ∀ x, (f x).tally = x.tally) : (if b then s else s.modCore q v f).tally q v = s.tally q v := by
    split
    · rfl
    · exact State.tally_modCore hf
  unfold State.trigger
  simp only
  split
  · exact (State.tally_startV ..).trans (operand _ _ fun _ => rfl)
  split
  · exact operand _ _ fun _ => rfl
  split
  · exact (State.tally_startK ..).trans (operand _ _ fun _ => rfl)
  split
  · exact (State.tally_memIn ..).trans (operand _ _ fun _ => rfl)
  split
  · exact (State.tally_modCore fun x => x.tally_startLoop e).trans (operand _ _ fun _ => rfl)
  · exact (State.tally_modCore fun x => x.tally_ctlOp _).trans (operand _ _ fun _ => rfl)

end

end Sys2Proof.Machine
end

section
/-! SUPPORT. The issue of the bundle at the head of a queue (07 R148, R160; 08 R170 to R172, R184). -/

namespace Sys2Proof.Machine

theorem exec_bundleIssue (q : Sq) (v : Vc) (s : State) : exec (.bundleIssue q v) s = execBundleIssue q v s := rfl
theorem exec_vcoreStall (q : Sq) (v : Vc) (s : State) : exec (.vcoreStall q v) s = execVcoreStall q v s := rfl

/-! ## The arguments of a loop -/

theorem State.isSome_loopArgs (s : State) (q : Sq) (v : Vc) (e : Entry) :
    (s.loopArgs q v e).isSome = (e.isLoop && bit ((s.core q v).guard (e.slot 7)) 0) := by
  unfold State.loopArgs
  simp only
  split
  · next h => rw [h]; rfl
  · next h => rw [Bool.not_eq_true _ |>.mp h]; rfl

/-- Whether a bundle starts a loop depends on the masks of its core alone. -/
theorem State.isSome_loopArgs_congr {s t : State} {q : Sq} {v : Vc} (h : (t.core q v).m = (s.core q v).m) (e : Entry) :
    (t.loopArgs q v e).isSome = (s.loopArgs q v e).isSome := by
  rw [State.isSome_loopArgs, State.isSome_loopArgs, VCore.guard, VCore.guard, h]

/-! ## The phases -/

/-- The accesses of its context, performed before a bundle that accesses memory (07 R158), leave the cores. -/
theorem State.core_performed (s : State) (q : Sq) (v : Vc) (b : Bool) (c : Cx) : (if b then s.performAll q c else s).core q v = s.core q v := by
  split
  · exact core_of_stance (s.stance_performAll q c) q v
  · rfl

/-- A bundle that issues takes the core's next number and stands among its issued bundles. -/
theorem State.tally_phases (s : State) (q : Sq) (v : Vc) (e : Entry) (z : Option VSide × Option VSide) :
    (s.phases q v e z false).tally q v =
      ((s.core q v).nextId + 1, (s.core q v).issued ++ [{ id := (s.core q v).nextId, ent := e, loop := (s.loopArgs q v e).isSome }]) := by
  unfold State.phases
  simp only
  refine (foldl_keeps (g := fun s : State => s.tally q v) (fun s p => ?trigger) _ _).trans ?_
  case trigger =>
    split
    · exact State.tally_trigger ..
    · rfl
  refine (foldl_keeps (g := fun s : State => s.tally q v) (fun s p => State.tally_writeDst ..) _ _).trans ?_
  refine (State.tally_startAccess ..).trans ((State.tally_refillCrq ..).trans ((State.tally_refillArq ..).trans ?_))
  generalize ht : (if (e.loads || e.stores || e.cmds || e.fetches) = true then s.performAll q e.ctx else s) = t
  have hcore : t.core q v = s.core q v := by rw [← ht]; exact s.core_performed q v _ e.ctx
  simp only [State.tally, State.core_modCore, VCore.tally, Bool.false_eq_true, if_false]
  rw [State.isSome_loopArgs_congr (congrArg VCore.m hcore)]
  refine congrArg (fun l => (_, l ++ _)) ((foldl_keeps (g := VCore.issued) (fun x p => ?pop) _ _).trans (congrArg VCore.issued hcore))
  case pop =>
    split
    · exact congrArg Prod.snd (x.tally_pop e _)
    · rfl

/-! ## Before the issue -/

section
variable {s : State} {q : Sq} {v : Vc} {e : Entry}

theorem State.modCore_dropHead {rest : List Entry} (he : (s.core q v).eq = e :: rest) :
    s.modCore q v VCore.dropHead = s.modCore q v (fun y => { y with eq := rest }) := by
  simp only [State.modCore, VCore.dropHead, he, List.tail_cons]

variable (hl : (s.core q v).loop = none) {rest : List Entry} (he : (s.core q v).eq = e :: rest)
include hl he

/-- VCORE_STALL of a head entry, by how long it has been next (08 R172). -/
theorem exec_vcoreStall_of_head : exec (.vcoreStall q v) s = .next (if s.now < (s.core q v).headSince + 1000000 then s
    else (s.modCore q v (fun y => { y with eq := rest })).bundleFault q v e (s.core q v).nextId 0 VCORE_STALL) := by
  have hn : (s.core q v).nextBundle = some (e, true) := by simp [VCore.nextBundle, hl, he]
  rw [exec_vcoreStall, execVcoreStall, ← State.modCore_dropHead he]
  simp only [hn, if_true]
  split <;> rfl

variable (hf : (s.core q v).fresh = false)
include hf

/-- A head entry on a core whose claim is not new waits, or issues or faults as its checks say (08 R170, R171). -/
theorem exec_bundleIssue_of_head : exec (.bundleIssue q v) s = .next (if s.bundleWaits q v e || s.portWaits q v e then s
    else match s.issueCheck q v e with
      | .error (k, c) => (s.modCore q v (fun y => { y with eq := rest })).bundleFault q v e (s.core q v).nextId k c
      | .ok z => (s.modCore q v (fun y => { y with eq := rest })).phases q v e z false) := by
  have hseen : s.seenCore q v e = s := by simp [State.seenCore, hf]
  have hclaim : (s.core q v).claimWaits e = false := by simp [VCore.claimWaits, hf]
  simp only [exec_bundleIssue, execBundleIssue, he, hl, State.tryIssue, hseen, hclaim, Bool.false_or, State.modCore_dropHead he]
  rfl

theorem exec_bundleIssue_of_waits (hw : s.bundleWaits q v e = true ∨ s.portWaits q v e = true) : exec (.bundleIssue q v) s = .next s := by
  rw [exec_bundleIssue_of_head hl he hf, if_pos (by simpa using hw)]

variable (hw : s.bundleWaits q v e = false) (hp : s.portWaits q v e = false)
include hw hp

theorem exec_bundleIssue_of_fault {k c : Nat} (hc : s.issueCheck q v e = .error (k, c)) : exec (.bundleIssue q v) s =
    .next ((s.modCore q v (fun y => { y with eq := rest })).bundleFault q v e (s.core q v).nextId k c) := by
  rw [exec_bundleIssue_of_head hl he hf, if_neg (by simp [hw, hp]), hc]

theorem exec_bundleIssue_of_ok {z : Option VSide × Option VSide} (hc : s.issueCheck q v e = .ok z) :
    exec (.bundleIssue q v) s = .next ((s.modCore q v (fun y => { y with eq := rest })).phases q v e z false) := by
  rw [exec_bundleIssue_of_head hl he hf, if_neg (by simp [hw, hp]), hc]

end

end Sys2Proof.Machine
end

section
/-! SUPPORT. A bundle whose one move carries a vector register of a unit to another of its own file (02 R43; 08 R170, R185; 09 R214; 10 R242). -/

namespace Sys2Proof.Machine

/-! ## The result queues -/

theorem State.core_refillArq (s : State) (q : Sq) (v : Vc) : (s.refillArq q v).core q v =
    { s.core q v with arq := (s.core q v).arq ++ (s.acore q v).hreg.take (32 - (s.core q v).arq.length) } := by
  rw [State.refillArq, State.modACore, State.core_modArr, State.core_modCore]

theorem State.acore_modCore (s : State) (q : Sq) (v w : Vc) (f : VCore → VCore) : (s.modCore q v f).acore q w = s.acore q w :=
  congrArg (fun x : Arr => x.cores[w]) (s.arr_modCore q v f)

theorem State.crqHeld_modCore (s : State) (q : Sq) (v : Vc) (f : VCore → VCore) : ((s.modCore q v f).sq q).crqHeld = (s.sq q).crqHeld := by
  simp [State.modCore, State.setCore]

theorem State.crqHeld_refillArq (s : State) (q : Sq) (v : Vc) : ((s.refillArq q v).sq q).crqHeld = (s.sq q).crqHeld := by
  simp [State.refillArq, State.modACore, State.modArr, State.crqHeld_modCore]

/-- Into crq only the word that waits for room may enter. -/
theorem State.core_refillCrq (s : State) (q : Sq) (v : Vc) : ∃ l, (s.refillCrq q v).core q v = { s.core q v with crq := (s.core q v).crq ++ l } ∧
    l.length ≤ 1 ∧ ((s.sq q).crqHeld = none → l = []) := by
  unfold State.refillCrq
  split
  · next w x h =>
    split
    · refine ⟨[x], ?_, Nat.le_refl 1, fun hn => ?_⟩
      · rw [State.core_modSq, State.core_modCore]
      · rw [h] at hn
        cases hn
    · exact ⟨[], by rw [List.append_nil], Nat.zero_le 1, fun _ => rfl⟩
  · exact ⟨[], by rw [List.append_nil], Nat.zero_le 1, fun _ => rfl⟩

theorem State.mem_refillCrq (s : State) (q : Sq) (v : Vc) : (s.refillCrq q v).mem = s.mem := by
  unfold State.refillCrq
  split
  · split <;> rfl
  · rfl

/-- A register of a file written. -/
theorem vset_vset_get {α : Type} {n m : Nat} (v : Vector (Vector α m) n) (k f : Fin n) (b r : Fin m) (x : α) :
    (vset v k (vset v[k] b x))[f][r] = if f = k ∧ r = b then x else v[f][r] := by
  rw [vset_get]
  by_cases hf : f = k
  · subst hf
    rw [if_pos rfl, vset_get]
    simp only [true_and]
  · rw [if_neg hf, if_neg (fun h => hf h.1)]

theorem mergeV_allOnes (old new : VReg) : mergeV old new (BitVec.allOnes 64) = new := by
  refine Vector.ext fun i hi => ?_
  simp only [mergeV, Vector.getElem_ofFn, BitVec.getLsbD_allOnes, hi, decide_true, if_true]
  rfl

/-! ## The one move of the bundle -/

/-- A move of slot `k` from register `a` of its file to register `b`. -/
def Move.ToOwn (m : Move) (a b : Fin 16) : Prop := m.kind = 0 ∧ m.src = a.val ∧ m.dst = b.val

section
variable {m : Move} {a b : Fin 16} (h : m.ToOwn a b)
include h

theorem Move.ToOwn.queue : m.queue = none := by
  obtain ⟨-, hs, -⟩ := h
  have := a.isLt
  simp only [Move.queue, isQueue, hs]
  simp
  omega

theorem Move.ToOwn.trig : m.trig = false := by
  obtain ⟨-, -, hd⟩ := h
  have := b.isLt
  simp [Move.trig, hd]
  omega

theorem Move.ToOwn.guard (x : VCore) : x.guard m = BitVec.allOnes 64 := by
  simp [VCore.guard, h.1]

theorem Move.ToOwn.readSrc (s : State) (q : Sq) (v : Vc) (e : Entry) (k : Fin 4) :
    s.readSrc q v e k.val m = .vec ((s.core q v).vf[k][a]) := by
  have hk : Fin.ofNat 4 k.val = k := Fin.ext (Nat.mod_eq_of_lt k.isLt)
  have ha : Fin.ofNat 16 a.val = a := Fin.ext (Nat.mod_eq_of_lt a.isLt)
  simp only [State.readSrc, h.queue, h.1, h.2.1, hk, ha]
  rw [if_neg (by decide), if_pos (by omega), if_pos k.isLt]

theorem Move.ToOwn.writeDst (s : State) (q : Sq) (v : Vc) (c : Cx) (id : Nat) (k : Fin 4) (y : VReg) :
    s.writeDst q v c id k.val m (.vec y) (BitVec.allOnes 64) =
      s.modCore q v (fun x => { x with vf := vset x.vf k (vset x.vf[k] b y) }) := by
  have hk : Fin.ofNat 4 k.val = k := Fin.ext (Nat.mod_eq_of_lt k.isLt)
  have hb : Fin.ofNat 16 b.val = b := Fin.ext (Nat.mod_eq_of_lt b.isLt)
  have hv : m.vdst k.val = some (k, b) := by
    rw [Move.vdst, h.2.2, if_pos (by simp), hk, hb]
  have hd : ¬ (m.trig || (k.val = 6 && (isStream m.dst || (m.kind ≠ 1 && isStream m.src))) || m.dst = 0x1FF) = true := by
    have := b.isLt
    have := k.isLt
    simp [h.trig, h.2.2]
    omega
  rw [State.writeDst]
  simp only
  rw [if_neg hd, hv]
  simp only [mergeV_allOnes, VVal.toVec]

end

/-- What the issue of a bundle counts in its core. -/
def VCore.counted (x : VCore) (e : Entry) (loop : Bool) (now : Nat) : VCore :=
  { x with nextId := x.nextId + 1, issued := x.issued ++ [{ id := x.nextId, ent := e, loop := loop }], headSince := now, progress := now }

section
variable {e : Entry} {k : Fin 4} {m : Move} (h : e.moves = [(k.val, m)])
include h

theorem Entry.slot_of_single : e.slot k.val = m := by
  have hm : (k.val, m) ∈ e.moves := by simp [h]
  simp only [Entry.moves, List.mem_filter, List.mem_map] at hm
  obtain ⟨⟨j, -, hj⟩, -⟩ := hm
  obtain ⟨rfl, hj⟩ := Prod.mk.inj hj
  exact hj

theorem Entry.nop_of_single {j : Nat} (hj : j < 8) (hk : j ≠ k.val) : (e.slot j).nop = true := by
  by_contra hn
  have hn := Bool.eq_false_iff.2 hn
  have hm : (j, e.slot j) ∈ e.moves := by simp [Entry.moves, hj, hn]
  simp [h, hk] at hm

variable {a b : Fin 16} (ho : m.ToOwn a b)

theorem Entry.idle_of_single : e.loads = false ∧ e.stores = false ∧ e.fetches = false ∧ e.isLoop = false := by
  have h6 := Entry.nop_of_single h (j := 6) (by decide) (by omega)
  have h7 := Entry.nop_of_single h (j := 7) (by decide) (by omega)
  simp [Entry.loads, Entry.stores, Entry.fetches, Entry.isLoop, h6, h7]

include ho in
theorem Entry.cmds_of_single : e.cmds = false := by
  simp only [Entry.cmds, List.any_eq_false, List.mem_range]
  intro j hj
  by_cases hk : j = k.val
  · subst hk
    have := b.isLt
    simp [Entry.slot_of_single h, ho.2.2]
    omega
  · simp [Entry.nop_of_single h hj hk]

theorem State.portWaits_of_single (s : State) (q : Sq) (v : Vc) : s.portWaits q v e = false := by
  simp [State.portWaits, Entry.nop_of_single h (j := 6) (by decide) (by omega)]

include ho in
theorem State.issueCheck_of_single (s : State) (q : Sq) (v : Vc) : s.issueCheck q v e = .ok (none, none) := by
  have h6 := Entry.nop_of_single h (j := 6) (by decide) (by omega)
  have hs : s.sides q v (e.slot 6) = .ok (none, none) := by simp [State.sides, h6, need, bind, Except.bind, pure, Except.pure]
  have hl : s.loopArgs q v e = none := by
    rw [← Option.not_isSome_iff_eq_none, State.isSome_loopArgs]
    simp [(Entry.idle_of_single h).2.2.2]
  simp [State.issueCheck, h, ho.queue, hs, hl]

include ho in
theorem State.phases_eq_of_single (s : State) (q : Sq) (v : Vc) : s.phases q v e (none, none) false =
    (((s.modCore q v (fun x => x.counted e (s.loopArgs q v e).isSome s.now)).refillArq q v).refillCrq q v).modCore q v
      (fun x => { x with vf := vset x.vf k (vset x.vf[k] b ((s.core q v).vf[k][a])) }) := by
  obtain ⟨hl, hs, hf, -⟩ := Entry.idle_of_single h
  simp only [State.phases, hl, hs, hf, Entry.cmds_of_single h ho, h, Bool.or_self, Bool.false_eq_true, if_false, List.map_cons, List.map_nil,
    List.foldl_cons, List.foldl_nil, ho.queue, ho.guard, ho.readSrc, ho.trig, State.startAccess, Option.isNone_none, Bool.and_self, if_true,
    ho.writeDst]
  rfl

include ho in
/-- What the issue of such a bundle leaves of its core, and that it stores nothing. -/
theorem State.core_phases_of_single (s : State) (q : Sq) (v : Vc) : ∃ l : List Word,
    (s.phases q v e (none, none) false).core q v = { (s.core q v).counted e (s.loopArgs q v e).isSome s.now with
      vf := vset (s.core q v).vf k (vset (s.core q v).vf[k] b ((s.core q v).vf[k][a]))
      arq := (s.core q v).arq ++ (s.acore q v).hreg.take (32 - (s.core q v).arq.length)
      crq := (s.core q v).crq ++ l } ∧
    l.length ≤ 1 ∧ ((s.sq q).crqHeld = none → l = []) ∧ (s.phases q v e (none, none) false).mem = s.mem := by
  rw [State.phases_eq_of_single h ho]
  generalize ht : s.modCore q v (fun x => x.counted e (s.loopArgs q v e).isSome s.now) = t
  have hcore : t.core q v = (s.core q v).counted e (s.loopArgs q v e).isSome s.now := by rw [← ht, State.core_modCore]
  have hreg : t.acore q v = s.acore q v := by rw [← ht, State.acore_modCore]
  have hheld : (t.sq q).crqHeld = (s.sq q).crqHeld := by rw [← ht, State.crqHeld_modCore]
  obtain ⟨l, hcrq, hlen, hnil⟩ := (t.refillArq q v).core_refillCrq q v
  rw [State.crqHeld_refillArq, hheld] at hnil
  refine ⟨l, ?_, hlen, hnil, ?_⟩
  · rw [State.core_modCore, hcrq, State.core_refillArq, hcore, hreg]
    rfl
  · rw [State.modCore_mem, State.mem_refillCrq, ← ht]
    rfl

end

end Sys2Proof.Machine
end

section
open Sys2Proof Sys2Proof.Machine

/-- Settles O34: a head entry by its waits and its checks, and the one move of a bundle through the phases of its issue. -/
theorem bundlesIssue : Obligations.BundlesIssue := by
  unfold Obligations.BundlesIssue
  refine ⟨fun s q v e rest z => ?issue, fun s q v e rest k m a b => ?moves⟩
  case issue =>
    intro x hl he hf
    refine ⟨exec_bundleIssue_of_waits hl he hf, fun hw hp => ⟨fun k c => exec_bundleIssue_of_fault hl he hf hw hp, fun hz => ?ok⟩,
      fun ht => ?stalls, fun ht => ?early⟩
    case ok =>
      have hcore := s.core_modCore q v (fun y => { y with eq := rest })
      have hm : ((s.modCore q v (fun y => { y with eq := rest })).core q v).m = (s.core q v).m := by rw [hcore]
      have tally := (s.modCore q v (fun y => { y with eq := rest })).tally_phases q v e z
      rw [State.isSome_loopArgs_congr hm, hcore] at tally
      exact ⟨_, exec_bundleIssue_of_ok hl he hf hw hp hz, congrArg Prod.fst tally, congrArg Prod.snd tally⟩
    case stalls =>
      rw [exec_vcoreStall_of_head hl he, if_neg (Nat.not_lt.2 ht)]
      rfl
    case early => rw [exec_vcoreStall_of_head hl he, if_pos ht]
  case moves =>
    intro x hl he hf hw hm hk hs hd
    have ho : m.ToOwn a b := ⟨hk, hs, hd⟩
    obtain ⟨l, hcore, hlen, hnil, hmem⟩ := State.core_phases_of_single hm ho (s.modCore q v (fun y => { y with eq := rest })) q v
    rw [State.core_modCore, State.acore_modCore] at hcore
    rw [State.crqHeld_modCore] at hnil
    refine ⟨_, exec_bundleIssue_of_ok hl he hf hw (State.portWaits_of_single hm s q v) (State.issueCheck_of_single hm ho s q v),
      fun f r => ?file, ?rest, hmem⟩
    case file =>
      rw [hcore]
      exact vset_vset_get _ k f b r _
    case rest =>
      simp only [hcore]
      exact ⟨rfl, rfl, rfl, rfl, rfl, rfl, rfl, rfl, rfl, rfl, rfl, rfl, rfl, rfl, rfl, rfl, rfl, rfl, rfl, hl, rfl, rfl, rfl, rfl, rfl, rfl,
        l, rfl, hlen, hnil⟩

end

section
/-! SUPPORT. Operations of the vector units: what an operation that works lane by lane starts, its flags and its conditions (08 R174, R175). -/

namespace Sys2Proof.Machine

/-! ## Conditions and flags -/

theorem Cond.bits_or (a b : Cond) : (a.or b).bits = a.bits ||| b.bits := by
  obtain ⟨_ | _, _ | _, _ | _⟩ := a <;> obtain ⟨_ | _, _ | _, _ | _⟩ := b <;> decide

/-- A condition of a union over a list is that of one of its elements. -/
theorem Cond.getLsbD_bits_foldl {α : Type} (g : α → Cond) (l : List α) (c : Cond) (n : Nat) :
    (l.foldl (fun d x => d.or (g x)) c).bits.getLsbD n = true ↔ c.bits.getLsbD n = true ∨ ∃ x ∈ l, (g x).bits.getLsbD n = true := by
  induction l generalizing c with
  | nil => simp
  | cons a l ih => simp [ih, Cond.bits_or, or_assoc]

theorem getLsbD_foldl_flags (f : Fin 64 → Bool) (l : List (Fin 64)) (w : Word) (j : Fin 64) :
    (l.foldl (fun w i => if f i then w ||| BitVec.ofNat 64 (1 <<< i.val) else w) w).getLsbD j.val = (w.getLsbD j.val || (decide (j ∈ l) && f j)) := by
  induction l generalizing w with
  | nil => simp
  | cons i l ih =>
    have one : (BitVec.ofNat 64 (1 <<< i.val)).getLsbD j.val = decide (i = j) := by
      rw [BitVec.getLsbD_ofNat, Nat.one_shiftLeft, Nat.testBit_two_pow]
      simp [Fin.ext_iff]
    have step : (if f i then w ||| BitVec.ofNat 64 (1 <<< i.val) else w).getLsbD j.val = (w.getLsbD j.val || (decide (i = j) && f j)) := by
      split
      · next hi =>
        rw [BitVec.getLsbD_or, one]
        by_cases h : i = j
        · rw [← h, hi, Bool.and_true]
        · simp [h]
      · next hi =>
        by_cases h : i = j
        · simp [← h, hi]
        · simp [h]
    rw [List.foldl_cons, ih, step, Bool.or_assoc, ← Bool.and_or_distrib_right]
    simp [eq_comm]

theorem getLsbD_flagWord (f : Fin 64 → Bool) (j : Fin 64) : (flagWord f).getLsbD j.val = f j :=
  (getLsbD_foldl_flags f (List.finRange 64) 0 j).trans (by simp)

/-! ## What starts -/

theorem laneWise_get (f : Nat → Lane → Lane → Lane → Lane × Bool × Cond) (rm : Nat) (gm : Word) (a b z : VReg) (j : Fin 64) :
    (laneWise f rm gm a b z).r[j] = if gm.getLsbD j.val then (f rm a[j] b[j] z[j]).1 else 0 := by
  simp only [laneWise, Fin.getElem_fin, Vector.getElem_map, Vector.getElem_ofFn]
  split <;> rfl

theorem laneWise_flag (f : Nat → Lane → Lane → Lane → Lane × Bool × Cond) (rm : Nat) (gm : Word) (a b z : VReg) (j : Fin 64) :
    (laneWise f rm gm a b z).f.getLsbD j.val = (gm.getLsbD j.val && (f rm a[j] b[j] z[j]).2.1) := by
  simp only [laneWise, getLsbD_flagWord, Fin.getElem_fin, Vector.getElem_ofFn]
  cases gm.getLsbD j.val <;> rfl

theorem laneWise_cond (f : Nat → Lane → Lane → Lane → Lane × Bool × Cond) (rm : Nat) (gm : Word) (a b z : VReg) (n : Nat) :
    (laneWise f rm gm a b z).cond.bits.getLsbD n = true ↔
      ∃ j : Fin 64, gm.getLsbD j.val = true ∧ (f rm a[j] b[j] z[j]).2.2.bits.getLsbD n = true := by
  have idle : (Cond.bits {}).getLsbD n = false := by simp [Cond.bits]
  simp only [laneWise, Cond.getLsbD_bits_foldl, idle, Bool.false_eq_true, false_or, Vector.mem_toList_iff, Vector.mem_ofFn]
  refine ⟨?_, fun ⟨j, hj, hc⟩ => ⟨_, ⟨j, rfl⟩, ?_⟩⟩
  · rintro ⟨_, ⟨j, rfl⟩, hc⟩
    split at hc
    · next hj => exact ⟨j, hj, hc⟩
    · simp [idle] at hc
  · rw [if_pos hj]
    exact hc

section
variable {s : State} {q : Sq} {v : Vc} {k : Fin 4} {g : Option (Fin 8)} {i : Instr}

theorem State.startsLanes_of_laneWise {f : Nat → Lane → Lane → Lane → Lane × Bool × Cond}
    (h : exec i s = .next (s.startV q v k (s.lanesOf q v g) (laneWise f))) : s.startsLanes q v k g i (f (s.core q v).vrm.toNat) :=
  ⟨_, _, h, rfl, Nat.mod_eq_of_lt (by omega), rfl, laneWise_get _ _ _ _ _ _, laneWise_flag _ _ _ _ _ _, laneWise_cond _ _ _ _ _ _⟩

theorem State.startsLanes_of_laneCond {f : Nat → Lane → Lane → Lane → Lane × Cond} {f' : Lane → Lane → Lane → Lane × Cond}
    (h : exec i s = .next (s.startV q v k (s.lanesOf q v g) (laneCond f))) (hf : ∀ a b c, f (s.core q v).vrm.toNat a b c = f' a b c) :
    s.startsLanes q v k g i (condLane f') := by
  obtain rfl : f (s.core q v).vrm.toNat = f' := funext fun a => funext fun b => funext fun c => hf a b c
  exact State.startsLanes_of_laneWise h

theorem State.startsLanes_of_lanePlain {f f' : Lane → Lane → Lane → Lane}
    (h : exec i s = .next (s.startV q v k (s.lanesOf q v g) (lanePlain f))) (hf : ∀ a b c, f a b c = f' a b c) :
    s.startsLanes q v k g i (plainLane f') :=
  State.startsLanes_of_laneCond (f := fun _ a b c => (f a b c, {})) (f' := fun a b c => (f' a b c, {})) h fun a b c => by rw [hf]

theorem State.startsLanes_of_laneCmp {f f' : Lane → Lane → Bool}
    (h : exec i s = .next (s.startV q v k (s.lanesOf q v g) (laneCmp f))) (hf : ∀ a b, f a b = f' a b) :
    s.startsLanes q v k g i (cmpLane f') := by
  obtain rfl : f = f' := funext fun a => funext fun b => hf a b
  exact State.startsLanes_of_laneWise h

end
end Sys2Proof.Machine
end

section
/-! SUPPORT. Lanes as integers, and the packed elements of a lane (04 R85; 08 Tables 8-5 to 8-8). -/

namespace Sys2Proof.Machine

/-! ## Packed elements -/

theorem toNat_el (n : Nat) (a : Lane) (j : Nat) : (el n a j).toNat = pk n a j := by
  rw [el, BitVec.extractLsb'_toNat, Nat.shiftRight_eq_div_pow, pk, packed]

theorem ofNat_pk (n : Nat) (a : Lane) (j : Nat) : BitVec.ofNat n (pk n a j) = el n a j := by
  rw [← toNat_el, BitVec.ofNat_toNat, BitVec.setWidth_eq]

theorem sextN_toNat {n : Nat} (x : BitVec (n + 1)) : sextN x.toNat (n + 1) = x.toInt := by
  have := x.isLt
  rw [sextN, BitVec.toInt_eq_toNat_cond, Nat.mod_eq_of_lt this, Nat.add_sub_cancel]
  rw [Nat.pow_succ] at *
  split <;> split <;> simp <;> omega

theorem sextN_pk (n : Nat) (a : Lane) (j : Nat) : sextN (pk (n + 1) a j) (n + 1) = (el (n + 1) a j).toInt := by
  rw [← toNat_el, sextN_toNat]

theorem ofNat_append (m n x y : Nat) :
    BitVec.ofNat m y ++ BitVec.ofNat n x = BitVec.ofNat (m + n) (x % 2 ^ n + y % 2 ^ m * 2 ^ n) := by
  have hx := Nat.mod_lt x (Nat.two_pow_pos n)
  have hy := Nat.mod_lt y (Nat.two_pow_pos m)
  refine BitVec.eq_of_toNat_eq ?_
  rw [BitVec.toNat_append, BitVec.toNat_ofNat, BitVec.toNat_ofNat, BitVec.toNat_ofNat, ← Nat.shiftLeft_add_eq_or_of_lt hx,
    Nat.shiftLeft_eq, Nat.add_comm]
  refine (Nat.mod_eq_of_lt ?_).symm
  calc x % 2 ^ n + y % 2 ^ m * 2 ^ n < (y % 2 ^ m + 1) * 2 ^ n := by rw [Nat.add_one_mul]; omega
    _ ≤ 2 ^ m * 2 ^ n := Nat.mul_le_mul_right _ hy
    _ = 2 ^ (m + n) := (Nat.pow_add ..).symm

theorem Cond.none_or (c : Cond) : Cond.or {} c = c := by
  simp [Cond.or]

theorem foldl_range_two {β : Type} (g : β → Nat → β) (b : β) : (List.range 2).foldl g b = g (g b 0) 1 := by
  simp [List.range_succ]

theorem foldl_range_four {β : Type} (g : β → Nat → β) (b : β) : (List.range 4).foldl g b = g (g (g (g b 0) 1) 2) 3 := by
  simp [List.range_succ]

theorem packLane_two (f : Nat → Nat × Cond) : packLane 16 2 f = codes2 f := by
  simp only [packLane, List.foldl_map, foldl_range_two, Cond.none_or, codes2, lane2, ofNat_append]
  congr 2
  omega

theorem packLane_four (f : Nat → Nat × Cond) : packLane 8 4 f = codes4 f := by
  simp only [packLane, List.foldl_map, foldl_range_four, Cond.none_or, codes4, lane4, ofNat_append]
  congr 2
  omega

/-! ## Integers of a given width -/

theorem sLt_eq {n : Nat} (a b : BitVec n) : sLt a b = decide (a.toInt < b.toInt) := rfl
theorem uLt_eq {n : Nat} (a b : BitVec n) : uLt a b = decide (a.toNat < b.toNat) := rfl

theorem ite_sLt_min {n : Nat} (a b : BitVec n) : (if sLt b a then b else a) = if a.toInt ≤ b.toInt then a else b := by
  rw [sLt_eq, ← ite_not]
  simp

theorem ite_uLt_min {n : Nat} (a b : BitVec n) : (if uLt b a then b else a) = if a.toNat ≤ b.toNat then a else b := by
  rw [uLt_eq, ← ite_not]
  simp

theorem ite_sLt_max {n : Nat} (a b : BitVec n) : (if sLt a b then b else a) = if a.toInt ≤ b.toInt then b else a := by
  rcases Int.lt_trichotomy a.toInt b.toInt with h | h | h
  · simp [sLt_eq, h, Int.le_of_lt h]
  · rw [BitVec.eq_of_toInt_eq h]
    simp
  · simp [sLt_eq, Int.not_lt.2 (Int.le_of_lt h), Int.not_le.2 h]

theorem ite_uLt_max {n : Nat} (a b : BitVec n) : (if uLt a b then b else a) = if a.toNat ≤ b.toNat then b else a := by
  rcases Nat.lt_trichotomy a.toNat b.toNat with h | h | h
  · simp [uLt_eq, h, Nat.le_of_lt h]
  · rw [BitVec.eq_of_toNat_eq h]
    simp
  · simp [uLt_eq, Nat.not_lt.2 (Nat.le_of_lt h), Nat.not_le.2 h]

theorem satLane_eq (z : Int) : satLane z = clampLane z := by
  unfold satLane clampLane clampS laneOf
  split
  · next h => simp; exact (Int.ne_of_lt h).symm
  split
  · next h => simp at *; omega
  · simp

theorem laneOf_natAbs (a : Lane) : laneOf (a.toInt.natAbs : Nat) = if a.toInt < 0 then -a else a := by
  unfold laneOf
  split
  · next h =>
    rw [show ((a.toInt.natAbs : Nat) : Int) = -a.toInt by omega, BitVec.ofInt_neg, BitVec.ofInt_toInt]
  · next h =>
    rw [show ((a.toInt.natAbs : Nat) : Int) = a.toInt by omega, BitVec.ofInt_toInt]

theorem clampS_eight (t : Int) : clampS t 8 = if t < -128 then -128 else if t > 127 then 127 else t := by
  norm_num [clampS]

theorem ofNat_clampS_eight (t : Int) : BitVec.ofNat 8 (clampS t 8 % 256).toNat =
    if t < -128 then 0x80#8 else if t > 127 then 0x7F#8 else BitVec.ofInt 8 t := by
  have byte (i : Int) : BitVec.ofNat 8 (i % 256).toNat = BitVec.ofInt 8 i := BitVec.eq_of_toNat_eq (by simp; omega)
  rw [byte, clampS_eight, apply_ite (BitVec.ofInt 8), apply_ite (BitVec.ofInt 8)]
  rfl

theorem clampS_eight_ne (t : Int) : clampS t 8 ≠ t ↔ t < -128 ∨ t > 127 := by
  rw [clampS_eight]
  split
  · omega
  · split <;> omega

/-! ## Lanes of packed integers (08 Table 8-5) -/

theorem packLane_addH (a b : Lane) :
    packLane 16 2 (fun j => (pk 16 a j + pk 16 b j, {})) = (lane2 fun j => el 16 a j + el 16 b j, {}) := by
  simp only [packLane_two, codes2, lane2, BitVec.ofNat_add, ofNat_pk]
  rfl

theorem packLane_addB (a b : Lane) :
    packLane 8 4 (fun j => (pk 8 a j + pk 8 b j, {})) = (lane4 fun j => el 8 a j + el 8 b j, {}) := by
  simp only [packLane_four, codes4, lane4, BitVec.ofNat_add, ofNat_pk]
  rfl

theorem packLane_addsB (a b : Lane) :
    let z := fun j => (el 8 a j).toInt + (el 8 b j).toInt
    packLane 8 4 (fun j =>
      let t := sextN (pk 8 a j) 8 + sextN (pk 8 b j) 8
      ((clampS t 8 % 256).toNat, { sat := decide (clampS t 8 ≠ t) })) =
      (lane4 fun j => if z j < -128 then 0x80 else if z j > 127 then 0x7F else el 8 a j + el 8 b j,
        { sat := (List.range 4).any fun j => decide (z j < -128 ∨ z j > 127) }) := by
  intro z
  have hz (j : Nat) : sextN (pk 8 a j) 8 + sextN (pk 8 b j) 8 = z j := congrArg₂ (· + ·) (sextN_pk 7 a j) (sextN_pk 7 b j)
  have inside (j : Nat) : BitVec.ofInt 8 (z j) = el 8 a j + el 8 b j := by
    rw [BitVec.ofInt_add, BitVec.ofInt_toInt, BitVec.ofInt_toInt]
  simp only [packLane_four, codes4, lane4, hz, ofNat_clampS_eight, inside, clampS_eight_ne]
  simp [Cond.or, List.range_succ, Bool.or_assoc]

theorem satLane_dot (a b c : Lane) :
    let t := fun j => (el 8 a j).toInt * (el 8 b j).toInt
    satLane (c.toInt + ((List.range 4).map (fun j => sextN (pk 8 a j) 8 * sextN (pk 8 b j) 8)).sum) =
      clampLane (c.toInt + t 0 + t 1 + t 2 + t 3) := by
  intro t
  have ht (j : Nat) : sextN (pk 8 a j) 8 * sextN (pk 8 b j) 8 = t j := congrArg₂ (· * ·) (sextN_pk 7 a j) (sextN_pk 7 b j)
  simp only [satLane_eq, ht]
  congr 1
  simp [List.range_succ, Int.add_assoc]

end Sys2Proof.Machine
end

section
open Sys2Proof Sys2Proof.Machine

/-- Settles O30: each operation works lane by lane, so it starts what its lane function gives; a lane function agrees with its table by the
arithmetic of lanes and of their packed elements. -/
theorem vectorIntegerOperations : Obligations.VectorIntegerOperations := by
  unfold Obligations.VectorIntegerOperations
  intro s q v k g op
  have plain {i : Instr} {f : Lane → Lane → Lane → Lane} (h : exec i s = .next (s.startV q v k (s.lanesOf q v g) (lanePlain f))) :
      op i (plainLane f) := State.startsLanes_of_lanePlain h fun _ _ _ => rfl
  refine ⟨plain rfl, plain rfl, plain rfl, plain rfl, ?iadds, ?isubs, ?imin, ?imax, ?iminu, ?imaxu, plain rfl, plain rfl, plain rfl, plain rfl,
    plain rfl, plain rfl, ?iabs, ?iaddH, ?iaddB, ?iaddsB, ?idot4, ?cmpEq, ?cmpLt, ?cmpLtu, ?vsel⟩
  case iadds => exact State.startsLanes_of_laneCond rfl fun a b _ => satLane_eq (a.toInt + b.toInt)
  case isubs => exact State.startsLanes_of_laneCond rfl fun a b _ => satLane_eq (a.toInt - b.toInt)
  case imin => exact State.startsLanes_of_lanePlain rfl fun a b _ => ite_sLt_min a b
  case imax => exact State.startsLanes_of_lanePlain rfl fun a b _ => ite_sLt_max a b
  case iminu => exact State.startsLanes_of_lanePlain rfl fun a b _ => ite_uLt_min a b
  case imaxu => exact State.startsLanes_of_lanePlain rfl fun a b _ => ite_uLt_max a b
  case iabs => exact State.startsLanes_of_lanePlain rfl fun a _ _ => laneOf_natAbs a
  case iaddH => exact State.startsLanes_of_laneCond (f' := fun a b _ => (lane2 fun j => el 16 a j + el 16 b j, {})) rfl fun a b _ => packLane_addH a b
  case iaddB => exact State.startsLanes_of_laneCond (f' := fun a b _ => (lane4 fun j => el 8 a j + el 8 b j, {})) rfl fun a b _ => packLane_addB a b
  case iaddsB => exact State.startsLanes_of_laneCond rfl fun a b _ => packLane_addsB a b
  case idot4 => exact State.startsLanes_of_laneCond rfl fun a b c => satLane_dot a b c
  case cmpEq => exact State.startsLanes_of_laneCmp rfl fun a b => Bool.beq_eq_decide_eq a b
  case cmpLt => exact State.startsLanes_of_laneCmp rfl fun a b => sLt_eq a b
  case cmpLtu => exact State.startsLanes_of_laneCmp rfl fun a b => uLt_eq a b
  case vsel => exact State.startsLanes_of_laneWise (f := fun _ a b c => if c ≠ 0 then (a, true, {}) else (b, false, {})) rfl

end

section
/-! SUPPORT. Floating-point lanes: packed operands, and conversions that pack their result (04 R85, R86; 08 Tables 8-6 and 8-7). -/

namespace Sys2Proof.Machine

theorem packLane_codes2 (a b c : Lane) (f : Nat → Nat → Nat → Nat × Cond) :
    packLane 16 2 (fun j => f (pk 16 a j) (pk 16 b j) (pk 16 c j)) = codes2 fun j => f (el 16 a j).toNat (el 16 b j).toNat (el 16 c j).toNat := by
  simp only [packLane_two, toNat_el]

theorem packLane_codes4 (a b c : Lane) (f : Nat → Nat → Nat → Nat × Cond) :
    packLane 8 4 (fun j => f (pk 8 a j) (pk 8 b j) (pk 8 c j)) = codes4 fun j => f (el 8 a j).toNat (el 8 b j).toNat (el 8 c j).toNat := by
  simp only [packLane_four, toNat_el]

/-- A lane shifted up makes room for the bits below it. -/
theorem setWidth_or_shiftLeft (n : Nat) (z : BitVec n) (c : Lane) (m : Nat) (h : m + n = 32) :
    z.setWidth 32 ||| c <<< n = (c.setWidth m ++ z).cast h := by
  refine BitVec.eq_of_getLsbD_eq fun i hi => ?_
  simp only [BitVec.getLsbD_or, BitVec.getLsbD_setWidth, BitVec.getLsbD_shiftLeft, BitVec.getLsbD_cast, BitVec.getLsbD_append, hi, decide_true,
    Bool.true_and]
  by_cases hn : i < n
  · simp [hn]
  · have := z.getLsbD_of_ge i (Nat.le_of_not_lt hn)
    simp [hn, this]
    omega

theorem packLane_bytes (f : Nat → Nat × Cond) : packLane 8 2 f =
    ((BitVec.ofNat 8 (f 1).1 ++ BitVec.ofNat 8 (f 0).1).setWidth 32, (f 0).2.or (f 1).2) := by
  simp only [packLane, List.foldl_map, foldl_range_two, Cond.none_or, ofNat_append]
  congr 1
  refine BitVec.eq_of_toNat_eq ?_
  simp
  omega

/-- Two codes of 8 bits under the low half of C. -/
theorem packCvt_eight {f : Fmt} (hf : f.width = 8) (rm : Nat) (a b c : Lane) :
    ((packCvt f rm a b).1 ||| (c <<< 16), (packCvt f rm a b).2) =
      (c.setWidth 16 ++ BitVec.ofNat 8 (f.convert rm (fv b)).1 ++ BitVec.ofNat 8 (f.convert rm (fv a)).1,
        (f.convert rm (fv a)).2.or (f.convert rm (fv b)).2) := by
  rw [packCvt, hf, packLane_bytes]
  refine Prod.ext ((setWidth_or_shiftLeft 16 _ c 16 rfl).trans ?_) rfl
  exact (BitVec.append_assoc (x₁ := c.setWidth 16)).symm

theorem fpick_eq (less : FV → FV → Bool) (a b : Lane) : fpick less a b = if (fv a).isNan && (fv b).isNan then 0x7FC00000
    else if (fv a).isNan then b else if (fv b).isNan then a else if less (fv b) (fv a) then b else a := by
  cases ha : (fv a).isNan <;> cases hb : (fv b).isNan <;> simp only [fpick, ha, hb] <;> rfl

theorem widen_eq (f : Fmt) (a : Lane) (j : Nat) : widen f a j = BitVec.ofNat 32 (fp32.convert 0 (f.value (el f.width a j).toNat)).1 := by
  rw [widen, toNat_el]

theorem laneOf_sextN (a : Lane) (j : Nat) : laneOf (sextN (pk 8 a j) 8) = (el 8 a j).signExtend 32 := by
  rw [sextN_pk 7, laneOf, BitVec.signExtend]

/-- The clamped byte of A under the low three bytes of C. -/
theorem clamp_or_shiftLeft (a c : Lane) :
    (((c <<< 8) ||| BitVec.ofNat 32 (clampS a.toInt 8 % 256).toNat, { sat := decide (clampS a.toInt 8 ≠ a.toInt) }) : Lane × Cond) =
      (c.setWidth 24 ++ (if a.toInt < -128 then 0x80#8 else if a.toInt > 127 then 0x7F#8 else a.setWidth 8),
        { sat := decide (a.toInt < -128 ∨ a.toInt > 127) }) := by
  have low : BitVec.ofInt 8 a.toInt = a.setWidth 8 := BitVec.signExtend_eq_setWidth_of_le a (by decide)
  have byte : BitVec.ofNat 32 (clampS a.toInt 8 % 256).toNat = (BitVec.ofNat 8 (clampS a.toInt 8 % 256).toNat).setWidth 32 := by
    refine BitVec.eq_of_toNat_eq ?_
    simp
    omega
  rw [byte, BitVec.or_comm, setWidth_or_shiftLeft 8 _ c 24 rfl, ofNat_clampS_eight, low]
  simp only [clampS_eight_ne]
  rfl
end Sys2Proof.Machine
end
section
open Sys2Proof Sys2Proof.Machine

/-- Settles O31: each operation works lane by lane by the arithmetic of chapter 4; what is left is how lanes pack their elements. -/
theorem vectorFloatOperations : Obligations.VectorFloatOperations := by
  unfold Obligations.VectorFloatOperations
  intro s q v k g op rm lane x nan e wide
  have plain {i : Instr} {f f' : Lane → Lane → Lane → Lane} (h : exec i s = .next (s.startV q v k (s.lanesOf q v g) (lanePlain f)))
      (hf : ∀ a b c, f a b c = f' a b c) : op i (plainLane f') := State.startsLanes_of_lanePlain h hf
  have cond {i : Instr} {f : Nat → Lane → Lane → Lane → Lane × Cond} {f' : Lane → Lane → Lane → Lane × Cond}
      (h : exec i s = .next (s.startV q v k (s.lanesOf q v g) (laneCond f))) (hf : ∀ a b c, f rm a b c = f' a b c) :
      op i (condLane f') := State.startsLanes_of_laneCond h hf
  have cmp {i : Instr} {f : Lane → Lane → Bool} (h : exec i s = .next (s.startV q v k (s.lanesOf q v g) (laneCmp f))) :
      op i (cmpLane f) := State.startsLanes_of_laneCmp h fun _ _ => rfl
  refine ⟨cond rfl fun _ _ _ => rfl, cond rfl fun _ _ _ => rfl, cond rfl fun _ _ _ => rfl, cond rfl fun _ _ _ => rfl,
    ?fmin, ?fmax, ?fabs, ?fneg, ?frcp, ?fsqrt, ?faddBf, ?fmulBf, ?fmaBf, ?fmaHf, ?fmaE4, ?fmaE5,
    ?cvtFI, ?cvtIF, ?cvtBfF, ?cvtHfF, ?cvtE4F, ?cvtE5F, ?cvtFBf, ?cvtFHf, ?cvtFE4, ?cvtFE5, ?cvtII8, ?cvtI8I, cmp rfl, cmp rfl, cmp rfl, cmp rfl⟩
  case fmin => exact plain rfl fun a b _ => fpick_eq FV.lt a b
  case fmax => exact plain rfl fun a b _ => fpick_eq (fun x y => y.lt x) a b
  case fabs => exact plain rfl fun a _ _ => rfl
  case fneg => exact plain rfl fun a _ _ => rfl
  case frcp => exact cond rfl fun _ _ _ => rfl
  case fsqrt => exact cond rfl fun _ _ _ => rfl
  case faddBf => exact cond rfl fun a b _ => packLane_codes2 a b 0 fun x y _ => bf16.add rm x y
  case fmulBf => exact cond rfl fun a b _ => packLane_codes2 a b 0 fun x y _ => bf16.mul rm x y
  case fmaBf => exact cond rfl fun a b c => packLane_codes2 a b c (bf16.fma rm)
  case fmaHf => exact cond rfl fun a b c => packLane_codes2 a b c (fp16.fma rm)
  case fmaE4 => exact cond rfl fun a b c => packLane_codes4 a b c (e4m3.fma rm)
  case fmaE5 => exact cond rfl fun a b c => packLane_codes4 a b c (e5m2.fma rm)
  case cvtFI => exact cond rfl fun _ _ _ => rfl
  case cvtIF => exact cond rfl fun _ _ _ => rfl
  case cvtBfF => exact cond rfl fun a b _ => packLane_two _
  case cvtHfF => exact cond rfl fun a b _ => packLane_two _
  case cvtE4F => exact cond rfl fun a b c => packCvt_eight rfl rm a b c
  case cvtE5F => exact cond rfl fun a b c => packCvt_eight rfl rm a b c
  case cvtFBf => exact plain rfl fun a b _ => widen_eq bf16 a _
  case cvtFHf => exact plain rfl fun a b _ => widen_eq fp16 a _
  case cvtFE4 => exact plain rfl fun a b _ => widen_eq e4m3 a _
  case cvtFE5 => exact plain rfl fun a b _ => widen_eq e5m2 a _
  case cvtII8 => exact plain rfl fun a b _ => laneOf_sextN a (b.toNat % 4)
  case cvtI8I => exact cond rfl fun a _ c => clamp_or_shiftLeft a c
end

section
/-! SUPPORT. Operations of the vector units on whole registers: permutations, reductions over the active lanes, and blocks of E2M1X (04 R79, R94; 08
Table 8-9). -/

namespace Sys2Proof.Machine

/-! ## What starts -/

theorem masked_get (gm : Word) (f : Fin 64 → Lane) (j : Fin 64) : (masked gm f)[j] = if gm.getLsbD j.val then f j else 0 := by
  simp [masked]

section
variable {s : State} {q : Sq} {v : Vc} {k : Fin 4} {g : Option (Fin 8)} {i : Instr}

theorem State.startsWhole_of_masked {V : VFn} {f : Fin 64 → Lane} (h : exec i s = .next (s.startV q v k (s.lanesOf q v g) V))
    (hV : V (s.core q v).vrm.toNat (s.lanesOf q v g) (s.core q v).oa[k] (s.core q v).ob[k] (s.core q v).oc[k] =
      { r := masked (s.lanesOf q v g) f, f := 0, cond := {} }) : s.startsWhole q v k g i f := by
  refine ⟨_, h, rfl, Nat.mod_eq_of_lt (by omega), ?_, ?_, fun j => ?_⟩
  all_goals simp only [hV]
  · rfl
  · exact masked_get ..

/-- A reduction that raises no condition gives its result in the active lanes. -/
theorem State.startsWhole_of_reduction {V : VFn} {F : Word → VReg → Lane} {y : Lane}
    (h : exec i s = .next (s.startV q v k (s.lanesOf q v g) V)) (hV : V = reduction fun _ gm a => (F gm a, {}))
    (hF : F (s.lanesOf q v g) (s.core q v).oa[k] = y) : s.startsWhole q v k g i (fun _ => y) := by
  subst hV hF
  exact State.startsWhole_of_masked h (by simp [reduction, Cond.any])

end

theorem laneAt_add_mod (a : VReg) (i n : Nat) : laneAt a (i + n % 64) = laneAt a (i + n) := by
  have : Fin.ofNat 64 (i + n % 64) = Fin.ofNat 64 (i + n) := Fin.ext (Nat.add_mod_mod ..)
  simp only [laneAt, this]

/-! ## The active lanes -/

/-- The lanes of a mask, ascending. -/
def liveLanes (gm : Word) : List (Fin 64) := (List.finRange 64).filter (fun i => gm.getLsbD i.val)

theorem mem_liveLanes {gm : Word} {j : Fin 64} : j ∈ liveLanes gm ↔ gm.getLsbD j.val = true := by
  simp [liveLanes]

theorem active_eq (gm : Word) (a : VReg) : active gm a = (liveLanes gm).map (fun i => (i.val, a[i])) := by
  rw [active, liveLanes]
  induction List.finRange 64 with
  | nil => rfl
  | cons i l ih =>
    cases h : gm.getLsbD i.val <;>
      simp only [List.filterMap_cons, List.filter_cons, h, Bool.false_eq_true, if_false, if_true, ih, List.map_cons]

/-- What stands before an active lane is below it. -/
theorem liveLanes_split {gm : Word} {m : Fin 64} (hm : gm.getLsbD m.val = true) :
    ∃ l₁ l₂, liveLanes gm = l₁ ++ m :: l₂ ∧ ∀ j ∈ l₁, j < m := by
  obtain ⟨l₁, l₂, h⟩ := List.append_of_mem (mem_liveLanes.2 hm)
  have sorted : (liveLanes gm).Pairwise (· < ·) := (List.pairwise_lt_finRange 64).filter _
  rw [h, List.pairwise_append] at sorted
  exact ⟨l₁, l₂, h, fun j hj => sorted.2.2 j hj m List.mem_cons_self⟩

/-! ## The best lane -/

/-- One comparison of a reduction: a better lane replaces the best so far. -/
def betterOf (better : FV → FV → Bool) (m : Option (Nat × Lane)) (e : Nat × Lane) : Option (Nat × Lane) := match m with
  | none => some e
  | some w => if better (fv e.2) (fv w.2) then some e else some w

theorem bestLane_eq (better : FV → FV → Bool) (l : List (Nat × Lane)) :
    bestLane better l = (l.filter (fun e => !(fv e.2).isNan)).foldl (betterOf better) none := rfl

theorem foldl_betterOf_beaten {better : FV → FV → Bool} {e : Nat × Lane} (l : List (Nat × Lane)) (w : Option (Nat × Lane))
    (hw : betterOf better w e = some e) (hl : ∀ x ∈ l, better (fv e.2) (fv x.2) = true) : betterOf better (l.foldl (betterOf better) w) e = some e := by
  induction l generalizing w with
  | nil => exact hw
  | cons x l ih =>
    refine ih _ ?_ fun y hy => hl y (List.mem_cons_of_mem _ hy)
    cases w with
    | none => simp [betterOf, hl x]
    | some w => 
      rw [betterOf]
      split
      · simp [betterOf, hl x]
      · exact hw

theorem foldl_betterOf_stays {better : FV → FV → Bool} {e : Nat × Lane} (l : List (Nat × Lane))
    (hl : ∀ x ∈ l, better (fv x.2) (fv e.2) = false) : l.foldl (betterOf better) (some e) = some e := by
  induction l with
  | nil => rfl
  | cons x l ih =>
    rw [List.foldl_cons, betterOf, hl x List.mem_cons_self]
    exact ih fun y hy => hl y (List.mem_cons_of_mem _ hy)

section
variable {better : FV → FV → Bool} {gm : Word} {a : VReg}

/-- The best lane is the first that beats all before it and that none beats. -/
theorem bestLane_active {m : Fin 64} (hm : gm.getLsbD m.val = true) (hn : (fv a[m]).isNan = false)
    (hbest : ∀ j : Fin 64, gm.getLsbD j.val = true → (fv a[j]).isNan = false → better (fv a[j]) (fv a[m]) = false)
    (hfirst : ∀ j : Fin 64, j < m → gm.getLsbD j.val = true → (fv a[j]).isNan = false → better (fv a[m]) (fv a[j]) = true) :
    bestLane better (active gm a) = some (m.val, a[m]) := by
  obtain ⟨l₁, l₂, hl, hlt⟩ := liveLanes_split hm
  have live {j : Fin 64} (h : j ∈ l₁ ∨ j ∈ l₂) : gm.getLsbD j.val = true := by
    rw [← mem_liveLanes, hl]
    simp only [List.mem_append, List.mem_cons]
    exact h.imp_right .inr
  rw [bestLane_eq, active_eq, hl, List.map_append, List.map_cons, List.filter_append, List.filter_cons_of_pos (by simpa using hn), List.foldl_append,
    List.foldl_cons, foldl_betterOf_beaten _ none rfl, foldl_betterOf_stays]
  · intro e he
    simp only [List.mem_filter, List.mem_map, Bool.not_eq_true'] at he
    obtain ⟨⟨j, hj, rfl⟩, hjn⟩ := he
    exact hbest j (live (.inr hj)) hjn
  · intro e he
    simp only [List.mem_filter, List.mem_map, Bool.not_eq_true'] at he
    obtain ⟨⟨j, hj, rfl⟩, hjn⟩ := he
    exact hfirst j (hlt j hj) (live (.inl hj)) hjn

theorem bestLane_active_none (h : ∀ j : Fin 64, gm.getLsbD j.val = true → (fv a[j]).isNan = true) : bestLane better (active gm a) = none := by
  have : (active gm a).filter (fun e => !(fv e.2).isNan) = [] := by
    rw [List.filter_eq_nil_iff, active_eq]
    intro e he
    obtain ⟨j, hj, rfl⟩ := List.mem_map.1 he
    simpa using h j (mem_liveLanes.1 hj)
  rw [bestLane_eq, this]
  rfl

end

theorem foldl_greater (l : List (Nat × Lane)) (x top : Lane) (hx : x.toInt ≤ top.toInt) (hl : ∀ e ∈ l, e.2.toInt ≤ top.toInt)
    (ht : x = top ∨ ∃ e ∈ l, e.2 = top) : l.foldl (fun x y => if sLt x y.2 then y.2 else x) x = top := by
  induction l generalizing x with
  | nil => simpa using ht
  | cons e l ih =>
    have he := hl e List.mem_cons_self
    simp only [List.foldl_cons, ite_sLt_max x e.2]
    refine ih _ ?bound (fun y hy => hl y (List.mem_cons_of_mem _ hy)) ?top
    case bound =>
      split
      · exact he
      · exact hx
    case top =>
      rcases ht with rfl | ⟨y, hy, rfl⟩
      · left
        split
        · next h => exact BitVec.eq_of_toInt_eq (Int.le_antisymm he h)
        · rfl
      · rcases List.mem_cons.1 hy with rfl | hy
        · exact .inl (if_pos hx)
        · exact .inr ⟨y, hy, rfl⟩

/-! ## Blocks of E2M1X -/

theorem toList_getD (a : VReg) {n : Nat} (h : n < 64) : a.toList.getD n 0 = laneAt a n := by
  simp [laneAt, Nat.mod_eq_of_lt h, h]

theorem toList_eq_map (a : VReg) : a.toList = (List.finRange 64).map (fun j => a[j]) := by
  refine List.ext_getElem (by simp) fun i h₁ h₂ => ?_
  simp

theorem length_bytes (b : E2Block) : b.bytes.length = 18 := by
  simp [E2Block.bytes]

theorem drop_take_eq_map {α : Type} (l : List α) (d : α) (n m : Nat) (h : n + m ≤ l.length) :
    (l.drop n).take m = (List.range m).map (fun i => l.getD (n + i) d) := by
  refine List.ext_getElem (by simp; omega) fun i h₁ h₂ => ?_
  simp at h₁ ⊢
  rw [List.getElem?_eq_getElem (by omega)]
  rfl

/-- The 36 bytes that qnt.e2 writes: the codes of both blocks, and then their scales and extra values. -/
def blockBytes (x y : List Byte) : List Byte := x.take 16 ++ y.take 16 ++ x.drop 16 ++ y.drop 16

section
variable {x y : List Byte} (hx : x.length = 18) (hy : y.length = 18)
include hx hy

theorem getElem?_blockBytes (k : Nat) : (blockBytes x y)[k]? =
    if k < 16 then x[k]? else if k < 32 then y[k - 16]? else if k < 34 then x[k - 16]? else y[k - 18]? := by
  simp only [blockBytes, List.getElem?_take, List.getElem?_drop, List.getElem?_append, List.length_append, List.length_take, List.length_drop, hx, hy]
  grind

theorem blockBytes_first {i : Nat} (h : i < 4) : ((blockBytes x y).drop (4 * i)).take 4 = (x.drop (4 * i)).take 4 := by
  refine List.ext_getElem? fun k => ?_
  simp only [List.getElem?_take, List.getElem?_drop, getElem?_blockBytes hx hy]
  grind

theorem blockBytes_second {i : Nat} (h₁ : 4 ≤ i) (h : i < 8) : ((blockBytes x y).drop (4 * i)).take 4 = (y.drop (4 * (i - 4))).take 4 := by
  refine List.ext_getElem? fun k => ?_
  simp only [List.getElem?_take, List.getElem?_drop, getElem?_blockBytes hx hy]
  grind

theorem blockBytes_last : ((blockBytes x y).drop 32).take 4 = (x.drop 16).take 2 ++ (y.drop 16).take 2 := by
  refine List.ext_getElem? fun k => ?_
  simp only [List.getElem?_take, List.getElem?_drop, List.getElem?_append, List.length_take, List.length_drop, hx, getElem?_blockBytes hx hy]
  grind

end

/-- The values of block `n` of a register. -/
def blockLanes (a : VReg) (n : Nat) : List FV := (List.range 32).map (fun i => fv (laneAt a (32 * n + i)))

theorem map_getD_eq_blockLanes (a : VReg) {n : Nat} (hn : n < 2) :
    (List.range 32).map (fun i => fv (a.toList.getD (32 * n + i) 0)) = blockLanes a n :=
  List.map_congr_left fun i hi => congrArg fv (toList_getD a (by have := List.mem_range.1 hi; omega))

theorem vQntE2_get (rm : Nat) (gm : Word) (a b c : VReg) (j : Fin 64) : (vQntE2 rm gm a b c).r[j] =
    if gm.getLsbD j.val && decide (j.val < 9) then
      BitVec.ofNat 32 (leNat (((blockBytes (quantise (blockLanes a 0)).bytes (quantise (blockLanes a 1)).bytes).drop (4 * j.val)).take 4)) else 0 := by
  have hx := length_bytes (quantise (blockLanes a 0))
  have hy := length_bytes (quantise (blockLanes a 1))
  simp only [vQntE2, masked_get, map_getD_eq_blockLanes a (n := 0) (by decide), map_getD_eq_blockLanes a (n := 1) (by decide)]
  cases gm.getLsbD j.val with
  | false => rfl
  | true =>
    rw [if_pos rfl, Bool.true_and]
    split
    · next h => rw [blockBytes_first hx hy h, if_pos (by simp; omega)]
    split
    · next h₁ h => rw [blockBytes_second hx hy (by omega) h, if_pos (by simp; omega)]
    split
    · next h => rw [h, blockBytes_last hx hy]; rfl
    · rw [if_neg (by simp; omega)]

/-- The 18 bytes of block `n` in the layout of qnt.e2. -/
def blockOf (a : VReg) (n : Nat) : List Byte :=
  ((a.toList.drop (4 * n)).take 4).flatMap (fun w => natLE 4 w.toNat) ++ ((natLE 4 (laneAt a 8).toNat).drop (2 * n)).take 2

theorem vDqntE2_eq (rm : Nat) (gm : Word) (a b c : VReg) : vDqntE2 rm gm a b c =
    { r := masked gm (fun j => BitVec.ofNat 32 (e2m1xToFp32 (blockElem (blockOf a (j.val / 32)) (j.val % 32)))), f := 0, cond := {} } := by
  have block {n : Nat} (hn : n < 2) : (List.range 4).flatMap (fun i => natLE 4 (a.toList.getD (4 * n + i) 0).toNat) ++
      ((natLE 4 (a.toList.getD 8 0).toNat).drop (2 * n)).take 2 = blockOf a n := by
    rw [blockOf, drop_take_eq_map a.toList 0 _ _ (by simp; omega), List.flatMap_map, toList_getD a (by decide)]
  simp only [vDqntE2, block (n := 0) (by decide), block (n := 1) (by decide)]
  congr 2
  funext j
  split
  · next h => rw [Nat.div_eq_of_lt h, Nat.mod_eq_of_lt h]
  · rw [show j.val / 32 = 1 by omega, show j.val % 32 = j.val - 32 by omega]

/-! ## Sums and greatest values -/

theorem foldl_active_add (gm : Word) (a : VReg) (x : Lane) :
    (active gm a).foldl (fun x e => x + e.2) x = ((liveLanes gm).map (fun j => a[j])).foldl (· + ·) x := by
  rw [active_eq, List.foldl_map, List.foldl_map]

/-- The greatest of the active lanes as signed numbers; 0 where none is active. -/
def greatestLane (gm : Word) (a : VReg) : Lane := match active gm a with
  | [] => 0
  | e :: t => t.foldl (fun x y => if sLt x y.2 then y.2 else x) e.2

theorem vRmaxI_eq : vRmaxI = reduction (fun _ gm a => (greatestLane gm a, {})) := by
  unfold vRmaxI greatestLane
  congr
  funext _ gm a
  cases active gm a <;> rfl

theorem greatestLane_eq {gm : Word} {a : VReg} {m : Fin 64} (hm : m ∈ liveLanes gm) (h : ∀ j ∈ liveLanes gm, (a[j]).toInt ≤ (a[m]).toInt) :
    greatestLane gm a = a[m] := by
  have all : ∀ e ∈ active gm a, e.2.toInt ≤ (a[m]).toInt := by
    rw [active_eq]
    intro e he
    obtain ⟨j, hj, rfl⟩ := List.mem_map.1 he
    exact h j hj
  have top : ∃ e ∈ active gm a, e.2 = a[m] := ⟨(m.val, a[m]), by rw [active_eq]; exact List.mem_map_of_mem hm, rfl⟩
  unfold greatestLane
  split
  · next hl => simp [hl] at top
  · next e t hl =>
    rw [hl] at all top
    exact foldl_greater t e.2 a[m] (all e List.mem_cons_self) (fun y hy => all y (List.mem_cons_of_mem _ hy)) (by simpa using top)

/-- The number of the best lane; 0 where every active lane is a NaN. -/
def bestNumber (better : FV → FV → Bool) (gm : Word) (a : VReg) : Lane := match bestLane better (active gm a) with
  | some e => BitVec.ofNat 32 e.1
  | none => 0

theorem vArgmaxF_eq : vArgmaxF = reduction (fun _ gm a => (bestNumber (fun x y => y.lt x) gm a, {})) := by
  unfold vArgmaxF bestNumber
  congr
  funext _ gm a
  cases bestLane (fun x y => y.lt x) (active gm a) <;> rfl

theorem greatestLane_nil {gm : Word} {a : VReg} (h : liveLanes gm = []) : greatestLane gm a = 0 := by
  rw [greatestLane, active_eq, h]
  rfl

end Sys2Proof.Machine
end
section
open Sys2Proof Sys2Proof.Machine

/-- Settles O32: a permutation by the lanes that it reads, a reduction by the active lanes in ascending order, and a block by its bytes. -/
theorem vectorPermutationsAndReductions : Obligations.VectorPermutationsAndReductions := by
  unfold Obligations.VectorPermutationsAndReductions
  intro s q v k g y a b op on x cand live blk bytes
  refine ⟨?perm, ?rotl, ?bcast, ?rsumI, fun m hm hmax => ?rmaxI, fun hl => ?rmaxI_nil, fun m hm hbest hfirst => ?most, fun m hm hbest hfirst => ?least,
    fun hnone => ?noNumber, ?rsumF, ?qnt, ?dqnt⟩
  case perm => exact State.startsWhole_of_masked rfl rfl
  case rotl =>
    exact State.startsWhole_of_masked rfl (congrArg (fun f => ({ r := masked _ f, f := 0, cond := {} } : VRes)) (funext fun j => laneAt_add_mod ..))
  case bcast => exact State.startsWhole_of_masked rfl rfl
  case rsumI => exact State.startsWhole_of_reduction rfl rfl (foldl_active_add _ _ 0)
  case rmaxI => exact State.startsWhole_of_reduction rfl vRmaxI_eq (greatestLane_eq hm hmax)
  case rmaxI_nil => exact State.startsWhole_of_reduction rfl vRmaxI_eq (greatestLane_nil hl)
  case most =>
    have best := bestLane_active (better := fun x y => y.lt x) hm.1 hm.2 (fun j hj hn => hbest j ⟨hj, hn⟩) (fun j hlt hj hn => hfirst j hlt ⟨hj, hn⟩)
    exact ⟨State.startsWhole_of_reduction rfl rfl (congrArg bestOrNan best), State.startsWhole_of_reduction rfl vArgmaxF_eq (by rw [bestNumber, best])⟩
  case least =>
    have best := bestLane_active (better := FV.lt) hm.1 hm.2 (fun j hj hn => hbest j ⟨hj, hn⟩) (fun j hlt hj hn => hfirst j hlt ⟨hj, hn⟩)
    exact State.startsWhole_of_reduction rfl rfl (congrArg bestOrNan best)
  case noNumber =>
    have none_best (better : FV → FV → Bool) : bestLane better (active (s.lanesOf q v g) y.oa[k]) = none :=
      bestLane_active_none fun j hj => by_contra fun hn => hnone j ⟨hj, Bool.eq_false_iff.2 hn⟩
    exact ⟨State.startsWhole_of_reduction rfl rfl (congrArg bestOrNan (none_best _)),
      State.startsWhole_of_reduction rfl rfl (congrArg bestOrNan (none_best _)),
      State.startsWhole_of_reduction rfl vArgmaxF_eq (by rw [bestNumber, none_best])⟩
  case rsumF => exact ⟨_, _, _, rfl, fun j => masked_get .., rfl, rfl⟩
  case qnt => exact ⟨_, rfl, fun j => vQntE2_get y.vrm.toNat _ y.oa[k] y.ob[k] y.oc[k] j⟩
  case dqnt =>
    refine State.startsWhole_of_masked rfl ((vDqntE2_eq ..).trans (congrArg (fun f => ({ r := masked _ f, f := 0, cond := {} } : VRes))
      (funext fun j => ?_)))
    rw [blockOf, toList_eq_map]
    rfl
end

section
/-! SUPPORT. The scalar, control and memory units of a vector core (08 R177 to R181, Tables 8-10 to 8-13). -/

namespace Sys2Proof.Machine

/-! ## Fields of a word -/

theorem bits_zero (w : Word) (n : Nat) : bits w 0 n = w.toNat % 2 ^ n := by
  simp [bits, fld]

/-- The bits from `lo` up are clear in a word below 2^lo. -/
theorem bits_high_eq_zero_iff {w : Word} {lo : Nat} (h : lo ≤ 64) : bits w lo (64 - lo) = 0 ↔ w.toNat < 2 ^ lo := by
  have : w.toNat / 2 ^ lo < 2 ^ (64 - lo) := by
    rw [Nat.div_lt_iff_lt_mul (Nat.two_pow_pos lo), ← Nat.pow_add, Nat.sub_add_cancel h]
    exact w.isLt
  rw [bits, fld, Nat.mod_eq_of_lt this, Nat.div_eq_zero_iff]
  simp

theorem popc_eq_length (n x : Nat) : popc n x = ((List.range n).filter (fun i => x.testBit i)).length := by
  induction n generalizing x with
  | zero => rfl
  | succ n ih =>
    rw [popc, ih, List.range_succ_eq_map, List.filter_cons, List.filter_map, Nat.testBit_zero]
    have shift : ((fun i => x.testBit i) ∘ Nat.succ) = fun i => (x / 2).testBit i := funext fun i => Nat.testBit_succ x i
    rw [shift]
    rcases Nat.mod_two_eq_zero_or_one x with h | h <;> simp [h, Nat.add_comm]

/-- As many leading bits are zero as `clz` counts, and the next one, where there is one, is not. -/
theorem clz_spec {x : Nat} (hx : x < 2 ^ 64) : clz 64 x ≤ 64 ∧ x < 2 ^ (64 - clz 64 x) ∧ (clz 64 x < 64 → 2 ^ (63 - clz 64 x) ≤ x) := by
  unfold clz
  split
  · next h => simp [h]
  · next h =>
    have hl : x.log2 < 64 := (Nat.log2_lt h).2 hx
    rw [show 64 - (64 - 1 - x.log2) = x.log2 + 1 by omega, show 63 - (64 - 1 - x.log2) = x.log2 by omega]
    exact ⟨by omega, Nat.lt_log2_self, fun _ => Nat.log2_self_le h⟩

/-! ## What a scalar unit starts -/

theorem State.next_startK (s : State) (q : Sq) (v : Vc) (k : Bool) (f : KFn) :
    let x := s.core q v
    let u : Fin 4 := if k then 1 else 0
    Host.Outcome.next (φ := Fault) (ρ := Refusal) (s.startK q v k f) = s.starts q v
      { id := x.nextId - 1, unit := if k then 5 else 4, rv := Vector.replicate 64 0, rs := f x.sa[u] x.sb[u] x.sc[u], f := none, cond := 0 } := by
  cases k <;> rfl

/-! ## The control unit -/

section
variable {s : State} {q : Sq} {v : Vc} {y : Issued}

/-- LOOP_COUNT's test: the count is from 1 to 65,536, and B names a counter and a length alone (08 R179). -/
theorem loopArgs_bad_iff (a b : Word) : (decide (a.toNat = 0) || decide (a.toNat > 65536) || decide (bits b 6 58 ≠ 0)) = true ↔
    a = 0 ∨ 65536 < a.toNat ∨ 64 ≤ b.toNat := by
  have hb : bits b 6 58 = 0 ↔ b.toNat < 64 := bits_high_eq_zero_iff (lo := 6) (by decide)
  have ha : a.toNat = 0 ↔ a = 0 := by rw [← BitVec.toNat_inj]; rfl
  simp only [Bool.or_eq_true, decide_eq_true_eq, ne_eq, hb, ha, or_assoc, Nat.not_lt, gt_iff_lt]

theorem exec_ctlLoop (hy : (s.core q v).issued.getLast? = some y) : exec (.ctlLoop q v) s =
    if (s.core q v).sa[(3 : Fin 4)] = 0 ∨ 65536 < (s.core q v).sa[(3 : Fin 4)].toNat ∨ 64 ≤ (s.core q v).sb[(3 : Fin 4)].toNat then
      .next (s.bundleFault q v y.ent y.id 7 LOOP_COUNT)
    else .next (s.modCore q v (fun x => x.startLoop y.ent)) := by
  have run : exec (.ctlLoop q v) s = execCtlLoop q v s := rfl
  rw [run, execCtlLoop]
  simp only [hy]
  exact if_congr (loopArgs_bad_iff _ _) rfl rfl

/-! ## The memory unit -/

theorem State.startMem_of_ok {n : Nat} {x : VCore} (h : (s.core q v).memOp n = .ok x) : s.startMem q v n = s.setCore q v x := by
  unfold State.startMem State.memIn
  simp only [h]
  split <;> rfl

theorem State.startMem_of_error {n k : Nat} (hy : (s.core q v).issued.getLast? = some y) (h : (s.core q v).memOp n = .error k) :
    s.startMem q v n = s.bundleFault q v y.ent y.id 6 k := by
  unfold State.startMem State.memIn
  simp only [hy, h]

end

section
variable {x : VCore} {g : Fin 8} {l : Fin 4}

theorem generator_ofNat (g : Fin 8) : Fin.ofNat 8 (bits (BitVec.ofNat 64 g.val) 0 3) = g ∧ bits (BitVec.ofNat 64 g.val) 3 61 = 0 := by
  rw [bits_ofNat (by omega), bits_ofNat (by omega)]
  exact ⟨Fin.ext (by simp), by omega⟩

theorem level_ofNat (g : Fin 8) (l : Fin 4) : let b := BitVec.ofNat 64 (l.val * 8 + g.val)
    Fin.ofNat 8 (bits b 0 3) = g ∧ Fin.ofNat 4 (bits b 3 2) = l ∧ bits b 5 59 = 0 := by
  simp only
  rw [bits_ofNat (by omega), bits_ofNat (by omega), bits_ofNat (by omega)]
  exact ⟨Fin.ext (by simp), Fin.ext (by simp; omega), by omega⟩

theorem VCore.memOp_gbase (h : x.sb[(2 : Fin 4)] = BitVec.ofNat 64 g.val) :
    x.memOp 0 = .ok (x.modGen g (fun y => { y with base := x.sa[(2 : Fin 4)], configured := true })) := by
  obtain ⟨hg, hz⟩ := generator_ofNat g
  have hb : x.sb[scaUnit 6] = BitVec.ofNat 64 g.val := h
  simp only [VCore.memOp, hb, hg, hz]
  rfl

theorem VCore.memOp_gbase_wrong (h : 8 ≤ x.sb[(2 : Fin 4)].toNat) : x.memOp 0 = .error GEN_CONFIG := by
  have hb : bits x.sb[scaUnit 6] 3 61 ≠ 0 := fun hz => absurd ((bits_high_eq_zero_iff (lo := 3) (by decide)).1 hz) (Nat.not_lt.2 h)
  exact if_pos hb

theorem VCore.memOp_glev (h : x.sb[(2 : Fin 4)] = BitVec.ofNat 64 (l.val * 8 + g.val)) (h1 : 1 ≤ x.sc[(2 : Fin 4)].toNat)
    (h2 : x.sc[(2 : Fin 4)].toNat ≤ 65536) : x.memOp 1 = .ok (x.modGen g (fun y =>
      { y with cnt := vset y.cnt l x.sc[(2 : Fin 4)].toNat, stride := vset y.stride l x.sa[(2 : Fin 4)] })) := by
  obtain ⟨hg, hl, hz⟩ := level_ofNat g l
  have hb : x.sb[scaUnit 6] = BitVec.ofNat 64 (l.val * 8 + g.val) := h
  have hc : x.sc[scaUnit 6] ≠ 0 := fun e => by rw [show x.sc[(2 : Fin 4)] = 0 from e] at h1; simp at h1
  have hn : ¬ x.sc[scaUnit 6].toNat > 65536 := Nat.not_lt.2 h2
  simp only [VCore.memOp, hb, hg, hl, hz, hc, hn]
  rfl

theorem VCore.memOp_gcfg (h : x.sb[(2 : Fin 4)] = BitVec.ofNat 64 g.val) (hok : x.cfgOk g x.sa[(2 : Fin 4)] = true) :
    x.memOp 2 = .ok (x.modGen g (fun y => { y with cfg := x.sa[(2 : Fin 4)] })) := by
  obtain ⟨hg, hz⟩ := generator_ofNat g
  have hb : x.sb[scaUnit 6] = BitVec.ofNat 64 g.val := h
  have hok : x.cfgOk g x.sa[scaUnit 6] = true := hok
  simp only [VCore.memOp, hb, hg, hz, hok]
  rfl

theorem VCore.memOp_grst (h : x.sa[(2 : Fin 4)] = BitVec.ofNat 64 g.val) : x.memOp 3 = .ok (x.restart g x.gens[g] x.gens[g].queued) := by
  obtain ⟨hg, hz⟩ := generator_ofNat g
  have ha : x.sa[scaUnit 6] = BitVec.ofNat 64 g.val := h
  simp only [VCore.memOp, ha, hg, hz]
  rfl

theorem VCore.memOp_gpos (h : x.sa[(2 : Fin 4)] = BitVec.ofNat 64 g.val) : x.memOp 4 = .ok (x.setR 6 (word x.gens[g].pos)) := by
  obtain ⟨hg, hz⟩ := generator_ofNat g
  have ha : x.sa[scaUnit 6] = BitVec.ofNat 64 g.val := h
  simp only [VCore.memOp, ha, hg, hz]
  rfl

end

end Sys2Proof.Machine
end
section
open Sys2Proof Sys2Proof.Machine

/-- Settles O33: a scalar unit starts the value of its table, and a control or memory operation does at once what its arguments, where they are right,
ask for. -/
theorem scalarAndControlUnits : Obligations.ScalarAndControlUnits := by
  unfold Obligations.ScalarAndControlUnits
  refine ⟨fun s q v k => ?scalar, fun s q v y g l => ?units⟩
  case scalar =>
    intro x u a b c n op
    have starts {i : Instr} {f : KFn} {r : Word} (h : exec i s = .next (s.startK q v k f)) (hf : f a b c = r) : op i r := by
      subst hf
      exact h.trans (State.next_startK ..)
    have low (w : Word) : bits w 0 6 = w.toNat % 64 := bits_zero w 6
    refine ⟨starts rfl rfl, starts rfl rfl, starts rfl rfl, starts rfl rfl, starts rfl rfl, starts rfl rfl, starts rfl rfl, starts rfl rfl,
      starts rfl (congrArg (a <<< ·) (low b)), starts rfl (congrArg (a >>> ·) (low b)), starts rfl (congrArg a.sshiftRight (low b)),
      starts rfl (ite_sLt_min a b), starts rfl (ite_sLt_max a b), starts rfl (ite_uLt_min a b), starts rfl (ite_uLt_max a b),
      starts rfl (congrArg word (popc_eq_length 64 a.toNat)), ?clz, starts rfl rfl, ?cmpEq, ?cmpLt, ?cmpLtu,
      starts rfl (congrArg (fun m => a + (b <<< m)) (low c))⟩
    case clz =>
      obtain ⟨hm, hlt, hle⟩ := clz_spec a.isLt
      exact ⟨_, hm, hlt, hle, starts rfl rfl⟩
    case cmpEq => exact starts rfl (by simp [kCmpEq, bword])
    case cmpLt => exact starts rfl (by simp [kCmpLt, bword, sLt_eq])
    case cmpLtu => exact starts rfl (by simp [kCmpLtu, bword, uLt_eq])
  case units =>
    intro x a b ma mb mc put anew gen r
    have mem {i : Instr} {n : Nat} {z : VCore} (h : exec i s = .next (s.startMem q v n)) (hz : x.memOp n = .ok z) :
        exec i s = .next (s.setCore q v z) := h.trans (congrArg _ (State.startMem_of_ok hz))
    refine ⟨fun hy => ⟨fun h1 h2 hb => ?loops, fun hbad => ?loopCount, fun hb => ?genConfig⟩, rfl, rfl, rfl, rfl, rfl, fun h => mem rfl (VCore.memOp_gbase h),
      fun h h1 h2 => mem rfl (VCore.memOp_glev h h1 h2), fun h hok => mem rfl (VCore.memOp_gcfg h hok),
      fun h => ⟨mem rfl (VCore.memOp_grst h), mem rfl (VCore.memOp_gpos h)⟩⟩
    case loops =>
      have hgood : ¬ (a = 0 ∨ 65536 < a.toNat ∨ 64 ≤ b.toNat) := by
        rintro (h | h | h)
        · simp [h] at h1
        · omega
        · omega
      refine ⟨_, (exec_ctlLoop hy).trans (if_neg hgood), ?_⟩
      rw [State.core_modCore]
      refine ⟨_, rfl, rfl, ?length, ?counter, rfl, rfl, vset_same ..⟩
      case length => exact congrArg (· + 1) (Nat.mod_eq_of_lt (a := b.toNat / 2 ^ 2) (by omega))
      case counter =>
        show bits b 0 2 % 4 = b.toNat % 4
        rw [bits_zero]
        exact Nat.mod_mod b.toNat 4
    case loopCount => exact (exec_ctlLoop hy).trans (if_pos hbad)
    case genConfig => exact congrArg Host.Outcome.next (State.startMem_of_error hy (VCore.memOp_gbase_wrong hb))

end

section
/-! SUPPORT. MON and the first execution of MWAIT (08 R189, R190). -/

namespace Sys2Proof.Machine

/-! ## MON -/

/-- Arming changes the watches alone, and puts the new entry last. -/
theorem State.arm_eq (s : State) (q : Sq) (c : Cx) (va sector : Nat) (restored : Bool) : ∃ l, s.arm q c va sector restored =
    { s with watches := l ++ [{ sq := q, va := va, sector := sector, owner := c, armed := s.now, fired := false, restored := restored }] } := by
  unfold State.arm
  simp only
  split
  · exact ⟨_, rfl⟩
  · split <;> exact ⟨_, rfl⟩

theorem State.me_arm (s : State) (q : Sq) (c : Cx) (va sector : Nat) (restored : Bool) : (s.arm q c va sector restored).me = s.me := by
  obtain ⟨l, h⟩ := s.arm_eq q c va sector restored
  rw [h]
  rfl

theorem State.mem_arm (s : State) (q : Sq) (c : Cx) (va sector : Nat) (restored : Bool) : (s.arm q c va sector restored).mem = s.mem := by
  obtain ⟨l, h⟩ := s.arm_eq q c va sector restored
  rw [h]

theorem State.exists_watch_arm (s : State) (q : Sq) (c : Cx) (va sector : Nat) (restored : Bool) : ∃ w ∈ (s.arm q c va sector restored).watches,
    w.sq = q ∧ w.owner = c ∧ w.sector = sector ∧ w.fired = false ∧ w.restored = restored ∧ w.armed = s.now := by
  obtain ⟨l, h⟩ := s.arm_eq q c va sector restored
  rw [h]
  exact ⟨_, List.mem_append_right l List.mem_cons_self, rfl, rfl, rfl, rfl, rfl, rfl⟩

theorem exec_mon_of_ok {s t : State} {a : Reg} {pa : Nat} (h : s.translate s.fsq (s.me.who s.fcx) { r := true } (s.rs a).toNat = .ok (pa, t)) :
    exec (.mon a) s = .next (t.arm t.fsq t.fcx ((s.rs a).toNat / 32 * 32) (pa / 32) false).retire := by
  have run : exec (.mon a) s = execMon a s := rfl
  rw [run, execMon]
  simp only [h]
  rfl

theorem State.now_of_translate {s t : State} {q : Sq} {who : Option Nat} {n : Need} {va pa : Nat} (h : s.translate q who n va = .ok (pa, t)) :
    t.now = s.now := by
  obtain ⟨-, e, -, -, rfl⟩ := State.translate_ok h
  obtain ⟨w, d, hu⟩ := s.tlbUse_eq q e
  rw [hu]
  rfl

/-! ## MWAIT -/

section
variable {s : State} {d a : Reg} (hb : s.me.blocked = none)
include hb

theorem exec_mwait_of_evicted (hw : s.watchOf s.fsq s.fcx = none) : exec (.mwait d a) s = s.sets d 3 := by
  have run : exec (.mwait d a) s = execMwait d a s := rfl
  rw [run, execMwait]
  simp only [Ctx.waits, hb, hw]
  rfl

variable {w : Watch} (hw : s.watchOf s.fsq s.fcx = some w)
include hw

/-- The first execution after a restore answers 4, and the entry is no longer a restored one. -/
theorem exec_mwait_of_restored (hr : w.restored = true) : exec (.mwait d a) s =
    .next (({ s with watches := s.watches.map (fun v => if v == w then { v with restored := false } else v) } : State).wS d 4).retire := by
  have run : exec (.mwait d a) s = execMwait d a s := rfl
  rw [run, execMwait]
  simp only [Ctx.waits, hb, hw, hr]
  rfl

theorem exec_mwait_of_armed (hr : w.restored = false) : exec (.mwait d a) s =
    match s.mwaitReason s.fsq s.fcx s.now (mwaitLimit (s.rs a)) with
    | some r => s.mwaitEnd d r
    | none => s.block (.mwait d a) := by
  have run : exec (.mwait d a) s = execMwait d a s := rfl
  rw [run, execMwait]
  simp only [Ctx.waits, hb, hw, hr]
  rfl

theorem exec_mwait_of_reason {r : Nat} (hr : w.restored = false) (h : s.mwaitReason s.fsq s.fcx s.now (mwaitLimit (s.rs a)) = some r) :
    exec (.mwait d a) s = s.mwaitEnd d r := by
  rw [exec_mwait_of_armed hb hw hr, h]

end

end Sys2Proof.Machine
end

section
open Sys2Proof Sys2Proof.Machine

/-- Settles O18: MON by its translation and what arming changes, MWAIT by the entry that it finds and the first reason that holds. -/
theorem watchesAndMwait : Obligations.WatchesAndMwait := by
  unfold Obligations.WatchesAndMwait
  refine fun s t d a pa => ⟨fun ht => ?mon, fun hb => ⟨exec_mwait_of_evicted hb, fun w hw => ⟨fun hr hf => ?fired, fun hr hf h0 => ?timeout,
    fun hr => ?restored, fun hr hf h0 hh => ?waits⟩⟩⟩
  case mon =>
    obtain ⟨hmem, -, -, hfsq, hfcx, hctx⟩ := State.translate_same ht
    have armed := t.exists_watch_arm t.fsq t.fcx ((s.rs a).toNat / 32 * 32) (pa / 32) false
    rw [State.now_of_translate ht, hfsq, hfcx] at armed
    have hme : t.me = s.me := by rw [State.me, hfsq, hfcx, hctx, State.me]
    refine ⟨_, exec_mon_of_ok ht, ?advanced, ?memory, ?entry⟩
    case advanced =>
      rw [State.retire, State.me_modMe, State.me_arm, hme]
    case memory =>
      rw [State.retire_mem, State.mem_arm, hmem]
    case entry =>
      rw [State.retire_watches, hfsq, hfcx]
      exact armed
  case fired => exact exec_mwait_of_reason hb hw hr (State.mwaitReason_of_fired hw hf)
  case timeout =>
    have limit : mwaitLimit (s.rs a) = 0 := by simp [mwaitLimit, h0]
    exact exec_mwait_of_reason hb hw hr (State.mwaitReason_of_timeout hw hf (by omega))
  case restored =>
    refine ⟨_, exec_mwait_of_restored hb hw hr, ?answered, ?kept⟩
    case answered =>
      rw [State.retire, State.me_modMe, State.wS, State.me_modMe]
      rfl
    case kept =>
      rw [State.retire_watches, State.wS_watches]
      exact List.mem_map.2 ⟨w, List.mem_of_find?_eq_some hw, if_pos (beq_self_eq_true w)⟩
  case waits =>
    have limit : s.now - s.now < mwaitLimit (s.rs a) := by simp [mwaitLimit]; omega
    rw [exec_mwait_of_armed hb hw hr, State.mwaitReason_of_early hw hf limit, hh]
    rfl

end

section
/-! SUPPORT. The loop of a core while a bundle issues: only a wrong argument of the memory unit ends it (08 R179, R181). -/

namespace Sys2Proof.Machine

/-! ## What the array's ports leave of a core (09 R193 to R201) -/

/-- A core but for its handles. -/
def VCore.unhandled (x : VCore) : VCore := { x with handles := Vector.replicate 64 Hnd.reset }

/-- Core `v` of square `q` but for its handles. -/
def State.unhandled (s : State) (q : Sq) (v : Vc) : VCore := (s.core q v).unhandled

theorem VCore.unhandled_failHnds (x : VCore) (p : Fin 64 → Hnd → Bool) (k : Nat) : (x.failHnds p k).unhandled = x.unhandled := by
  simp only [VCore.unhandled, VCore.failHnds]

section
variable (s : State) (q : Sq) (v : Vc)

theorem State.unhandled_modArr (f : Arr → Arr) : (s.modArr q f).unhandled q v = s.unhandled q v := congrArg VCore.unhandled (State.core_modArr ..)
theorem State.unhandled_modACore (w : Vc) (f : ACore → ACore) : (s.modACore q w f).unhandled q v = s.unhandled q v := State.unhandled_modArr ..
theorem State.unhandled_modCtx (c : Cx) (f : Ctx → Ctx) : (s.modCtx q c f).unhandled q v = s.unhandled q v :=
  congrArg VCore.unhandled (State.core_modCtx ..)

theorem State.unhandled_failCmdHnds (ms : List ACmd) (k : Nat) : (s.failCmdHnds q v ms k).unhandled q v = s.unhandled q v :=
  (congrArg VCore.unhandled (s.core_modCore q v _)).trans (VCore.unhandled_failHnds ..)

theorem State.unhandled_engineRecord (c : Cx) (w : Vc) (k : Nat) : (s.engineRecord q c w k).unhandled q v = s.unhandled q v := by
  grind [State.engineRecord, State.unhandled_modCtx]

theorem State.unhandled_endTerm : (s.endTerm q).unhandled q v = s.unhandled q v := by
  grind [State.endTerm, State.unhandled_modACore, State.unhandled_modArr]

theorem State.unhandled_yieldIdle : (s.yieldIdle q).unhandled q v = s.unhandled q v := by
  grind [State.yieldIdle, State.unhandled_endTerm]

theorem State.unhandled_freeBufs (c : Cx) (b : BitVec 2) : (s.freeBufs q c b).unhandled q v = s.unhandled q v := by
  grind [State.freeBufs, State.unhandled_yieldIdle, State.unhandled_modArr]

theorem State.unhandled_settleRelease (w : Vc) : (s.settleRelease q w).unhandled q v = s.unhandled q v := by
  grind [State.settleRelease, State.unhandled_freeBufs, State.unhandled_modACore, State.unhandled_endTerm]

theorem State.unhandled_arrayFault (k n : Nat) : (s.arrayFault q v k n).unhandled q v = s.unhandled q v := by
  grind [State.arrayFault, State.unhandled_settleRelease, State.unhandled_engineRecord, State.unhandled_endTerm, State.unhandled_modACore,
    State.unhandled_failCmdHnds]

theorem State.unhandled_acceptCmd (m : ACmd) : (s.acceptCmd q v m).unhandled q v = s.unhandled q v := by
  grind [State.acceptCmd, State.unhandled_arrayFault, State.unhandled_modACore]

theorem State.unhandled_offerCmd (c : Cx) (id : Nat) (x : Word) : (s.offerCmd q v c id x).unhandled q v = s.unhandled q v := by
  grind [State.offerCmd, State.unhandled_acceptCmd, State.unhandled_modACore, State.unhandled_modCtx]

theorem State.unhandled_leaseWord (x : Word) : (s.leaseWord q v x).unhandled q v = s.unhandled q v := by
  grind [State.leaseWord, State.leaseFault, State.leaseReq, State.leaseRel, State.leaseClr, State.unhandled_arrayFault, State.unhandled_yieldIdle,
    State.unhandled_freeBufs, State.unhandled_settleRelease, State.unhandled_modACore]

end

/-! ## What keeps the loop -/

/-- The loop that runs on core `v` of square `q`. -/
def State.loopOf (s : State) (q : Sq) (v : Vc) : Option LoopRun := (s.core q v).loop

theorem VCore.loop_pop (x : VCore) (e : Entry) (i : Nat) : (x.pop e i).loop = x.loop := by
  grind [VCore.pop]

theorem VCore.loop_ctlOp (x : VCore) (n : Nat) : (x.ctlOp n).loop = x.loop := by
  unfold VCore.ctlOp
  split <;> rfl

theorem VCore.loop_of_memOp {x y : VCore} {n : Nat} (h : x.memOp n = .ok y) : y.loop = x.loop := by
  simp only [VCore.memOp] at h
  split at h
  all_goals
    split at h
    · cases h
    · cases h; rfl

/-- A fault ends a loop or leaves it as it is. -/
theorem VCore.loop_afterFault (x : VCore) (c : Cx) (id now : Nat) : (x.afterFault c id now).loop = x.loop ∨ (x.afterFault c id now).loop = none := by
  grind [VCore.afterFault]

section
variable {s t : State} {q : Sq} {v : Vc}

theorem loopOf_of_unhandled (h : t.unhandled q v = s.unhandled q v) : t.loopOf q v = s.loopOf q v := by
  have loops := congrArg VCore.loop h
  exact loops

theorem State.loopOf_modCore {f : VCore → VCore} (h : ∀ x, (f x).loop = x.loop := by intro; rfl) :
    (s.modCore q v f).loopOf q v = s.loopOf q v :=
  (congrArg VCore.loop (s.core_modCore q v f)).trans (h _)

end

section
variable (s : State) (q : Sq) (v : Vc)

theorem State.loopOf_refill : ((s.refillArq q v).refillCrq q v).loopOf q v = s.loopOf q v := by
  obtain ⟨l, h, -⟩ := (s.refillArq q v).core_refillCrq q v
  rw [State.loopOf, h, State.core_refillArq]
  rfl

theorem State.loopOf_bundleFault (e : Entry) (id slot k : Nat) :
    (s.bundleFault q v e id slot k).loopOf q v = s.loopOf q v ∨ (s.bundleFault q v e id slot k).loopOf q v = none := by
  have drop : (s.modCore q v (fun x => x.afterFault e.ctx id s.now)).loopOf q v = s.loopOf q v ∨
      (s.modCore q v (fun x => x.afterFault e.ctx id s.now)).loopOf q v = none := by
    rw [State.loopOf, State.core_modCore]
    exact VCore.loop_afterFault ..
  unfold State.bundleFault
  simp only
  split
  · exact drop
  split
  · exact drop
  · rw [State.loopOf, State.core_modCtx]
    exact drop

theorem State.loopOf_takeSide (z : Option VSide) (load : Bool) : (s.takeSide q v z load).loopOf q v = s.loopOf q v := by
  cases z with
  | none => rfl
  | some z =>
    have moved : (match z.gen with
        | some (g, p) => s.modCore q v (fun x => { x with gens := vset x.gens g { x.gens[g] with pos := p + 1 } })
        | none => s).loopOf q v = s.loopOf q v := by
      split
      · exact State.loopOf_modCore
      · rfl
    unfold State.takeSide
    simp only
    split
    · exact (State.loopOf_modCore).trans moved
    · exact moved

theorem State.loopOf_startAccess (e : Entry) (id : Nat) (z : Option VSide × Option VSide) (y : VVal) (gm : Word) (counted : Bool) :
    (s.startAccess q v e id z y gm counted).loopOf q v = s.loopOf q v := by
  unfold State.startAccess
  split
  · rfl
  · exact (State.loopOf_modCore).trans ((State.loopOf_takeSide ..).trans (State.loopOf_takeSide ..))

theorem State.loopOf_writeDst (c : Cx) (id k : Nat) (m : Move) (y : VVal) (gm : Word) :
    (s.writeDst q v c id k m y gm).loopOf q v = s.loopOf q v := by
  unfold State.writeDst
  simp only
  split
  · rfl
  split
  · exact State.loopOf_modCore
  split
  · exact State.loopOf_modCore fun x => by split <;> [rfl; (split <;> rfl)]
  split
  · rfl
  split
  · exact State.loopOf_modCore fun x => by split <;> [rfl; (split <;> rfl)]
  split
  · split <;> exact State.loopOf_modCore
  split
  · exact State.loopOf_modCore
  split
  · exact loopOf_of_unhandled (State.unhandled_offerCmd ..)
  split
  · exact loopOf_of_unhandled (State.unhandled_modACore ..)
  split
  · exact loopOf_of_unhandled (State.unhandled_leaseWord ..)
  · exact State.loopOf_modCore

theorem State.loopOf_memIn (e : Entry) (id n : Nat) :
    (s.memIn q v e id n).loopOf q v = s.loopOf q v ∨ (s.memIn q v e id n).loopOf q v = none := by
  unfold State.memIn
  split
  · next h => exact .inl ((congrArg VCore.loop (State.core_setCore ..)).trans (VCore.loop_of_memOp h))
  · exact State.loopOf_bundleFault ..

/-- Of the operations that a bundle starts, LOOP apart, only one of the memory unit may end the loop. -/
theorem State.loopOf_trigger (e : Entry) {k : Nat} {m : Move} (y : VVal) (gm : Word) (hk : k < 8) (ht : m.trig = true)
    (hl : k = 7 → m.dst ≠ 0x100) : (s.trigger q v e k m y gm).loopOf q v = s.loopOf q v ∨
      (k = 6 ∧ (s.trigger q v e k m y gm).loopOf q v = none) := by
  have operand (b : Bool) (f : VCore → VCore) (hf : ∀ x, (f x).loop = x.loop) : (if b then s else s.modCore q v f).loopOf q v = s.loopOf q v := by
    split
    · rfl
    · exact State.loopOf_modCore hf
  unfold State.trigger
  simp only
  split
  · exact .inl ((State.loopOf_modCore).trans (operand _ _ fun _ => rfl))
  split
  · exact .inl (operand _ _ fun _ => rfl)
  split
  · exact .inl ((State.loopOf_modCore).trans (operand _ _ fun _ => rfl))
  split
  · next h6 =>
    rcases State.loopOf_memIn _ q v e _ (m.dst - 0x100) with h | h
    · exact .inl (h.trans (operand _ _ fun _ => rfl))
    · exact .inr ⟨h6, h⟩
  split
  · next h0 =>
    simp only [Move.trig, Bool.and_eq_true, decide_eq_true_eq] at ht
    exact absurd (by omega) (hl (by omega))
  · exact .inl ((State.loopOf_modCore fun x => x.loop_ctlOp _).trans (operand _ _ fun _ => rfl))

end

/-! ## The phases of a bundle that is no LOOP -/

/-- A core while bundle `e` issues: the number of its next bundle, its issued bundles, and the loop, unless an operation of the memory unit has ended
it. -/
def VCore.Issuing (e : Entry) (next : Nat) (issued : List Issued) (loop : Option LoopRun) (x : VCore) : Prop :=
  x.tally = (next, issued) ∧ (x.loop = loop ∨ ((e.slot 6).trig = true ∧ x.loop = none))

section
variable {s t : State} {q : Sq} {v : Vc} {e : Entry} {n : Nat} {is : List Issued} {l : Option LoopRun}

theorem issuing_of_kept (h : (s.core q v).Issuing e n is l) (ht : t.tally q v = s.tally q v) (hl : t.loopOf q v = s.loopOf q v) :
    (t.core q v).Issuing e n is l := by
  obtain ⟨tally, loop⟩ := h
  refine ⟨ht.trans tally, ?_⟩
  rw [show (t.core q v).loop = (s.core q v).loop from hl]
  exact loop

theorem Entry.of_mem_moves {p : Nat × Move} (h : p ∈ e.moves) : p.1 < 8 ∧ p.2 = e.slot p.1 ∧ p.2.nop = false := by
  simp only [Entry.moves, List.mem_filter, List.mem_map, List.mem_range, Bool.not_eq_true'] at h
  obtain ⟨⟨k, hk, rfl⟩, hn⟩ := h
  exact ⟨hk, rfl, hn⟩

/-- The operation of a move starts. -/
theorem issuing_trigger (h : (s.core q v).Issuing e n is l) (he : e.isLoop = false) {p : Nat × Move} (hp : p ∈ e.moves) (ht : p.2.trig = true)
    (y : VVal) (gm : Word) : ((s.trigger q v e p.1 p.2 y gm).core q v).Issuing e n is l := by
  obtain ⟨tally, loop⟩ := h
  obtain ⟨hk, hm, hn⟩ := Entry.of_mem_moves hp
  have noLoop : p.1 = 7 → p.2.dst ≠ 0x100 := fun h7 hd => by
    rw [hm, h7] at hn hd
    simp [Entry.isLoop, hn, hd] at he
  refine ⟨(State.tally_trigger ..).trans tally, ?_⟩
  rcases s.loopOf_trigger q v e y gm hk ht noLoop with hs | ⟨h6, hz⟩
  · rw [show ((s.trigger q v e p.1 p.2 y gm).core q v).loop = (s.core q v).loop from hs]
    exact loop
  · rw [hm, h6] at ht
    exact .inr ⟨ht, hz⟩

/-- A bundle that issues, again or for the first time, takes the core's next number, and the loop goes on unless its operation of the memory unit
ends it. -/
theorem State.issuing_phases (s : State) (q : Sq) (v : Vc) (he : e.isLoop = false) (z : Option VSide × Option VSide) (replay : Bool) :
    ((s.phases q v e z replay).core q v).Issuing e ((s.core q v).nextId + 1) (if replay then (s.core q v).issued else (s.core q v).issued ++
      [{ id := (s.core q v).nextId, ent := e, loop := (s.loopArgs q v e).isSome }]) (s.core q v).loop := by
  obtain ⟨is, his⟩ : ∃ is, (if replay then (s.core q v).issued else (s.core q v).issued ++
    [{ id := (s.core q v).nextId, ent := e, loop := (s.loopArgs q v e).isSome }]) = is := ⟨_, rfl⟩
  rw [his]
  unfold State.phases
  simp only
  refine List.foldlRecOn (motive := fun t : State => (t.core q v).Issuing e _ is _) _ _
    (List.foldlRecOn (motive := fun t : State => (t.core q v).Issuing e _ is _) _ _ ?started fun t ht p _ => ?written) fun t ht p hp => ?triggered
  case written => exact issuing_of_kept ht (State.tally_writeDst ..) (State.loopOf_writeDst ..)
  case triggered =>
    obtain ⟨m, hm, rfl⟩ := List.mem_map.1 hp
    by_cases htrig : m.2.trig = true
    · rw [if_pos htrig]
      exact issuing_trigger ht he hm htrig _ _
    · rw [if_neg htrig]
      exact ht
  case started =>
    refine issuing_of_kept (issuing_of_kept ?counted ((State.tally_refillCrq ..).trans (State.tally_refillArq ..)) (State.loopOf_refill ..))
      (State.tally_startAccess ..) (State.loopOf_startAccess ..)
    generalize ht : (if (e.loads || e.stores || e.cmds || e.fetches) = true then s.performAll q e.ctx else s) = t
    have hcore : t.core q v = s.core q v := by rw [← ht]; exact s.core_performed q v _ e.ctx
    rw [State.core_modCore, ← his]
    refine ⟨Prod.ext rfl ?issued, .inl ?loop⟩
    case issued =>
      simp only [VCore.tally]
      refine congrArg₂ (fun l b => if replay = true then l else l ++ [{ id := (s.core q v).nextId, ent := e, loop := b }])
        ((foldl_keeps (g := VCore.issued) (fun x p => ?_) _ _).trans (congrArg VCore.issued hcore))
        (State.isSome_loopArgs_congr (congrArg VCore.m hcore) e)
      split
      · exact congrArg Prod.snd (x.tally_pop e _)
      · rfl
    case loop =>
      refine (foldl_keeps (g := VCore.loop) (fun x p => ?_) _ _).trans (congrArg VCore.loop hcore)
      split
      · exact x.loop_pop e _
      · rfl

end

/-! ## The loop buffer -/

theorem exec_loopReplay (q : Sq) (v : Vc) (s : State) : exec (.loopReplay q v) s = execLoopReplay q v s := rfl

/-- The loop after a first issue of body entry `e`. -/
def LoopRun.afterIssue (l : LoopRun) (e : Entry) : Option LoopRun :=
  if l.body.length + 1 < l.n then some { l with body := l.body ++ [e] }
  else if l.count ≤ 1 then none else some { l with body := l.body ++ [e], it := 1, next := 0 }

/-- The loop after entry `next` of the loop buffer has issued again. -/
def LoopRun.afterReplay (l : LoopRun) : Option LoopRun :=
  if l.next + 1 < l.n then some { l with next := l.next + 1 }
  else if l.it + 1 < l.count then some { l with it := l.it + 1, next := 0 } else none

section
variable {x : VCore} {l : LoopRun}

theorem VCore.bodyIssued_none (h : x.loop = none) (e : Entry) : x.bodyIssued e = x := by
  simp only [VCore.bodyIssued, h]

theorem VCore.replayed_none (h : x.loop = none) : x.replayed = x := by
  simp only [VCore.replayed, h]

theorem VCore.bodyIssued_some (h : x.loop = some l) (e : Entry) : (x.bodyIssued e).loop = l.afterIssue e ∧ (x.bodyIssued e).nextId = x.nextId := by
  simp only [VCore.bodyIssued, h, LoopRun.afterIssue, List.length_append, List.length_singleton]
  split
  · exact ⟨rfl, rfl⟩
  · split <;> exact ⟨rfl, rfl⟩

theorem VCore.replayed_some (h : x.loop = some l) : x.replayed.loop = l.afterReplay ∧ x.replayed.tally = x.tally ∧
    (l.n ≤ l.next + 1 → l.it + 1 < l.count → x.replayed.lc[l.x] = BitVec.ofNat 64 (l.it + 1)) := by
  simp only [VCore.replayed, h, LoopRun.afterReplay]
  split
  · next hn => exact ⟨rfl, rfl, fun hle => absurd hn (Nat.not_lt.2 hle)⟩
  · split
    · exact ⟨rfl, rfl, fun _ _ => vset_same ..⟩
    · next hit => exact ⟨rfl, rfl, fun _ hlt => absurd hlt hit⟩

end

section
variable {s : State} {q : Sq} {v : Vc} {e : Entry} (hf : (s.core q v).fresh = false)
include hf

theorem State.tryIssue_of_waits (hw : s.bundleWaits q v e = true ∨ s.portWaits q v e = true) (replay : Bool) (drop : VCore → VCore)
    (after : State → State) : s.tryIssue q v e replay drop after = s := by
  have hseen : s.seenCore q v e = s := by simp [State.seenCore, hf]
  simp only [State.tryIssue, hseen]
  exact if_pos (by rcases hw with h | h <;> simp [h])

theorem State.tryIssue_of_ok (hw : s.bundleWaits q v e = false) (hp : s.portWaits q v e = false) {z : Option VSide × Option VSide}
    (hc : s.issueCheck q v e = .ok z) (replay : Bool) (drop : VCore → VCore) (after : State → State) :
    s.tryIssue q v e replay drop after = after ((s.modCore q v drop).phases q v e z replay) := by
  have hseen : s.seenCore q v e = s := by simp [State.seenCore, hf]
  have hclaim : (s.core q v).claimWaits e = false := by simp [VCore.claimWaits, hf]
  simp only [State.tryIssue, hseen, hclaim, hw, hp, hc]
  rfl

end

section
variable {s : State} {q : Sq} {v : Vc} {l : LoopRun} {e : Entry} (hl : (s.core q v).loop = some l)
include hl

/-- While a loop awaits its body, the head of the queue is its next entry (08 R179). -/
theorem exec_bundleIssue_of_body {rest : List Entry} (he : (s.core q v).eq = e :: rest) (hn : l.body.length < l.n) : exec (.bundleIssue q v) s =
    .next (if some e.ctx ≠ (s.core q v).claim.map tileCx ∨ e.isLoop = true then s.loopBodyFault q v l e
      else s.tryIssue q v e false VCore.dropHead (fun t => t.modCore q v (fun y => y.bodyIssued e))) := by
  simp only [exec_bundleIssue, execBundleIssue, he, hl, if_neg (Nat.not_le.2 hn), Bool.or_eq_true, decide_eq_true_eq]
  split <;> rfl

theorem exec_loopReplay_of_open (hn : l.body.length < l.n) : exec (.loopReplay q v) s = .next s := by
  simp only [exec_loopReplay, execLoopReplay, hl, if_pos hn]

/-- A loop that has its body issues the next entry of its buffer again. -/
theorem exec_loopReplay_of_next (hn : l.n ≤ l.body.length) (he : l.body[l.next]? = some e) :
    exec (.loopReplay q v) s = .next (s.tryIssue q v e true id (fun t => t.modCore q v VCore.replayed)) := by
  simp only [exec_loopReplay, execLoopReplay, hl, if_neg (Nat.not_lt.2 hn), he]

end

end Sys2Proof.Machine
end

section
open Sys2Proof Sys2Proof.Machine

/-- Settles O35: a body entry and a replay each issue as any bundle does, which leaves the loop running unless its operation of the memory unit ends it;
the loop then moves on. -/
theorem loopsReplay : Obligations.LoopsReplay := by
  unfold Obligations.LoopsReplay
  intro s q v l e rest z x hl
  refine ⟨fun hn he => ⟨fun hbad => ?bad, fun hctx hloop hf hw hc hp => ?issues, exec_loopReplay_of_open hl hn⟩,
    fun hn he hf hloop => ⟨fun hw => ?waits, fun hw hc hp => ?replays⟩⟩
  case bad => rw [exec_bundleIssue_of_body hl he hn, if_pos hbad]
  case waits => rw [exec_loopReplay_of_next hl hn he, State.tryIssue_of_waits hf hw]
  case issues =>
    have run := exec_bundleIssue_of_body hl he hn
    rw [if_neg (by simp [hctx, hloop, x]), State.tryIssue_of_ok hf hw hp hc] at run
    refine ⟨_, run, ?_⟩
    obtain ⟨tally, loop⟩ := (s.modCore q v VCore.dropHead).issuing_phases q v hloop z false
    have number := congrArg Prod.fst tally
    rw [State.core_modCore] at number loop ⊢
    rcases loop with loop | ⟨trig, loop⟩
    · obtain ⟨after, kept⟩ := VCore.bodyIssued_some (loop.trans hl) e
      exact ⟨kept.trans number, .inr after⟩
    · rw [VCore.bodyIssued_none loop]
      exact ⟨number, .inl ⟨trig, loop⟩⟩
  case replays =>
    have run := exec_loopReplay_of_next hl hn he
    rw [State.tryIssue_of_ok hf hw hp hc] at run
    refine ⟨_, run, ?_⟩
    obtain ⟨tally, loop⟩ := (s.modCore q v id).issuing_phases q v hloop z true
    rw [State.core_modCore] at tally loop ⊢
    rcases loop with loop | ⟨trig, loop⟩
    · obtain ⟨after, kept, counter⟩ := VCore.replayed_some (loop.trans hl)
      have tally := kept.trans tally
      exact ⟨congrArg Prod.fst tally, .inr ⟨congrArg Prod.snd tally, after, counter⟩⟩
    · rw [VCore.replayed_none loop]
      exact ⟨congrArg Prod.fst tally, .inl ⟨trig, loop⟩⟩

end

section
/-! SUPPORT. What bundles leave in flight: results of units, retirement, and accesses of the V path (07 R148, R156; 08 R174, R182 to R184). -/

namespace Sys2Proof.Machine

theorem exec_unitResultDelivery (q : Sq) (v : Vc) (k : Slot) (s : State) :
    exec (.unitResultDelivery q v k) s = execUnitResultDelivery q v k s := rfl
theorem exec_bundleRetire (q : Sq) (v : Vc) (s : State) : exec (.bundleRetire q v) s = execBundleRetire q v s := rfl
theorem exec_streamLoadLand (q : Sq) (v : Vc) (s : State) : exec (.streamLoadLand q v) s = execStreamLoadLand q v s := rfl
theorem exec_storePerformed (q : Sq) (w : Storer) (s : State) : exec (.storePerformed q w) s = execStorePerformed q w s := rfl
theorem exec_queuedGeneratorFetch (q : Sq) (v : Vc) (g : Slot) (s : State) :
    exec (.queuedGeneratorFetch q v g) s = execQueuedGeneratorFetch q v g s := rfl

section
variable {s : State} {q : Sq} {v : Vc}

/-! ## Results of units (08 R174, R175) -/

/-- What the oldest operation of a unit delivers to its core. -/
def VCore.deliverOldest (x : VCore) (p : Pend) (ps : List Pend) : VCore :=
  let x := { x with pend := ps, vcond := x.vcond ||| p.cond }
  if p.unit.val < 4 then
    { x with rv := vset x.rv (Fin.ofNat 4 p.unit.val) p.rv, f := match p.f with
      | some w => vset x.f (Fin.ofNat 4 p.unit.val) w
      | none => x.f }
  else x.setR p.unit.val p.rs

theorem exec_unitResultDelivery_of_oldest {p : Pend} {ps : List Pend} (h : (s.core q v).pend = p :: ps) :
    exec (.unitResultDelivery q v p.unit) s = .next (s.setCore q v ((s.core q v).deliverOldest p ps)) := by
  have found : (s.core q v).pend.find? (fun y => y.unit == p.unit) = some p := by rw [h, List.find?_cons, beq_self_eq_true]
  have left : updFirst (fun y => y.unit == p.unit) (fun _ => []) (s.core q v).pend = ps := by rw [h, updFirst, if_pos (beq_self_eq_true p.unit)]; rfl
  rw [exec_unitResultDelivery, execUnitResultDelivery, found]
  simp only [State.modCore, left]
  rfl

theorem VCore.deliverOldest_vector {x : VCore} {p : Pend} {ps : List Pend} {k : Fin 4} {w : Word} (hk : p.unit.val = k.val) (hf : p.f = some w) :
    x.deliverOldest p ps = { x with pend := ps, vcond := x.vcond ||| p.cond, rv := vset x.rv k p.rv, f := vset x.f k w } := by
  have unit : Fin.ofNat 4 p.unit.val = k := Fin.ext (by rw [Fin.val_ofNat, hk, Nat.mod_eq_of_lt k.isLt])
  simp only [VCore.deliverOldest, hf, unit]
  rw [if_pos (by omega)]

theorem VCore.deliverOldest_scalar {x : VCore} {p : Pend} {ps : List Pend} {k : Fin 4} (hk : p.unit.val = k.val + 4) :
    x.deliverOldest p ps = { x with pend := ps, vcond := x.vcond ||| p.cond, rs := vset x.rs k p.rs } := by
  have unit : scaUnit p.unit.val = k := Fin.ext (by rw [scaUnit, Fin.val_ofNat]; omega)
  simp only [VCore.deliverOldest, VCore.setR, unit]
  rw [if_neg (by omega)]

/-! ## Retirement (07 R148, R156) -/

theorem exec_bundleRetire_of_none (h : ∀ j ∈ (s.core q v).issued, (s.core q v).retirable j = false) : exec (.bundleRetire q v) s = .next s := by
  have found : (s.core q v).issued.find? (s.core q v).retirable = none := List.find?_eq_none.2 fun j hj => by simp [h j hj]
  rw [exec_bundleRetire, execBundleRetire]
  simp only [found]

/-- The first bundle with nothing outstanding leaves the issued ones, and its sequence number is its context's. -/
theorem exec_bundleRetire_of_first {i : Issued} {js is : List Issued} (h : (s.core q v).issued = js ++ i :: is)
    (hj : ∀ j ∈ js, (s.core q v).retirable j = false) (hi : (s.core q v).retirable i = true) :
    ∃ gone, exec (.bundleRetire q v) s =
      .next ((s.modCore q v (fun x => { x with issued := x.issued.filter (fun j => j.id ≠ i.id), gone := gone, progress := s.now })).modCtx q i.ent.ctx
        (fun k => { k with rseq := vset k.rseq v i.ent.seq, rv := vset k.rv v true })) := by
  have found : (s.core q v).issued.find? (s.core q v).retirable = some i := by
    rw [h, List.find?_append, List.find?_eq_none.2 fun j hm => by simp [hj j hm], List.find?_cons_of_pos hi]
    rfl
  rw [exec_bundleRetire, execBundleRetire]
  simp only [found]
  exact ⟨_, rfl⟩

theorem filter_id_ne {i : Issued} {js is : List Issued} (h : ∀ j ∈ js ++ is, j.id ≠ i.id) :
    (js ++ i :: is).filter (fun j => j.id ≠ i.id) = js ++ is := by
  have others : (js ++ is).filter (fun j => j.id ≠ i.id) = js ++ is := List.filter_eq_self.2 fun j hj => by simpa using h j hj
  rw [List.filter_append] at others
  rw [List.filter_append, List.filter_cons_of_neg (by simp), others]

/-! ## Accesses of the V path (08 R173, R182) -/

theorem State.endSide_of_no_handle {z : VSide} (h : z.hnd = none) : s.endSide q v (some z) = s := by
  have : ((some z).filter (fun y => !y.stale)).bind (·.hnd) = none := by
    cases hz : z.stale <;> simp [Option.filter, hz, h]
  rw [State.endSide, this]

/-- The oldest access left the V path. -/
def State.popV (s : State) (q : Sq) (v : Vc) : State := s.modCore q v (fun x => { x with vpath := x.vpath.tail })

theorem State.vpathHead_of_ok {a : VAcc} {t : State} (h : s.performV q v a = .ok t) : s.vpathHead q v a = t.popV q v := by
  simp only [State.vpathHead, h, State.popV]

theorem State.vpathHead_of_stall {a : VAcc} (h : s.performV q v a = .error .stall) : s.vpathHead q v a = s := by
  simp only [State.vpathHead, h]

section
variable {a : VAcc} {as : List VAcc} {z : VSide} (hv : (s.core q v).vpath = a :: as)
include hv

theorem exec_streamLoadLand_of_load (ht : a.to_ = none) : exec (.streamLoadLand q v) s = .next (s.vpathHead q v a) := by
  rw [exec_streamLoadLand, execStreamLoadLand]
  simp only [hv, ht]
  rfl

theorem exec_storePerformed_of_store (ht : a.to_ = some z) : exec (.storePerformed q (.vec v)) s = .next (s.vpathHead q v a) := by
  rw [exec_storePerformed, execStorePerformed]
  simp only [hv, ht]
  rfl

end

section
variable {a : VAcc} {z : VSide} {t : State}

theorem State.performV_of_load {y : VReg} {f : Fin 4} {r : Fin 16} (hf : a.from_ = some z) (hz : z.hnd = none) (ht : a.to_ = none)
    (hd : a.dst = some (f, r)) (hr : s.readSide q v a.ent.ctx z = .ok (y, t)) :
    s.performV q v a = .ok (t.modCore q v (fun x => { x with vf := vset x.vf f (vset x.vf[f] r (mergeV x.vf[f][r] y a.gm)) })) := by
  simp only [State.performV, hf, ht, hd, hr, State.endSide_of_no_handle hz]
  rfl

theorem State.performV_of_stall (hf : a.from_ = some z) (hr : s.readSide q v a.ent.ctx z = .error .stall) :
    s.performV q v a = .error .stall := by
  simp only [State.performV, hf, hr]
  rfl

theorem State.performV_of_store (hf : a.from_ = none) (hz : z.hnd = none) (ht : a.to_ = some z) (hd : a.dst = none)
    (hw : s.writeSide q v a.ent.ctx z a.data a.gm = .ok t) : s.performV q v a = .ok t := by
  simp only [State.performV, hf, ht, hd, hw, pure, Except.pure, bind, Except.bind, State.endSide_of_no_handle hz]
  rfl

end

/-! ## Queued generators (08 R183, R184) -/

theorem exec_queuedGeneratorFetch_of_ok {g : Fin 8} {y : Gen} {z : VSide} {r : VReg} {t : State} (hg : (s.core q v).gens[g] = y)
    (hf : y.fetching = true) (hq : y.queued = true) (hm : (s.core q v).mrq.length < 8) (hv : ∀ a ∈ (s.core q v).vpath, a.to_ = none)
    (hp : y.pos < y.total) (hn : (s.core q v).fresh = false)
    (hi : y.idx = true → (s.core q v).loading (bits y.cfg 8 2) (bits y.cfg 10 4) = false)
    (hz : (s.core q v).genSide g y.pos = .ok z) (hr : s.readSide q v (s.coreCtx q v) z = .ok (r, t)) :
    exec (.queuedGeneratorFetch q v g) s =
      .next (t.modCore q v (fun c => { c with mrq := c.mrq ++ [.val r], gens := vset c.gens g { y with pos := y.pos + 1 } })) := by
  have index : (y.idx && (s.core q v).loading (bits y.cfg 8 2) (bits y.cfg 10 4)) = false := by simpa using hi
  have room : decide ((s.core q v).mrq.length ≥ 8) = false := decide_eq_false (Nat.not_le.2 hm)
  have stores : (s.core q v).vpath.any (fun a => a.to_.isSome) = false := List.any_eq_false.2 fun a ha => by simp [hv a ha]
  have elements : (y.configured && decide (y.total ≤ y.pos)) = false := by rw [decide_eq_false (Nat.not_le.2 hp), Bool.and_false]
  rw [exec_queuedGeneratorFetch, execQueuedGeneratorFetch]
  simp only [hg, hf, hq, hn, index, room, stores, elements, hz, hr]
  rfl

end

end Sys2Proof.Machine
end

section
open Sys2Proof Sys2Proof.Machine

/-- Settles O36: what the oldest operation, the first bundle with nothing outstanding, the oldest access and a queued generator each leave. -/
theorem bundleResultsArrive : Obligations.BundleResultsArrive := by
  unfold Obligations.BundleResultsArrive
  intro s t q v p ps i js is a as z y f r g x put
  refine ⟨fun hp => ⟨fun k w hk hf => ?vector, fun k hk => ?scalar⟩, fun hi hj hr hid => ?retires, exec_bundleRetire_of_none,
    fun hv hf hz => ⟨fun ht hd hr => ?lands, fun ht hr => ?stalls⟩, fun hv hf ht hz hd hw => ?stores, exec_queuedGeneratorFetch_of_ok rfl⟩
  case vector => rw [exec_unitResultDelivery_of_oldest hp, VCore.deliverOldest_vector hk hf]; rfl
  case scalar => rw [exec_unitResultDelivery_of_oldest hp, VCore.deliverOldest_scalar hk]; rfl
  case retires =>
    obtain ⟨gone, he⟩ := exec_bundleRetire_of_first hi hj hr
    refine ⟨_, he, ?issued, ?seq, ?seen, rfl⟩
    case issued =>
      rw [State.core_modCtx, State.core_modCore]
      exact (congrArg (List.filter _) hi).trans (filter_id_ne hid)
    case seq => rw [State.ctx_modCtx]; exact vset_same ..
    case seen => rw [State.ctx_modCtx]; exact vset_same ..
  case lands =>
    refine ⟨_, (exec_streamLoadLand_of_load hv ht).trans (congrArg _ (State.vpathHead_of_ok (State.performV_of_load hf hz ht hd hr))), ?path, ?lanes, rfl⟩
    case path => simp only [State.popV, State.core_modCore]
    case lanes =>
      intro j
      simp only [State.popV, State.core_modCore, vset_vset_get, and_self, if_true]
      simp [mergeV]
  case stalls => rw [exec_streamLoadLand_of_load hv ht, State.vpathHead_of_stall (State.performV_of_stall hf hr)]
  case stores => rw [exec_storePerformed_of_store hv ht, State.vpathHead_of_ok (State.performV_of_store hf hz ht hd hw)]; rfl

end

section
/-! SUPPORT. The array of a square, its cores and its lease under the updates of the model, and how a term begins, ends and is given up (09 R198 to
R201). -/

namespace Sys2Proof.Machine

/-! ## The array after updates -/

section
variable (s : State) (q : Sq) (v w : Vc)

theorem State.arr_modSq {s : State} {q p : Sq} {f : Square → Square} (h : ∀ x, (f x).arr = x.arr := by intro; rfl) :
    (s.modSq p f).arr q = s.arr q := by
  by_cases e : q = p
  · subst e; simp [State.arr, h]
  · simp [State.arr, State.sq_modSq_ne _ _ _ _ e]

@[simp] theorem State.arr_modCtx (c : Cx) (f : Ctx → Ctx) : (s.modCtx q c f).arr q = s.arr q := by
  simp [State.arr, State.modCtx, State.setCtx]

@[simp] theorem State.arr_modACore (f : ACore → ACore) :
    (s.modACore q v f).arr q = { s.arr q with cores := vset (s.arr q).cores v (f (s.acore q v)) } :=
  s.arr_modArr q _

@[simp] theorem State.acore_modACore (f : ACore → ACore) : (s.modACore q v f).acore q v = f (s.acore q v) := by
  rw [State.acore, State.arr_modACore]
  exact vset_same ..

theorem State.acore_modACore_ne {v w : Vc} (f : ACore → ACore) (h : w ≠ v) : (s.modACore q v f).acore q w = s.acore q w := by
  rw [State.acore, State.arr_modACore]
  exact vset_other _ _ _ _ h

theorem State.acore_modArr {f : Arr → Arr} (h : ∀ a, (f a).cores = a.cores := by intro; rfl) : (s.modArr q f).acore q w = s.acore q w := by
  rw [State.acore, State.arr_modArr, h]
  rfl

@[simp] theorem State.acore_modCtx (c : Cx) (f : Ctx → Ctx) : (s.modCtx q c f).acore q w = s.acore q w :=
  congrArg (fun x : Arr => x.cores[w]) (s.arr_modCtx q c f)

@[simp] theorem State.core_modACore (f : ACore → ACore) : (s.modACore q v f).core q w = s.core q w := State.core_modArr ..
@[simp] theorem State.ctx_modArr (c : Cx) (f : Arr → Arr) : (s.modArr q f).ctx q c = s.ctx q c := State.ctx_modSq
@[simp] theorem State.mem_modACore (f : ACore → ACore) : (s.modACore q v f).mem = s.mem := rfl

end

/-- The context of a core is that of its claim alone. -/
theorem coreCtx_of_core {s t : State} {q : Sq} {v : Vc} (h : t.core q v = s.core q v) : t.coreCtx q v = s.coreCtx q v := by
  rw [State.coreCtx, State.claimedBy, h]
  rfl

/-! ## The fields of lease words (09 Table 9-3) -/

/-- A field of a word taken into `n` bits needs no other cut to them. -/
theorem ofNat_bits (x : Word) (lo n : Nat) : BitVec.ofNat n (bits x lo n) = BitVec.ofNat n (x.toNat / 2 ^ lo) :=
  BitVec.eq_of_toNat_eq (by simp [bits, fld])

/-! ## Turns of the lease (09 R200, R201) -/

section
variable (s : State) (q : Sq) (v w : Vc)

/-- Whether the holder has no current command and another core a request that can be granted. -/
def State.MustYield : Prop := ∃ w, (s.arr q).holder = some w ∧ (s.acore q w).cur = none ∧ s.otherGrantable q w = true

theorem State.yieldIdle_of_mustYield (h : s.MustYield q) : s.yieldIdle q = s.endTerm q := by
  obtain ⟨w, hh, hc, ho⟩ := h
  simp [State.yieldIdle, hh, hc, ho]

theorem State.yieldIdle_of_not (h : ¬ s.MustYield q) : s.yieldIdle q = s := by
  unfold State.yieldIdle
  split
  · next w hh => exact if_neg fun e => h ⟨w, hh, by simpa using e⟩
  · rfl

theorem State.yieldIdle_cases : s.yieldIdle q = s.endTerm q ∨ s.yieldIdle q = s :=
  (em (s.MustYield q)).imp (s.yieldIdle_of_mustYield q) (s.yieldIdle_of_not q)

@[simp] theorem State.holder_endTerm : ((s.endTerm q).arr q).holder = none := by
  unfold State.endTerm
  split
  · next h => exact h
  · rw [State.arr_modACore, State.arr_modArr]

@[simp] theorem State.bufs_endTerm : ((s.endTerm q).arr q).bufs = (s.arr q).bufs := by
  unfold State.endTerm
  split
  · rfl
  · rw [State.arr_modACore, State.arr_modArr]

@[simp] theorem State.mem_endTerm : (s.endTerm q).mem = s.mem := by
  unfold State.endTerm
  split <;> rfl

@[simp] theorem State.core_endTerm : (s.endTerm q).core q w = s.core q w := by
  unfold State.endTerm
  split
  · rfl
  · exact (State.core_modACore ..).trans (State.core_modArr ..)

/-- The holder is gone only where it had to give way, and then nothing is left to give way to. -/
theorem State.holder_yieldIdle : ¬ (s.yieldIdle q).MustYield q ∧ (((s.yieldIdle q).arr q).holder = (s.arr q).holder ∨
    (∃ w, (s.arr q).holder = some w ∧ (s.acore q w).cur = none ∧ ((s.yieldIdle q).arr q).holder = none)) := by
  by_cases h : s.MustYield q
  · rw [s.yieldIdle_of_mustYield q h]
    obtain ⟨w, hh, hc, -⟩ := h
    exact ⟨fun ⟨w, hw, _⟩ => by simp at hw, .inr ⟨w, hh, hc, s.holder_endTerm q⟩⟩
  · rw [s.yieldIdle_of_not q h]
    exact ⟨h, .inl rfl⟩

@[simp] theorem State.bufs_yieldIdle : ((s.yieldIdle q).arr q).bufs = (s.arr q).bufs := by
  obtain h | h := s.yieldIdle_cases q <;> simp [h]

@[simp] theorem State.mem_yieldIdle : (s.yieldIdle q).mem = s.mem := by
  obtain h | h := s.yieldIdle_cases q <;> simp [h]

@[simp] theorem State.core_yieldIdle : (s.yieldIdle q).core q w = s.core q w := by
  obtain h | h := s.yieldIdle_cases q <;> simp [h]

/-- Freed buffers that `c` held are gone; of the rest of the array only the holder may go. -/
theorem State.freeBufs_spec (c : Cx) (b : BitVec 2) :
    (∀ i : Fin 2, ((s.freeBufs q c b).arr q).bufs[i] = if b.getLsbD i.val && (s.arr q).bufs[i] == some c then none else (s.arr q).bufs[i]) ∧
    (((s.freeBufs q c b).arr q).holder = (s.arr q).holder ∨
      (∃ w, (s.arr q).holder = some w ∧ (s.acore q w).cur = none ∧ ((s.freeBufs q c b).arr q).holder = none)) ∧
    ¬ (s.freeBufs q c b).MustYield q ∧ (s.freeBufs q c b).mem = s.mem := by
  unfold State.freeBufs
  generalize ht : s.modArr q _ = t
  obtain ⟨still, holder⟩ := t.holder_yieldIdle q
  have acore (w : Vc) : t.acore q w = s.acore q w := by rw [← ht]; exact s.acore_modArr q w
  have array : (t.arr q).holder = (s.arr q).holder := by rw [← ht, State.arr_modArr]
  refine ⟨fun i => ?_, ?_, still, ?_⟩
  · rw [State.bufs_yieldIdle, ← ht, State.arr_modArr]
    simp
  · simpa only [array, acore] using holder
  · rw [State.mem_yieldIdle, ← ht]
    rfl

/-- The array in the term of core `v`, before its written request is looked at. -/
def State.openTerm : State :=
  let late := Option.map (fun (m : ACmd) => { m with early := false })
  (s.modArr q (fun a => { a with holder := some v, term := 0 })).modACore q v
    (fun a => { a with cur := (late a.cur).map (·.point (s.sq q).cyc), nxt := late a.nxt })

/-- The buffers of a request of core `v` taken by context `c`, with its keep marks and its limit. -/
def State.takeBufs (c : Cx) (r : AReq) : State :=
  (s.modArr q (fun a =>
    let bufs := Vector.ofFn (fun (b : Fin 2) => if r.buf.getLsbD b.val then some c else a.bufs[b])
    { a with
      bufs := bufs
      keeps := Vector.ofFn (fun (b : Fin 2) => if bufs[b] == some c then r.keep.getLsbD b.val else a.keeps[b]) })).modACore q v
    (fun a => { a with req := none, lim := r.lim })

@[simp] theorem State.holder_openTerm : ((s.openTerm q v).arr q).holder = some v := by
  rw [State.openTerm, State.arr_modACore, State.arr_modArr]

@[simp] theorem State.term_openTerm : ((s.openTerm q v).arr q).term = 0 := by
  rw [State.openTerm, State.arr_modACore, State.arr_modArr]

@[simp] theorem State.bufs_openTerm : ((s.openTerm q v).arr q).bufs = (s.arr q).bufs := by
  rw [State.openTerm, State.arr_modACore, State.arr_modArr]

@[simp] theorem State.mem_openTerm : (s.openTerm q v).mem = s.mem := by
  rw [State.openTerm, State.mem_modACore, State.mem_modArr]

theorem State.req_openTerm : ((s.openTerm q v).acore q v).req = (s.acore q v).req := by
  rw [State.openTerm, State.acore_modACore, State.acore, State.arr_modArr]
  rfl

theorem State.coreCtx_openTerm : (s.openTerm q v).coreCtx q v = s.coreCtx q v :=
  coreCtx_of_core ((State.core_modACore ..).trans (State.core_modArr ..))

theorem State.bufsFree_iff (r : AReq) : s.bufsFree q v r = true ↔
    ∀ b : Fin 2, r.buf.getLsbD b.val = true → (s.arr q).bufs[b] = none ∨ (s.arr q).bufs[b] = some (s.coreCtx q v) := by
  simp only [State.bufsFree, maskBufs, List.all_eq_true, List.mem_filter, List.mem_finRange, true_and]
  refine forall₂_congr fun b _ => ?_
  cases (s.arr q).bufs[b] <;> simp

theorem State.bufsFree_openTerm (r : AReq) : (s.openTerm q v).bufsFree q v r = s.bufsFree q v r := by
  rw [Bool.eq_iff_iff, State.bufsFree_iff, State.bufsFree_iff, State.bufs_openTerm, State.coreCtx_openTerm]

/-- The written request of core `v` takes its buffers where each is free or held by its context; else it stands through the term. -/
theorem State.beginTerm_of_request {s : State} {q : Sq} {v : Vc} {r : AReq} (hr : (s.acore q v).req = some r) :
    s.beginTerm q v = if s.bufsFree q v r then (s.openTerm q v).takeBufs q v (s.coreCtx q v) r else s.openTerm q v := by
  have request := (s.req_openTerm q v).trans hr
  rw [← s.bufsFree_openTerm q v r]
  unfold State.beginTerm
  dsimp only
  split
  · next h => cases h.symm.trans request
  · next r' h =>
    obtain rfl : r = r' := Option.some.inj (request.symm.trans h)
    cases free : (s.openTerm q v).bufsFree q v r with
    | false => exact (if_pos (congrArg not free)).trans (if_neg nofun).symm
    | true => exact (if_neg (ne_true_of_eq_false (congrArg not free))).trans (if_pos rfl).symm

/-- Of the array a term that begins so changes the holder, the count, the buffers that the request names, and its core. -/
theorem State.takeBufs_openTerm (r : AReq) : let u := (s.openTerm q v).takeBufs q v (s.coreCtx q v) r
    (u.arr q).holder = some v ∧ (u.arr q).term = 0 ∧ u.mem = s.mem ∧ (u.acore q v).req = none ∧ (u.acore q v).lim = r.lim ∧
      ∀ b : Fin 2, (u.arr q).bufs[b] = if r.buf.getLsbD b.val then some (s.coreCtx q v) else (s.arr q).bufs[b] := by
  simp [State.takeBufs, State.arr_modArr]

end

end Sys2Proof.Machine
end

section
/-! SUPPORT. The specifier and lease ports of the array (09 R193, R197 to R201). -/

namespace Sys2Proof.Machine

theorem exec_specifierWrite (q : Sq) (v : Vc) (x : Word) (s : State) : exec (.specifierWrite q v x) s = execSpecifierWrite q v x s := rfl
theorem exec_leaseRequest (q : Sq) (v : Vc) (x : Word) (s : State) : exec (.leaseRequest q v x) s = execLeaseRequest q v x s := rfl
theorem exec_leaseRelease (q : Sq) (v : Vc) (x : Word) (s : State) : exec (.leaseRelease q v x) s = execLeaseRelease q v x s := rfl
theorem exec_leaseClear (q : Sq) (v : Vc) (x : Word) (s : State) : exec (.leaseClear q v x) s = execLeaseClear q v x s := rfl
theorem exec_leaseGrant (q : Sq) (s : State) : exec (.leaseGrant q) s = execLeaseGrant q s := rfl

/-! ## Lease words by their operation -/

section
variable {s : State} {q : Sq} {v : Vc} {x : Word}

/-- A word of each operation, met by the instruction of that operation, is what the port makes of it. -/
theorem exec_leaseWord (h : x.toNat % 4 < 3) :
    exec ([Instr.leaseRequest q v x, .leaseRelease q v x, .leaseClear q v x].getD (x.toNat % 4) (.leaseRequest q v x)) s =
      .next (s.leaseWord q v x) := by
  have op : bits x 0 2 = x.toNat % 4 := bits_zero x 2
  obtain h0 | h1 | h2 : x.toNat % 4 = 0 ∨ x.toNat % 4 = 1 ∨ x.toNat % 4 = 2 := by omega
  · rw [h0]; exact (exec_leaseRequest ..).trans (if_pos (op.trans h0))
  · rw [h1]; exact (exec_leaseRelease ..).trans (if_pos (op.trans h1))
  · rw [h2]; exact (exec_leaseClear ..).trans (if_pos (op.trans h2))

theorem State.leaseWord_of_malformed (h : leaseOk x = false) : s.leaseWord q v x = s.leaseFault q v 0x0CB := by
  rw [State.leaseWord, h]
  rfl

section
variable (h : leaseOk x = true)
include h

theorem State.leaseWord_of_request (op : x.toNat % 4 = 0) : s.leaseWord q v x = s.leaseReq q v x := by
  simp [State.leaseWord, h, bits_zero, op]

theorem State.leaseWord_of_release (op : x.toNat % 4 = 1) : s.leaseWord q v x = s.leaseRel q v x := by
  simp [State.leaseWord, h, bits_zero, op]

theorem State.leaseWord_of_clear (op : x.toNat % 4 = 2) : s.leaseWord q v x = s.leaseClr q v x := by
  simp [State.leaseWord, h, bits_zero, op]

end

/-! ## Requests (09 R198, R199) -/

/-- The request that a lease word writes. -/
def reqOf (x : Word) : AReq :=
  ⟨if x.toNat / 256 % 256 = 0 then 16 else x.toNat / 256 % 256, BitVec.ofNat 2 (x.toNat / 16), BitVec.ofNat 2 (x.toNat / 4)⟩

/-- A context that holds a buffer may name none that it does not hold. -/
theorem State.leaseReq_eq : s.leaseReq q v x =
    if (∃ b : Fin 2, (s.arr q).bufs[b] = some (s.coreCtx q v)) ∧
        (∃ b : Fin 2, (reqOf x).buf.getLsbD b.val = true ∧ (s.arr q).bufs[b] ≠ some (s.coreCtx q v)) then
      s.leaseFault q v 0x0CA
    else (s.modACore q v (fun a => { a with req := some (reqOf x) })).yieldIdle q := by
  simp only [State.leaseReq, ofNat_bits]
  refine if_congr ?_ rfl rfl
  simp only [Bool.and_eq_true, Bool.not_eq_true', List.isEmpty_eq_false_iff_exists_mem, List.any_eq_true, maskBufs, List.mem_filter,
    List.mem_finRange, true_and, List.contains_eq_mem, decide_eq_false_iff_not, beq_iff_eq]
  rfl

/-- Without a buffer held, or with every buffer that it names, a request is recorded. -/
theorem State.leaseReq_of_ordered (h : (∀ b : Fin 2, (s.arr q).bufs[b] ≠ some (s.coreCtx q v)) ∨
    ∀ b : Fin 2, (reqOf x).buf.getLsbD b.val = true → (s.arr q).bufs[b] = some (s.coreCtx q v)) :
    s.leaseReq q v x = (s.modACore q v (fun a => { a with req := some (reqOf x) })).yieldIdle q := by
  rw [State.leaseReq_eq, if_neg]
  rintro ⟨⟨b, held⟩, d, named, other⟩
  exact h.elim (fun none => none b held) (fun all => other (all d named))

/-! ## Releases and clears (09 R197, R201) -/

theorem State.leaseRel_of_unheld (hh : (s.arr q).holder ≠ some v) (hr : (s.acore q v).req = none) (hs : s.suspended q v = false) :
    s.leaseRel q v x = s.freeBufs q (s.coreCtx q v) (BitVec.ofNat 2 (x.toNat / 4)) := by
  simp only [State.leaseRel, ofNat_bits, hr, hs]
  exact if_pos (by simpa using hh)

theorem State.settleRelease_of_accepted (h : (s.acore q v).accepted ≠ []) : s.settleRelease q v = s := by
  unfold State.settleRelease
  split
  · rfl
  · exact if_pos (by simpa using h)

theorem State.leaseRel_of_accepted (hl : (s.arr q).holder = some v ∨ (s.acore q v).req ≠ none ∨ s.suspended q v = true)
    (ha : (s.acore q v).accepted ≠ []) :
    s.leaseRel q v x =
      s.modACore q v (fun y => { y with rel := some ((s.acore q v).rel.getD 0 ||| BitVec.ofNat 2 (x.toNat / 4)) }) := by
  have leased : ¬ (decide ((s.arr q).holder ≠ some v) && (s.acore q v).req.isNone && !s.suspended q v) = true := by
    simpa [or_iff_not_imp_left] using hl
  have later : ((s.modACore q v (fun a => { a with rel := some (a.rel.getD 0 ||| BitVec.ofNat 2 (x.toNat / 4)) })).acore q v).accepted ≠ [] := by
    rw [State.acore_modACore]
    exact ha
  rw [State.leaseRel, if_neg leased, ofNat_bits]
  exact State.settleRelease_of_accepted later

theorem State.leaseClr_eq : s.leaseClr q v x = s.modACore q v (fun y => { y with
    err := none, steps := if y.err.isSome then 0 else y.steps, cond := y.cond &&& ~~~(BitVec.ofNat 3 (x.toNat / 4 % 8)) }) := rfl

/-! ## The grant (09 R199, R200) -/

theorem exec_leaseGrant_of_free (hh : (s.arr q).holder = none) : exec (.leaseGrant q) s = .next (((s.nextHolder q).map (s.beginTerm q)).getD s) := by
  have idle : ¬ s.MustYield q := fun ⟨w, hw, _⟩ => nomatch hh.symm.trans hw
  rw [exec_leaseGrant, execLeaseGrant, s.yieldIdle_of_not q idle]
  simp only [hh]
  cases s.nextHolder q <;> rfl

end

end Sys2Proof.Machine
end

section
open Sys2Proof Sys2Proof.Machine

/-- Settles O41: a specifier by the room of its queue, a lease word by its form and its operation, and the grant by whether the buffers that the next
core's request names are free or held by its context. -/
theorem arrayPortsAndLease : Obligations.ArrayPortsAndLease := by
  unfold Obligations.ArrayPortsAndLease
  intro s q v x r a arr c op buf i idle
  refine ⟨fun room => ?room, fun full => ?full, fun hop bad => ?malformed, fun hop ok => ⟨fun h0 ordered => ?request, fun h0 held other => ?order,
    fun h1 hh hr hs => ?unheld, fun h1 hl ha => ?waits, fun h2 => ?clear⟩, fun hh hn => ?noneNext, fun hh hn hr => ?begins⟩
  case room => exact (exec_specifierWrite ..).trans (if_pos room)
  case full => exact (exec_specifierWrite ..).trans (if_neg (Nat.not_lt.2 full))
  case malformed => rw [exec_leaseWord hop, State.leaseWord_of_malformed bad]
  case request =>
    intro u
    have recorded : exec i s = .next (u.yieldIdle q) := by
      rw [exec_leaseWord hop, State.leaseWord_of_request ok h0, State.leaseReq_of_ordered ordered]
      rfl
    exact ⟨fun yields => by rw [recorded, u.yieldIdle_of_mustYield q yields], fun stays => by rw [recorded, u.yieldIdle_of_not q stays]⟩
  case order => rw [exec_leaseWord hop, State.leaseWord_of_request ok h0, State.leaseReq_eq, if_pos ⟨held, other⟩]
  case unheld =>
    obtain ⟨bufs, holder, still, mem⟩ := s.freeBufs_spec q c buf
    exact ⟨_, by rw [exec_leaseWord hop, State.leaseWord_of_release ok h1, State.leaseRel_of_unheld hh hr hs], bufs, holder, still, mem⟩
  case waits => rw [exec_leaseWord hop, State.leaseWord_of_release ok h1, State.leaseRel_of_accepted hl ha]
  case clear => rw [exec_leaseWord hop, State.leaseWord_of_clear ok h2, State.leaseClr_eq]
  case noneNext => rw [exec_leaseGrant_of_free hh, hn]; rfl
  case begins =>
    have grant : exec (.leaseGrant q) s = .next (s.beginTerm q v) := by rw [exec_leaseGrant_of_free hh, hn]; rfl
    rw [State.beginTerm_of_request hr] at grant
    by_cases free : s.bufsFree q v r = true
    · rw [if_pos free] at grant
      obtain ⟨holder, term, mem, req, lim, bufs⟩ := s.takeBufs_openTerm q v r
      refine ⟨_, grant, holder, term, mem, fun _ => ⟨req, lim, bufs⟩, fun b named taken other => ?_⟩
      exact (((s.bufsFree_iff q v r).1 free b named).elim taken other).elim
    · rw [if_neg free] at grant
      exact ⟨_, grant, s.holder_openTerm q v, s.term_openTerm q v, s.mem_openTerm q v, fun all => absurd ((s.bufsFree_iff q v r).2 all) free,
        fun _ _ _ _ => ⟨(s.req_openTerm q v).trans hr, s.bufs_openTerm q v⟩⟩

end

section
/-! SUPPORT. An engine-level fault of a core, and what it leaves of the core's slots and ports (09 R213). -/

namespace Sys2Proof.Machine

/-! ## A core but for its terms -/

/-- A command wherever it counts. -/
def ACmd.uncounted (m : ACmd) : ACmd := { m with inTerm := false }

/-- A core but for its requests, its releases and the terms in which its commands count. -/
def ACore.untermed (a : ACore) : ACore :=
  { a with cur := a.cur.map ACmd.uncounted, nxt := a.nxt.map ACmd.uncounted, req := none, rel := none }

section
variable {a b : ACore} (h : a.untermed = b.untermed)
include h

theorem ACore.err_of_untermed : a.err = b.err := (congrArg ACore.err h :)
theorem ACore.acseq_of_untermed : a.acseq = b.acseq := (congrArg ACore.acseq h :)
theorem ACore.hreg_of_untermed : a.hreg = b.hreg := (congrArg ACore.hreg h :)

theorem ACore.cur_of_untermed (hb : b.cur = none) : a.cur = none := by
  have e : a.cur.map ACmd.uncounted = b.cur.map ACmd.uncounted := congrArg ACore.cur h
  simpa [hb] using e

theorem ACore.nxt_of_untermed (hb : b.nxt = none) : a.nxt = none := by
  have e : a.nxt.map ACmd.uncounted = b.nxt.map ACmd.uncounted := congrArg ACore.nxt h
  simpa [hb] using e

end

/-- Terms do not count for whether a command is accepted. -/
theorem ACore.accepted_untermed (a : ACore) : a.untermed.accepted = a.accepted.map ACmd.uncounted := by
  have slots : [a.cur.map ACmd.uncounted, a.nxt.map ACmd.uncounted].filterMap id = ([a.cur, a.nxt].filterMap id).map ACmd.uncounted := by
    cases a.cur <;> cases a.nxt <;> rfl
  exact (congrArg (List.filter (·.accepted)) slots).trans List.filter_map

theorem ACore.accepted_of_untermed {a b : ACore} (h : a.untermed = b.untermed) (hb : b.accepted = []) : a.accepted = [] := by
  have e : a.accepted.map ACmd.uncounted = b.accepted.map ACmd.uncounted := by
    rw [← ACore.accepted_untermed, h, ACore.accepted_untermed]
  simpa [hb] using e

/-! ## What the turns of the lease leave -/

/-- Core `v` of the array but for its requests, its releases and the terms of its commands. -/
def State.untermed (s : State) (q : Sq) (v : Vc) : ACore := (s.acore q v).untermed

section
variable (s : State) (q : Sq) (v w : Vc)

theorem State.untermed_modACore {f : ACore → ACore} (h : ∀ a, (f a).untermed = a.untermed) :
    (s.modACore q w f).untermed q v = s.untermed q v := by
  by_cases e : v = w
  · subst e
    exact (congrArg ACore.untermed (s.acore_modACore q v f)).trans (h _)
  · exact congrArg ACore.untermed (s.acore_modACore_ne q f e)

theorem State.untermed_modArr {f : Arr → Arr} (h : ∀ a, (f a).cores = a.cores := by intro; rfl) : (s.modArr q f).untermed q v = s.untermed q v :=
  congrArg ACore.untermed (s.acore_modArr q v h)

theorem State.untermed_endTerm : (s.endTerm q).untermed q v = s.untermed q v := by
  unfold State.endTerm
  split
  · rfl
  · refine (State.untermed_modACore _ q v _ fun a => ?_).trans (s.untermed_modArr q v)
    simp only [ACore.untermed, Option.map_map]
    rfl

theorem State.untermed_yieldIdle : (s.yieldIdle q).untermed q v = s.untermed q v := by
  obtain h | h := s.yieldIdle_cases q
  · rw [h, State.untermed_endTerm]
  · rw [h]

theorem State.untermed_freeBufs (c : Cx) (b : BitVec 2) : (s.freeBufs q c b).untermed q v = s.untermed q v :=
  (State.untermed_yieldIdle ..).trans (s.untermed_modArr q v)

theorem State.untermed_settleRelease : (s.settleRelease q w).untermed q v = s.untermed q v := by
  grind [State.settleRelease, State.untermed_endTerm, State.untermed_modACore, State.untermed_freeBufs, ACore.untermed]

theorem State.untermed_engineRecord (c : Cx) (k : Nat) : (s.engineRecord q c w k).untermed q v = s.untermed q v := by
  unfold State.engineRecord
  split
  · rfl
  · exact congrArg ACore.untermed (s.acore_modCtx q v c _)

/-! ## The fault -/

/-- A core's slot after its fault: only a command that is not accepted stays. -/
def keptSlot : Option ACmd → Option ACmd
  | some m => if m.accepted then none else some m
  | none => none

theorem accepted_of_keptSlot {o : Option ACmd} {m : ACmd} (h : keptSlot o = some m) : m.accepted = false := by
  unfold keptSlot at h
  split at h
  · split at h
    · cases h
    · next waits => cases h; exact Bool.eq_false_iff.2 waits
  · cases h

/-- A core in ERROR with a cause and the steps retired: no accepted command is left. -/
def ACore.faulted (a : ACore) (k n : Nat) : ACore := { a with err := some k, steps := n, cur := keptSlot a.cur, nxt := keptSlot a.nxt }

theorem ACore.accepted_faulted (a : ACore) (k n : Nat) : (a.faulted k n).accepted = [] := by
  simp only [ACore.accepted, List.filter_eq_nil_iff, List.mem_filterMap, List.mem_cons, List.not_mem_nil, or_false, id]
  rintro m ⟨o, rfl | rfl, h⟩
  · simp [accepted_of_keptSlot h]
  · simp [accepted_of_keptSlot h]

/-- The terms apart, a fault does to its core no more than that. -/
theorem State.untermed_arrayFault (k n : Nat) : (s.arrayFault q v k n).untermed q v = ((s.acore q v).faulted k n).untermed := by
  have faulted : ((s.failCmdHnds q v (s.acore q v).accepted k).modACore q v (fun a => a.faulted k n)).untermed q v =
      ((s.acore q v).faulted k n).untermed := by
    rw [State.untermed, State.acore_modACore, State.failCmdHnds, State.acore_modCore]
  unfold State.arrayFault
  simp only
  rw [State.untermed_settleRelease, State.untermed_engineRecord]
  split
  · exact (State.untermed_endTerm ..).trans faulted
  · exact faulted

/-- After its fault a core is in ERROR with no accepted command; its numbering, its holding register and a free second slot stay. -/
theorem State.acore_arrayFault (k n : Nat) : let u := (s.arrayFault q v k n).acore q v
    u.err = some k ∧ u.acseq = (s.acore q v).acseq ∧ u.hreg = (s.acore q v).hreg ∧ u.accepted = [] ∧
      ((s.acore q v).nxt = none → u.nxt = none) :=
  have h : ((s.arrayFault q v k n).acore q v).untermed = ((s.acore q v).faulted k n).untermed := s.untermed_arrayFault q v k n
  ⟨ACore.err_of_untermed h, (ACore.acseq_of_untermed h :), (ACore.hreg_of_untermed h :),
    ACore.accepted_of_untermed h (ACore.accepted_faulted ..), fun hn => ACore.nxt_of_untermed h (congrArg keptSlot hn)⟩

end

end Sys2Proof.Machine
end

section
/-! SUPPORT. The acceptance of a command word: its checks in their order, and what the first of them that fails or none leaves (09 R194, R195, R213,
R214; 13 R298). -/

namespace Sys2Proof.Machine

/-! ## The checks at acceptance (09 R195, 13 R298) -/

/-- Whether core `v` holds the lease or has a request for it, written or standing. -/
def State.leased (s : State) (q : Sq) (v : Vc) : Bool := (s.arr q).holder == some v || (s.acore q v).req.isSome || s.suspended q v

theorem need_bind {α : Type} (b : Bool) (k : Nat) (f : Except Nat α) : (need b k >>= fun _ => f) = if b = false then .error k else f := by
  cases b <;> rfl

/-- The budget of the task, then the five checks in their order: the first that fails answers. -/
theorem State.cmdCheck_eq {s : State} {q : Sq} {v : Vc} {m : ACmd} {want : Nat} {roles : List Role}
    (hr : opRoles (cword m.word).op = some roles) : s.cmdCheck q v m want =
      if m.excess = true then .error 0x131
      else if s.leased q v = false then .error 0x0C0
      else if cmdLegal m.word = false then .error 0x0C1
      else if m.specs.length < want then .error 0x0C3
      else if (∃ e ∈ roles.zip m.specs, specLegal (cword m.word) e.1 e.2 = false) ∨ pairLegal (cword m.word) m.specs = false then .error 0x0C2
      else if overlaps (cword m.word) (roles.zip m.specs) = true then .error 0x0CC
      else .ok () := by
  have last (b : Bool) : need (!b) OPERAND_OVERLAP = if b = true then .error 0x0CC else .ok () := by cases b <;> rfl
  have specs (l : List (Role × Word)) (p : Role × Word → Bool) (b : Bool) :
      (l.all p && b) = false ↔ (∃ e ∈ l, p e = false) ∨ b = false := by
    rw [Bool.and_eq_false_iff, List.all_eq_false]
    simp
  simp only [State.cmdCheck, need_bind, hr, Option.getD_some, last, specs, Bool.not_eq_false', decide_eq_false_iff_not, Nat.not_le]
  rfl

/-! ## The acceptance (09 R194, R213) -/

section
variable (s : State) (q : Sq) (v : Vc) (m : ACmd)

/-- The specifiers that a command word takes. -/
def ACmd.wants (m : ACmd) : Nat := ((opRoles (cword m.word).op).getD []).length

/-- A command as core `v` accepts it. -/
def State.accepting : ACmd :=
  { m with
    accepted := true, seq := (s.acore q v).acseq, specs := (s.acore q v).spq.take m.wants
    inTerm := s.leased q v, early := (s.acore q v).req.isSome || s.suspended q v, pointCyc := (s.sq q).cyc }

/-- Core `v` with one more command numbered and its specifiers taken. -/
def State.numbered (n : Nat) : State := s.modACore q v (fun a => { a with acseq := (a.acseq + 1) % 2 ^ 16, spq := a.spq.drop n })

theorem State.leased_numbered (n : Nat) : (s.numbered q v n).leased q v = s.leased q v := by
  simp only [State.leased, State.suspended, State.numbered, State.acore_modACore, State.arr_modACore]

section
variable {s q v m} (he : (s.acore q v).err = none) (hv : m.void = false)
include he hv

theorem State.acceptCmd_of_error {k : Nat} (hc : (s.numbered q v m.wants).cmdCheck q v (s.accepting q v m) m.wants = .error k) :
    s.acceptCmd q v m = (s.numbered q v m.wants).arrayFault q v k 0 := by
  have live : ((s.acore q v).err.isSome || m.void) = false := by rw [he, hv]; rfl
  unfold State.acceptCmd
  refine (if_neg (Bool.eq_false_iff.1 live)).trans ?_
  split
  · next c h => cases h.symm.trans hc; rfl
  · next h => cases h.symm.trans hc

theorem State.acceptCmd_of_ok (hc : (s.numbered q v m.wants).cmdCheck q v (s.accepting q v m) m.wants = .ok ()) :
    s.acceptCmd q v m = (s.numbered q v m.wants).modACore q v (fun a =>
      if a.cur.isNone then { a with cur := some (s.accepting q v m) } else { a with nxt := some (s.accepting q v m) }) := by
  have live : ((s.acore q v).err.isSome || m.void) = false := by rw [he, hv]; rfl
  unfold State.acceptCmd
  refine (if_neg (Bool.eq_false_iff.1 live)).trans ?_
  split
  · next c h => cases h.symm.trans hc
  · rfl

/-- A command that a check refuses puts its core in ERROR. -/
theorem State.acceptCmd_refuses {k : Nat} (hc : (s.numbered q v m.wants).cmdCheck q v (s.accepting q v m) m.wants = .error k) :
    let u := (s.acceptCmd q v m).acore q v
    u.err = some k ∧ u.acseq = ((s.acore q v).acseq + 1) % 2 ^ 16 ∧ u.accepted = [] := by
  obtain ⟨err, acseq, -, accepted, -⟩ := (s.numbered q v m.wants).acore_arrayFault q v k 0
  rw [State.acceptCmd_of_error he hv hc]
  exact ⟨err, acseq.trans (congrArg ACore.acseq (s.acore_modACore q v _)), accepted⟩

/-- A command that passes them all becomes the current one, or stands behind it. -/
theorem State.acceptCmd_takes (hc : (s.numbered q v m.wants).cmdCheck q v (s.accepting q v m) m.wants = .ok ()) :
    let a := s.acore q v
    let u := (s.acceptCmd q v m).acore q v
    (if a.cur = none then u.cur = some (s.accepting q v m) else u.cur = a.cur ∧ u.nxt = some (s.accepting q v m)) ∧
      u.spq = a.spq.drop m.wants ∧ u.acseq = (a.acseq + 1) % 2 ^ 16 ∧ u.err = none ∧ (s.acceptCmd q v m).mem = s.mem := by
  rw [State.acceptCmd_of_ok he hv hc]
  simp only [State.numbered, State.acore_modACore, State.mem_modACore]
  cases (s.acore q v).cur <;> simp [he]

end
end

/-! ## A word written to dpa.cmd (09 R194, R214; 13 R298) -/

/-- Each instruction of the array writes a word of its operation to dpa.cmd. -/
theorem exec_arrayCommand (q : Sq) (v : Vc) (x : Word) (n : Fin 15) (s : State) :
    exec ([Instr.dpaMm q v x, .dpaWld q v x, .dpaZero q v x, .dpaDrain q v x, .dpaAccld q v x, .dpaAccadd q v x, .dpaCbld q v x, .dpaSync q v x,
      .dpaDist q v x, .dpaNear q v x, .dpaCupd q v x, .dpaCdiv q v x, .dpaCntr q v x, .dpaCmp24 q v x, .dpaCbenc q v x].getD n.val (.dpaMm q v x)) s =
    s.command q v ([0x00, 0x01, 0x03, 0x04, 0x05, 0x06, 0x07, 0x08, 0x10, 0x11, 0x12, 0x13, 0x14, 0x15, 0x16].getD n.val 0) x := by
  fin_cases n <;> rfl

section
variable {s : State} {q : Sq} {v : Vc} {c : Cx} {x : Word} {id op : Nat}

theorem State.command_of_free (ho : (cword x).op = op) (hn : (s.acore q v).nxt = none) :
    s.command q v op x = .next (s.offerCmd q v (s.coreCtx q v) ((s.core q v).nextId - 1) x) :=
  if_pos (by rw [hn]; simpa [cword] using ho)

theorem State.command_of_full (hn : (s.acore q v).nxt ≠ none) : s.command q v op x = .next s :=
  if_neg (by simp [hn])

/-- The word counted against the budget of context `c`, unless it exceeds it. -/
def State.budgeted (s : State) (q : Sq) (c : Cx) : State := if s.overAcmd q c then s else s.modCtx q c (fun k => { k with acmds := k.acmds + 1 })

theorem State.arr_budgeted : (s.budgeted q c).arr q = s.arr q := by
  unfold State.budgeted
  split
  · rfl
  · exact s.arr_modCtx q c _

theorem State.acore_budgeted : (s.budgeted q c).acore q v = s.acore q v := congrArg (fun x : Arr => x.cores[v]) State.arr_budgeted

theorem State.leased_budgeted : (s.budgeted q c).leased q v = s.leased q v := by
  simp only [State.leased, State.suspended, State.acore_budgeted, State.arr_budgeted]

theorem State.mem_budgeted : (s.budgeted q c).mem = s.mem := by
  unfold State.budgeted
  split <;> rfl

/-- The command of a word of bundle `id` of context `c`, before it is accepted. -/
def State.offered (s : State) (q : Sq) (c : Cx) (id : Nat) (x : Word) : ACmd :=
  { word := x, seq := 0, specs := [], steps := 0, pointSteps := 0, pointCyc := 0, accepted := false, since := (s.budgeted q c).now,
    void := false, inTerm := false, early := false, excess := s.overAcmd q c, ctx := c, id := id, handles := [] }

theorem State.offerCmd_of_room (h : (s.acore q v).hreg = [] ∨ x.getLsbD 31 = false) :
    s.offerCmd q v c id x = (s.budgeted q c).acceptCmd q v (s.offered q c id x) := by
  have room : ¬ (bit x 31 && !((s.budgeted q c).acore q v).hreg.isEmpty) = true := by
    rw [State.acore_budgeted, bit]
    exact h.elim (fun h => by rw [h]; exact ne_true_of_eq_false (Bool.and_false _)) (fun h => by rw [h]; exact nofun)
  exact if_neg room

/-- What the checks answer to such a word of an operation with operands `roles`, on what the core was before. -/
def State.offerCheck (s : State) (q : Sq) (v : Vc) (c : Cx) (x : Word) (roles : List Role) : Except Nat Unit :=
  let specs := (s.acore q v).spq.take roles.length
  if s.overAcmd q c = true then .error 0x131
  else if s.leased q v = false then .error 0x0C0
  else if cmdLegal x = false then .error 0x0C1
  else if (s.acore q v).spq.length < roles.length then .error 0x0C3
  else if (∃ e ∈ roles.zip specs, specLegal (cword x) e.1 e.2 = false) ∨ pairLegal (cword x) specs = false then .error 0x0C2
  else if overlaps (cword x) (roles.zip specs) = true then .error 0x0CC
  else .ok ()

section
variable {roles : List Role} (hr : opRoles (cword x).op = some roles)
include hr

theorem State.wants_offered : (s.offered q c id x).wants = roles.length := congrArg (fun r => (r.getD []).length) hr

theorem State.cmdCheck_offered : let t := s.budgeted q c; let m := s.offered q c id x
    (t.numbered q v m.wants).cmdCheck q v (t.accepting q v m) m.wants = s.offerCheck q v c x roles := by
  intro t m
  have wants : m.wants = roles.length := State.wants_offered hr
  have taken : (t.accepting q v m).specs = (s.acore q v).spq.take roles.length := by
    rw [State.accepting, wants, State.acore_budgeted]
  have short : ((s.acore q v).spq.take roles.length).length < roles.length ↔ (s.acore q v).spq.length < roles.length := by simp
  have check := State.cmdCheck_eq (s := t.numbered q v m.wants) (q := q) (v := v) (m := t.accepting q v m) (want := m.wants) hr
  rw [State.leased_numbered, State.leased_budgeted, taken, wants] at check
  simp only [short] at check
  rw [wants]
  exact check

section
variable (hh : (s.acore q v).hreg = [] ∨ x.getLsbD 31 = false) (he : (s.acore q v).err = none)
include hh he

theorem State.offerCmd_refuses {k : Nat} (hc : s.offerCheck q v c x roles = .error k) :
    let u := (s.offerCmd q v c id x).acore q v
    u.err = some k ∧ u.acseq = ((s.acore q v).acseq + 1) % 2 ^ 16 ∧ u.accepted = [] := by
  have live : ((s.budgeted q c).acore q v).err = none := State.acore_budgeted (s := s) ▸ he
  have refuses := State.acceptCmd_refuses (m := s.offered q c id x) live rfl ((State.cmdCheck_offered hr).trans hc)
  rw [State.acore_budgeted] at refuses
  rw [State.offerCmd_of_room hh]
  exact refuses

theorem State.offerCmd_takes (hc : s.offerCheck q v c x roles = .ok ()) :
    let a := s.acore q v
    let u := (s.offerCmd q v c id x).acore q v
    let m := (s.budgeted q c).accepting q v (s.offered q c id x)
    (if a.cur = none then u.cur = some m else u.cur = a.cur ∧ u.nxt = some m) ∧ m.seq = a.acseq ∧ m.specs = a.spq.take roles.length ∧
      u.spq = a.spq.drop roles.length ∧ u.acseq = (a.acseq + 1) % 2 ^ 16 ∧ u.err = none ∧ (s.offerCmd q v c id x).mem = s.mem := by
  have live : ((s.budgeted q c).acore q v).err = none := State.acore_budgeted (s := s) ▸ he
  have takes := State.acceptCmd_takes (m := s.offered q c id x) live rfl ((State.cmdCheck_offered hr).trans hc)
  rw [State.acore_budgeted, State.wants_offered hr, State.mem_budgeted] at takes
  rw [State.offerCmd_of_room hh]
  obtain ⟨slot, rest⟩ := takes
  refine ⟨slot, ?_, ?_, rest⟩
  · rw [State.accepting, State.acore_budgeted]
  · rw [State.accepting, State.acore_budgeted, State.wants_offered hr]

end
end
end

/-! ## Words that wait (09 R214; 15 R325) -/

theorem exec_arrayDeferredAccept (q : Sq) (v : Vc) (s : State) : exec (.arrayDeferredAccept q v) s = execArrayDeferredAccept q v s := rfl
theorem exec_arrayStall (q : Sq) (v : Vc) (s : State) : exec (.arrayStall q v) s = execArrayStall q v s := rfl

/-- A core whose waiting word, which takes `n` specifiers, is numbered and dropped with the holding register. -/
def ACore.dropStalled (a : ACore) (n : Nat) : ACore :=
  { a with nxt := none, hreg := [], acseq := (a.acseq + 1) % 2 ^ 16, spq := a.spq.drop n }

section
variable {s : State} {q : Sq} {v : Vc} {y : ACmd} (hy : (s.acore q v).nxt = some y) (ha : y.accepted = false)
include hy ha

theorem exec_arrayDeferredAccept_of_waiting : exec (.arrayDeferredAccept q v) s =
    if (s.acore q v).hreg = [] then .next ((s.modACore q v (fun b => { b with nxt := none })).acceptCmd q v y) else .next s := by
  rw [exec_arrayDeferredAccept, execArrayDeferredAccept]
  simp only [hy, ha]
  cases (s.acore q v).hreg <;> rfl

theorem exec_arrayStall_of_waiting : exec (.arrayStall q v) s =
    if s.now < y.since + 1000000 then .next s
    else if y.void = true then .next ((s.modACore q v (fun b => { b with nxt := none })).acceptCmd q v y)
    else if (s.acore q v).hreg = [] then .next s
    else .next ((s.modACore q v (fun a => a.dropStalled y.wants)).arrayFault q v 0x0C8 0) := by
  rw [exec_arrayStall, execArrayStall]
  simp only [hy, ha, Bool.false_or, decide_eq_true_eq]
  cases (s.acore q v).hreg <;> rfl

end

end Sys2Proof.Machine
end

section
open Sys2Proof Sys2Proof.Machine

/-- Settles O42: a word that is offered by the first check that fails, in their order, and a word that waits by its age, its task and the holding
register. -/
theorem arrayCommandsAreAccepted : Obligations.ArrayCommandsAreAccepted := by
  unfold Obligations.ArrayCommandsAreAccepted
  intro s q v x n roles y a c w i op specs rs failed taken hw hr
  rw [← hw] at hr
  have written : exec i s = s.command q v op x := exec_arrayCommand q v x n s
  have refuses {k : Nat} (hn : a.nxt = none) (he : a.err = none) (hh : a.hreg = [] ∨ x.getLsbD 31 = false)
      (hc : s.offerCheck q v c x roles = .error k) : failed (exec i s) k :=
    ⟨_, written.trans (State.command_of_free hw hn), State.offerCmd_refuses hr hh he hc⟩
  refine ⟨fun hn he hh excess => ?budget, fun hn he hh within => ⟨fun hl hq hs => ?unleased, fun held => ?held⟩, fun full => ?full,
    fun hy ha => ⟨fun hh => ?stays, fun hh => ?deferred, fun early => ?early, fun late void => ?void, fun live hh => ?room,
      fun late live hh => ?stalled⟩⟩
  case budget => exact refuses hn he hh (if_pos excess)
  case unleased =>
    have leased : s.leased q v = false := by
      rw [State.leased, hq, hs]
      simpa using hl
    exact refuses hn he hh ((if_neg (ne_true_of_eq_false within)).trans (if_pos leased))
  case held =>
    have leased : s.leased q v = true := by simp [State.leased, held]
    have afterLease : s.offerCheck q v c x roles = if cmdLegal x = false then .error 0x0C1
        else if a.spq.length < roles.length then .error 0x0C3
        else if (∃ e ∈ rs, specLegal w e.1 e.2 = false) ∨ pairLegal w specs = false then .error 0x0C2
        else if overlaps w rs = true then .error 0x0CC else .ok () :=
      (if_neg (ne_true_of_eq_false within)).trans (if_neg (ne_false_of_eq_true leased))
    refine ⟨fun illegal => refuses hn he hh (afterLease.trans (if_pos illegal)), fun legal short => ?_, fun legal enough => ?_⟩
    · exact refuses hn he hh (afterLease.trans ((if_neg (ne_false_of_eq_true legal)).trans (if_pos short)))
    have afterCount := afterLease.trans ((if_neg (ne_false_of_eq_true legal)).trans (if_neg (Nat.not_lt.2 enough)))
    have specsOk (all : ∀ e ∈ rs, specLegal w e.1 e.2 = true) (pair : pairLegal w specs = true) :
        ¬ ((∃ e ∈ rs, specLegal w e.1 e.2 = false) ∨ pairLegal w specs = false) := by
      rintro (⟨e, mem, bad⟩ | bad)
      · exact nomatch (all e mem).symm.trans bad
      · exact nomatch pair.symm.trans bad
    refine ⟨fun bad => refuses hn he hh (afterCount.trans (if_pos bad)), fun all pair meet => ?_, fun all pair apart => ?_⟩
    · exact refuses hn he hh (afterCount.trans ((if_neg (specsOk all pair)).trans (if_pos meet)))
    · have passed := afterCount.trans ((if_neg (specsOk all pair)).trans (if_neg (ne_true_of_eq_false apart)))
      obtain ⟨slot, seq, specs, rest⟩ := State.offerCmd_takes (id := (s.core q v).nextId - 1) hr hh he passed
      exact ⟨_, _, written.trans (State.command_of_free hw hn), slot, rfl, rfl, seq, specs, rfl, rfl, rest⟩
  case full => rw [written, State.command_of_full full]
  case stays => rw [exec_arrayDeferredAccept_of_waiting hy ha, if_neg hh]
  case deferred => rw [exec_arrayDeferredAccept_of_waiting hy ha, if_pos hh]
  case early => rw [exec_arrayStall_of_waiting hy ha, if_pos early]
  case void => rw [exec_arrayStall_of_waiting hy ha, if_neg (Nat.not_lt.2 late), if_pos void]
  case room => rw [exec_arrayStall_of_waiting hy ha, if_neg (ne_true_of_eq_false live), if_pos hh, ite_self]
  case stalled =>
    obtain ⟨err, -, hreg, -, nxt⟩ := (s.modACore q v (fun a => a.dropStalled y.wants)).acore_arrayFault q v 0x0C8 0
    rw [State.acore_modACore] at hreg nxt
    refine ⟨_, ?_, err, hreg, nxt rfl⟩
    rw [exec_arrayStall_of_waiting hy ha, if_neg (Nat.not_lt.2 late), if_neg (ne_true_of_eq_false live), if_neg hh]

end

section
/-! SUPPORT. What the reads of operands and the fetch of a tile leave alone: memory and the array (09 R204, R207; 19 R379). -/

namespace Sys2Proof.Machine

/-- From `s` to `t` memory and the array of square `q` stay. -/
def State.SameArray (q : Sq) (s t : State) : Prop := t.mem = s.mem ∧ t.arr q = s.arr q

section
variable {q : Sq} {s t u : State}

theorem State.SameArray.refl (s : State) : State.SameArray q s s := ⟨rfl, rfl⟩

theorem State.SameArray.trans (h : State.SameArray q s t) (g : State.SameArray q t u) : State.SameArray q s u :=
  ⟨g.1.trans h.1, g.2.trans h.2⟩

theorem sameArray_of_squares (hm : t.mem = s.mem) (hs : t.squares = s.squares) : State.SameArray q s t :=
  ⟨hm, congrArg (fun l => Square.arr l[q]) hs⟩

theorem State.sameArray_blkTouch (s : State) (a n : Nat) : State.SameArray q s (s.blkTouch a n) := sameArray_of_squares rfl rfl

theorem State.sameArray_bump (s : State) : State.SameArray q s s.bump := sameArray_of_squares rfl rfl

theorem sameArray_of_translate {p : Sq} {who : Option Nat} {n : Need} {va pa : Nat} (h : s.translate p who n va = .ok (pa, t)) :
    State.SameArray q s t := by
  obtain ⟨-, e, -, -, rfl⟩ := State.translate_ok h
  obtain ⟨w, d, hu⟩ := s.tlbUse_eq p e
  rw [hu]
  exact ⟨rfl, State.arr_modSq⟩

theorem State.sameArray_pathBytes (s : State) (pa : Nat) (bs : List Byte) : State.SameArray q s (s.pathBytes pa bs).2 := by
  unfold State.pathBytes
  split
  · dsimp only
    split
    · exact (s.sameArray_blkTouch _ _).trans (State.sameArray_bump _)
    · exact s.sameArray_blkTouch _ _
  · exact s.sameArray_blkTouch _ _

theorem sameArray_of_globBytes {p : Sq} {who : Option Nat} {fuel va n : Nat} {y : List Byte} (h : s.globBytes p who fuel va n = .ok (y, t)) :
    State.SameArray q s t := by
  induction fuel generalizing s va n y with
  | zero => cases h; exact .refl _
  | succ fuel ih =>
    unfold State.globBytes at h
    split at h
    · cases h; exact .refl _
    · dsimp only at h
      split at h
      · cases h
      · next pa s1 translated =>
        split at h
        · cases h
        · split at h
          · cases h
          · next l s2 rest =>
            cases h
            exact (sameArray_of_translate translated).trans ((State.sameArray_pathBytes ..).trans (ih rest))

theorem sameArray_of_readSpans {f : State → Nat → Nat → Except XStop (List Byte × State)} {l : List (Nat × Nat)} {y : Spans}
    (hf : ∀ {s o n bs t}, f s o n = .ok (bs, t) → State.SameArray q s t) (h : readSpans f s l = .ok (y, t)) : State.SameArray q s t := by
  induction l generalizing s y with
  | nil => cases h; exact .refl _
  | cons e l ih =>
    unfold readSpans at h
    split at h
    · cases h
    · next bs s1 first =>
      split at h
      · cases h
      · next rest => cases h; exact (hf first).trans (ih rest)

theorem sameArray_of_readOp {p : Sq} {v : Vc} {m : ACmd} {z : Spec} {n : Nat} {l : List (Nat × Nat)} {y : Spans}
    (h : s.readOp p v m z n l = .ok (y, t)) : State.SameArray q s t := by
  simp only [State.readOp] at h
  split at h
  case h_1 =>
    obtain ⟨a, -, h⟩ := except_bind_eq_ok.1 h
    refine sameArray_of_readSpans (fun h => ?_) h
    obtain ⟨b, -, ⟨⟩⟩ := except_map_eq_ok.1 h
    exact .refl _
  case h_2 =>
    split at h
    · cases h
    · split at h
      · cases h
      · cases h; exact .refl _
  case h_3 =>
    obtain ⟨a, -, h⟩ := except_bind_eq_ok.1 h
    obtain ⟨⟨bs, u⟩, hr, h⟩ := except_bind_eq_ok.1 h
    have read : State.SameArray q s u := sameArray_of_readSpans (fun h => by
      obtain ⟨b, -, ⟨⟩⟩ := except_map_eq_ok.1 h
      exact State.sameArray_blkTouch ..) hr
    cases h
    split
    · exact read.trans (State.sameArray_bump _)
    · exact read
  case h_4 =>
    obtain ⟨y, -, h⟩ := except_bind_eq_ok.1 h
    refine sameArray_of_readSpans (fun h => ?_) h
    split at h
    · cases h
    · cases h; exact .refl _
  case h_5 =>
    obtain ⟨y, -, h⟩ := except_bind_eq_ok.1 h
    exact sameArray_of_readSpans (fun h => sameArray_of_globBytes h) h

theorem sameArray_of_readTile {p : Sq} {v : Vc} {m : ACmd} {b : Nat} {y : Spans} (h : s.readTile p v m b = .ok (y, t)) :
    State.SameArray q s t := by
  simp only [State.readTile] at h
  split at h
  · split at h
    · obtain ⟨⟨l, u⟩, hu, ⟨⟩⟩ := except_map_eq_ok.1 h
      exact sameArray_of_readOp hu
    · exact sameArray_of_readOp h
  · exact sameArray_of_readOp h

/-- Of the array a fetch ahead changes the tile fetched alone. -/
theorem State.fetchAhead_spec (s : State) (q : Sq) (v : Vc) (m : ACmd) : (s.fetchAhead q v m).mem = s.mem ∧
    ∃ a, (s.fetchAhead q v m).arr q = { s.arr q with ahead := a } := by
  unfold State.fetchAhead
  split
  · exact ⟨rfl, none, s.arr_modArr q _⟩
  · next y _ =>
    split
    · next l u read =>
      obtain ⟨mem, array⟩ := sameArray_of_readTile (q := q) read
      refine ⟨mem, some ⟨v, y.seq, y.steps, l⟩, (State.arr_modArr ..).trans ?_⟩
      rw [array, State.arr_modArr]
    · exact ⟨rfl, none, s.arr_modArr q _⟩

end

end Sys2Proof.Machine
end

section
/-! SUPPORT. The retirement of a step of the array, and of a command that has retired every step (08 R168; 09 R207, R208, R213, R214). -/

namespace Sys2Proof.Machine

theorem exec_arrayStepRetire (q : Sq) (s : State) : exec (.arrayStepRetire q) s = execArrayStepRetire q s := rfl
theorem exec_arrayCommandRetire (q : Sq) (s : State) : exec (.arrayCommandRetire q) s = execArrayCommandRetire q s := rfl

/-! ## Requests of other cores -/

section
variable (s : State) (q : Sq)

theorem State.coreCtx_modACore (v w : Vc) (f : ACore → ACore) : (s.modACore q v f).coreCtx q w = s.coreCtx q w :=
  coreCtx_of_core (s.core_modACore q v w f)

theorem State.grantable_modACore {v w : Vc} (f : ACore → ACore) (h : w ≠ v) : (s.modACore q v f).grantable q w = s.grantable q w := by
  have context : (s.modACore q v f).ctx q 8 = s.ctx q 8 := s.ctx_modArr q 8 _
  simp only [State.grantable, State.saving, State.suspended, State.bufsFree, State.coreCtx_modACore, State.acore_modACore_ne _ _ _ h, context,
    State.arr_modACore]

/-- What one core does leaves the requests of the others grantable or not. -/
theorem State.otherGrantable_modACore (v : Vc) (f : ACore → ACore) : (s.modACore q v f).otherGrantable q v = s.otherGrantable q v := by
  unfold State.otherGrantable
  congr 1
  funext w
  by_cases h : w = v
  · simp [h]
  · rw [State.grantable_modACore _ _ f h]

end

/-! ## A step (09 R207, R208) -/

/-- A command with one more step retired, and the handles that the step takes. -/
def ACmd.stepped (m : ACmd) : ACmd := { m with steps := m.steps + 1, handles := m.handles ++ m.takes.map (·.1) }

/-- Whether the step that a command retires is a retirement point (09 R208). -/
def State.atPoint (s : State) (q : Sq) (m : ACmd) : Bool :=
  decide (m.stepped.steps - m.stepped.pointSteps ≥ 64) || decide ((s.sq q).cyc - m.stepped.pointCyc ≥ 14328) || s.saving q m.ctx

/-- The command after its step, with the point that the step is. -/
def State.afterStep (s : State) (q : Sq) (m : ACmd) : ACmd := if s.atPoint q m then m.stepped.point (s.sq q).cyc else m.stepped

theorem State.afterStep_eq (s : State) (q : Sq) (m : ACmd) : ∃ p k, s.afterStep q m = { m.stepped with pointSteps := p, pointCyc := k } := by
  unfold State.afterStep
  split
  · exact ⟨_, _, rfl⟩
  · exact ⟨_, _, rfl⟩

/-- The state `t` of a step's effect, with its handles taken, and core `v` with command `y` and the step's conditions. -/
def State.stepped (t : State) (q : Sq) (v : Vc) (m y : ACmd) (cond : Cond) : State :=
  (t.takeHnds q v m).modACore q v (fun a => { a with cur := some y, cond := a.cond ||| cond.bits, steps := m.steps + 1 })

theorem State.sameArray_takeHnds (t : State) (q : Sq) (v : Vc) (m : ACmd) : State.SameArray q t (t.takeHnds q v m) := by
  unfold State.takeHnds
  induction m.takes generalizing t with
  | nil => exact .refl t
  | cons e l ih =>
    have one : State.SameArray q t (t.modHnd q v e.1 (·.goto (if e.2 then .filling else .draining))) := ⟨rfl, t.arr_modCore q v _⟩
    exact one.trans (ih _)

/-- What a step answers by its effect: it waits, it faults, or it retires, where the term may end or the next tile be fetched. -/
def State.stepOutcome (s : State) (q : Sq) (v : Vc) (m : ACmd) : Out :=
  match s.stepEffect q v m with
  | .error .stall => .next s
  | .error (.cause k) => .next (s.arrayFault q v k m.steps)
  | .ok (t, cond) =>
    let u := t.stepped q v m (s.afterStep q m) cond
    if s.atPoint q m && (u.otherGrantable q v || s.saving q m.ctx) then .next (u.endTerm q)
    else if (cword m.word).op = 0x11 && m.stepped.steps = (cword m.word).nsteps then .next (u.modArr q (fun a => { a with ahead := none }))
    else .next (u.fetchAhead q v m.stepped)

section
variable {s t : State} {q : Sq} {v : Vc} {m : ACmd}

theorem State.stepOutcome_of_stall (h : s.stepEffect q v m = .error .stall) : s.stepOutcome q v m = .next s := by
  rw [State.stepOutcome, h]

theorem State.stepOutcome_of_cause {k : Nat} (h : s.stepEffect q v m = .error (.cause k)) :
    s.stepOutcome q v m = .next (s.arrayFault q v k m.steps) := by
  rw [State.stepOutcome, h]

/-- A step that retires, and neither ends a term by another core's request nor is saved, leaves its effect and at most a tile fetched ahead. -/
theorem State.stepOutcome_of_ok {cond : Cond} (h : s.stepEffect q v m = .ok (t, cond)) (hs : s.saving q m.ctx = false)
    (ho : (t.takeHnds q v m).otherGrantable q v = false) :
    ∃ u : State, s.stepOutcome q v m = .next u ∧ u.mem = t.mem ∧
      ∃ a, u.arr q = { (t.stepped q v m (s.afterStep q m) cond).arr q with ahead := a } := by
  have alone : ¬ (s.atPoint q m && ((t.stepped q v m (s.afterStep q m) cond).otherGrantable q v || s.saving q m.ctx)) = true := by
    rw [State.stepped, State.otherGrantable_modACore, ho, hs, Bool.or_false, Bool.and_false]
    exact nofun
  have mem : (t.stepped q v m (s.afterStep q m) cond).mem = t.mem := (t.sameArray_takeHnds q v m).1
  have outcome : s.stepOutcome q v m = if (cword m.word).op = 0x11 && m.stepped.steps = (cword m.word).nsteps
      then .next ((t.stepped q v m (s.afterStep q m) cond).modArr q (fun a => { a with ahead := none }))
      else .next ((t.stepped q v m (s.afterStep q m) cond).fetchAhead q v m.stepped) := by
    rw [State.stepOutcome, h]
    exact if_neg alone
  rw [outcome]
  split
  · exact ⟨_, rfl, mem, none, State.arr_modArr ..⟩
  · obtain ⟨same, a, array⟩ := (t.stepped q v m (s.afterStep q m) cond).fetchAhead_spec q v m.stepped
    exact ⟨_, rfl, same.trans mem, a, array⟩

theorem State.running_of_holder (hh : (s.arr q).holder = some v) (hc : (s.acore q v).cur = some m) (ha : m.accepted = true) (hv : m.void = false) :
    s.running q = some (v, m) := by
  simp [State.running, hh, hc, ha, hv]

section
variable (hr : s.running q = some (v, m))
include hr

theorem exec_arrayStepRetire_of_before (hb : s.vpathBefore q v m.id = true) : exec (.arrayStepRetire q) s = .next s := by
  rw [exec_arrayStepRetire, execArrayStepRetire]
  simp only [hr]
  exact if_pos (by rw [hb, Bool.or_true])

section
variable (hn : m.steps < (cword m.word).nsteps) (hb : s.vpathBefore q v m.id = false)
include hn hb

theorem exec_arrayStepRetire_of_unheld (hz : m.steps = 0) (hu : ∃ b ∈ (cword m.word).bufs, (s.arr q).bufs[b] ≠ some m.ctx) :
    exec (.arrayStepRetire q) s = .next (s.arrayFault q v 0x0C9 0) := by
  rw [exec_arrayStepRetire, execArrayStepRetire]
  simp only [hr]
  refine (if_neg (by simp [hb, hn])).trans (if_pos ?_)
  simpa [hz] using hu

theorem exec_arrayStepRetire_of_held (hu : ∀ b ∈ (cword m.word).bufs, (s.arr q).bufs[b] = some m.ctx) :
    exec (.arrayStepRetire q) s = s.stepOutcome q v m := by
  rw [exec_arrayStepRetire, execArrayStepRetire]
  simp only [hr]
  refine (if_neg (by simp [hb, hn])).trans ((if_neg ?_).trans ?_)
  · simpa using fun _ => hu
  · rfl

end
end
end

/-! ## What a step leaves (09 R210) -/

section
variable (s t : State) (q : Sq) (v : Vc) (m y : ACmd) (cond : Cond)

theorem State.arr_stepped : ∃ l, (t.stepped q v m y cond).arr q = { t.arr q with cores := l } := by
  rw [State.stepped, State.arr_modACore, (t.sameArray_takeHnds q v m).2]
  exact ⟨_, rfl⟩

theorem State.acore_stepped : (t.stepped q v m y cond).acore q v =
    { (t.takeHnds q v m).acore q v with
      cur := some y, cond := ((t.takeHnds q v m).acore q v).cond ||| cond.bits, steps := m.steps + 1 } :=
  State.acore_modACore ..

/-- DPA.ZERO clears the words and the counts of its buffer. -/
theorem State.stepEffect_zero (h : (cword m.word).op = 0x03) : s.stepEffect q v m = .ok (s.modArr q (fun a =>
    { a with acc := mclear a.acc ((cword m.word).ab * 32768) 32768, counts := mclear a.counts ((cword m.word).ab * 128) 128 }), {}) := by
  simp only [State.stepEffect, h]
  rfl

theorem State.stepEffect_sync (h : (cword m.word).op = 0x08) : s.stepEffect q v m = .ok (s, {}) := by
  simp only [State.stepEffect, h]
  rfl

/-- A word of a buffer lies in the 32,768 that are cleared with it. -/
theorem Arr.accAt_of_cleared {a b : Arr} {ab r n : Nat} (h : b.acc = mclear a.acc (ab * 32768) 32768) (hr : r < 256) (hn : n < 128) :
    b.accAt ab r n = 0 := by
  rw [Arr.accAt, h, mget_mclear, if_pos]
  unfold accKey
  omega

end

/-! ## The end of a command (08 R168; 09 R201, R214) -/

section
variable {s : State} {q : Sq} {v : Vc} {m : ACmd}

/-- A completion with room in arq and an empty holding register enters arq, where the core is still its context's. -/
theorem State.postArq_spec (c : Cx) (w : Word) (hl : (s.core q v).arq.length < 32) (hh : (s.acore q v).hreg = []) :
    (s.postArq q v c w).mem = s.mem ∧ (s.postArq q v c w).arr q = s.arr q ∧
      ((s.postArq q v c w).core q v).arq = (s.core q v).arq ++ (if c = s.coreCtx q v then [w] else []) := by
  unfold State.postArq
  by_cases hc : s.coreCtx q v = c
  · rw [if_neg (not_not_intro hc), if_pos (by simp [hl, hh]), if_pos hc.symm]
    refine ⟨rfl, State.arr_modCore .., ?_⟩
    rw [State.core_modCore]
  · rw [if_pos hc, if_neg (Ne.symm hc), List.append_nil]
    exact ⟨rfl, rfl, rfl⟩

theorem State.settleRelease_of_none (h : (s.acore q v).rel = none) : s.settleRelease q v = s := by
  rw [State.settleRelease, h]

/-- The completion of a command that asks for one. -/
theorem State.posted_spec (hl : (s.core q v).arq.length < 32) (hh : (s.acore q v).hreg = []) :
    let t := if (cword m.word).post then s.postArq q v m.ctx (cmdEntry m) else s
    t.mem = s.mem ∧ t.arr q = s.arr q ∧
      (t.core q v).arq = (s.core q v).arq ++ (if (cword m.word).post = true ∧ m.ctx = s.coreCtx q v then [cmdEntry m] else []) := by
  cases (cword m.word).post with
  | true => simpa using State.postArq_spec m.ctx (cmdEntry m) hl hh
  | false => simp

/-- A command whose core has no other and no release that waits leaves its slot; memory and the core's queues stay. -/
theorem State.retireCmd_spec (hn : (s.acore q v).nxt = none) (hl : (s.acore q v).rel = none) :
    ((s.retireCmd q v).acore q v).cur = none ∧ (s.retireCmd q v).mem = s.mem ∧ (s.retireCmd q v).core q v = s.core q v := by
  unfold State.retireCmd
  dsimp only
  generalize ht : s.modACore q v _ = t
  have slots : t.acore q v = { s.acore q v with cur := none } := by
    rw [← ht, State.acore_modACore]
    simp only [hn]
  have settled : t.settleRelease q v = t := State.settleRelease_of_none (by rw [slots]; exact hl)
  rw [settled, State.mem_yieldIdle, State.core_yieldIdle]
  refine ⟨ACore.cur_of_untermed (t.untermed_yieldIdle q v) (by rw [slots]), ?_, ?_⟩
  · rw [← ht, State.mem_modACore]
  · rw [← ht, State.core_modACore]

/-- The end of a command that has no records to write, has taken no handle and does not count in the term. -/
theorem State.cmdTail_of_plain (ho : (cword m.word).op ≠ 0x11) (hd : m.handles = []) (ht : m.inTerm = false) (hn : (s.acore q v).nxt = none)
    (hr : (s.acore q v).rel = none) (hl : (s.core q v).arq.length < 32) (hh : (s.acore q v).hreg = []) :
    ∃ u : State, s.cmdTail q v m = .ok u ∧ (u.acore q v).cur = none ∧ u.mem = s.mem ∧
      (u.core q v).arq = (s.core q v).arq ++ (if (cword m.word).post = true ∧ m.ctx = s.coreCtx q v then [cmdEntry m] else []) := by
  obtain ⟨mem, array, queue⟩ := State.posted_spec (m := m) hl hh
  have tail : s.cmdTail q v m = .ok (((if (cword m.word).post then s.postArq q v m.ctx (cmdEntry m) else s).modArr q
      (fun a => { a with term := a.term })).retireCmd q v) := by
    simp only [State.cmdTail, if_neg ho, hd, ht, except_pure]
    exact congrArg Except.ok (if_neg (by rw [Bool.and_false, Bool.false_and]; nofun))
  generalize (if (cword m.word).post then s.postArq q v m.ctx (cmdEntry m) else s) = posted at mem array queue tail
  have core : (posted.modArr q (fun a => { a with term := a.term })).acore q v = s.acore q v :=
    (posted.acore_modArr q v).trans (congrArg (fun x : Arr => x.cores[v]) array)
  obtain ⟨gone, mem', core'⟩ := State.retireCmd_spec ((congrArg ACore.nxt core).trans hn) ((congrArg ACore.rel core).trans hr)
  exact ⟨_, tail, gone, mem'.trans mem, by rw [core', State.core_modArr, queue]⟩

theorem exec_arrayCommandRetire_of_ended (hv : ∀ z : Vc, ∀ k, (s.acore q z).cur = some k → k.void = false) (hr : s.running q = some (v, m))
    (hn : (cword m.word).nsteps ≤ m.steps) {u : State} (hu : s.cmdTail q v m = .ok u) : exec (.arrayCommandRetire q) s = .next u := by
  rw [exec_arrayCommandRetire, execArrayCommandRetire]
  split
  · next z hz =>
    have h := List.find?_some hz
    split at h
    · next k hk => rw [hv z k hk] at h; cases h
    · cases h
  · simp only [hr, hu]
    exact if_neg (Nat.not_lt.2 hn)

end

end Sys2Proof.Machine
end

section
open Sys2Proof Sys2Proof.Machine

/-- Settles O43: a step by what stands before it, the buffers that it needs and its effect, and the end of a command by the completion that it posts
and the slot that it leaves. -/
theorem arrayStepsRetire : Obligations.ArrayStepsRetire := by
  unfold Obligations.ArrayStepsRetire
  intro s t q v m cond a w hh hc ha hv
  have running := State.running_of_holder hh hc ha hv
  refine ⟨fun _ before => ?before, fun hn hb held => ⟨fun stall => ?stall, fun k cause => ?cause, fun effect saving others => ?retires⟩,
    fun hz hn hb unheld => ?unheld, fun ended ho hand hnxt hrel live out room empty => ?ends⟩
  case before => exact exec_arrayStepRetire_of_before running before
  case stall => rw [exec_arrayStepRetire_of_held running hn hb held, State.stepOutcome_of_stall stall]
  case cause => rw [exec_arrayStepRetire_of_held running hn hb held, State.stepOutcome_of_cause cause]
  case unheld => exact exec_arrayStepRetire_of_unheld running (hz ▸ hn) hb hz unheld
  case retires =>
    obtain ⟨u, outcome, mem, ahead, array⟩ := State.stepOutcome_of_ok effect saving others
    obtain ⟨p, k, after⟩ := s.afterStep_eq q m
    obtain ⟨cores, stepped⟩ := t.arr_stepped q v m (s.afterStep q m) cond
    have core : u.acore q v = (t.stepped q v m (s.afterStep q m) cond).acore q v := by rw [State.acore, array]; rfl
    rw [State.acore_stepped, after] at core
    have words : (u.arr q).acc = (t.arr q).acc := by rw [array, stepped]
    refine ⟨u, p, k, (exec_arrayStepRetire_of_held running hn hb held).trans outcome, ?cur, ?steps, ?conditions, mem,
      fun zero => ?zero, fun sync => ?sync⟩
    case cur => rw [core]; rfl
    case steps => rw [core]
    case conditions => rw [core]
    case zero =>
      obtain ⟨rfl, -⟩ := Prod.mk.inj (Except.ok.inj (effect.symm.trans (s.stepEffect_zero q v m zero)))
      rw [State.arr_modArr] at words
      exact ⟨fun r n hr hn => Arr.accAt_of_cleared words hr hn, mem⟩
    case sync =>
      obtain ⟨rfl, -⟩ := Prod.mk.inj (Except.ok.inj (effect.symm.trans (s.stepEffect_sync q v m sync)))
      exact ⟨words, mem⟩
  case ends =>
    obtain ⟨u, tail, gone, mem, queue⟩ := State.cmdTail_of_plain ho hand out hnxt hrel room empty
    exact ⟨u, exec_arrayCommandRetire_of_ended live running ended tail, gone, mem, queue⟩

end

section
/-! SUPPORT. FMT.SET and FMT.GET by the selector of the bank, the claim of its core and what still uses the bank (10 R222, R224). -/

namespace Sys2Proof.Machine

theorem exec_fmtSet (a b : Reg) (s : State) : exec (.fmtSet a b) s = execFmtSet a b s := rfl
theorem exec_fmtGet (d a : Reg) (s : State) : exec (.fmtGet d a) s = execFmtGet d a s := rfl

/-! ## Words and causes -/

theorem bankOf_ofNat (v : Vc) (k : Fin 16) : bankOf (BitVec.ofNat 64 (v.val * 16 + k.val)) = some (v, k) := by
  have hi : v.val * 16 + k.val < 2 ^ 64 := by omega
  have hv : Fin.ofNat 4 ((v.val * 16 + k.val) / 2 ^ 4 % 2 ^ 2) = v := Fin.ext (by simp only [Fin.val_ofNat]; omega)
  have hk : Fin.ofNat 16 ((v.val * 16 + k.val) / 2 ^ 0 % 2 ^ 4) = k := Fin.ext (by simp only [Fin.val_ofNat]; omega)
  rw [bankOf, if_pos (by rw [bits_ofNat hi]; omega), bits_ofNat hi, bits_ofNat hi, hv, hk]

theorem bankOf_of_high {w : Word} (h : 64 ≤ w.toNat) : bankOf w = none :=
  if_neg fun zero => absurd ((bits_high_eq_zero_iff (lo := 6) (by decide)).1 zero) (Nat.not_lt.2 h)

theorem formatOk_iff {f : Nat} : formatOk f = true ↔ f ≤ 8 ∨ f = 12 ∨ f = 13 := by
  simp [formatOk, or_assoc]

theorem formatOk_of_le {f : Nat} (h : f ≤ 8) : formatOk f = true := formatOk_iff.2 (.inl h)

theorem badwOf_encode {i : Instr} {w : BitVec 32} (h : encode i = some w) : badwOf i 0 0 = BitVec.ofNat 64 (w.toNat * 2 ^ 32) := by
  simp [badwOf, h, word]

/-! ## What keeps a bank -/

theorem ACore.holding_iff {x : ACore} : x.holding = true ↔ ∃ m, (x.cur = some m ∨ x.nxt = some m) ∧ m.accepted = true := by
  cases hc : x.cur <;> cases hn : x.nxt <;> simp [ACore.holding, hc, hn]

/-- What FMT.SET of bank `k` of core `v` waits for: bundles of the context, a command of the core that the array has accepted, and a queued
copy over the bank (10 R224). -/
def State.BankInUse (s : State) (v : Vc) (k : Fin 16) : Prop :=
  (∃ e ∈ (s.core s.fsq v).eq, e.ctx = s.fcx) ∨ (∃ e ∈ (s.core s.fsq v).issued, e.ent.ctx = s.fcx) ∨
    (∃ m, ((s.acore s.fsq v).cur = some m ∨ (s.acore s.fsq v).nxt = some m) ∧ m.accepted = true) ∨ s.copyBank s.fsq v k.val = true

/-! ## The instructions -/

section
variable {s : State} {a : Reg}

theorem exec_fmtSet_of_no_bank (h : bankOf (s.rs a) = none) (b : Reg) : exec (.fmtSet a b) s = s.trap FORMAT_WORD := by
  simp [exec_fmtSet, execFmtSet, h]

theorem exec_fmtGet_of_no_bank (h : bankOf (s.rs a) = none) (d : Reg) : exec (.fmtGet d a) s = s.trap FORMAT_WORD := by
  simp [exec_fmtGet, execFmtGet, h]

variable {v : Vc} {k : Fin 16} (ha : s.rs a = BitVec.ofNat 64 (v.val * 16 + k.val))
include ha

theorem exec_fmtGet_of_bank (d : Reg) : exec (.fmtGet d a) s = s.sets d (BitVec.ofNat 64 (s.core s.fsq v).fmt[k]) := by
  simp only [exec_fmtGet, execFmtGet, ha, bankOf_ofNat]
  rfl

variable {b : Reg}

theorem exec_fmtSet_of_unknown (h : formatOk (s.rs b).toNat = false) : exec (.fmtSet a b) s = s.trap FORMAT_WORD := by
  simp [exec_fmtSet, execFmtSet, ha, bankOf_ofNat, h]

variable (hf : formatOk (s.rs b).toNat = true) {c : Fin 8} (hv : (s.core s.fsq v).claim = some c)
include hf hv

theorem exec_fmtSet_of_foreign (hc : s.fcx ≠ tileCx c) : exec (.fmtSet a b) s = s.trapBad (badwOf (.fmtSet a b) 0 0) CORE_CLAIMED := by
  have foreign : s.foreign s.fsq v s.fcx = true := by simp [State.foreign, State.claimedBy, hv, hc.symm]
  simp [exec_fmtSet, execFmtSet, ha, bankOf_ofNat, hf, foreign]

variable (hc : s.fcx = tileCx c)
include hc

/-- Of a core that the context claims, with a known format. -/
theorem exec_fmtSet_of_claimed [Decidable (s.BankInUse v k)] : exec (.fmtSet a b) s =
    if s.BankInUse v k then s.block (.fmtSet a b)
    else .next (s.modCore s.fsq v (fun y => { y with fmt := vset y.fmt k (s.rs b).toNat })).retire := by
  have own : s.foreign s.fsq v s.fcx = false := by simp [State.foreign, State.claimedBy, hv, hc]
  have uses : ((s.core s.fsq v).eq.any (fun e => e.ctx == s.fcx) || (s.core s.fsq v).issued.any (fun e => e.ent.ctx == s.fcx) ||
      (s.acore s.fsq v).holding || s.copyBank s.fsq v k.val) = true ↔ s.BankInUse v k := by
    simp [State.BankInUse, ACore.holding_iff, or_assoc]
  simp only [exec_fmtSet, execFmtSet, ha, bankOf_ofNat, hf, own, State.take_of_claimed hv, Bool.not_true, Bool.false_eq_true, if_false]
  exact if_congr uses rfl rfl

end

end Sys2Proof.Machine
end

section
/-! SUPPORT. RGN.DECL by the checks of its descriptor, and RGN.BIND by what the region's old lock word reads (12 R272 to R274; log 98). -/

namespace Sys2Proof.Machine

theorem exec_rgnDecl (d a : Reg) (s : State) : exec (.rgnDecl d a) s = execRgnDecl d a s := rfl
theorem exec_rgnBind (a b : Reg) (s : State) : exec (.rgnBind a b) s = execRgnBind a b s := rfl

/-! ## Descriptors (12 Table 12-2) -/

theorem State.privRead_of_ok {s : State} {w : Word} {n al : Nat} (h : w.toNat % al = 0) (hr : w.toNat + n ≤ 0x4000)
    (hb : s.isBad (privAddr s.fsq.val s.fcx.val w.toNat) n = false) : s.privRead w n al = .ok w.toNat := by
  have flat : s.flat 2 w.toNat = privAddr s.fsq.val s.fcx.val w.toNat := rfl
  simp [State.privRead, h, hr.not_gt, flat, hb]

/-- What a descriptor of a region of space 0 that is not malformed meets. -/
theorem State.regionOf_space0 {s : State} {w0 w1 sync w3 : Word} {o : RgnOwner} {r : Region} (h : s.regionOf w0 w1 sync w3 o = some r)
    (h0 : r.space = 0) :
    bits w0 62 2 = 0 ∧ bits w0 48 14 = 0 ∧ bits w0 0 48 % 512 = 0 ∧ bits w1 48 16 = 0 ∧ bits w1 0 48 ≠ 0 ∧ bits w1 0 48 % 512 = 0 ∧
      bits w0 0 48 + bits w1 0 48 ≤ 2 ^ 48 ∧ bits w3 4 28 = (if bit w3 8 then 16 else 0) ∧ bits w3 32 32 = 0 ∧ bits w3 0 4 = 8 ∧
      s.syncOk sync (bit w3 8) = true := by
  simp only [State.regionOf, Option.ite_none_right_eq_some, Option.some.injEq] at h
  obtain ⟨ok, rfl⟩ := h
  have h0 : bits w0 62 2 = 0 := h0
  simp only [h0, Bool.and_eq_true, beq_iff_eq, decide_eq_true_eq, ne_eq, if_true] at ok
  obtain ⟨⟨⟨⟨⟨⟨z0, z1⟩, z9⟩, z4⟩, ⟨⟨⟨⟨⟨⟨⟨-, start⟩, len⟩, some_len⟩, -⟩, -⟩, -⟩, fits⟩⟩, ⟨cls, pool⟩⟩, sync⟩ := ok
  have plain : bits w3 4 28 = if bit w3 8 then 16 else 0 := by
    have h8 : bits w3 8 1 = 1 ↔ bit w3 8 = true := by rw [bit_eq_bits, decide_eq_true_eq]
    simp only [← h8, bits, fld] at z9 z4 ⊢
    split <;> omega
  exact ⟨h0, z0, start, z1, some_len, len, fits, plain, pool, by omega, sync⟩

/-! ## Free numbers (12 R274; log 69) -/

theorem State.freeRegion_of_free {s : State} {n : Nat} (hn : n < 1024) (h : mget none s.regions n = none) :
    ∃ m, m < 1024 ∧ mget none s.regions m = none ∧ s.freeRegion = some m := by
  have listed : n ∈ s.freeNumbers := List.mem_filter.2 ⟨List.mem_range.2 hn, by simp [h]⟩
  have hlt := Nat.mod_lt (Config.pick s.free) (List.length_pos_iff_exists_mem.2 ⟨n, listed⟩)
  obtain ⟨range, free⟩ := List.mem_filter.1 (List.getElem_mem hlt)
  exact ⟨_, List.mem_range.1 range, Option.isNone_iff_eq_none.1 free, (State.freeRegion_eq s).trans (List.getElem?_eq_getElem hlt)⟩

theorem State.freeRegion_of_full {s : State} (h : ∀ m < 1024, (mget none s.regions m).isSome = true) : s.freeRegion = none := by
  have empty : s.freeNumbers = [] := List.filter_eq_nil_iff.2 fun m hm => by
    simpa using Option.isSome_iff_ne_none.1 (h m (List.mem_range.1 hm))
  simp [State.freeRegion_eq, empty]

/-! ## RGN.DECL (12 R274) -/

/-- Region `r` installed under number `n`. -/
def State.install (s : State) (n : Nat) (r : Region) : State := ({ s with regions := mput none s.regions n (some r) } : State).bump

section
variable {s : State} {a : Reg} {p : Nat} (hread : s.privRead (s.rs a) 32 32 = .ok p)

/-- The region of the descriptor at offset `p` of space 2, where the issuing context is its owner. -/
def State.regionFrom (s : State) (p : Nat) : Option Region :=
  s.regionOf (s.privWord p) (s.privWord (p + 8)) (s.privWord (p + 16)) (s.privWord (p + 24)) (.inv (s.me.inv.getD 0))

include hread

theorem exec_rgnDecl_of_read (d : Reg) : exec (.rgnDecl d a) s =
    match s.regionFrom p with
    | none => s.trap REGION_DESC
    | some r =>
      if r.space ≠ 0 then s.trap REGION_DESC
      else if s.regionList.any r.meets then s.trap REGION_OVERLAP
      else match s.freeRegion with
        | none => s.trap REGION_FULL
        | some n => (s.install n r).sets d (BitVec.ofNat 64 n) := by
  cases hr : s.regionFrom p with
  | none =>
    rw [State.regionFrom] at hr
    simp only [exec_rgnDecl, execRgnDecl, hread, State.orTrap, hr]
  | some r =>
    rw [State.regionFrom] at hr
    cases hn : s.freeRegion <;> simp only [exec_rgnDecl, execRgnDecl, hread, State.orTrap, hr, hn, State.install, State.done, word]

theorem exec_rgnDecl_of_malformed (h : ∀ r, s.regionFrom p = some r → r.space ≠ 0) (d : Reg) : exec (.rgnDecl d a) s = s.trap REGION_DESC := by
  rw [exec_rgnDecl_of_read hread]
  cases hr : s.regionFrom p with
  | none => rfl
  | some r => exact if_pos (h r hr)

variable {r : Region} (hr : s.regionFrom p = some r) (h0 : r.space = 0)
include hr h0

theorem exec_rgnDecl_of_overlap (h : ∃ t ∈ s.regionList, r.meets t = true) (d : Reg) : exec (.rgnDecl d a) s = s.trap REGION_OVERLAP := by
  simp only [exec_rgnDecl_of_read hread, hr, h0, ne_eq, not_true_eq_false, if_false]
  exact if_pos (List.any_eq_true.2 h)

theorem exec_rgnDecl_of_clear (h : ∀ t ∈ s.regionList, r.meets t = false) (d : Reg) : exec (.rgnDecl d a) s =
    match s.freeRegion with
    | none => s.trap REGION_FULL
    | some n => (s.install n r).sets d (BitVec.ofNat 64 n) := by
  simp only [exec_rgnDecl_of_read hread, hr, h0, ne_eq, not_true_eq_false, if_false]
  exact if_neg (by simpa using h)

end

/-! ## The old lock word (12 Table 12-3; log 98) -/

section
variable {s : State} {sync : Word}

theorem State.lockTaken_of_no_lock (h : bits sync 62 2 = 0 ∨ bits sync 62 2 = 3) : s.lockTaken sync = .ok (false, s) := by
  rcases h with h | h <;> simp [State.lockTaken, h]

theorem State.lockTaken_of_store (h : bits sync 62 2 = 2) (hb : s.blockBad s.fsq (bits sync 0 23 / 512) = false) :
    s.lockTaken sync = .ok ((BitVec.ofNat 64 (s.rdN (storeAddr s.fsq.val (bits sync 0 23)) 8)).getLsbD 63, s) := by
  simp [State.lockTaken, h, hb, bit, word]

variable (h : bits sync 62 2 = 1)
include h

theorem State.lockTaken_of_error {e : XStop} (ht : s.translate s.fsq (s.me.who s.fcx) { r := true } (bits sync 0 48) = .error e) :
    s.lockTaken sync = .error e := by
  simp [State.lockTaken, h, ht]

variable {t : State} {pa : Nat} (ht : s.translate s.fsq (s.me.who s.fcx) { r := true } (bits sync 0 48) = .ok (pa, t))
include ht

theorem State.lockTaken_of_bad (hb : t.isBad pa 8 = true) : s.lockTaken sync = .error (.cause DATA_UNCORRECTABLE) := by
  simp [State.lockTaken, h, ht, hb]

theorem State.lockTaken_of_read (hb : t.isBad pa 8 = false) :
    s.lockTaken sync = .ok ((BitVec.ofNat 64 (t.rdN pa 8)).getLsbD 63, t.blkTouch pa 8) := by
  simp [State.lockTaken, h, ht, hb, bit, word]

end

/-! ## RGN.BIND (12 R274) -/

/-- Whether a log entry is a store into a region. -/
def State.Logged (s : State) (r : Region) : Prop :=
  ∃ q : Sq, ∃ e ∈ (s.sq q).log, ∃ v, e.va = some v ∧ r.start ≤ v ∧ v < r.start + r.len

/-- The region of number `n` with another synchronisation word. -/
def State.rebind (s : State) (n : Nat) (r : Region) (sync : Word) : State :=
  { s with regions := mput none s.regions n (some { r with sync := sync }) }

/-- The bytes of region `r` that its old lock's note names written back, from state `t` (12 R276). -/
def State.pullOld (s t : State) (r : Region) : State :=
  match bits r.sync 62 2 with
  | 1 => t.pull (t.note (bits r.sync 0 48)).mask (fun g => g == r)
  | 2 => t.pull (t.note (storeAddr s.fsq.val (bits r.sync 0 23))).mask (fun g => g == r)
  | _ => t

theorem State.any_log_iff {s : State} {r : Region} :
    s.squares.toList.any (fun x => x.log.any (fun e => match e.va with
      | some v => decide (r.start ≤ v) && decide (v < r.start + r.len)
      | none => false)) = true ↔ s.Logged r := by
  have within (e : LogEnt) : (match e.va with
      | some v => decide (r.start ≤ v) && decide (v < r.start + r.len)
      | none => false) = true ↔ ∃ v, e.va = some v ∧ r.start ≤ v ∧ v < r.start + r.len := by
    cases e.va <;> simp
  simp only [List.any_eq_true, within, State.Logged, Vector.mem_toList_iff]
  constructor
  · rintro ⟨x, hx, e, he, h⟩
    obtain ⟨i, hi, rfl⟩ := Vector.mem_iff_getElem.1 hx
    exact ⟨⟨i, hi⟩, e, he, h⟩
  · rintro ⟨q, e, he, h⟩
    exact ⟨s.sq q, Vector.getElem_mem _, e, he, h⟩

section
variable {s : State} {a b : Reg}

theorem exec_rgnBind_of_none (h : mget none s.regions (s.rs a).toNat = none) : exec (.rgnBind a b) s = s.trap REGION_DESC := by
  simp only [exec_rgnBind, execRgnBind, h]

variable {r : Region}

theorem State.rgnBind_admitted (ho : r.owner = .inv (s.me.inv.getD 0)) (hw : s.syncOk (s.rs b) r.plain = true) :
    ¬(decide (r.owner ≠ .inv (s.me.inv.getD 0)) || !s.syncOk (s.rs b) r.plain) = true := by
  simp [ho, hw]

variable (hr : mget none s.regions (s.rs a).toNat = some r)
include hr

theorem exec_rgnBind_of_refused (h : r.owner ≠ .inv (s.me.inv.getD 0) ∨ s.syncOk (s.rs b) r.plain = false) :
    exec (.rgnBind a b) s = s.trap REGION_DESC := by
  simp only [exec_rgnBind, execRgnBind, hr]
  exact if_pos (by simpa using h)

variable (ho : r.owner = .inv (s.me.inv.getD 0)) (hw : s.syncOk (s.rs b) r.plain = true)
include ho hw

theorem exec_rgnBind_of_logged (h : s.Logged r) : exec (.rgnBind a b) s = s.block (.rgnBind a b) := by
  simp only [exec_rgnBind, execRgnBind, hr]
  exact (if_neg (State.rgnBind_admitted ho hw)).trans (if_pos (State.any_log_iff.2 h))

/-- Once its log entries are committed, it goes by what the old lock word reads. -/
theorem exec_rgnBind_of_committed (h : ¬s.Logged r) : exec (.rgnBind a b) s =
    match s.lockTaken r.sync with
    | .error .stall => s.block (.rgnBind a b)
    | .error (.cause c) => s.trap c
    | .ok (true, t) => t.block (.rgnBind a b)
    | .ok (false, t) => .next ((s.pullOld t r).rebind (s.rs a).toNat r (s.rs b)).retire := by
  simp only [exec_rgnBind, execRgnBind, hr]
  refine (if_neg (State.rgnBind_admitted ho hw)).trans ((if_neg (mt State.any_log_iff.1 h)).trans ?_)
  generalize s.lockTaken r.sync = lock
  obtain (_ | c) | ⟨_ | _, t⟩ := lock <;> rfl

end

end Sys2Proof.Machine
end

section
open Sys2Proof Sys2Proof.Machine

/-- Settles O22: FMT.SET and FMT.GET by the selector, the claim and the uses of the bank, RGN.DECL by its descriptor and the regions that stand, and
RGN.BIND by its checks, its log entries and what the old lock word reads. -/
theorem formatsAndRegions : Obligations.FormatsAndRegions := by
  classical
  unfold Obligations.FormatsAndRegions
  refine ⟨fun s a b d v k c hc hv ha => ⟨exec_fmtGet_of_bank ha d, fun unknown => ?unknown, fun known eq issued cmds copies => ?set⟩,
    fun s d a b v k c => ⟨fun high => ?high, fun ha hf hv hc => ?foreign, fun ha hf hv hc inUse => ?inUse⟩,
    fun s d a => ?malformed, fun s t a b r pa => ?bind,
    fun s d a b r n => ⟨fun aligned inside good hr h0 clear => ?declare, fun hr ho hw wordless log => ?unbound, exec_rgnBind_of_none⟩⟩
  case unknown => exact exec_fmtSet_of_unknown ha (Bool.eq_false_iff.2 (mt formatOk_iff.1 unknown))
  case set =>
    have unused : ¬s.BankInUse v k := by
      rintro (⟨e, he, h⟩ | ⟨e, he, h⟩ | ⟨m, hm, h⟩ | h)
      · exact eq e he h
      · exact issued e he h
      · exact Bool.false_ne_true ((cmds m hm).symm.trans h)
      · exact Bool.false_ne_true (copies.symm.trans h)
    exact (exec_fmtSet_of_claimed ha (formatOk_iff.2 known) hv hc).trans (if_neg unused)
  case high => exact ⟨exec_fmtSet_of_no_bank (bankOf_of_high high) b, exec_fmtGet_of_no_bank (bankOf_of_high high) d⟩
  case foreign =>
    have encoded : encode (.fmtSet a b) = some (BitVec.ofNat 32 (0xB4000000 + a.val * 0x10000 + b.val * 0x800)) := rfl
    exact ⟨_, encoded, badwOf_encode encoded ▸ exec_fmtSet_of_foreign ha (formatOk_of_le hf) hv hc⟩
  case inUse => exact (exec_fmtSet_of_claimed ha (formatOk_of_le hf) hv hc).trans (if_pos inUse)
  case malformed =>
    intro p w aligned inside good
    have hread := State.privRead_of_ok aligned inside good
    refine ⟨fun bad => exec_rgnDecl_of_malformed hread (fun r hr h0 => ?_) d, fun r own howner hr h0 meets => ?_⟩
    · obtain ⟨space, high, start, high', some_len, len, fits, plain, pool, cls, sync⟩ := State.regionOf_space0 hr h0
      rcases bad with h | h | h | h | h | h | h | h | h | h | h
      · exact h space
      · exact h high
      · exact h start
      · exact h high'
      · exact some_len h
      · exact h len
      · exact absurd fits (Nat.not_le.2 h)
      · exact h plain
      · exact h pool
      · exact h cls
      · exact Bool.false_ne_true (h.symm.trans sync)
    · subst howner
      exact exec_rgnDecl_of_overlap hread hr h0 meets d
  case declare =>
    have hread := State.privRead_of_ok aligned inside good
    refine ⟨fun hn free => ?_, fun full => ?_⟩
    · obtain ⟨m, hm, unused, number⟩ := State.freeRegion_of_free hn free
      exact ⟨m, hm, unused, (exec_rgnDecl_of_clear hread hr h0 clear d).trans (by rw [number]; rfl)⟩
    · exact (exec_rgnDecl_of_clear hread hr h0 clear d).trans (by rw [State.freeRegion_of_full full]; rfl)
  case unbound =>
    have committed : ¬s.Logged r := by
      rintro ⟨q, e, he, v, hv, h1, h2⟩
      rcases log q e he v hv with h | h <;> omega
    have zero : bits r.sync 62 2 = 0 := by rw [wordless]; rfl
    rw [exec_rgnBind_of_committed hr ho hw committed, State.lockTaken_of_no_lock (.inl zero)]
    simp only [State.pullOld, zero]
    rfl
  case bind =>
    intro n i logged bound freed hr
    refine ⟨exec_rgnBind_of_refused hr, fun ho hw => ⟨exec_rgnBind_of_logged hr ho hw, fun committed => ?_⟩⟩
    have settled := exec_rgnBind_of_committed hr ho hw committed
    refine ⟨fun frontier => ?frontier, fun store good => ⟨fun taken => ?storeTaken, fun open_ => ?storeOpen⟩, fun glob => ?glob⟩
    case frontier =>
      rw [settled, State.lockTaken_of_no_lock (.inr frontier)]
      simp only [State.pullOld, frontier]
      rfl
    case storeTaken => rw [settled, State.lockTaken_of_store store good, taken]
    case storeOpen =>
      rw [settled, State.lockTaken_of_store store good, open_]
      simp only [State.pullOld, store]
      rfl
    case glob =>
      refine ⟨fun c ht => ?cause, fun ht => ?stall, fun ht => ⟨fun bad => ?bad, fun good taken => ?taken, fun good open_ => ?open_⟩⟩
      case cause => rw [settled, State.lockTaken_of_error glob ht]
      case stall => rw [settled, State.lockTaken_of_error glob ht]
      case bad =>
        rw [settled, State.lockTaken_of_bad glob ht bad]
        rfl
      case taken => rw [settled, State.lockTaken_of_read glob ht good, taken]
      case open_ =>
        rw [settled, State.lockTaken_of_read glob ht good, open_]
        simp only [State.pullOld, glob]
        rfl

end

section
/-! SUPPORT. The instructions that start copies, by the first check that fails and by what a copy that enters its queue leaves; CP.MIG (10 R239; 14
R313). -/

namespace Sys2Proof.Machine

/-! ## The forms (10 Table 10-8) -/

/-- The copy instructions of forms 0 to 4. -/
def copyInstr (n : Fin 5) (d a : Reg) : Instr :=
  [Instr.cpPut d a, .cpGet d a, .cpPuts d a, .cpMcast d a, .cpGather d a].getD n.val (.cpPut d a)

theorem exec_copyInstr (n : Fin 5) (d a : Reg) (s : State) : exec (copyInstr n d a) s = s.copy (copyInstr n d a) n.castSucc d a := by
  fin_cases n <;> rfl

theorem encode_copyInstr (n : Fin 5) (d a : Reg) : ∃ w, encode (copyInstr n d a) = some w := by
  fin_cases n <;> exact ⟨_, rfl⟩

/-! ## What a copy takes -/

/-- What a claim and a handle leave: whose turn it is, memory, the issuing context and the queue of copies of square `q`. -/
def State.issuer (q : Sq) (s : State) : Sq × Cx × List Host.Cell × Ctx × List Copy := (s.fsq, s.fcx, s.mem, s.me, (s.sq q).copyQ)

theorem State.copyQ_modCore (s : State) (q : Sq) (v : Vc) (f : VCore → VCore) : ((s.modCore q v f).sq q).copyQ = (s.sq q).copyQ := by
  simp [State.modCore, State.setCore]

theorem State.copyQ_claim (s : State) (q : Sq) (v : Vc) (c : Cx) : ((s.claim q v c).sq q).copyQ = (s.sq q).copyQ := by
  unfold State.claim
  split
  · rw [State.copyQ_modCore, State.modArr, State.sq_modSq]
  · rfl

theorem State.issuer_claim (s : State) (q : Sq) (v : Vc) (c : Cx) : (s.claim q v c).issuer q = s.issuer q := by
  obtain ⟨fsq, fcx, mem⟩ := s.claim_frame q v c
  simp only [State.issuer, fsq, fcx, mem, State.me_claim, State.copyQ_claim]

theorem State.issuer_modHnd (s : State) (q : Sq) (v : Vc) (h : Fin 64) (f : Hnd → Hnd) : (s.modHnd q v h f).issuer q = s.issuer q := by
  simp only [State.issuer, State.modHnd, State.modCore_fsq, State.modCore_fcx, State.modCore_mem, State.me_modCore, State.copyQ_modCore]

/-- The cores that a copy names claimed, and its handles on their way. -/
def State.takeFor (s : State) (d : Desc) (op : Nat) : State :=
  (d.handles op).foldl (fun t e => t.modHnd s.fsq e.1 e.2.1 (fun y => y.goto (if e.2.2 then .filling else .draining)))
    ((d.named op).foldl (fun t v => t.claim s.fsq v s.fcx) s)

theorem State.issuer_takeFor (s : State) (d : Desc) (op : Nat) : (s.takeFor d op).issuer s.fsq = s.issuer s.fsq :=
  (foldl_keeps (g := State.issuer s.fsq) (fun t (e : Vc × Fin 64 × Bool) => t.issuer_modHnd s.fsq e.1 e.2.1 _) _ _).trans
    (foldl_keeps (g := State.issuer s.fsq) (fun t v => t.issuer_claim s.fsq v s.fcx) _ s)

/-- A copy at the tail of the queue of square `q`; its token is then its own. -/
def State.enterCopy (s : State) (q : Sq) (c : Cx) (y : Copy) : State :=
  s.modSq q (fun x =>
    let x := { x with copyQ := x.copyQ ++ [y] }
    if y.d.tv then x.subTok (.ctx c) y.d.scope y.d.time 1 else x)

theorem State.me_enterCopy (s : State) (q : Sq) (c : Cx) (y : Copy) : (s.enterCopy q c y).me = s.me :=
  State.ctx_modSq (fun x => by dsimp only; split <;> rfl)

theorem State.copyQ_enterCopy (s : State) (q : Sq) (c : Cx) (y : Copy) : ((s.enterCopy q c y).sq q).copyQ = (s.sq q).copyQ ++ [y] := by
  rw [State.enterCopy, State.sq_modSq]
  dsimp only
  split <;> rfl

/-- The instruction retires with a ticket, `v` in s[r]. -/
def State.ticketed (s : State) (r : Reg) (v : Word) : State :=
  ((s.modMe (fun x => { x with ticket := x.ticket + 1 })).wS r v).retire

theorem Ctx.setS_frame (x : Ctx) (r : Reg) (v : Word) : (x.setS r v).q1 = x.q1 ∧ (x.setS r v).ticket = x.ticket := by
  rw [Ctx.setS_eq]
  exact ⟨rfl, rfl⟩

theorem State.me_ticketed (s : State) (r : Reg) (v : Word) :
    (s.ticketed r v).me = (({ s.me with ticket := s.me.ticket + 1 } : Ctx).setS r v).advance := by
  simp [State.ticketed, State.retire, State.wS]

section
variable (s : State) (r : Reg) (v : Word)

theorem State.q0_ticketed : (s.ticketed r v).me.q0 = s.me.q1 := by
  rw [State.me_ticketed]
  exact (Ctx.setS_frame ..).1

theorem State.ticket_ticketed : (s.ticketed r v).me.ticket = s.me.ticket + 1 := by
  rw [State.me_ticketed]
  exact (Ctx.setS_frame ..).2

theorem State.rs_ticketed (h : r ≠ 0) : (s.ticketed r v).rs r = v := by
  rw [State.rs, State.me_ticketed, Ctx.advance_rs, Ctx.rs_setS _ _ _ h]

theorem State.rs_ticketed_ne {e : Reg} (h : e ≠ r) : (s.ticketed r v).rs e = s.rs e := by
  rw [State.rs, State.me_ticketed, Ctx.advance_rs, Ctx.rs_setS_ne _ _ _ _ h]
  rfl

theorem State.mem_ticketed : (s.ticketed r v).mem = s.mem := rfl

theorem State.bulk_ticketed : (s.ticketed r v).bulk = s.bulk := rfl

theorem State.copyQ_ticketed (q : Sq) : ((s.ticketed r v).sq q).copyQ = (s.sq q).copyQ := by
  have keep (t : State) (f : Ctx → Ctx) : ((t.modMe f).sq q).copyQ = (t.sq q).copyQ := by
    by_cases h : q = t.fsq
    · subst h
      simp [State.modMe, State.setMe, State.sq_setCtx]
    · simp [State.modMe, State.setMe, State.sq_setCtx_ne _ _ _ _ _ h]
  simp only [State.ticketed, State.retire, State.wS, keep]

end

theorem word_toNat {n : Nat} (x : BitVec n) : word x.toNat = x.setWidth 64 := by
  simp [word, BitVec.ofNat_toNat]

/-- The copy that the issuing context starts, with the handles that it names as they stand once it has them. -/
def State.freshCopy (s : State) (d : Desc) (op : Fin 6) (total : Nat) : Copy :=
  (s.takeFor d op.val).newCopy d op total (if d.cq then (s.takeFor d op.val).crqCore s.fsq s.fcx [] else none)

/-- The state in which that copy has entered its queue. -/
def State.startCopy (s : State) (d : Desc) (op : Fin 6) (total : Nat) (r : Reg) : State :=
  ((s.takeFor d op.val).enterCopy s.fsq s.fcx (s.freshCopy d op total)).ticketed r (word (s.freshCopy d op total).ticket.toNat)

/-- What a copy is as it enters a queue: the issuing context's, whole and not begun. -/
structure Copy.Fresh (z : Copy) (c : Cx) (ticket : BitVec 16) (d : Desc) (op : Fin 6) (total : Nat) : Prop where
  ctx : z.ctx = c
  ticket : z.ticket = ticket
  d : z.d = d
  op : z.op = op
  total : z.total = total
  started : z.started = false
  dest : z.dest = 0
  done : z.done = 0

theorem State.newCopy_fresh (s : State) (d : Desc) (op : Fin 6) (total : Nat) (core : Option Vc) :
    (s.newCopy d op total core).Fresh s.fcx s.me.ticket d op total := ⟨rfl, rfl, rfl, rfl, rfl, rfl, rfl, rfl⟩

theorem State.me_takeFor (s : State) (d : Desc) (op : Nat) : (s.takeFor d op).me = s.me := by
  have kept := s.issuer_takeFor d op
  simp only [State.issuer, Prod.mk.injEq] at kept
  obtain ⟨-, -, -, me, -⟩ := kept
  exact me

theorem State.freshCopy_fresh (s : State) (d : Desc) (op : Fin 6) (total : Nat) :
    (s.freshCopy d op total).Fresh s.fcx s.me.ticket d op total := by
  have kept := s.issuer_takeFor d op.val
  simp only [State.issuer, Prod.mk.injEq] at kept
  obtain ⟨-, fcx, -, me, -⟩ := kept
  have fresh := (s.takeFor d op.val).newCopy_fresh d op total (if d.cq then (s.takeFor d op.val).crqCore s.fsq s.fcx [] else none)
  rwa [fcx, me] at fresh

theorem State.startCopy_starts (s : State) (d : Desc) (op : Fin 6) (total : Nat) (r : Reg) :
    (s.startCopy d op total r).me.q0 = s.me.q1 ∧ (s.startCopy d op total r).me.ticket = s.me.ticket + 1 ∧
      (s.startCopy d op total r).mem = s.mem ∧ (r ≠ 0 → (s.startCopy d op total r).rs r = s.me.ticket.setWidth 64) ∧
      (∀ e, e ≠ r → (s.startCopy d op total r).rs e = s.rs e) ∧
      ((s.startCopy d op total r).sq s.fsq).copyQ = (s.sq s.fsq).copyQ ++ [s.freshCopy d op total] := by
  have kept := s.issuer_takeFor d op.val
  simp only [State.issuer, Prod.mk.injEq] at kept
  obtain ⟨-, -, mem, -, copies⟩ := kept
  have me : ((s.takeFor d op.val).enterCopy s.fsq s.fcx (s.freshCopy d op total)).me = s.me :=
    (State.me_enterCopy ..).trans (s.me_takeFor d op.val)
  refine ⟨?_, ?_, ?_, fun h => ?_, fun e h => ?_, ?_⟩
  · rw [State.startCopy, State.q0_ticketed, me]
  · rw [State.startCopy, State.ticket_ticketed, me]
  · rw [State.startCopy, State.mem_ticketed, State.enterCopy, State.modSq_mem, mem]
  · rw [State.startCopy, State.rs_ticketed _ _ _ h, (s.freshCopy_fresh d op total).ticket, word_toNat]
  · rw [State.startCopy, State.rs_ticketed_ne _ _ _ h, State.rs, me, State.rs]
  · rw [State.startCopy, State.copyQ_ticketed, State.copyQ_enterCopy, copies]

/-! ## The answers by the checks (10 R239) -/

/-- The handles of a copy are in the states that it needs, and no accepted command of the array is to take one before it (10 R233). -/
def State.HandlesReady (s : State) (d : Desc) (op : Nat) : Prop :=
  ∀ e ∈ d.handles op, (s.hnd s.fsq e.1 e.2.1).st = (if e.2.2 then .free else .full) ∧ s.cmdAwaits s.fsq e.1 e.2.1 e.2.2 = false

/-- The queue of the square and the context's counter of copies have room. -/
def State.CopyRoom (s : State) : Prop := (s.sq s.fsq).copyQ.length < 32 ∧ s.outCopies s.fsq s.fcx < 4095

section
variable {s : State} {a : Reg} {i : Instr} {op : Fin 6} {r : Reg} {form : Nat}

theorem State.copy_of_misaligned (h : (s.rs a).toNat % 64 ≠ 0) : s.copy i op r a = s.trap MISALIGNED := by
  simp [State.copy, State.privRead, h, State.orTrap]

variable {p : Nat} (hread : s.privRead (s.rs a) 64 64 = .ok p)
include hread

theorem State.copy_of_refused (ho : op.val = form) {x : Nat} (h : s.copyCheck (s.descAt p).1 (s.descAt p).2 form = .error x) :
    s.copy i op r a = if x = CORE_CLAIMED then s.trapBad (badwOf i 0 0) x else s.trap x := by
  subst ho
  simp only [State.copy, hread, State.orTrap, h]

theorem State.copy_of_ok (ho : op.val = form) {total : Nat} (h : s.copyCheck (s.descAt p).1 (s.descAt p).2 form = .ok total)
    [Decidable (s.HandlesReady (s.descAt p).1 form ∧ s.CopyRoom)] : s.copy i op r a =
    if s.HandlesReady (s.descAt p).1 form ∧ s.CopyRoom then .next (s.startCopy (s.descAt p).1 op total r) else s.block i := by
  subst ho
  have waits : (!((s.descAt p).1.handles op.val).all (fun e =>
        (s.hnd s.fsq e.1 e.2.1).st == (if e.2.2 then .free else .full) && !s.cmdAwaits s.fsq e.1 e.2.1 e.2.2) ||
      decide ((s.sq s.fsq).copyQ.length ≥ 32) || decide (s.outCopies s.fsq s.fcx ≥ counterMax)) = true ↔
      ¬(s.HandlesReady (s.descAt p).1 op.val ∧ s.CopyRoom) := by
    simp only [State.HandlesReady, State.CopyRoom, counterMax]
    grind
  simp only [State.copy, hread, State.orTrap, h, Bool.or_eq_true, decide_eq_true_eq] at waits ⊢
  by_cases go : s.HandlesReady (s.descAt p).1 op.val ∧ s.CopyRoom
  · rw [if_neg (fun k => waits.1 k go), if_pos go]
    rfl
  · rw [if_pos (waits.2 go), if_neg go]

end

/-! ## CP.MIG (14 R313) -/

theorem exec_cpMig (d a : Reg) (s : State) : exec (.cpMig d a) s = execCpMig d a s := rfl

theorem exec_cpMig_of_tile {s : State} (h : s.fcx ≠ 8) (d a : Reg) : exec (.cpMig d a) s =
    s.trapBad (word (0xA0000140 + d.val * 0x200000 + a.val * 0x10000)) PRIVILEGED := by
  have denied : exec (.cpMig d a) s = s.denied (.cpMig d a) := by simp [exec_cpMig, execCpMig, State.isF_of_ne h]
  exact denied.trans (State.denied_of_encodeNat rfl)

/-- A migration at the tail of the queue of bulk engine `e`. -/
def State.enterBulk (s : State) (e : Fin 16) (y : Copy) : State := { s with bulk := vset s.bulk e (s.bulk[e] ++ [y]) }

theorem State.bulk_enterBulk (s : State) (e : Fin 16) (y : Copy) : (s.enterBulk e y).bulk[e] = s.bulk[e] ++ [y] := vset_same _ _ _

/-- What the migration descriptor of the page of `va` is, beside the tier that it names. -/
structure Desc.IsMigration (y : Desc) (w7 : Word) (va : Nat) : Prop where
  src : placeOf y.src = some (.glob va)
  w2 : y.w2 = 0
  sig : y.sig = 0
  w4 : y.w4 = 0
  time : y.time = 0
  rect : y.rect = 0
  w7 : w7 = 0
  tier : y.dst.toNat < 2

section
variable {s : State} {a : Reg} {p va ea : Nat} {w : Word} {big : Bool} (hF : s.fcx = 8) (hread : s.privRead (s.rs a) 64 64 = .ok p)
  (hy : (s.descAt p).1.IsMigration (s.descAt p).2 va) (hw : s.walk va = .ok (ea, w, big)) (hpage : va % pageSize big = 0)
include hF hread hy hw hpage

theorem exec_cpMig_of_page (d : Reg) : exec (.cpMig d a) s =
    if migratable w = false then s.trap MIG_REFUSED
    else if 4095 ≤ s.outCopies s.fsq s.fcx then s.block (.cpMig d a)
    else match s.bulkOf (homeDie (pteAddr w)) with
      | none => s.block (.cpMig d a)
      | some e => .next ((s.enterBulk e (s.newCopy (s.descAt p).1 5 0 none)).ticketed d (word s.me.ticket.toNat)) := by
  obtain ⟨src, w2, sig, w4, time, rect, w7, tier⟩ := hy
  have big64 : va % 2 ^ 16 = 0 := Nat.mod_eq_zero_of_dvd (Nat.dvd_trans (by cases big <;> decide) (Nat.dvd_of_mod_eq_zero hpage))
  have high : bits (s.descAt p).1.dst 2 62 = 0 := by simp only [bits, fld]; omega
  have low : ¬bits (s.descAt p).1.dst 0 2 > 1 := by simp only [bits, fld]; omega
  have firmware : s.isF = true := by simp [State.isF, hF]
  have formed : ((s.descAt p).1.w2 == 0 && (s.descAt p).1.sig == 0 && (s.descAt p).1.w4 == 0 && (s.descAt p).1.time == 0 &&
      (s.descAt p).1.rect == 0 && (s.descAt p).2 == 0 && bits (s.descAt p).1.dst 2 62 == 0) = true := by
    simp [w2, sig, w4, time, rect, w7, high]
  simp only [exec_cpMig, execCpMig, firmware, hread, State.orTrap, src, hw, formed, big64, hpage]
  simp only [Bool.not_true, Bool.false_eq_true, ne_eq, not_true_eq_false, decide_false, Bool.or_self, low, Bool.or_false,
    Bool.not_eq_eq_eq_not, counterMax, ge_iff_le, if_false]
  generalize s.bulkOf _ = engine
  cases engine <;> rfl

end

end Sys2Proof.Machine
end

section
open Sys2Proof Sys2Proof.Machine

/-- Settles O24: a copy of forms 0 to 4 by its alignment, its checks, and the handles and the room that it waits for; CP.MIG by its page. -/
theorem copyInstructions : Obligations.CopyInstructions := by
  classical
  unfold Obligations.CopyInstructions
  refine ⟨fun s d a n => ?copies, fun s d a va ea w big e => ⟨fun tile => exec_cpMig_of_tile tile d a, ?migration⟩⟩
  case copies =>
    intro i p y r ready room
    have meaning : exec i s = s.copy i n.castSucc d a := exec_copyInstr n d a s
    have form : (n.castSucc : Fin 6).val = n.val := rfl
    refine ⟨fun misaligned => meaning.trans (State.copy_of_misaligned misaligned), fun aligned inside good => ?_⟩
    have hread : s.privRead (s.rs a) 64 64 = .ok p := State.privRead_record aligned inside good
    refine ⟨fun c refused other => ?refused, fun refused => ?claimed, fun total ok waits => ?waits, fun total ok handles free => ?starts⟩
    case refused => exact meaning.trans ((State.copy_of_refused hread form refused).trans (if_neg other))
    case claimed =>
      obtain ⟨w, encoded⟩ := encode_copyInstr n d a
      have named : badwOf i 0 0 = BitVec.ofNat 64 (w.toNat * 2 ^ 32) := badwOf_encode encoded
      refine ⟨w, encoded, meaning.trans ((State.copy_of_refused hread form refused).trans ((if_pos rfl).trans ?_))⟩
      exact congrArg (fun x => s.trapBad x CORE_CLAIMED) named
    case waits => exact meaning.trans ((State.copy_of_ok hread form ok).trans (if_neg waits))
    case starts =>
      obtain ⟨next, ticket, mem, value, others, queue⟩ := s.startCopy_starts y n.castSucc total d
      obtain fresh := s.freshCopy_fresh y n.castSucc total
      have entered := meaning.trans ((State.copy_of_ok hread form ok).trans (if_pos ⟨handles, free⟩))
      exact ⟨_, _, entered, next, ticket, mem, value, others, queue, fresh.ctx, congrArg Fin.val fresh.op, fresh.d, fresh.ticket, fresh.total,
        fresh.started, fresh.dest, fresh.done⟩
  case migration =>
    intro hF aligned inside good src w2 sig w4 time rect w7 tier hw hpage
    have hread := State.privRead_record aligned inside good
    have outcome := exec_cpMig_of_page hF hread ⟨src, w2, sig, w4, time, rect, w7, tier⟩ hw hpage d
    refine ⟨fun fixed => ?fixed, fun free room busy => ?busy, fun free room engine => ?enters⟩
    case fixed => exact outcome.trans (if_pos fixed)
    case busy => rw [outcome, if_neg (by simp [free]), if_neg (Nat.not_le.2 room), busy]
    case enters =>
      rw [if_neg (by simp [free]), if_neg (Nat.not_le.2 room), engine] at outcome
      obtain fresh := s.newCopy_fresh (s.descAt (s.rs a).toNat).1 5 0 none
      refine ⟨_, _, outcome, State.q0_ticketed .., State.mem_ticketed .., ?queue, fresh.d, fresh.op, fresh.ticket, State.ticket_ticketed ..,
        fun hd => (State.rs_ticketed _ _ _ hd).trans (word_toNat _)⟩
      case queue => rw [State.bulk_ticketed, State.bulk_enterBulk]

end

section
/-! SUPPORT. What performing P-path accesses leaves of a square: all but its TLB, its data cache and its contexts (05 R123, 12 R270). -/

namespace Sys2Proof.Machine

/-- A square apart from what an access in flight moves: its TLB, its data cache and its contexts. -/
def Square.works (x : Square) : Square := { x with tlb := [], dcache := [], ctxs := Vector.replicate 9 default }

/-- What the squares of a state do beside accesses in flight. -/
def State.works (s : State) : Vector Square 160 := s.squares.map Square.works

theorem sq_of_works {s t : State} (h : t.works = s.works) (q : Sq) : (t.sq q).works = (s.sq q).works := by
  simpa [State.works, State.sq] using congrArg (fun d : Vector Square 160 => d[q.val]) h

theorem copyQ_of_works {s t : State} (h : t.works = s.works) (q : Sq) : (t.sq q).copyQ = (s.sq q).copyQ := by
  have queue (x : Square) : x.copyQ = x.works.copyQ := rfl
  rw [queue, sq_of_works h q, ← queue]

theorem State.works_modSq {s : State} {q : Sq} {f : Square → Square} (h : ∀ x, (f x).works = x.works := by intro; rfl) :
    (s.modSq q f).works = s.works :=
  map_vset_of_eq _ _ _ _ (h _)

theorem State.works_modCtx (s : State) (q : Sq) (c : Cx) (f : Ctx → Ctx) : (s.modCtx q c f).works = s.works :=
  map_vset_of_eq _ _ _ _ rfl

theorem State.works_writeHome (s : State) (a : Nat) (bs : List Byte) : (s.writeHome a bs).works = s.works := rfl

theorem State.works_writeSector (s : State) (pa : Nat) (ds : List (Nat × Byte)) : (s.writeSector pa ds).works = s.works :=
  foldl_keeps (g := State.works) (fun s (r : Nat × List Byte) => s.works_writeHome r.1 r.2) _ s

theorem State.works_tlbUse (s : State) (q : Sq) (e : TlbEnt) : (s.tlbUse q e).works = s.works := by
  obtain ⟨w, d, hu⟩ := s.tlbUse_eq q e
  rw [hu]
  exact State.works_modSq

theorem State.works_writeLine (s : State) (q : Sq) (l : DLine) : (s.writeLine q l).works = s.works := by
  grind [State.writeLine, State.works_writeSector, State.works_tlbUse]

theorem State.works_setLines (s : State) (q : Sq) (f : List DLine → List DLine) :
    (s.modSq q (fun x => { x with dcache := f x.dcache })).works = s.works := State.works_modSq

theorem State.works_writeBack (s : State) (q : Sq) (p : DLine → Bool) : (s.writeBack q p).works = s.works :=
  (State.works_setLines _ q (List.map _)).trans (foldl_keeps (g := State.works) (fun s l => s.works_writeLine q l) _ s)

theorem State.works_evictLine (s : State) (q : Sq) (tag : Nat) : (s.evictLine q tag).works = s.works := by
  unfold State.evictLine
  split
  · rfl
  · exact (State.works_setLines _ q (List.filter _)).trans (s.works_writeLine q _)

theorem State.works_fillLine (s : State) (q : Sq) (tag pa : Nat) : (s.fillLine q tag pa).works = s.works := by
  unfold State.fillLine
  split
  · rfl
  · refine (State.works_setLines (State.blkTouch _ pa 64) q (· ++ [_])).trans ?_
    split
    · exact s.works_evictLine q _
    · rfl

theorem State.works_putLine (s : State) (q : Sq) (c : Cx) (va : Nat) (bs : List Byte) : (s.putLine q c va bs).works = s.works :=
  State.works_setLines s q (List.map _)

theorem State.works_performPosted (s : State) (q : Sq) (c : Cx) : (s.performPosted q c).works = s.works := by
  unfold State.performPosted
  split
  · rfl
  · exact (State.works_putLine ..).trans ((State.works_fillLine ..).trans (s.works_modCtx q c _))

theorem State.works_drainPosted (s : State) (q : Sq) (c : Cx) : (s.drainPosted q c).works = s.works :=
  foldl_keeps (g := State.works) (fun s (_ : Posted) => s.works_performPosted q c) _ s

theorem State.works_performLoad (s : State) (q : Sq) (l : LoadFlight) : (s.performLoad q l).2.works = s.works := by
  grind [State.performLoad, State.works_fillLine]

theorem State.works_performLoads (s : State) (q : Sq) (c : Cx) : (s.performLoads q c).works = s.works :=
  (State.works_modCtx _ q c _).trans
    (foldl_keeps (g := fun r : List LoadFlight × State => r.2.works) (fun r l => r.2.works_performLoad q l) _ ([], s))

theorem State.works_performAll (s : State) (q : Sq) (c : Cx) : (s.performAll q c).works = s.works :=
  (State.works_writeBack _ q _).trans ((State.works_drainPosted _ q c).trans (s.works_performLoads q c))

end Sys2Proof.Machine
end

section
/-! SUPPORT. The head copy of a square's engine: a sector between scratchpads, the restart of a chunk, a signal, and the end (10 R242 to R246). -/

namespace Sys2Proof.Machine

theorem exec_copyStart (e : Eng) (s : State) : exec (.copyStart e) s = execCopyStart e s := rfl
theorem exec_copyChunkRestart (e : Eng) (s : State) : exec (.copyChunkRestart e) s = execCopyChunkRestart e s := rfl
theorem exec_copySignalApply (e : Eng) (i : Nat) (s : State) : exec (.copySignalApply e i) s = execCopySignalApply e i s := rfl
theorem exec_copyComplete (e : Eng) (s : State) : exec (.copyComplete e) s = execCopyComplete e s := rfl
theorem exec_copyStall (q : Sq) (c : Cx) (s : State) : exec (.copyStall q c) s = execCopyStall q c s := rfl

/-- The copy engine of a square. -/
def engineOf (q : Sq) : Eng := ⟨q.val, by omega⟩

theorem State.copyQ_setCopy (s : State) (q : Sq) (y : Copy) : ((s.setCopy q y).sq q).copyQ = y :: (s.sq q).copyQ.tail := by
  rw [State.setCopy, State.sq_modSq]

theorem State.rdB_getD (s : State) : ∀ (n a k : Nat), k < n → (s.rdB a n).getD k 0 = s.rd (a + k)
  | n + 1, a, 0, _ => rfl
  | n + 1, a, k + 1, h => (s.rdB_getD n (a + 1) k (by omega)).trans (congrArg s.rd (by omega))

/-! ## A sector between scratchpads without conversion (10 R242) -/

section
variable {u : State} {y : Copy} {v w : Vc} {b o : Nat} (hs : y.d.sources y.op.val = [.pad v b])
  (hsame : u.convOf y.sq y.ctx y.d.senc (.pad v b) (.pad w o) = .same)
include hs hsame

theorem State.copySize_same : u.copySize y (.pad w o) = y.d.len := by
  simp [State.copySize, State.sizeBy, hs, Place.through, hsame, Conv.size]

variable (hn : y.d.len % 32 = 0) (hp : y.pos % 32 = 0) (hlt : y.pos < y.d.len)
  (hgood : u.isBad (spadAddr y.sq.val v.val (b + y.pos)) 32 = false)
include hn hp hlt hgood

/-- The sector is the source's 32 bytes. -/
theorem State.sectors_same : u.sectors y (.pad w o) 1 y.pos = (u.rdB (spadAddr y.sq.val v.val (b + y.pos)) 32, u, none) := by
  have source : u.sourceAt y (.pad w o) (y.d.sources y.op.val) y.pos = some (.pad v b, y.d.len, .same, y.pos) := by
    simp [State.sourceAt, hs, Copy.under, Place.through, hsame, Conv.size, hlt]
  have read : u.readPlace y (.pad v b) 1 y.pos = .ok (u.rdB (spadAddr y.sq.val v.val (b + y.pos)) 32, u) := by
    simp [State.readPlace, State.readSector, hgood]
  have first : y.pos / 32 * 32 = y.pos := by omega
  have next : ((y.pos + 31) / 32 + 1) * 32 = y.pos + 32 := by omega
  have last : Nat.min y.d.len (y.pos + 32) = y.pos + 32 := Nat.min_eq_right (by omega)
  have whole : (u.rdB (spadAddr y.sq.val v.val (b + y.pos)) 32).take 32 = u.rdB (spadAddr y.sq.val v.val (b + y.pos)) 32 :=
    List.take_of_length_le (u.rdB_length 32 _).le
  have bytes : u.sectorBytes y (.pad w o) y.pos = .ok (u.rdB (spadAddr y.sq.val v.val (b + y.pos)) 32, u) := by
    simp [State.sectorBytes, source, Conv.unit, first, next, last, hp, ceilDiv, read, Conv.bytes, whole]
  simp [State.sectors, bytes]

/-- The copy after a sector that ends at `done` bytes of it. -/
def Copy.past (y : Copy) (done : Nat) : Copy := { y with pos := y.pos + 32, done := done }

theorem State.copySector_same (hd : y.d.dests y.op.val = [.pad w o]) (h0 : y.dest = 0) (he : y.err = none) : u.copySector y =
    (u.writeHome (spadAddr y.sq.val w.val (o + y.pos)) (u.rdB (spadAddr y.sq.val v.val (b + y.pos)) 32)).setCopy y.sq
      (if y.d.len ≤ y.pos + 32 then (y.past (Nat.max y.done (y.base + y.pos + 32))).nextDest
        else y.past (Nat.max y.done (y.base + y.pos + 32))) := by
  have sector := State.sectors_same hs hsame hn hp hlt hgood
  simp [State.copySector, hd, h0, he, Copy.under, Place.through, State.copySize_same hs hsame, State.pieceLen, sector, State.copyWrite,
    State.writePiece, Copy.past, Nat.add_assoc]

end

/-! ## COPY_START (10 R239, R242) -/

section
variable {s : State} {q : Sq} {y : Copy} {rest : List Copy} (hq : (s.sq q).copyQ = y :: rest)
include hq

theorem exec_copyStart_of_held (hs : y.started = false) (hc : (s.sq q).crqHeld ≠ none) : exec (.copyStart (engineOf q)) s = .next s := by
  have held : (s.sq q).crqHeld.isSome = true := Option.isSome_iff_ne_none.2 hc
  simp [exec_copyStart, execCopyStart, engineOf, hq, hs, held]

/-- The head copy goes on, once its context's earlier accesses are performed. -/
theorem exec_copyStart_of_head (hw : y.written = false) (hh : y.halted = none) (hm : y.mayWrite = true)
    (hc : y.started = false → (s.sq q).crqHeld = none) : exec (.copyStart (engineOf q)) s =
    .next ((if y.started = true then s else s.performAll q y.ctx).copySector { y with started := true }) := by
  have free : (!y.started && (s.sq q).crqHeld.isSome) = false := by
    cases hs : y.started
    · simp [hc hs]
    · rfl
  simp [exec_copyStart, execCopyStart, engineOf, hq, hw, hh, hm, free]

/-! ## COPY_CHUNK_RESTART (10 R246) -/

theorem exec_copyChunkRestart_of_glob {a c : Nat} (hs : y.sq = q) (hd : y.d.dests y.op.val = [.glob a]) (h0 : y.dest = 0)
    (hh : y.halted = some c) : exec (.copyChunkRestart (engineOf q)) s =
    match s.translate q y.who { w := true } (a + y.pos) with
    | .ok (_, t) => .next (t.setCopy q (y.restart (.glob a)))
    | .error .stall => .next s
    | .error (.cause k) => .next ((s.copyErr y k false).1.setCopy q (s.copyErr y k false).2.nextDest) := by
  subst hs
  simp only [exec_copyChunkRestart, execCopyChunkRestart, engineOf, Fin.isLt, dite_true, hq, hh, hd, h0, Copy.under, Place.through,
    State.destReach, List.getElem?_cons_zero]
  generalize s.translate _ _ _ _ = answer
  obtain (_ | c) | ⟨_, t⟩ := answer <;> rfl

end

/-- A copy of a tile context takes an error, with no handle to fail and no record to make. -/
theorem State.copyErr_of_tile {y : Copy} (he : y.err = none) (hh : y.d.handles y.op.val = []) (hc : y.ctx ≠ 8) (s : State) (k : Nat) (z : Bool) :
    s.copyErr y k z = (s, { y with err := some k, errFrom := y.dest, zero := z }) := by
  simp [State.copyErr, he, State.failCopy, hh, State.engineRecord, hc]

/-! ## COPY_SIGNAL_APPLY (10 R244, 11 R264) -/

theorem Desc.dec_lt (d : Desc) : d.dec < 2 ^ 32 := Nat.mod_lt _ (by decide)

theorem State.rdN_lt (s : State) (a n : Nat) : s.rdN a n < 256 ^ n := by
  have := leNat_lt (s.rdB a n)
  rwa [s.rdB_length] at this

/-- A decrement goes modulo 2^63. -/
theorem signalled_count (old : Word) (dec : Nat) (err : Bool) (h : dec < 2 ^ 63) :
    (signalled old dec err).toNat % 2 ^ 63 = (old.toNat % 2 ^ 63 + 2 ^ 63 - dec % 2 ^ 63) % 2 ^ 63 := by
  rw [signalled, word, BitVec.toNat_ofNat, bits_zero, Nat.mod_eq_of_lt h]
  split <;> omega

/-- Bit 63 stays, or an error sets it. -/
theorem signalled_flag (old : Word) (dec : Nat) (err : Bool) : (signalled old dec err).getLsbD 63 = (old.getLsbD 63 || err) := by
  have flag : bit (signalled old dec err) 63 = (bit old 63 || err) := by
    rw [bit_eq_bits, bits, fld, signalled, word, BitVec.toNat_ofNat]
    cases bit old 63 || err <;> simp <;> omega
  exact flag

/-- The value that the counter at `pa` takes from the signal of destination `i`. -/
def State.signalWord (t : State) (pa : Nat) (y : Copy) (i : Nat) : Word :=
  signalled (word (t.rdN pa 8)) y.d.dec (y.err.isSome && decide (y.errFrom ≤ i))

section
variable {s t : State} {q : Sq} {y : Copy} {rest : List Copy} {i pa va : Nat} (hq : (s.sq q).copyQ = y :: rest) (hs : y.sq = q)
  (hd : y.d.sig ≠ 0) (hp : placeOf y.d.sig = some (.glob va)) (hi : i < y.dest) (hn : i ∉ y.signalled)
  (ht : s.translate q y.who { w := true } va = .ok (pa, t)) (hb : t.isBad pa 8 = false)
include hq hs hd hp hi hn ht hb

theorem exec_copySignalApply_of_glob : exec (.copySignalApply (engineOf q) i) s =
    if (decide (i + 1 = y.count) && y.tok && !(s.sq q).streamRoom 1) = true then .next s
    else .next ((if (decide (i + 1 = y.count) && y.tok) = true
        then (t.writeHome pa (natLE 8 (t.signalWord pa y i).toNat)).dropCopyTok q y
        else t.writeHome pa (natLE 8 (t.signalWord pa y i).toNat)).setCopy q
      { y with signalled := y.signalled ++ [i], tok := y.tok && !(decide (i + 1 = y.count) && y.tok) }) := by
  subst hs
  have counter : y.counterAt i = some (.glob va) := by rw [Copy.counterAt, Desc.counter, if_neg hd, hp]
  have due : (decide (i ≥ y.dest) || y.signalled.contains i) = false := by simp [hn, hi]
  have signal : s.signal y (.glob va) (y.err.isSome && decide (y.errFrom ≤ i)) =
      .ok (t.writeHome pa (natLE 8 (t.signalWord pa y i).toNat)) := by
    simp [State.signal, ht, hb, State.signalWord]
  simp only [exec_copySignalApply, execCopySignalApply, engineOf, Fin.isLt, dite_true, hq, counter, due, signal, Copy.tokSquare,
    Bool.false_eq_true, if_false]

end

/-! ## COPY_COMPLETE (10 R242, Table 10-9) -/

section
variable {s : State} {q : Sq} {y : Copy} {rest : List Copy} (hq : (s.sq q).copyQ = y :: rest) (hw : y.written = true)
  (hs : y.d.sig = 0 ∨ ∀ k < y.count, k ∈ y.signalled) (ht : y.tok = false) (hh : y.d.handles y.op.val = [])
include hq hw hs ht hh

/-- A whole copy leaves, its entry having gone to the result queue that it names or waiting for room in it. -/
theorem exec_copyComplete_of_whole : exec (.copyComplete (engineOf q)) s =
    .next ((match y.core with
      | some v => if (s.core q v).crq.length < 32 then s.modCore q v (fun x => { x with crq := x.crq ++ [y.entry] })
        else s.modSq q (fun x => { x with crqHeld := some (v, y.entry) })
      | none => s).modSq q (fun x => { x with copyQ := rest, copyFreed := s.now })) := by
  have signals : (y.d.sig == 0 || (List.range y.count).all (fun i => y.signalled.contains i)) = true := by
    simpa using hs
  simp only [exec_copyComplete, execCopyComplete, engineOf, Fin.isLt, dite_true, hq, hw, signals, ht, hh, List.foldl_nil, Bool.not_true,
    Bool.false_and, Bool.or_self, Bool.false_eq_true, if_false]
  cases y.core with
  | none => rfl
  | some v =>
    dsimp only
    split <;> rfl

end

/-! ## COPY_STALL (10 R239) -/

/-- The instructions that wait for an entry of a queue of copies. -/
def StartsCopy (i : Instr) : Prop :=
  ∃ d a : Reg, i ∈ [Instr.cpPut d a, .cpGet d a, .cpPuts d a, .cpMcast d a, .cpGather d a, .cpMig d a]

/-- A page migration waits for an entry of the die that holds its page. -/
theorem State.entryFreed_of_walk {s : State} {q : Sq} {c : Cx} {d a : Reg} {ea : Nat} {w : Word} {big : Bool}
    (walk : (s.focus q c).walk (bits ((s.focus q c).descAt ((s.focus q c).rs a).toNat).1.src 0 48) = .ok (ea, w, big)) :
    s.entryFreed q c (.cpMig d a) = s.bulkFreed[homeDie (pteAddr w)] := by
  have entry : s.entryFreed q c (.cpMig d a) = (match (s.focus q c).walk (bits ((s.focus q c).descAt ((s.focus q c).rs a).toNat).1.src 0 48) with
    | .ok (_, w, _) => s.bulkFreed[homeDie (pteAddr w)]
    | .error _ => 0) := rfl
  rw [entry, walk]

theorem exec_copyStall_of_waiting {s : State} {q : Sq} {c : Cx} {b : Blocked} (hb : (s.ctx q c).blocked = some b) (ha : b.afresh = false)
    (hi : StartsCopy b.instr) : exec (.copyStall q c) s =
    if b.since + 1000000 ≤ s.now ∧ s.entryFreed q c b.instr + 1000000 ≤ s.now then .next (s.stallTrap q c COPY_STALL) else .next s := by
  have late : Nat.max b.since (s.entryFreed q c b.instr) + 1000000 ≤ s.now ↔
      b.since + 1000000 ≤ s.now ∧ s.entryFreed q c b.instr + 1000000 ≤ s.now := by
    have : Nat.max b.since (s.entryFreed q c b.instr) = max b.since (s.entryFreed q c b.instr) := rfl
    omega
  simp only [← late]
  obtain ⟨d, a, hi⟩ := hi
  simp only [List.mem_cons, List.not_mem_nil, or_false] at hi
  rcases hi with h | h | h | h | h | h <;> simp [exec_copyStall, execCopyStall, hb, Ctx.waits, ha, h]

end Sys2Proof.Machine
end

section
open Sys2Proof Sys2Proof.Machine

/-- Settles O25: the head copy by its sector, its chunk, its signal and its end, and COPY_STALL by the two moments that it looks at. -/
theorem copiesRun : Obligations.CopiesRun := by
  unfold Obligations.CopiesRun
  refine ⟨fun s q y rest v w b o n => ?sector, fun s t q y rest a pa c k => ?chunk, fun s t q y rest i pa va v c b => ?signal⟩
  case sector =>
    intro x u src dst done e hq hs h0 he hh hd sources dests hlen
    have count : y.written = false := by simp [Copy.written, Copy.count, dests, h0]
    have may : y.mayWrite = true := by simp [Copy.mayWrite, hd]
    refine ⟨exec_copyStart_of_held hq, fun free same hn hp hlt hb hbn ho hon good => ?_⟩
    have queue : (u.sq q).copyQ = y :: rest := by
      show ((if y.started = true then s else s.performAll q y.ctx).sq q).copyQ = y :: rest
      split
      · exact hq
      · exact (copyQ_of_works (s.works_performAll q y.ctx) q).trans hq
    subst hs hlen
    have sector := State.copySector_same (u := u) (y := { y with started := true }) sources same hn hp hlt good dests h0 he
    refine ⟨_, (exec_copyStart_of_head hq count hh may free).trans (congrArg Host.Outcome.next sector), fun k hk => ?inside, fun a ha => ?outside, ?queue⟩
    case inside =>
      have bytes : k < (u.rdB src 32).length := by rwa [u.rdB_length]
      exact (u.rd_writeHome_inside dst k _ bytes).trans (u.rdB_getD 32 src k hk)
    case outside => exact u.rd_writeHome_outside dst a _ (by rwa [u.rdB_length])
    case queue =>
      rw [State.copyQ_setCopy]
      show _ :: (u.sq y.sq).copyQ.tail = _
      rw [queue]
      congr 1
      split
      · simp only [Copy.nextDest, Copy.past, h0, hh]
        rfl
      · rfl
  case chunk =>
    intro e x hq hs h0 he hh hd
    have outcome := exec_copyChunkRestart_of_glob hq hs hd h0 hh
    refine ⟨fun ok => ?ok, fun stall => ?stall, fun cause handles tile => ?cause⟩
    case ok =>
      have start : y.restart (.glob a) = { y with pos := y.pos - Nat.min y.pos ((a + y.pos) % 4096), halted := none } := by
        simp [Copy.restart, he, chunkStart]
      rw [← start]
      have reached : s.translate q y.who { w := true } (a + y.pos) = .ok (pa, t) := ok
      exact outcome.trans (by rw [reached])
    case stall =>
      have moving : s.translate q y.who { w := true } (a + y.pos) = .error .stall := stall
      exact outcome.trans (by rw [moving])
    case cause =>
      have denied : s.translate q y.who { w := true } (a + y.pos) = .error (.cause k) := cause
      refine outcome.trans ?_
      rw [denied]
      simp only [State.copyErr_of_tile he handles tile, Copy.nextDest, h0]
  case signal =>
    intro e bad
    refine ⟨fun hq hs => ⟨fun hd hp hi hn ht hb => ?applies, fun hw signals ht hh => ?completes⟩, fun hb ha hi => ?stalls,
      fun d a ea w big hb ha hi walk since freed => ?migration⟩
    case applies =>
      have outcome := exec_copySignalApply_of_glob hq hs hd hp hi hn ht hb
      refine ⟨t.signalWord pa y i, fun tok => ?plain, fun tok last room => ?drops, ?count, signalled_flag ..⟩
      case plain =>
        refine outcome.trans ?_
        simp [tok]
      case drops =>
        refine outcome.trans ?_
        simp [tok, last, room, State.dropCopyTok]
      case count =>
        have value : (word (t.rdN pa 8)).toNat = t.rdN pa 8 := Nat.mod_eq_of_lt (t.rdN_lt pa 8)
        rw [State.signalWord, signalled_count _ _ _ (Nat.lt_trans y.d.dec_lt (by decide)), value]
    case completes =>
      have outcome := exec_copyComplete_of_whole hq hw signals ht hh
      refine ⟨fun unnamed => ?unnamed, fun core room => ?room, fun core full => ?full⟩
      case unnamed => exact outcome.trans (by rw [unnamed])
      case room =>
        refine outcome.trans ?_
        simp only [core, if_pos room]
        rfl
      case full =>
        refine outcome.trans ?_
        simp only [core, if_neg (Nat.not_lt.2 full), State.modSq_modSq]
        rfl
    case stalls =>
      obtain ⟨d, a, hi⟩ := hi
      have outcome := exec_copyStall_of_waiting hb ha ⟨d, a, by simp at hi ⊢; tauto⟩
      have square : s.entryFreed q c b.instr = (s.sq q).copyFreed := by
        simp only [List.mem_cons, List.not_mem_nil, or_false] at hi
        rcases hi with h | h | h | h | h <;> rw [h] <;> rfl
      rw [square] at outcome
      exact ⟨fun since freed => outcome.trans (if_pos ⟨since, freed⟩), fun early => outcome.trans (if_neg (by omega))⟩
    case migration =>
      have die : s.entryFreed q c b.instr = s.bulkFreed[homeDie (pteAddr w)] := by
        rw [hi]
        exact State.entryFreed_of_walk walk
      exact (exec_copyStall_of_waiting hb ha ⟨d, a, by simp [hi]⟩).trans (if_pos ⟨since, die ▸ freed⟩)

end
